-- ==== Sys2Proof/Word.lean ====
section
/-! DEFINITION. Sys2Proof/Word.lean: the machine's word types (spec/00_scope.md R1, R6; spec/02_execution_model.md R27). -/

namespace Sys2Proof

/-- A register of 64 bits. -/
abbrev Word := BitVec 64

/-- A byte. -/
abbrev Byte := BitVec 8

/-- One row of a panel or of a queue: 256 bytes, byte 0 in bits 7:0 (R40, R411). -/
abbrev Row := BitVec 2048

/-- One panel: 16 rows, row 0 in the low bits (R27, R411). -/
abbrev Panel := BitVec 32768

/-- The 64 x 64 32-bit elements of a plane, element (i, j) at bit 32 * (64 i + j) (R150). -/
abbrev PlaneBits := BitVec 131072

end Sys2Proof
end

