-- ==== Sys2Proof/Machine/Formats.lean ====
section
/-! DEFINITION. Sys2Proof/Machine/Formats.lean: the format codes of spec/04_number_formats.md R97 to R107 and the sets of
codes that the instructions allow. -/

namespace Sys2Proof.Machine

/-- A binary floating format (R100): exponent bits, fraction bits, bias, and which special codes it has. -/
structure BinFmt where
  /-- width of E -/
  eb : Nat
  /-- width of F -/
  wf : Nat
  bias : Nat
  /-- E all ones and F = 0 is an infinity, E all ones and F ≠ 0 a NaN -/
  ieee : Bool
  /-- E and F all ones is a NaN and there is no infinity (E4M3) -/
  topNan : Bool
  deriving DecidableEq, Repr

/-- A format of one element (R97). -/
inductive Fmt where
  | bin (f : BinFmt)
  | mk8
  | int (signed : Bool) (width : Nat)
  deriving DecidableEq, Repr

def binary32 : BinFmt := ⟨8, 23, 127, true, false⟩
def binary64 : BinFmt := ⟨11, 52, 1023, true, false⟩
def binary16 : BinFmt := ⟨5, 10, 15, true, false⟩
def bf16Fmt : BinFmt := ⟨8, 7, 127, true, false⟩
def e5m2Fmt : BinFmt := ⟨5, 2, 15, true, false⟩
def e4m3Fmt : BinFmt := ⟨4, 3, 7, false, true⟩
def e3m2Fmt : BinFmt := ⟨3, 2, 3, false, false⟩
def e2m3Fmt : BinFmt := ⟨2, 3, 1, false, false⟩
def e2m1Fmt : BinFmt := ⟨2, 1, 1, false, false⟩

/-- The element format that a code names; a block record code names the format of its elements (R97, R106). -/
def fmtOf (code : Nat) : Fmt :=
  match code with
  | 0 => .bin binary32
  | 1 => .bin binary64
  | 2 => .bin binary16
  | 3 => .bin bf16Fmt
  | 4 => .bin e5m2Fmt
  | 5 => .bin e4m3Fmt
  | 6 => .bin e3m2Fmt
  | 7 => .bin e2m3Fmt
  | 8 => .bin e2m1Fmt
  | 9 => .mk8
  | 10 => .int true 4
  | 11 => .int true 8
  | 12 => .int true 16
  | 13 => .int true 32
  | 14 => .int true 64
  | 15 => .int false 8
  | 16 => .int false 16
  | 17 => .int false 32
  | 18 => .int false 64
  | 19 => .bin e2m1Fmt
  | 20 => .bin e3m2Fmt
  | 21 => .bin e2m3Fmt
  | 22 => .bin e4m3Fmt
  | _ => .bin e5m2Fmt

/-- Bits of one element. -/
def Fmt.bits : Fmt → Nat
  | .bin f => 1 + f.eb + f.wf
  | .mk8 => 8
  | .int _ w => w

/-- Bytes of one panel element (every Panel format is of whole bytes, R97). -/
def Fmt.bytes (f : Fmt) : Nat := f.bits / 8

def Fmt.isInt : Fmt → Bool
  | .int _ _ => true
  | _ => false

/-- The formats that saturate without `sat` (R120). -/
def Fmt.saturating : Fmt → Bool
  | .bin f => !f.ieee && !f.topNan
  | .mk8 => true
  | .int _ _ => false

/-- Codes of the Panel column of R97. -/
def panelCode (t : Nat) : Bool := t ≤ 5 || t == 9 || (11 ≤ t && t ≤ 18)

/-- Integer codes among the panel codes. -/
def panelInt (t : Nat) : Bool := 11 ≤ t && t ≤ 18

/-- Floating codes among the panel codes, MK8 included. -/
def panelFloat (t : Nat) : Bool := t ≤ 5 || t == 9

/-- Codes of the MST destination column of R97. -/
def mstCode (t : Nat) : Bool :=
  t ≤ 5 || t == 9 || (11 ≤ t && t ≤ 13) || (15 ≤ t && t ≤ 17)

/-- The rate group of an MMA code (R98, R19); 0 for a code that MMA does not allow. -/
def mmaGroup (t : Nat) : Nat :=
  match t with
  | 8 => 1
  | 10 => 2
  | 4 | 5 | 6 | 7 | 9 => 3
  | 11 => 4
  | 2 | 3 => 5
  | 0 => 6
  | 1 => 7
  | _ => 0

/-- Admitted pairs of MMA (R98). -/
def mmaPair (a b : Nat) : Bool := mmaGroup a != 0 && mmaGroup a == mmaGroup b

/-- Admitted pairs of MMA.sat (R98). -/
def mmaSatPair (a b : Nat) : Bool := (a == 10 && b == 10) || (a == 11 && b == 11)

/-- Admitted pairs of MMAS (R98). -/
def mmasPair (a b : Nat) : Bool :=
  (a == 19 && b == 19) || ((20 ≤ a && a ≤ 23) && (20 ≤ b && b ≤ 23))

/-- The CSR numbers of R75. -/
def csrListed (c : Nat) : Bool :=
  c ≤ 3 || (0x10 ≤ c && c ≤ 0x14) || c == 0x20 || c == 0x21 || (0x30 ≤ c && c ≤ 0x32)

end Sys2Proof.Machine
end

