-- ==== Sys2Proof/Syntax.lean ====
section
/-! DEFINITION. Sys2Proof/Syntax.lean: the rows of the opcode table as one inductive. A row with a word carries its
fields as bits, named as the table names them (a is S1, b is S2, d is D), its engine tag g where the row leaves it
open, and its end-of-group bit e (spec/03_instruction_encoding.md R59 to R82, spec/12_scheduling.md R265). A row without
a word is an operation or event of an agent: it carries the agent it concerns and what the agent leaves open. -/

namespace Sys2Proof

/-- The engine tag G of a shared word (R60). -/
inductive Tag where
  | both
  | acc
  | exe
  deriving DecidableEq, Repr, Inhabited

/-- The two bits of G (R60). -/
def Tag.bits : Tag → BitVec 2
  | .both => 0#2
  | .acc => 1#2
  | .exe => 2#2

/-- One of the two counters of a strand (R26). -/
inductive Ctr where
  | a
  | x
  deriving DecidableEq, Repr, Inhabited

/-- A piece of a stream command: of its source or of one destination (R182). -/
inductive CopyPiece where
  | src (k : Nat)
  | dst (n k : Nat)
  deriving DecidableEq, Repr, Inhabited

/-- How one training of a device link ends (R314): up with the peer's device and link numbers, or a failed attempt. -/
inductive LinkResult where
  | begins
  | comesUp (peerDev : BitVec 12) (peerLink : BitVec 4)
  | attemptFails
  deriving DecidableEq, Repr, Inhabited

/-- How one stage of the boot ends (R316): the stage passes with the dies that came up, or with an error. -/
inductive BootResult where
  | passes (dies : BitVec 16)
  | error (code : BitVec 8)
  deriving DecidableEq, Repr, Inhabited

/-- The bytes of a piece that a peer writes, and whether they are poisoned (R182, R141). -/
structure PeerBytes where
  bytes : List Byte
  poison : Bool
  deriving DecidableEq, Repr, Inhabited

/-- A write to the configuration of a PCI Express port (R305): the base of the host window, the completion timeout range, errors
cleared, a vector's address, data and mask, or a capability that the port does not have. -/
inductive ConfigWrite where
  | bar (v : BitVec 64)
  | timeout (v : BitVec 4)
  | clearErrors (v : BitVec 32)
  | vector (n : Fin 64) (addr : BitVec 64) (data : BitVec 32) (masked : Bool)
  | absent
  deriving DecidableEq, Repr, Inhabited

/-- The rows of spec/opcode_table.json. -/
inductive Instr where
  /-- NOP (R390). Changes no state and counts as a passed word. -/
  | nop (g : Tag) (e : BitVec 1)
  /-- ADD (R333). Writes the sum of two registers modulo 2^64. -/
  | add (d a b : BitVec 5) (g : Tag) (e : BitVec 1)
  /-- SUB (R406). Writes the difference of two registers modulo 2^64. -/
  | sub (d a b : BitVec 5) (g : Tag) (e : BitVec 1)
  /-- AND (R336). Writes the bitwise AND of two registers. -/
  | and (d a b : BitVec 5) (g : Tag) (e : BitVec 1)
  /-- OR (R391). Writes the bitwise OR of two registers. -/
  | or (d a b : BitVec 5) (g : Tag) (e : BitVec 1)
  /-- XOR (R440). Writes the bitwise XOR of two registers. -/
  | xor (d a b : BitVec 5) (g : Tag) (e : BitVec 1)
  /-- SHL (R402). Shifts a register left by a register count. -/
  | shl (d a b : BitVec 5) (g : Tag) (e : BitVec 1)
  /-- SHR (R402). Shifts a register right logically by a register count. -/
  | shr (d a b : BitVec 5) (g : Tag) (e : BitVec 1)
  /-- SRA (R402). Shifts a register right arithmetically by a register count. -/
  | sra (d a b : BitVec 5) (g : Tag) (e : BitVec 1)
  /-- SLT (R403). Writes 1 when the first register is less than the second, signed. -/
  | slt (d a b : BitVec 5) (g : Tag) (e : BitVec 1)
  /-- SLTU (R403). Writes 1 when the first register is less than the second, unsigned. -/
  | sltu (d a b : BitVec 5) (g : Tag) (e : BitVec 1)
  /-- MIN.s64 (R380). Writes the signed minimum of two registers. -/
  | minS64 (d a b : BitVec 5) (g : Tag) (e : BitVec 1)
  /-- MIN.z64 (R380). Writes the unsigned minimum of two registers. -/
  | minZ64 (d a b : BitVec 5) (g : Tag) (e : BitVec 1)
  /-- MAX.s64 (R380). Writes the signed maximum of two registers. -/
  | maxS64 (d a b : BitVec 5) (g : Tag) (e : BitVec 1)
  /-- MAX.z64 (R380). Writes the unsigned maximum of two registers. -/
  | maxZ64 (d a b : BitVec 5) (g : Tag) (e : BitVec 1)
  /-- MUL (R380). Writes the low 64 bits of the product of two registers. -/
  | mul (d a b : BitVec 5) (g : Tag) (e : BitVec 1)
  /-- MULH.s64 (R380). Writes the high 64 bits of the signed product. -/
  | mulhS64 (d a b : BitVec 5) (g : Tag) (e : BitVec 1)
  /-- MULH.z64 (R380). Writes the high 64 bits of the unsigned product. -/
  | mulhZ64 (d a b : BitVec 5) (g : Tag) (e : BitVec 1)
  /-- MADD (R380). Adds the product of two registers to the destination modulo 2^64. -/
  | madd (d a b : BitVec 5) (g : Tag) (e : BitVec 1)
  /-- ADDI (R333). Adds a sign-extended immediate to a register. -/
  | addi (d a : BitVec 5) (i : BitVec 12) (g : Tag) (e : BitVec 1)
  /-- ANDI (R336). ANDs a register with a sign-extended immediate. -/
  | andi (d a : BitVec 5) (i : BitVec 12) (g : Tag) (e : BitVec 1)
  /-- ORI (R391). ORs a register with a sign-extended immediate. -/
  | ori (d a : BitVec 5) (i : BitVec 12) (g : Tag) (e : BitVec 1)
  /-- XORI (R440). XORs a register with a sign-extended immediate. -/
  | xori (d a : BitVec 5) (i : BitVec 12) (g : Tag) (e : BitVec 1)
  /-- SHL (R402). Shifts a register left by an immediate count. -/
  | shlImm (d a : BitVec 5) (c : BitVec 6) (g : Tag) (e : BitVec 1)
  /-- SHR (R402). Shifts a register right logically by an immediate count. -/
  | shrImm (d a : BitVec 5) (c : BitVec 6) (g : Tag) (e : BitVec 1)
  /-- SRA (R402). Shifts a register right arithmetically by an immediate count. -/
  | sraImm (d a : BitVec 5) (c : BitVec 6) (g : Tag) (e : BitVec 1)
  /-- BFX.z64 (R338). Extracts a bit field and zero-extends it. -/
  | bfxZ64 (d a : BitVec 5) (w l : BitVec 6) (g : Tag) (e : BitVec 1)
  /-- BFX.s64 (R338). Extracts a bit field and sign-extends it. -/
  | bfxS64 (d a : BitVec 5) (w l : BitVec 6) (g : Tag) (e : BitVec 1)
  /-- BFI (R338). Inserts the low bits of a register into a field of the destination. -/
  | bfi (d a : BitVec 5) (w l : BitVec 6) (g : Tag) (e : BitVec 1)
  /-- LUI (R379). Writes a sign-extended immediate times 4,096. -/
  | lui (d : BitVec 5) (i : BitVec 17) (g : Tag) (e : BitVec 1)
  /-- LIMM (R376). Prefix that widens the immediate of the next extendable word of its counter. -/
  | limm (x : BitVec 22) (g : Tag)
  /-- CSRR (R347). Reads a control and status register into a register. -/
  | csrr (d : BitVec 5) (c : BitVec 12) (g : Tag) (e : BitVec 1)
  /-- CSRW (R348). Writes a register to a control and status register, with per-CSR refusal and effects. -/
  | csrw (a : BitVec 5) (c : BitVec 12) (g : Tag) (e : BitVec 1)
  /-- BR (R339). Branches unconditionally by a word offset. -/
  | br (o : BitVec 22) (g : Tag) (e : BitVec 1)
  /-- CALL (R341). Writes the return address to register 31 and branches. -/
  | call (o : BitVec 22) (g : Tag) (e : BitVec 1)
  /-- RET (R398). Continues at the address in register 31. -/
  | ret (g : Tag) (e : BitVec 1)
  /-- BEQ (R337). Branches when two registers are equal. -/
  | beq (a b : BitVec 5) (o : BitVec 12) (g : Tag) (e : BitVec 1)
  /-- BNE (R337). Branches when two registers differ. -/
  | bne (a b : BitVec 5) (o : BitVec 12) (g : Tag) (e : BitVec 1)
  /-- BLT (R337). Branches when the first register is less, signed. -/
  | blt (a b : BitVec 5) (o : BitVec 12) (g : Tag) (e : BitVec 1)
  /-- BGE (R337). Branches when the first register is greater or equal, signed. -/
  | bge (a b : BitVec 5) (o : BitVec 12) (g : Tag) (e : BitVec 1)
  /-- BLTU (R337). Branches when the first register is less, unsigned. -/
  | bltu (a b : BitVec 5) (o : BitVec 12) (g : Tag) (e : BitVec 1)
  /-- BGEU (R337). Branches when the first register is greater or equal, unsigned. -/
  | bgeu (a b : BitVec 5) (o : BitVec 12) (g : Tag) (e : BitVec 1)
  /-- LOOP (R377). Starts or restarts a hardware loop level with a register count. -/
  | loop (l : BitVec 2) (a : BitVec 5) (n : BitVec 12) (g : Tag) (e : BitVec 1)
  /-- BRKL (R340). Ends a loop level and the levels inside it early. -/
  | brkl (l : BitVec 2) (g : Tag) (e : BitVec 1)
  /-- LD (R373). Loads 1 to 8 bytes of local SRAM into a register. -/
  | ld (d a : BitVec 5) (o : BitVec 9) (t : BitVec 3) (e : BitVec 1)
  /-- LD.acq (R373). Loads as LD with acquire naming. -/
  | ldAcq (d a : BitVec 5) (o : BitVec 9) (t : BitVec 3) (e : BitVec 1)
  /-- ST (R373). Stores 1 to 8 bytes through the store buffer. -/
  | st (d a : BitVec 5) (o : BitVec 9) (t : BitVec 2) (e : BitVec 1)
  /-- ST.rel (R373). Stores as ST into an unmerged store buffer entry. -/
  | stRel (d a : BitVec 5) (o : BitVec 9) (t : BitVec 2) (e : BitVec 1)
  /-- AMO (R334). Performs an atomic read-modify-write and returns the old value. -/
  | amo (d a b : BitVec 5) (u z : BitVec 1) (p : BitVec 3) (e : BitVec 1)
  /-- CAS (R342). Atomically compares a word with the expected value and replaces it on a match. -/
  | cas (d a b : BitVec 5) (z e : BitVec 1)
  /-- PLD (R394). Reserves and pushes local SRAM rows onto an A-to-X queue. -/
  | pld (q : BitVec 2) (a r : BitVec 5) (e : BitVec 1)
  /-- PST (R394). Pops rows from an X-to-A queue and stores them to local SRAM. -/
  | pst (q : BitVec 2) (a r : BitVec 5) (e : BitVec 1)
  /-- GATH (R371). Gathers elements at queued indices into rows on an A-to-X queue. -/
  | gath (q : BitVec 2) (a : BitVec 5) (j : BitVec 2) (r : BitVec 5) (s : BitVec 2) (e : BitVec 1)
  /-- SCAT (R371). Scatters queued data elements to queued indices in local SRAM. -/
  | scat (q : BitVec 2) (a : BitVec 5) (j : BitVec 2) (r : BitVec 5) (s : BitVec 2) (e : BitVec 1)
  /-- QSND (R396). Pushes a scalar onto an A-to-X queue. -/
  | qsnd (q : BitVec 2) (a : BitVec 5) (e : BitVec 1)
  /-- QRCV (R396). Pops a scalar from an X-to-A queue into a register. -/
  | qrcv (d : BitVec 5) (q : BitVec 2) (e : BitVec 1)
  /-- COPY (R345). Issues a copy card to the stream engine with a token. -/
  | copy (d a : BitVec 5) (e : BitVec 1)
  /-- DCMP (R350). Issues a decompression job card to the stream engine. -/
  | dcmp (d a : BitVec 5) (e : BitVec 1)
  /-- FILL (R363). Issues a fill card to the stream engine. -/
  | fill (d a : BitVec 5) (e : BitVec 1)
  /-- CSUM (R349). Issues a checksum compute or verify card to the stream engine. -/
  | csum (d a : BitVec 5) (e : BitVec 1)
  /-- SEMINC (R399). Adds a register value to a core semaphore once older accesses are done. -/
  | seminc (a : BitVec 5) (s : BitVec 6) (e : BitVec 1)
  /-- SEMSET (R399). Sets a core semaphore's count once older accesses are done. -/
  | semset (a : BitVec 5) (s : BitVec 6) (e : BitVec 1)
  /-- SEMWAIT (R399). Waits until a semaphore reaches a threshold and subtracts it. -/
  | semwait (a : BitVec 5) (s : BitVec 6) (e : BitVec 1)
  /-- SEND (R400). Sends a message of up to 64 bytes to a mailbox of a logical core. -/
  | send (d a b : BitVec 5) (l : BitVec 6) (e : BitVec 1)
  /-- MBREG (R381). Binds or unbinds a mailbox to a local range and handler entry. -/
  | mbreg (d a b : BitVec 5) (m : BitVec 4) (e : BitVec 1)
  /-- MMA (R385). Queues a matrix multiply-accumulate into a plane. -/
  | mma (f a b k : BitVec 5) (p : BitVec 2) (e : BitVec 1)
  /-- MMA.sat (R385). Queues an integer matrix multiply-accumulate with saturation. -/
  | mmaSat (f a b k : BitVec 5) (p : BitVec 2) (e : BitVec 1)
  /-- MMAS (R387). Queues a block-scaled matrix multiply-accumulate over block records. -/
  | mmas (f a b k : BitVec 5) (p : BitVec 2) (e : BitVec 1)
  /-- MZERO (R389). Queues the zeroing of one accumulator plane. -/
  | mzero (p : BitVec 2) (e : BitVec 1)
  /-- MLD (R384). Queues a load of 4-byte walk elements into a plane. -/
  | mld (a : BitVec 5) (p : BitVec 2) (e : BitVec 1)
  /-- MST (R388). Queues a converted store of a plane to memory, optionally with a checksum header. -/
  | mst (d a b k : BitVec 5) (p : BitVec 2) (e : BitVec 1)
  /-- MST.sat (R388). Queues a plane store with saturating conversion. -/
  | mstSat (d a b k : BitVec 5) (p : BitVec 2) (e : BitVec 1)
  /-- COLL (R343). Originates or arms a collective from a notation record. -/
  | coll (d a : BitVec 5) (e : BitVec 1)
  /-- RESIDE (R397). Adds or replaces a residency table entry for a chunk. -/
  | reside (d a b : BitVec 5) (e : BitVec 1)
  /-- EVICT (R355). Removes a residency table entry for a chunk. -/
  | evict (d a : BitVec 5) (e : BitVec 1)
  /-- RQUERY (R397). Returns the location word of a chunk's residency entry, or 0. -/
  | rquery (d a : BitVec 5) (e : BitVec 1)
  /-- SPAWN (R404). Sends a task header to the cluster supervisor's spawn area. -/
  | spawn (d a : BitVec 5) (e : BitVec 1)
  /-- FENCE (R362). Holds younger accesses until older stores drain and loads are performed. -/
  | fence
  /-- TRIG (R410). Fires the task as a producer for its dependents. -/
  | trig (e : BitVec 1)
  /-- DWAIT (R353). Waits until every named producer has fired. -/
  | dwait
  /-- EXIT (R32). Ends the strand once its execute counter is stopped and everything it issued has completed. -/
  | exit
  /-- YIELD (R443). Marks the task as yielding for the next tempo boundary. -/
  | yield
  /-- ERET (R286). Returns from a handler to the saved resume addresses and slip. -/
  | eret
  /-- TRAP (R408). Raises the TRAP cause with an immediate code. -/
  | trap (c : BitVec 12)
  /-- FADD (R358). Adds two scalar floating registers with one rounding. -/
  | fadd (d a b : BitVec 5) (r t : BitVec 2) (e : BitVec 1)
  /-- FSUB (R358). Subtracts two scalar floating registers with one rounding. -/
  | fsub (d a b : BitVec 5) (r t : BitVec 2) (e : BitVec 1)
  /-- FMUL (R358). Multiplies two scalar floating registers with one rounding. -/
  | fmul (d a b : BitVec 5) (r t : BitVec 2) (e : BitVec 1)
  /-- FMIN (R358). Writes the lesser of two scalar floating values. -/
  | fmin (d a b : BitVec 5) (t : BitVec 2) (e : BitVec 1)
  /-- FMAX (R358). Writes the greater of two scalar floating values. -/
  | fmax (d a b : BitVec 5) (t : BitVec 2) (e : BitVec 1)
  /-- FDIV (R358). Divides two scalar floating values, correctly rounded. -/
  | fdiv (d a b : BitVec 5) (r t : BitVec 2) (e : BitVec 1)
  /-- FSQRT (R358). Writes the correctly rounded square root of a scalar floating value. -/
  | fsqrt (d a : BitVec 5) (r t : BitVec 2) (e : BitVec 1)
  /-- FMA (R364). Performs a fused multiply-add on scalar floating registers. -/
  | fma (d a b : BitVec 5) (c n : BitVec 1) (r t : BitVec 2) (e : BitVec 1)
  /-- FCMP (R360). Compares two scalar floating values and writes 1 or 0. -/
  | fcmp (d a b : BitVec 5) (c t : BitVec 2) (e : BitVec 1)
  /-- FCVT (R361). Converts a scalar between floating and integer formats. -/
  | fcvt (d a : BitVec 5) (s : BitVec 3) (u : BitVec 1) (r : BitVec 2) (k : BitVec 3) (e : BitVec 1)
  /-- DIV (R352). Writes the quotient of a signed or unsigned 64-bit division. -/
  | div (d a b : BitVec 5) (s e : BitVec 1)
  /-- DIV.rem (R352). Writes the remainder of a signed or unsigned 64-bit division. -/
  | divRem (d a b : BitVec 5) (s e : BitVec 1)
  /-- XSND (R442). Pushes an x register as a scalar onto an X-to-A queue. -/
  | xsndScalar (q : BitVec 2) (a : BitVec 5) (e : BitVec 1)
  /-- XSND (R442). Pushes rows of a panel onto an X-to-A queue. -/
  | xsndPanel (q : BitVec 2) (p : BitVec 5) (r f : BitVec 4) (e : BitVec 1)
  /-- XRCV (R441). Pops a scalar from an A-to-X queue into an x register. -/
  | xrcv (d : BitVec 5) (q : BitVec 2) (e : BitVec 1)
  /-- VADD (R419). Adds two panels element by element. -/
  | vadd (d a b : BitVec 5) (m : BitVec 2) (t : BitVec 5) (e : BitVec 1)
  /-- VSUB (R419). Subtracts two panels element by element. -/
  | vsub (d a b : BitVec 5) (m : BitVec 2) (t : BitVec 5) (e : BitVec 1)
  /-- VMUL (R419). Multiplies two panels element by element. -/
  | vmul (d a b : BitVec 5) (m : BitVec 2) (t : BitVec 5) (e : BitVec 1)
  /-- VFMA (R419). Fused multiply-adds two panels into the destination. -/
  | vfma (d a b : BitVec 5) (m : BitVec 2) (t : BitVec 5) (e : BitVec 1)
  /-- VMIN (R428). Writes the element-wise minimum of two panels. -/
  | vmin (d a b t : BitVec 5) (e : BitVec 1)
  /-- VMAX (R428). Writes the element-wise maximum of two panels. -/
  | vmax (d a b t : BitVec 5) (e : BitVec 1)
  /-- VABS (R418). Writes the absolute value of each element. -/
  | vabs (d a t : BitVec 5) (e : BitVec 1)
  /-- VNEG (R418). Writes the negation of each element. -/
  | vneg (d a t : BitVec 5) (e : BitVec 1)
  /-- VAND (R420). ANDs two panels bit by bit. -/
  | vand (d a b t : BitVec 5) (e : BitVec 1)
  /-- VOR (R420). ORs two panels bit by bit. -/
  | vor (d a b t : BitVec 5) (e : BitVec 1)
  /-- VXOR (R420). XORs two panels bit by bit. -/
  | vxor (d a b t : BitVec 5) (e : BitVec 1)
  /-- VNOT (R420). Inverts a panel bit by bit. -/
  | vnot (d a t : BitVec 5) (e : BitVec 1)
  /-- VSHL (R437). Shifts each element left by a per-element count. -/
  | vshl (d a b t : BitVec 5) (e : BitVec 1)
  /-- VSHR (R437). Shifts each element right logically by a per-element count. -/
  | vshr (d a b t : BitVec 5) (e : BitVec 1)
  /-- VSRA (R437). Shifts each element right arithmetically by a per-element count. -/
  | vsra (d a b t : BitVec 5) (e : BitVec 1)
  /-- VCMP (R422). Compares two panels and writes all-ones or zero elements. -/
  | vcmp (d a b : BitVec 5) (c : BitVec 2) (t : BitVec 5) (e : BitVec 1)
  /-- VSEL (R436). Selects elements from two panels by the destination's condition. -/
  | vsel (d a b t : BitVec 5) (e : BitVec 1)
  /-- VCVT (R424). Converts each element between panel formats. -/
  | vcvt (d a s : BitVec 5) (m : BitVec 2) (t : BitVec 5) (e : BitVec 1)
  /-- VCVT.sat (R424). Converts each element between panel formats with saturation. -/
  | vcvtSat (d a s : BitVec 5) (m : BitVec 2) (t : BitVec 5) (e : BitVec 1)
  /-- VRSHR (R434). Requantises INT32 elements by rounding right shifts with saturation. -/
  | vrshr (d a b t : BitVec 5) (e : BitVec 1)
  /-- VEXP2 (R425). Writes the correctly rounded 2^a of each element. -/
  | vexp2 (d a : BitVec 5) (m : BitVec 2) (t : BitVec 5) (e : BitVec 1)
  /-- VLOG2 (R425). Writes the correctly rounded log2 of each element. -/
  | vlog2 (d a : BitVec 5) (m : BitVec 2) (t : BitVec 5) (e : BitVec 1)
  /-- VRCP (R425). Writes the correctly rounded reciprocal of each element. -/
  | vrcp (d a : BitVec 5) (m : BitVec 2) (t : BitVec 5) (e : BitVec 1)
  /-- VRSQ (R425). Writes the correctly rounded reciprocal square root of each element. -/
  | vrsq (d a : BitVec 5) (m : BitVec 2) (t : BitVec 5) (e : BitVec 1)
  /-- VREDR (R432). Reduces each row by add, max or min. -/
  | vredr (d a o : BitVec 5) (m : BitVec 2) (t : BitVec 5) (e : BitVec 1)
  /-- VREDC (R432). Reduces each column by add, max or min. -/
  | vredc (d a o : BitVec 5) (m : BitVec 2) (t : BitVec 5) (e : BitVec 1)
  /-- VBCR (R421). Broadcasts one column of each row along the row. -/
  | vbcr (d a b t : BitVec 5) (e : BitVec 1)
  /-- VBCC (R421). Broadcasts one row down every column. -/
  | vbcc (d a b t : BitVec 5) (e : BitVec 1)
  /-- VROTR (R433). Rotates each row by a register amount. -/
  | vrotr (d a b t : BitVec 5) (e : BitVec 1)
  /-- VROTC (R433). Rotates each column by a register amount. -/
  | vrotc (d a b t : BitVec 5) (e : BitVec 1)
  /-- VSCAN (R435). Computes an inclusive prefix along each row. -/
  | vscan (d a o : BitVec 5) (m : BitVec 2) (t : BitVec 5) (e : BitVec 1)
  /-- VPERM (R431). Permutes elements within rows by per-element indices. -/
  | vperm (d a b t : BitVec 5) (e : BitVec 1)
  /-- PART (R392). Partitions element indices by condition and returns the true count. -/
  | part (d a b t : BitVec 5) (e : BitVec 1)
  /-- VTOPK (R438). Selects the k highest-ranked elements of each row with their indices. -/
  | vtopk (d a b t : BitVec 5) (e : BitVec 1)
  /-- VMOV (R429). Copies 4,096 bytes from a panel or queue to a panel. -/
  | vmov (d a : BitVec 5) (e : BitVec 1)
  /-- VMOVI (R430). Writes an immediate into every 32-bit element of a panel. -/
  | vmovi (d : BitVec 5) (i : BitVec 17) (e : BitVec 1)
  /-- VINS (R427). Inserts an x register value into one panel element. -/
  | vins (d a b t : BitVec 5) (e : BitVec 1)
  /-- VEXT (R426). Extracts one panel element into an x register. -/
  | vext (d a b t : BitVec 5) (e : BitVec 1)
  /-- WROT (R439). Writes the rotation enable and base of ROTBASE. -/
  | wrot (n : BitVec 1) (b : BitVec 3) (e : BitVec 1)
  /-- FMTSET (R366). Writes one format table entry. -/
  | fmtset (a : BitVec 5) (k : BitVec 4) (e : BitVec 1)
  /-- FMTSEL (R365). Binds or unbinds the format index to a loop level. -/
  | fmtsel (l : BitVec 2) (n e : BitVec 1)
  /-- RFCH (R266). Supervisor instruction that takes the oldest entry of a ring into private SRAM. -/
  | rfch (b a d : BitVec 5)
  /-- XFLD (R268). Supervisor instruction that extracts a bit field. -/
  | xfld (b a d : BitVec 5)
  /-- SGWT (R269). Supervisor instruction that waits for a pending signal. rs2 (b) must be x0, or SIGNAL-FAULT is raised. -/
  | sgwt (b a d : BitVec 5)
  /-- DISP (R270). Supervisor instruction that hands a bind record to the dispatch hardware. -/
  | disp (b a d : BitVec 5)
  /-- BIND_START (R264). A start bind record starts a task or resumes a saved one on named strands. -/
  | bindStart (core : Nat) (strands : BitVec 4) (hdr : Nat) (regid : BitVec 64)
  /-- BIND_PREEMPT (R264). A pre-empt bind record stops and saves a running task. -/
  | bindPreempt (core : Nat) (strands : BitVec 4)
  /-- BIND_MAP (R264). A map bind record maps a slot to a region and logical core, clearing it on a context change. -/
  | bindMap (core : Nat) (lcore : BitVec 12) (regid : BitVec 64)
  /-- BIND_FREE (R264). A free bind record returns an idle slot to the free state. -/
  | bindFree (core : Nat)
  /-- TRANSLATION_RETRY (R211). A retry resolve word walks the faulting granule afresh and resumes the held command. -/
  | translationRetry (cluster : Nat) (word : BitVec 64)
  /-- TRANSLATION_KILL (R211). A kill resolve word discards the held command and ends the region. -/
  | translationKill (cluster : Nat) (word : BitVec 64)
  /-- PAD (R249). Host packet that does nothing and completes at issue. -/
  | pad (port : Fin 2) (q : Fin 16) (k : Nat)
  /-- LAUNCH (R259). Host packet that reserves and commits a gang of tasks. -/
  | launch (port : Fin 2) (q : Fin 16) (k : Nat)
  /-- REGION_CREATE (R254). Host packet that creates a region block, its pool windows and reserved cores. -/
  | regionCreate (port : Fin 2) (q : Fin 16) (k : Nat)
  /-- REGION_MODIFY (R254). Host packet that replaces a region block's fields. -/
  | regionModify (port : Fin 2) (q : Fin 16) (k : Nat)
  /-- REGION_DESTROY (R254). Host packet that removes a region subtree and its context resources. -/
  | regionDestroy (port : Fin 2) (q : Fin 16) (k : Nat)
  /-- MAP (R208). Host packet that writes page-table entries to HBM. -/
  | map (port : Fin 2) (q : Fin 16) (k : Nat)
  /-- UNMAP (R214). Host packet that clears entries and invalidates a virtual range package-wide. -/
  | unmap (port : Fin 2) (q : Fin 16) (k : Nat)
  /-- BIND (R202). Host packet that writes or clears a host handle table entry. -/
  | bind (port : Fin 2) (q : Fin 16) (k : Nat)
  /-- HCOPY (R249). Host packet that copies forward-linearly through the command processor. -/
  | hcopy (port : Fin 2) (q : Fin 16) (k : Nat)
  /-- HSIGNAL (R249). Host packet that applies an increment to a core semaphore. -/
  | hsignal (port : Fin 2) (q : Fin 16) (k : Nat)
  /-- HWAIT (R249). Host packet that holds later packets until a word reaches a value. -/
  | hwait (port : Fin 2) (q : Fin 16) (k : Nat)
  /-- RETIRE (R303). Host packet that retires a die and moves its tasks to other cores. -/
  | retire (port : Fin 2) (q : Fin 16) (k : Nat)
  /-- RESYNC (R279). Host packet that gathers package state and writes a summary. -/
  | resync (port : Fin 2) (q : Fin 16) (k : Nat)
  /-- PACKET_FETCH (R250). The fetcher reads whole packets ahead of the head of a queue. -/
  | packetFetch (port : Fin 2) (q : Fin 16)
  /-- PACKET_ISSUE (R251). A fetched packet issues after its header is re-read and checked. -/
  | packetIssue (port : Fin 2) (q : Fin 16)
  /-- FETCH_RETRY (R309). A failed packet fetch is retried every 1,024 clocks. -/
  | fetchRetry (port : Fin 2) (q : Fin 16)
  /-- HWAIT_POLL (R249). The word named by HWAIT is read again at least every 1,024 clocks. -/
  | hwaitPoll (port : Fin 2) (q : Fin 16)
  /-- DOORBELL (R309). A host doorbell write sets the tail of a command queue. -/
  | doorbell (port : Fin 2) (q : Fin 16) (v : BitVec 64)
  /-- QCTL_ENABLE (R309). Setting EN checks the queue configuration and starts the queue. -/
  | qctlEnable (port : Fin 2) (q : Fin 16) (v : BitVec 64)
  /-- QCTL_DISABLE (R309). Clearing EN stops fetching while issued packets complete. -/
  | qctlDisable (port : Fin 2) (q : Fin 16) (v : BitVec 64)
  /-- RESTART (R311). RESTART resumes a halted queue, passing the halted packet over when SKIP is set. -/
  | restart (port : Fin 2) (q : Fin 16) (v : BitVec 64)
  /-- CHEAD (R310). A host write of CHEAD frees completion records. -/
  | chead (port : Fin 2) (q : Fin 16) (v : BitVec 64)
  /-- DEVNUM (R313). The first valid write sets the device number once. -/
  | devnum (port : Fin 2) (v : BitVec 64)
  /-- PWRLIM (R326). A write sets the power limit, clamped to 1,200-2,400 W. -/
  | pwrlim (port : Fin 2) (v : BitVec 64)
  /-- LINKCTX (R315). A write binds, replaces or detaches the context of a device link. -/
  | linkctx (port : Fin 2) (n : Fin 16) (v : BitVec 64)
  /-- ATTCMD_REPORT (R319). ATTCMD with OP 1 writes a signed attestation report. -/
  | attcmdReport (port : Fin 2) (v : BitVec 64)
  /-- ATTCMD_CHAIN (R319). ATTCMD with OP 2 writes the certificate chain. -/
  | attcmdChain (port : Fin 2) (v : BitVec 64)
  /-- BOOTGO (R323). Sends the boot message to the overlay loader of a named core. -/
  | bootgo (port : Fin 2) (v : BitVec 64)
  /-- HOST_REGISTER_WRITE (R306). A write to a host window register with no behaviour of its own. -/
  | hostRegisterWrite (port : Fin 2) (off size : Nat) (v : BitVec 64)
  /-- LOADER_MESSAGE (R322). The overlay loader checks, copies, relocates and starts a task from a mailbox 0 message. -/
  | loaderMessage (core : Nat)
  /-- STREAM_COMMAND_START (R161). The stream engine starts the oldest waiting command of the next strand in turn. -/
  | streamCommandStart (core : Nat)
  /-- COPY_LAND (R169). A copy's bytes land at a destination and are checked there. -/
  | copyLand (core slot : Nat) (p : CopyPiece)
  /-- COPY_COMPLETE (R171). A copy applies its increments and writes its token. -/
  | copyComplete (core slot : Nat)
  /-- FOLLOW_ON_ENTRY (R172). A copy's follow-on matrix command enters the matrix queue once its bytes are visible. -/
  | followOnEntry (core slot : Nat)
  /-- DCMP_COMPLETE (R175). A decompression ends its stream and writes its token. -/
  | dcmpComplete (core slot : Nat)
  /-- FILL_COMPLETE (R363). A fill writes its pattern and token. -/
  | fillComplete (core slot k : Nat)
  /-- CSUM_COMPLETE (R177). A checksum command writes or verifies the header and its token. -/
  | csumComplete (core slot k : Nat)
  /-- SEND_ACCEPT (R401). A message enters the destination's pending handler list and the token is written. -/
  | sendAccept (core k : Nat)
  /-- SPAWN_STORE (R404). A spawned header is stored in the spawn area and the token is written. -/
  | spawnStore (core slot : Nat)
  /-- SPAWN_RING_ENTRY (R405). The supervisor appends a spawned task to ring 0 once its producers have fired. -/
  | spawnRingEntry (task : Nat)
  /-- MATRIX_COMMAND_PERFORM (R158). The matrix engine performs its next queued command. -/
  | matrixCommandPerform (core k : Nat)
  /-- MST_COMPLETE (R388). A plane store writes its header and token after its last beat. -/
  | mstComplete (core : Nat)
  /-- STORE_DRAIN (R185). The oldest store buffer entry drains to its bank. -/
  | storeDrain (core : Nat) (strand : Fin 4) (k : Nat)
  /-- LOAD_PERFORM (R368). A load is performed at its bank and writes its register, or meets POISON. -/
  | loadPerform (core : Nat) (strand : Fin 4) (k : Nat)
  /-- ROW_COMPLETE (R369). A reserved PLD or GATH row completes and becomes poppable. -/
  | rowComplete (core : Nat) (strand q : Fin 4)
  /-- SEMINC_APPLY (R399). A SEMINC or SEMSET is applied once older accesses of its strand are done. -/
  | semincApply (core : Nat) (strand : Fin 4)
  /-- SEM_INCREMENT_ARRIVAL (R179). A copy's semaphore increment arrives and is summed into the semaphore. -/
  | semIncrementArrival (core k : Nat)
  /-- RESIDENCY_OP_PERFORM (R230). The residency table performs a queued RESIDE, EVICT or RQUERY. -/
  | residencyOpPerform (core : Nat) (strand : Fin 4)
  /-- TRANSLATION_FAULT (R209). A translation of a tag-3 or tag-4 piece faults and holds the command. -/
  | translationFault (core slot : Nat) (p : CopyPiece)
  /-- INVALIDATION (R214). A translation unit drops entries of a range, waits for pieces and acknowledges. -/
  | invalidation (unit k : Nat)
  /-- HANDLER_START (R54). A pending handler task starts on the next free strand. -/
  | handlerStart (core : Nat) (strand : Fin 4)
  /-- TASK_END (R55). A task ends when its last strand and handlers have ended. -/
  | taskEnd (task : Nat)
  /-- ASYNC_CAUSE_DELIVERY (R287). A pending async cause is delivered once ACTIVE is 0. -/
  | asyncCauseDelivery (core : Nat) (strand : Fin 4)
  /-- ERROR_RECORD (R222). An error record or notice is delivered to a fault-domain mailbox or notice ring. -/
  | errorRecord (k : Nat)
  /-- COLL_HOP (R238). A collective packet arrives at the entry that acts on it. -/
  | collHop (k : Nat)
  /-- COLL_COMPLETION (R242). A completion flit arrives and writes or keeps the COLL token. -/
  | collCompletion (core k : Nat)
  /-- GANG_RETRY (R259). A gang refused for want of cores is retried at a tempo boundary. -/
  | gangRetry (k : Nat)
  /-- GANG_END (R260). The last task of a gang ends, DONESIG is incremented and reservations released. -/
  | gangEnd (gang : Nat)
  /-- TEMPO_BOUNDARY (R272). A tempo boundary raises the signal for promotion, binding and pre-emption. -/
  | tempoBoundary (cluster : Nat)
  /-- FIRING_ARRIVAL (R410). A producer's firing reaches a dependent's core. -/
  | firingArrival (core k : Nat)
  /-- PREEMPT_SAVE (R293). A stopped task's state is saved to its slot once its commands reach stopping points. -/
  | preemptSave (task : Nat)
  /-- SAVE_UNIT_APPLY (R295). Deliveries to a core under save are held and applied to the slot image. -/
  | saveUnitApply (core k : Nat)
  /-- RETIREMENT_REQUEST (R303). Firmware raises a die retirement request when a threshold is passed. -/
  | retirementRequest (die : Fin 16)
  /-- DIE_FAILURE (R304). A die fails hard and every region that depends on it is ended. -/
  | dieFailure (die : Fin 16)
  /-- LINK_TRAINING (R314). A device link trains and enters the up or failed state. -/
  | linkTraining (n : Fin 16) (r : LinkResult)
  /-- LINK_LOSS_OF_LOCK (R314). A link loses lock and returns to training. -/
  | linkLossOfLock (n : Fin 16)
  /-- SCRUB (R142). The stream engine scrubs the next line of a bank group in an idle clock. -/
  | scrub (core : Nat) (group : Fin 4)
  /-- BOOT (R316). The ROM verifies firmware and brings the device up through its stages. -/
  | boot (die : Fin 16) (r : BootResult)
  /-- BOOT_FALLBACK (R316). Die 15's ROM takes over when die 0 has not reached stage 1 within 100 ms. -/
  | bootFallback
  /-- DIE_RESET (R18). A die leaves reset and clears its CYC counters. -/
  | dieReset (die : Fin 16)
  /-- COMPLETION_TIMEOUT (R202). A tag-5 read whose completion does not arrive within the port's completion timeout lands its bytes poisoned, and the command otherwise completes. -/
  | completionTimeout (core slot : Nat) (p : CopyPiece)
  /-- TAG4_PIECE_ARRIVAL (R315). A tag-4 piece arriving from a peer on device link n is translated through the bound context, or refused when no context is bound. -/
  | tag4PieceArrival (n : Fin 16) (va : BitVec 52) (write : Bool) (data : PeerBytes)
  /-- LINK_LEVEL_RETRY (R22). A flit that fails its link check on a link or die edge is retried at link level and counted in LINKSTAT.RETRIES. -/
  | linkLevelRetry (n : Fin 16)
  /-- JUNCTION_LIMIT (R325). When a die reaches the 105 °C junction limit or the package exceeds PWRLIM, firmware inserts idle clocks between engine commands. -/
  | junctionLimit (die : Fin 16)
  /-- HOST_PORT_LINK_TRAINING (R305). A PCI Express port link trains to the widest and fastest setting that both ends allow. -/
  | hostPortLinkTraining (port : Fin 2) (widths rates : List Nat)
  deriving DecidableEq, Repr, Inhabited

/-- One turn of the machine: which agent moves, or which input arrives (assumption 1). -/
inductive Turn where
  /-- The counter of a strand of a physical core meets its next word (R33). -/
  | counter (core : Nat) (strand : Fin 4) (k : Ctr)
  /-- The supervisor of a package cluster runs the instruction at its pc (R17). -/
  | supervisor (cluster : Nat)
  /-- An operation or event of the table. -/
  | event (i : Instr)
  /-- One clock of a die passes; `conflicts` lists the cores that count a conflict in it (R18, R139). -/
  | clock (die : Fin 16) (conflicts : List Nat)
  /-- The flags of result `k` of those of a strand that have not arrived land in FPSTAT (R113). -/
  | result (core : Nat) (strand : Fin 4) (k : Nat)
  /-- The stream engine reads piece `k` of the card, notation, message or walk records that the command in a slot names
  (R147, R162, R182). -/
  | record (core slot k : Nat)
  /-- The loader of a core begins its next work, or performs piece `k` of what it has left to read or to write (R320, R322). -/
  | load (core k : Nat)
  /-- The packets of a collective whose origin is another device are on their way to link `n`: its notation, the pair that its
  packets carry and their NUMVER (R237). -/
  | foreign (n : Fin 16) (image : List Byte) (pair : BitVec 64 × BitVec 64) (numver : BitVec 2)
  /-- A combiner errs in element `e` of collective packet `k`, by `d` in its residue (R245). -/
  | upset (k e d : Nat)
  /-- The host writes a byte of its own memory (R247). -/
  | hostStore (port : Fin 2) (addr : Nat) (v : Byte)
  /-- A word of local SRAM (0, unit a core), of HBM (1), of a cluster pool (2) or die pool (3) becomes uncorrectable (R140). -/
  | poison (space unit addr : Nat)
  /-- A read or a scrub corrects an error in such a word (R140). -/
  | corrected (space unit addr : Nat)
  /-- The output of a port's attestation command is written (R319). -/
  | attest (port : Fin 2)
  /-- Writes of the two ports to the host window arrive in one clock: offset, size and value of each (R306). -/
  | windowWrites (off0 size0 : Nat) (v0 : BitVec 64) (off1 size1 : Nat) (v1 : BitVec 64)
  /-- The host writes a port's configuration space, or a vector of its MSI-X table (R305). -/
  | config (port : Fin 2) (w : ConfigWrite)
  /-- A supervisor writes entry `e` at `pa` of a page table of a context: the leaf of [lo, lo + n) is narrowed or removed (R214). -/
  | leaf (cluster pa : Nat) (e context : BitVec 64) (lo n : Nat)
  /-- A supervisor takes an interrupt (R269). -/
  | interrupt (cluster cause : Nat)
  deriving DecidableEq, Repr, Inhabited

end Sys2Proof
end

