-- ==== Sys2Proof/Machine/Legal.lean ====
section
/-! DEFINITION. Sys2Proof/Machine/Legal.lean: which field values of a row the maps assign, beyond the fields marked 0
(spec/03_instruction_encoding.md R63, R72 to R82, R97, R98, and each row's own entry). -/

namespace Sys2Proof.Machine

/-- A destination operand: a panel (R63). -/
def destOk (d : BitVec 5) : Bool := d.toNat < 16

/-- A source operand: a panel or an A→X queue (R63). -/
def srcOk (a : BitVec 5) : Bool := a.toNat < 20

/-- A field that holds a panel type of R97 and no mode. -/
def plainType (t : BitVec 5) : Bool := panelCode t.toNat

/-- Type and mode of VADD, VSUB, VMUL and VFMA (R82, R412). -/
def arithMode (t : BitVec 5) (m : BitVec 2) : Bool :=
  panelFloat t.toNat || (panelInt t.toNat && m.toNat ≤ 1) || (t == 31#5 && m == 0#2)

/-- Operator, mode and type of VREDR, VREDC and VSCAN (R432). -/
def reduceMode (o : BitVec 5) (m : BitVec 2) (t : BitVec 5) : Bool :=
  panelCode t.toNat && o.toNat ≤ 2 &&
    (if o == 0#5 then panelFloat t.toNat || m.toNat ≤ 1 else m == 0#2)

/-- The type set of VABS and VNEG (R418): floating and signed integers. -/
def absType (t : BitVec 5) : Bool := panelFloat t.toNat || (11 ≤ t.toNat && t.toNat ≤ 14)

/-- The destinations of VRSHR (R434). -/
def rshrType (t : BitVec 5) : Bool := (11 ≤ t.toNat && t.toNat ≤ 13) || (15 ≤ t.toNat && t.toNat ≤ 17)

/-- The types of VTOPK (R438). -/
def topkType (t : BitVec 5) : Bool := t.toNat == 0 || (2 ≤ t.toNat && t.toNat ≤ 5) || t.toNat == 9

/-- The types of PART (R392). -/
def partType (t : BitVec 5) : Bool := t.toNat == 0 || t.toNat == 13 || t.toNat == 17

/-- Codes of VCVT (R423). -/
def cvtMode (s t : BitVec 5) (m : BitVec 2) : Bool :=
  panelCode s.toNat && panelCode t.toNat && (panelFloat t.toNat || m.toNat ≤ 1)

/-- Codes of VCVT.sat (R423). -/
def cvtSatMode (s t : BitVec 5) (m : BitVec 2) : Bool :=
  panelCode s.toNat && panelCode t.toNat && (panelFloat t.toNat || m == 0#2)

/-- The field values that a row admits. -/
def legal : Instr → Bool
  | .bfxZ64 _ _ w l _ _ => w.toNat + 1 + l.toNat ≤ 64
  | .bfxS64 _ _ w l _ _ => w.toNat + 1 + l.toNat ≤ 64
  | .bfi _ _ w l _ _ => w.toNat + 1 + l.toNat ≤ 64
  | .csrr _ c _ _ => csrListed c.toNat
  | .csrw _ c _ _ => csrListed c.toNat
  | .loop l _ n _ _ => l != 3#2 && n != 0#12
  | .brkl l _ _ => l != 3#2
  | .limm _ g => g != .both
  | .ld _ _ _ t _ => t != 7#3
  | .ldAcq _ _ _ t _ => t != 7#3
  | .amo _ _ _ u _ p _ => p != 7#3 && (u == 0#1 || p == 5#3 || p == 6#3)
  | .gath _ _ _ r s _ => s != 3#2 || r.toNat < 16
  | .scat q _ j r s _ => (s != 3#2 || r.toNat < 16) && q != j
  | .mma f _ _ k p _ => mmaPair f.toNat k.toNat && (f.toNat != 1 || p.toNat % 2 == 0)
  | .mmaSat f _ _ k _ _ => mmaSatPair f.toNat k.toNat
  | .mmas f _ _ k _ _ => mmasPair f.toNat k.toNat
  | .mst _ _ _ k _ _ => mstCode k.toNat
  | .mstSat _ _ _ k _ _ => mstCode k.toNat
  | .fcvt _ _ s _ r k _ => s.toNat < 4 || k.toNat < 4 || r == 0#2
  | .xsndPanel _ p r f _ => p.toNat < 16 && f.toNat + r.toNat + 1 ≤ 16
  | .vadd d a b m t _ => destOk d && srcOk a && srcOk b && arithMode t m
  | .vsub d a b m t _ => destOk d && srcOk a && srcOk b && arithMode t m
  | .vmul d a b m t _ => destOk d && srcOk a && srcOk b && arithMode t m
  | .vfma d a b m t _ => destOk d && srcOk a && srcOk b && arithMode t m
  | .vmin d a b t _ => destOk d && srcOk a && srcOk b && (plainType t || t == 31#5)
  | .vmax d a b t _ => destOk d && srcOk a && srcOk b && (plainType t || t == 31#5)
  | .vabs d a t _ => destOk d && srcOk a && absType t
  | .vneg d a t _ => destOk d && srcOk a && absType t
  | .vand d a b t _ => destOk d && srcOk a && srcOk b && panelInt t.toNat
  | .vor d a b t _ => destOk d && srcOk a && srcOk b && panelInt t.toNat
  | .vxor d a b t _ => destOk d && srcOk a && srcOk b && panelInt t.toNat
  | .vnot d a t _ => destOk d && srcOk a && panelInt t.toNat
  | .vshl d a b t _ => destOk d && srcOk a && srcOk b && panelInt t.toNat
  | .vshr d a b t _ => destOk d && srcOk a && srcOk b && panelInt t.toNat
  | .vsra d a b t _ => destOk d && srcOk a && srcOk b && panelInt t.toNat
  | .vcmp d a b c t _ => destOk d && srcOk a && srcOk b && plainType t && (c != 3#2 || panelFloat t.toNat)
  | .vsel d a b t _ => destOk d && srcOk a && srcOk b && plainType t
  | .vcvt d a s m t _ => destOk d && srcOk a && cvtMode s t m
  | .vcvtSat d a s m t _ => destOk d && srcOk a && cvtSatMode s t m
  | .vrshr d a b t _ => destOk d && srcOk a && srcOk b && rshrType t
  | .vexp2 d a _ t _ => destOk d && srcOk a && t.toNat < 4
  | .vlog2 d a _ t _ => destOk d && srcOk a && t.toNat < 4
  | .vrcp d a _ t _ => destOk d && srcOk a && t.toNat < 4
  | .vrsq d a _ t _ => destOk d && srcOk a && t.toNat < 4
  | .vredr d a o m t _ => destOk d && srcOk a && reduceMode o m t
  | .vredc d a o m t _ => destOk d && srcOk a && reduceMode o m t
  | .vbcr d a _ t _ => destOk d && srcOk a && plainType t
  | .vbcc d a _ t _ => destOk d && srcOk a && plainType t
  | .vrotr d a _ t _ => destOk d && srcOk a && plainType t
  | .vrotc d a _ t _ => destOk d && srcOk a && plainType t
  | .vscan d a o m t _ => destOk d && srcOk a && reduceMode o m t
  | .vperm d a b t _ => destOk d && srcOk a && srcOk b && plainType t
  | .part d a _ t _ => destOk d && srcOk a && partType t
  | .vtopk d a _ t _ => destOk d && srcOk a && topkType t
  | .vmov d a _ => destOk d && srcOk a
  | .vmovi d _ _ => destOk d
  | .vins d _ _ t _ => destOk d && plainType t
  | .vext _ a _ t _ => destOk a && plainType t
  | .fmtsel l n _ => l != 3#2 && (n == 1#1 || l == 0#2)
  | _ => true

end Sys2Proof.Machine
end

