-- ==== Sys2Proof/WellFormed.lean ====
section
/-! DEFINITION. Sys2Proof/WellFormed.lean: a well-formed instruction is one whose field values its row of the maps admits
(spec/03_instruction_encoding.md R72). An operation or event without a word is always well-formed. -/

namespace Sys2Proof

/-- Every field of `i` holds a value that the row admits (R63, R65, R73 to R82, R97, R98). -/
abbrev Instr.WellFormed (i : Instr) : Prop := Machine.legal i = true

end Sys2Proof
end

