-- ==== Sys2Proof/Decode.lean ====
section
/-! DEFINITION. Sys2Proof/Decode.lean: from bytes to an instruction or a named refusal, and back. Words are
little-endian (R1). Every encoding that the maps do not assign is refused (R72). -/

namespace Sys2Proof

/-- Why a word is no instruction (R60, R64, R72, R265). -/
inductive DecodeErr where
  /-- fewer than four bytes are left -/
  | short
  /-- H = 1 with G = 00 (R60) -/
  | bothPrivate
  /-- G = 11 (R60) -/
  | tagThree
  /-- a major that the map does not assign (R73, R77, R80) -/
  | unassignedMajor
  /-- a function or subfield value that the map does not assign (R74, R79 to R82) -/
  | unassignedFunction
  /-- a field marked 0, or an end bit that the word fixes, holds another value (R64, R67, R69) -/
  | nonzeroField
  /-- an operand, type, mode or format code that the row does not allow (R63, R65 to R98) -/
  | illFormed
  /-- no supervisor extension word: opcode, funct7 or funct3 (R265) -/
  | notSupervisor
  deriving DecidableEq, Repr, Inhabited

/-- D, bits 24:20 (R59). -/
abbrev fD (w : BitVec 32) : BitVec 5 := w.extractLsb' 20 5
/-- S1, bits 19:15 (R59). -/
abbrev fS1 (w : BitVec 32) : BitVec 5 := w.extractLsb' 15 5
/-- S2, bits 14:10 (R59). -/
abbrev fS2 (w : BitVec 32) : BitVec 5 := w.extractLsb' 10 5
/-- E, bit 0 (R59). -/
abbrev fE (w : BitVec 32) : BitVec 1 := w.extractLsb' 0 1
/-- The panel type, F[4:0] (R82). -/
abbrev fT (w : BitVec 32) : BitVec 5 := w.extractLsb' 3 5
/-- The panel mode, F[6:5] (R82). -/
abbrev fM (w : BitVec 32) : BitVec 2 := w.extractLsb' 8 2
/-- The 12-bit immediate or offset, bits 14:3 (R61). -/
abbrev fImm (w : BitVec 32) : BitVec 12 := w.extractLsb' 3 12
/-- The 22-bit offset or extension, bits 24:3 (R61). -/
abbrev fOff (w : BitVec 32) : BitVec 22 := w.extractLsb' 3 22

/-- The shared map (R73, R74), for the counter or counters that `g` names. -/
def decodeShared (g : Tag) (w : BitVec 32) : Except DecodeErr Instr :=
  match (w.extractLsb' 25 6).toNat with
  | 0x00 => if w.extractLsb' 3 22 = 0x0#22 then .ok (.nop g (fE w)) else .error .nonzeroField
  | 0x01 =>
    if w.extractLsb' 3 7 = 0x0#7 then .ok (.add (fD w) (fS1 w) (fS2 w) g (fE w))
    else if w.extractLsb' 3 7 = 0x1#7 then .ok (.sub (fD w) (fS1 w) (fS2 w) g (fE w))
    else if w.extractLsb' 3 7 = 0x2#7 then .ok (.and (fD w) (fS1 w) (fS2 w) g (fE w))
    else if w.extractLsb' 3 7 = 0x3#7 then .ok (.or (fD w) (fS1 w) (fS2 w) g (fE w))
    else if w.extractLsb' 3 7 = 0x4#7 then .ok (.xor (fD w) (fS1 w) (fS2 w) g (fE w))
    else if w.extractLsb' 3 7 = 0x5#7 then .ok (.shl (fD w) (fS1 w) (fS2 w) g (fE w))
    else if w.extractLsb' 3 7 = 0x6#7 then .ok (.shr (fD w) (fS1 w) (fS2 w) g (fE w))
    else if w.extractLsb' 3 7 = 0x7#7 then .ok (.sra (fD w) (fS1 w) (fS2 w) g (fE w))
    else if w.extractLsb' 3 7 = 0x8#7 then .ok (.slt (fD w) (fS1 w) (fS2 w) g (fE w))
    else if w.extractLsb' 3 7 = 0x9#7 then .ok (.sltu (fD w) (fS1 w) (fS2 w) g (fE w))
    else if w.extractLsb' 3 7 = 0xA#7 then .ok (.minS64 (fD w) (fS1 w) (fS2 w) g (fE w))
    else if w.extractLsb' 3 7 = 0xB#7 then .ok (.minZ64 (fD w) (fS1 w) (fS2 w) g (fE w))
    else if w.extractLsb' 3 7 = 0xC#7 then .ok (.maxS64 (fD w) (fS1 w) (fS2 w) g (fE w))
    else if w.extractLsb' 3 7 = 0xD#7 then .ok (.maxZ64 (fD w) (fS1 w) (fS2 w) g (fE w))
    else if w.extractLsb' 3 7 = 0x10#7 then .ok (.mul (fD w) (fS1 w) (fS2 w) g (fE w))
    else if w.extractLsb' 3 7 = 0x11#7 then .ok (.mulhS64 (fD w) (fS1 w) (fS2 w) g (fE w))
    else if w.extractLsb' 3 7 = 0x12#7 then .ok (.mulhZ64 (fD w) (fS1 w) (fS2 w) g (fE w))
    else if w.extractLsb' 3 7 = 0x13#7 then .ok (.madd (fD w) (fS1 w) (fS2 w) g (fE w))
    else .error .unassignedFunction
  | 0x02 => .ok (.addi (fD w) (fS1 w) (fImm w) g (fE w))
  | 0x03 => .ok (.andi (fD w) (fS1 w) (fImm w) g (fE w))
  | 0x04 => .ok (.ori (fD w) (fS1 w) (fImm w) g (fE w))
  | 0x05 => .ok (.xori (fD w) (fS1 w) (fImm w) g (fE w))
  | 0x06 => if w.extractLsb' 9 6 = 0x0#6 then .ok (.shlImm (fD w) (fS1 w) (w.extractLsb' 3 6) g (fE w)) else .error .nonzeroField
  | 0x07 => if w.extractLsb' 9 6 = 0x0#6 then .ok (.shrImm (fD w) (fS1 w) (w.extractLsb' 3 6) g (fE w)) else .error .nonzeroField
  | 0x08 => if w.extractLsb' 9 6 = 0x0#6 then .ok (.sraImm (fD w) (fS1 w) (w.extractLsb' 3 6) g (fE w)) else .error .nonzeroField
  | 0x09 => .ok (.bfxZ64 (fD w) (fS1 w) (w.extractLsb' 9 6) (w.extractLsb' 3 6) g (fE w))
  | 0x0A => .ok (.bfxS64 (fD w) (fS1 w) (w.extractLsb' 9 6) (w.extractLsb' 3 6) g (fE w))
  | 0x0B => .ok (.bfi (fD w) (fS1 w) (w.extractLsb' 9 6) (w.extractLsb' 3 6) g (fE w))
  | 0x0C => .ok (.lui (fD w) (w.extractLsb' 3 17) g (fE w))
  | 0x0D => if w.extractLsb' 0 1 = 0x0#1 then .ok (.limm (fOff w) g) else .error .nonzeroField
  | 0x0E => if w.extractLsb' 15 5 = 0x0#5 then .ok (.csrr (fD w) (fImm w) g (fE w)) else .error .nonzeroField
  | 0x0F => if w.extractLsb' 20 5 = 0x0#5 then .ok (.csrw (fS1 w) (fImm w) g (fE w)) else .error .nonzeroField
  | 0x10 => .ok (.br (fOff w) g (fE w))
  | 0x11 => .ok (.call (fOff w) g (fE w))
  | 0x12 => if w.extractLsb' 3 22 = 0x0#22 then .ok (.ret g (fE w)) else .error .nonzeroField
  | 0x13 => .ok (.beq (fD w) (fS1 w) (fImm w) g (fE w))
  | 0x14 => .ok (.bne (fD w) (fS1 w) (fImm w) g (fE w))
  | 0x15 => .ok (.blt (fD w) (fS1 w) (fImm w) g (fE w))
  | 0x16 => .ok (.bge (fD w) (fS1 w) (fImm w) g (fE w))
  | 0x17 => .ok (.bltu (fD w) (fS1 w) (fImm w) g (fE w))
  | 0x18 => .ok (.bgeu (fD w) (fS1 w) (fImm w) g (fE w))
  | 0x19 => if w.extractLsb' 22 3 = 0x0#3 then .ok (.loop (w.extractLsb' 20 2) (fS1 w) (fImm w) g (fE w)) else .error .nonzeroField
  | 0x1A => if w.extractLsb' 22 3 = 0x0#3 ∧ w.extractLsb' 3 17 = 0x0#17 then .ok (.brkl (w.extractLsb' 20 2) g (fE w)) else .error .nonzeroField
  | _ => .error .unassignedMajor

/-- The access-private map (R77 to R79). -/
def decodeAccess (w : BitVec 32) : Except DecodeErr Instr :=
  match (w.extractLsb' 25 6).toNat with
  | 0x00 => .ok (.ld (fD w) (fS1 w) (w.extractLsb' 6 9) (w.extractLsb' 3 3) (fE w))
  | 0x01 => .ok (.ldAcq (fD w) (fS1 w) (w.extractLsb' 6 9) (w.extractLsb' 3 3) (fE w))
  | 0x02 => if w.extractLsb' 5 1 = 0x0#1 then .ok (.st (fD w) (fS1 w) (w.extractLsb' 6 9) (w.extractLsb' 3 2) (fE w)) else .error .nonzeroField
  | 0x03 => if w.extractLsb' 5 1 = 0x0#1 then .ok (.stRel (fD w) (fS1 w) (w.extractLsb' 6 9) (w.extractLsb' 3 2) (fE w)) else .error .nonzeroField
  | 0x04 => if w.extractLsb' 8 2 = 0x0#2 then .ok (.amo (fD w) (fS1 w) (fS2 w) (w.extractLsb' 7 1) (w.extractLsb' 6 1) (w.extractLsb' 3 3) (fE w)) else .error .nonzeroField
  | 0x05 => if w.extractLsb' 4 6 = 0x0#6 then .ok (.cas (fD w) (fS1 w) (fS2 w) (w.extractLsb' 3 1) (fE w)) else .error .nonzeroField
  | 0x06 => if w.extractLsb' 22 3 = 0x0#3 ∧ w.extractLsb' 8 7 = 0x0#7 then .ok (.pld (w.extractLsb' 20 2) (fS1 w) (fT w) (fE w)) else .error .nonzeroField
  | 0x07 => if w.extractLsb' 22 3 = 0x0#3 ∧ w.extractLsb' 8 7 = 0x0#7 then .ok (.pst (w.extractLsb' 20 2) (fS1 w) (fT w) (fE w)) else .error .nonzeroField
  | 0x08 => if w.extractLsb' 22 3 = 0x0#3 ∧ w.extractLsb' 12 3 = 0x0#3 then .ok (.gath (w.extractLsb' 20 2) (fS1 w) (w.extractLsb' 10 2) (w.extractLsb' 5 5) (w.extractLsb' 3 2) (fE w)) else .error .nonzeroField
  | 0x09 => if w.extractLsb' 22 3 = 0x0#3 ∧ w.extractLsb' 12 3 = 0x0#3 then .ok (.scat (w.extractLsb' 20 2) (fS1 w) (w.extractLsb' 10 2) (w.extractLsb' 5 5) (w.extractLsb' 3 2) (fE w)) else .error .nonzeroField
  | 0x0A => if w.extractLsb' 22 3 = 0x0#3 ∧ w.extractLsb' 3 12 = 0x0#12 then .ok (.qsnd (w.extractLsb' 20 2) (fS1 w) (fE w)) else .error .nonzeroField
  | 0x0B => if w.extractLsb' 17 3 = 0x0#3 ∧ w.extractLsb' 3 12 = 0x0#12 then .ok (.qrcv (fD w) (w.extractLsb' 15 2) (fE w)) else .error .nonzeroField
  | 0x0C => if w.extractLsb' 3 12 = 0x0#12 then .ok (.copy (fD w) (fS1 w) (fE w)) else .error .nonzeroField
  | 0x0D => if w.extractLsb' 3 12 = 0x0#12 then .ok (.dcmp (fD w) (fS1 w) (fE w)) else .error .nonzeroField
  | 0x0E => if w.extractLsb' 3 12 = 0x0#12 then .ok (.fill (fD w) (fS1 w) (fE w)) else .error .nonzeroField
  | 0x0F => if w.extractLsb' 3 12 = 0x0#12 then .ok (.csum (fD w) (fS1 w) (fE w)) else .error .nonzeroField
  | 0x10 => if w.extractLsb' 20 5 = 0x0#5 ∧ w.extractLsb' 9 6 = 0x0#6 then .ok (.seminc (fS1 w) (w.extractLsb' 3 6) (fE w)) else .error .nonzeroField
  | 0x11 => if w.extractLsb' 20 5 = 0x0#5 ∧ w.extractLsb' 9 6 = 0x0#6 then .ok (.semset (fS1 w) (w.extractLsb' 3 6) (fE w)) else .error .nonzeroField
  | 0x12 => if w.extractLsb' 20 5 = 0x0#5 ∧ w.extractLsb' 9 6 = 0x0#6 then .ok (.semwait (fS1 w) (w.extractLsb' 3 6) (fE w)) else .error .nonzeroField
  | 0x13 => if w.extractLsb' 9 1 = 0x0#1 then .ok (.send (fD w) (fS1 w) (fS2 w) (w.extractLsb' 3 6) (fE w)) else .error .nonzeroField
  | 0x14 => if w.extractLsb' 7 3 = 0x0#3 then .ok (.mbreg (fD w) (fS1 w) (fS2 w) (w.extractLsb' 3 4) (fE w)) else .error .nonzeroField
  | 0x15 => .ok (.mma (fD w) (fS1 w) (fS2 w) (w.extractLsb' 5 5) (w.extractLsb' 3 2) (fE w))
  | 0x16 => .ok (.mmaSat (fD w) (fS1 w) (fS2 w) (w.extractLsb' 5 5) (w.extractLsb' 3 2) (fE w))
  | 0x17 => .ok (.mmas (fD w) (fS1 w) (fS2 w) (w.extractLsb' 5 5) (w.extractLsb' 3 2) (fE w))
  | 0x18 => if w.extractLsb' 5 20 = 0x0#20 then .ok (.mzero (w.extractLsb' 3 2) (fE w)) else .error .nonzeroField
  | 0x19 => if w.extractLsb' 20 5 = 0x0#5 ∧ w.extractLsb' 5 10 = 0x0#10 then .ok (.mld (fS1 w) (w.extractLsb' 3 2) (fE w)) else .error .nonzeroField
  | 0x1A => .ok (.mst (fD w) (fS1 w) (fS2 w) (w.extractLsb' 5 5) (w.extractLsb' 3 2) (fE w))
  | 0x1B => .ok (.mstSat (fD w) (fS1 w) (fS2 w) (w.extractLsb' 5 5) (w.extractLsb' 3 2) (fE w))
  | 0x1C => if w.extractLsb' 3 12 = 0x0#12 then .ok (.coll (fD w) (fS1 w) (fE w)) else .error .nonzeroField
  | 0x1D => if w.extractLsb' 3 7 = 0x0#7 then .ok (.reside (fD w) (fS1 w) (fS2 w) (fE w)) else .error .nonzeroField
  | 0x1E => if w.extractLsb' 3 12 = 0x0#12 then .ok (.evict (fD w) (fS1 w) (fE w)) else .error .nonzeroField
  | 0x1F => if w.extractLsb' 3 12 = 0x0#12 then .ok (.rquery (fD w) (fS1 w) (fE w)) else .error .nonzeroField
  | 0x20 => if w.extractLsb' 3 12 = 0x0#12 then .ok (.spawn (fD w) (fS1 w) (fE w)) else .error .nonzeroField
  | 0x21 =>
    if w.extractLsb' 3 22 = 0x0#22 ∧ w.extractLsb' 0 1 = 0x1#1 then .ok (.fence)
    else if w.extractLsb' 3 22 = 0x1#22 then .ok (.trig (fE w))
    else if w.extractLsb' 3 22 = 0x2#22 ∧ w.extractLsb' 0 1 = 0x1#1 then .ok (.dwait)
    else if w.extractLsb' 3 22 = 0x3#22 ∧ w.extractLsb' 0 1 = 0x1#1 then .ok (.exit)
    else if w.extractLsb' 3 22 = 0x4#22 ∧ w.extractLsb' 0 1 = 0x1#1 then .ok (.yield)
    else if w.extractLsb' 3 22 = 0x5#22 ∧ w.extractLsb' 0 1 = 0x1#1 then .ok (.eret)
    else .error .unassignedFunction
  | 0x22 => if w.extractLsb' 15 10 = 0x0#10 ∧ w.extractLsb' 0 1 = 0x1#1 then .ok (.trap (fImm w)) else .error .nonzeroField
  | _ => .error .unassignedMajor

/-- The execute-private map (R80 to R82). -/
def decodeExecute (w : BitVec 32) : Except DecodeErr Instr :=
  match (w.extractLsb' 25 6).toNat with
  | 0x00 =>
    if w.extractLsb' 7 3 = 0x0#3 then .ok (.fadd (fD w) (fS1 w) (fS2 w) (w.extractLsb' 5 2) (w.extractLsb' 3 2) (fE w))
    else if w.extractLsb' 7 3 = 0x1#3 then .ok (.fsub (fD w) (fS1 w) (fS2 w) (w.extractLsb' 5 2) (w.extractLsb' 3 2) (fE w))
    else if w.extractLsb' 7 3 = 0x2#3 then .ok (.fmul (fD w) (fS1 w) (fS2 w) (w.extractLsb' 5 2) (w.extractLsb' 3 2) (fE w))
    else if w.extractLsb' 5 5 = 0xC#5 then .ok (.fmin (fD w) (fS1 w) (fS2 w) (w.extractLsb' 3 2) (fE w))
    else if w.extractLsb' 5 5 = 0x10#5 then .ok (.fmax (fD w) (fS1 w) (fS2 w) (w.extractLsb' 3 2) (fE w))
    else if w.extractLsb' 7 3 = 0x5#3 then .ok (.fdiv (fD w) (fS1 w) (fS2 w) (w.extractLsb' 5 2) (w.extractLsb' 3 2) (fE w))
    else if w.extractLsb' 7 8 = 0x6#8 then .ok (.fsqrt (fD w) (fS1 w) (w.extractLsb' 5 2) (w.extractLsb' 3 2) (fE w))
    else .error .unassignedFunction
  | 0x01 => if w.extractLsb' 9 1 = 0x0#1 then .ok (.fma (fD w) (fS1 w) (fS2 w) (w.extractLsb' 8 1) (w.extractLsb' 7 1) (w.extractLsb' 5 2) (w.extractLsb' 3 2) (fE w)) else .error .nonzeroField
  | 0x02 => if w.extractLsb' 9 1 = 0x0#1 ∧ w.extractLsb' 5 2 = 0x0#2 then .ok (.fcmp (fD w) (fS1 w) (fS2 w) (w.extractLsb' 7 2) (w.extractLsb' 3 2) (fE w)) else .error .nonzeroField
  | 0x03 => if w.extractLsb' 13 2 = 0x0#2 ∧ w.extractLsb' 9 1 = 0x0#1 then .ok (.fcvt (fD w) (fS1 w) (w.extractLsb' 10 3) (w.extractLsb' 8 1) (w.extractLsb' 6 2) (w.extractLsb' 3 3) (fE w)) else .error .nonzeroField
  | 0x04 =>
    if w.extractLsb' 4 6 = 0x0#6 then .ok (.div (fD w) (fS1 w) (fS2 w) (w.extractLsb' 3 1) (fE w))
    else if w.extractLsb' 4 6 = 0x1#6 then .ok (.divRem (fD w) (fS1 w) (fS2 w) (w.extractLsb' 3 1) (fE w))
    else .error .unassignedFunction
  | 0x05 =>
    if w.extractLsb' 22 3 = 0x0#3 ∧ w.extractLsb' 3 12 = 0x0#12 then .ok (.xsndScalar (w.extractLsb' 20 2) (fS1 w) (fE w))
    else if w.extractLsb' 22 3 = 0x0#3 ∧ w.extractLsb' 14 1 = 0x0#1 ∧ w.extractLsb' 8 2 = 0x0#2 ∧ w.extractLsb' 3 1 = 0x1#1 then .ok (.xsndPanel (w.extractLsb' 20 2) (fS1 w) (w.extractLsb' 10 4) (w.extractLsb' 4 4) (fE w))
    else .error .unassignedFunction
  | 0x06 => if w.extractLsb' 17 3 = 0x0#3 ∧ w.extractLsb' 3 12 = 0x0#12 then .ok (.xrcv (fD w) (w.extractLsb' 15 2) (fE w)) else .error .nonzeroField
  | 0x08 => .ok (.vadd (fD w) (fS1 w) (fS2 w) (fM w) (fT w) (fE w))
  | 0x09 => .ok (.vsub (fD w) (fS1 w) (fS2 w) (fM w) (fT w) (fE w))
  | 0x0A => .ok (.vmul (fD w) (fS1 w) (fS2 w) (fM w) (fT w) (fE w))
  | 0x0B => .ok (.vfma (fD w) (fS1 w) (fS2 w) (fM w) (fT w) (fE w))
  | 0x0C => if w.extractLsb' 8 2 = 0x0#2 then .ok (.vmin (fD w) (fS1 w) (fS2 w) (fT w) (fE w)) else .error .nonzeroField
  | 0x0D => if w.extractLsb' 8 2 = 0x0#2 then .ok (.vmax (fD w) (fS1 w) (fS2 w) (fT w) (fE w)) else .error .nonzeroField
  | 0x0E =>
    if w.extractLsb' 8 7 = 0x0#7 then .ok (.vabs (fD w) (fS1 w) (fT w) (fE w))
    else if w.extractLsb' 8 7 = 0x4#7 then .ok (.vneg (fD w) (fS1 w) (fT w) (fE w))
    else .error .unassignedFunction
  | 0x0F => if w.extractLsb' 8 2 = 0x0#2 then .ok (.vand (fD w) (fS1 w) (fS2 w) (fT w) (fE w)) else .error .nonzeroField
  | 0x10 => if w.extractLsb' 8 2 = 0x0#2 then .ok (.vor (fD w) (fS1 w) (fS2 w) (fT w) (fE w)) else .error .nonzeroField
  | 0x11 => if w.extractLsb' 8 2 = 0x0#2 then .ok (.vxor (fD w) (fS1 w) (fS2 w) (fT w) (fE w)) else .error .nonzeroField
  | 0x12 => if w.extractLsb' 8 7 = 0x0#7 then .ok (.vnot (fD w) (fS1 w) (fT w) (fE w)) else .error .nonzeroField
  | 0x13 => if w.extractLsb' 8 2 = 0x0#2 then .ok (.vshl (fD w) (fS1 w) (fS2 w) (fT w) (fE w)) else .error .nonzeroField
  | 0x14 => if w.extractLsb' 8 2 = 0x0#2 then .ok (.vshr (fD w) (fS1 w) (fS2 w) (fT w) (fE w)) else .error .nonzeroField
  | 0x15 => if w.extractLsb' 8 2 = 0x0#2 then .ok (.vsra (fD w) (fS1 w) (fS2 w) (fT w) (fE w)) else .error .nonzeroField
  | 0x16 => .ok (.vcmp (fD w) (fS1 w) (fS2 w) (fM w) (fT w) (fE w))
  | 0x17 => if w.extractLsb' 8 2 = 0x0#2 then .ok (.vsel (fD w) (fS1 w) (fS2 w) (fT w) (fE w)) else .error .nonzeroField
  | 0x18 => .ok (.vcvt (fD w) (fS1 w) (fS2 w) (fM w) (fT w) (fE w))
  | 0x19 => .ok (.vcvtSat (fD w) (fS1 w) (fS2 w) (fM w) (fT w) (fE w))
  | 0x1A => if w.extractLsb' 8 2 = 0x0#2 then .ok (.vrshr (fD w) (fS1 w) (fS2 w) (fT w) (fE w)) else .error .nonzeroField
  | 0x1B =>
    if w.extractLsb' 10 5 = 0x0#5 then .ok (.vexp2 (fD w) (fS1 w) (fM w) (fT w) (fE w))
    else if w.extractLsb' 10 5 = 0x1#5 then .ok (.vlog2 (fD w) (fS1 w) (fM w) (fT w) (fE w))
    else if w.extractLsb' 10 5 = 0x2#5 then .ok (.vrcp (fD w) (fS1 w) (fM w) (fT w) (fE w))
    else if w.extractLsb' 10 5 = 0x3#5 then .ok (.vrsq (fD w) (fS1 w) (fM w) (fT w) (fE w))
    else .error .unassignedFunction
  | 0x1C => .ok (.vredr (fD w) (fS1 w) (fS2 w) (fM w) (fT w) (fE w))
  | 0x1D => .ok (.vredc (fD w) (fS1 w) (fS2 w) (fM w) (fT w) (fE w))
  | 0x1E => if w.extractLsb' 8 2 = 0x0#2 then .ok (.vbcr (fD w) (fS1 w) (fS2 w) (fT w) (fE w)) else .error .nonzeroField
  | 0x1F => if w.extractLsb' 8 2 = 0x0#2 then .ok (.vbcc (fD w) (fS1 w) (fS2 w) (fT w) (fE w)) else .error .nonzeroField
  | 0x20 => if w.extractLsb' 8 2 = 0x0#2 then .ok (.vrotr (fD w) (fS1 w) (fS2 w) (fT w) (fE w)) else .error .nonzeroField
  | 0x21 => if w.extractLsb' 8 2 = 0x0#2 then .ok (.vrotc (fD w) (fS1 w) (fS2 w) (fT w) (fE w)) else .error .nonzeroField
  | 0x22 => .ok (.vscan (fD w) (fS1 w) (fS2 w) (fM w) (fT w) (fE w))
  | 0x23 => if w.extractLsb' 8 2 = 0x0#2 then .ok (.vperm (fD w) (fS1 w) (fS2 w) (fT w) (fE w)) else .error .nonzeroField
  | 0x24 => if w.extractLsb' 8 2 = 0x0#2 then .ok (.part (fD w) (fS1 w) (fS2 w) (fT w) (fE w)) else .error .nonzeroField
  | 0x25 => if w.extractLsb' 8 2 = 0x0#2 then .ok (.vtopk (fD w) (fS1 w) (fS2 w) (fT w) (fE w)) else .error .nonzeroField
  | 0x26 => if w.extractLsb' 3 12 = 0x0#12 then .ok (.vmov (fD w) (fS1 w) (fE w)) else .error .nonzeroField
  | 0x27 => .ok (.vmovi (fD w) (w.extractLsb' 3 17) (fE w))
  | 0x28 => if w.extractLsb' 8 2 = 0x0#2 then .ok (.vins (fD w) (fS1 w) (fS2 w) (fT w) (fE w)) else .error .nonzeroField
  | 0x29 => if w.extractLsb' 8 2 = 0x0#2 then .ok (.vext (fD w) (fS1 w) (fS2 w) (fT w) (fE w)) else .error .nonzeroField
  | 0x2A => if w.extractLsb' 7 18 = 0x0#18 then .ok (.wrot (w.extractLsb' 6 1) (w.extractLsb' 3 3) (fE w)) else .error .nonzeroField
  | 0x2B => if w.extractLsb' 20 5 = 0x0#5 ∧ w.extractLsb' 7 8 = 0x0#8 then .ok (.fmtset (fS1 w) (w.extractLsb' 3 4) (fE w)) else .error .nonzeroField
  | 0x2C => if w.extractLsb' 6 19 = 0x0#19 then .ok (.fmtsel (w.extractLsb' 4 2) (w.extractLsb' 3 1) (fE w)) else .error .nonzeroField
  | _ => .error .unassignedMajor

/-- The opcode space of a word, by H and G (R60). -/
def decodeSpace (w : BitVec 32) : Except DecodeErr Instr :=
  match (w.extractLsb' 31 1).toNat, (w.extractLsb' 1 2).toNat with
  | 0, 0 => decodeShared .both w
  | 0, 1 => decodeShared .acc w
  | 0, 2 => decodeShared .exe w
  | 1, 0 => .error .bothPrivate
  | 1, 1 => decodeAccess w
  | 1, 2 => decodeExecute w
  | _, _ => .error .tagThree

/-- Only what the row admits (R72). -/
def checked (i : Instr) : Except DecodeErr Instr :=
  if i.WellFormed then .ok i else .error .illFormed

/-- A Rivan word (R60 to R82). -/
def decodeRivan (w : BitVec 32) : Except DecodeErr Instr :=
  match decodeSpace w with
  | .ok i => checked i
  | .error r => .error r

/-- A word of the Rivan supervisor extension (R265). -/
def decodeSupervisor (w : BitVec 32) : Except DecodeErr Instr :=
  if w.extractLsb' 0 7 = 0x0B#7 ∧ w.extractLsb' 25 7 = 0#7 then
    match (w.extractLsb' 12 3).toNat with
    | 0 => .ok (.rfch (w.extractLsb' 20 5) (w.extractLsb' 15 5) (w.extractLsb' 7 5))
    | 1 => .ok (.xfld (w.extractLsb' 20 5) (w.extractLsb' 15 5) (w.extractLsb' 7 5))
    | 2 => .ok (.sgwt (w.extractLsb' 20 5) (w.extractLsb' 15 5) (w.extractLsb' 7 5))
    | 3 => .ok (.disp (w.extractLsb' 20 5) (w.extractLsb' 15 5) (w.extractLsb' 7 5))
    | _ => .error .notSupervisor
  else .error .notSupervisor

/-- The 32-bit word in four bytes, lowest address first (R1). -/
def wordOfBytes (b0 b1 b2 b3 : Byte) : BitVec 32 := b3 ++ b2 ++ b1 ++ b0

/-- The four bytes of a word, lowest address first (R1). -/
def bytesOfWord (w : BitVec 32) : List Byte :=
  [w.extractLsb' 0 8, w.extractLsb' 8 8, w.extractLsb' 16 8, w.extractLsb' 24 8]

/-- A Rivan instruction from the bytes of a text, with the bytes after it. -/
def decode : List Byte → Except DecodeErr (Instr × List Byte)
  | b0 :: b1 :: b2 :: b3 :: rest =>
    match decodeRivan (wordOfBytes b0 b1 b2 b3) with
    | .ok i => .ok (i, rest)
    | .error r => .error r
  | _ => .error .short

/-- A supervisor extension instruction from the bytes of supervisor text. -/
def decodeSup : List Byte → Except DecodeErr (Instr × List Byte)
  | b0 :: b1 :: b2 :: b3 :: rest =>
    match decodeSupervisor (wordOfBytes b0 b1 b2 b3) with
    | .ok i => .ok (i, rest)
    | .error r => .error r
  | _ => .error .short

/-- The word of an instruction, from the same tables (R59 to R82, R265); an operation or event has none. -/
def encode : Instr → Option (BitVec 32)
  | .nop g e => some (0x0#29 ++ g.bits ++ e)
  | .add d a b g e => some (0x1#7 ++ d ++ a ++ b ++ 0x0#7 ++ g.bits ++ e)
  | .sub d a b g e => some (0x1#7 ++ d ++ a ++ b ++ 0x1#7 ++ g.bits ++ e)
  | .and d a b g e => some (0x1#7 ++ d ++ a ++ b ++ 0x2#7 ++ g.bits ++ e)
  | .or d a b g e => some (0x1#7 ++ d ++ a ++ b ++ 0x3#7 ++ g.bits ++ e)
  | .xor d a b g e => some (0x1#7 ++ d ++ a ++ b ++ 0x4#7 ++ g.bits ++ e)
  | .shl d a b g e => some (0x1#7 ++ d ++ a ++ b ++ 0x5#7 ++ g.bits ++ e)
  | .shr d a b g e => some (0x1#7 ++ d ++ a ++ b ++ 0x6#7 ++ g.bits ++ e)
  | .sra d a b g e => some (0x1#7 ++ d ++ a ++ b ++ 0x7#7 ++ g.bits ++ e)
  | .slt d a b g e => some (0x1#7 ++ d ++ a ++ b ++ 0x8#7 ++ g.bits ++ e)
  | .sltu d a b g e => some (0x1#7 ++ d ++ a ++ b ++ 0x9#7 ++ g.bits ++ e)
  | .minS64 d a b g e => some (0x1#7 ++ d ++ a ++ b ++ 0xA#7 ++ g.bits ++ e)
  | .minZ64 d a b g e => some (0x1#7 ++ d ++ a ++ b ++ 0xB#7 ++ g.bits ++ e)
  | .maxS64 d a b g e => some (0x1#7 ++ d ++ a ++ b ++ 0xC#7 ++ g.bits ++ e)
  | .maxZ64 d a b g e => some (0x1#7 ++ d ++ a ++ b ++ 0xD#7 ++ g.bits ++ e)
  | .mul d a b g e => some (0x1#7 ++ d ++ a ++ b ++ 0x10#7 ++ g.bits ++ e)
  | .mulhS64 d a b g e => some (0x1#7 ++ d ++ a ++ b ++ 0x11#7 ++ g.bits ++ e)
  | .mulhZ64 d a b g e => some (0x1#7 ++ d ++ a ++ b ++ 0x12#7 ++ g.bits ++ e)
  | .madd d a b g e => some (0x1#7 ++ d ++ a ++ b ++ 0x13#7 ++ g.bits ++ e)
  | .addi d a i g e => some (0x2#7 ++ d ++ a ++ i ++ g.bits ++ e)
  | .andi d a i g e => some (0x3#7 ++ d ++ a ++ i ++ g.bits ++ e)
  | .ori d a i g e => some (0x4#7 ++ d ++ a ++ i ++ g.bits ++ e)
  | .xori d a i g e => some (0x5#7 ++ d ++ a ++ i ++ g.bits ++ e)
  | .shlImm d a c g e => some (0x6#7 ++ d ++ a ++ 0x0#6 ++ c ++ g.bits ++ e)
  | .shrImm d a c g e => some (0x7#7 ++ d ++ a ++ 0x0#6 ++ c ++ g.bits ++ e)
  | .sraImm d a c g e => some (0x8#7 ++ d ++ a ++ 0x0#6 ++ c ++ g.bits ++ e)
  | .bfxZ64 d a w l g e => some (0x9#7 ++ d ++ a ++ w ++ l ++ g.bits ++ e)
  | .bfxS64 d a w l g e => some (0xA#7 ++ d ++ a ++ w ++ l ++ g.bits ++ e)
  | .bfi d a w l g e => some (0xB#7 ++ d ++ a ++ w ++ l ++ g.bits ++ e)
  | .lui d i g e => some (0xC#7 ++ d ++ i ++ g.bits ++ e)
  | .limm x g => some (0xD#7 ++ x ++ g.bits ++ 0x0#1)
  | .csrr d c g e => some (0xE#7 ++ d ++ 0x0#5 ++ c ++ g.bits ++ e)
  | .csrw a c g e => some (0x1E0#12 ++ a ++ c ++ g.bits ++ e)
  | .br o g e => some (0x10#7 ++ o ++ g.bits ++ e)
  | .call o g e => some (0x11#7 ++ o ++ g.bits ++ e)
  | .ret g e => some (0x4800000#29 ++ g.bits ++ e)
  | .beq a b o g e => some (0x13#7 ++ a ++ b ++ o ++ g.bits ++ e)
  | .bne a b o g e => some (0x14#7 ++ a ++ b ++ o ++ g.bits ++ e)
  | .blt a b o g e => some (0x15#7 ++ a ++ b ++ o ++ g.bits ++ e)
  | .bge a b o g e => some (0x16#7 ++ a ++ b ++ o ++ g.bits ++ e)
  | .bltu a b o g e => some (0x17#7 ++ a ++ b ++ o ++ g.bits ++ e)
  | .bgeu a b o g e => some (0x18#7 ++ a ++ b ++ o ++ g.bits ++ e)
  | .loop l a n g e => some (0xC8#10 ++ l ++ a ++ n ++ g.bits ++ e)
  | .brkl l g e => some (0xD0#10 ++ l ++ 0x0#17 ++ g.bits ++ e)
  | .ld d a o t e => some (0x40#7 ++ d ++ a ++ o ++ t ++ 0x1#2 ++ e)
  | .ldAcq d a o t e => some (0x41#7 ++ d ++ a ++ o ++ t ++ 0x1#2 ++ e)
  | .st d a o t e => some (0x42#7 ++ d ++ a ++ o ++ 0x0#1 ++ t ++ 0x1#2 ++ e)
  | .stRel d a o t e => some (0x43#7 ++ d ++ a ++ o ++ 0x0#1 ++ t ++ 0x1#2 ++ e)
  | .amo d a b u z p e => some (0x44#7 ++ d ++ a ++ b ++ 0x0#2 ++ u ++ z ++ p ++ 0x1#2 ++ e)
  | .cas d a b z e => some (0x45#7 ++ d ++ a ++ b ++ 0x0#6 ++ z ++ 0x1#2 ++ e)
  | .pld q a r e => some (0x230#10 ++ q ++ a ++ 0x0#7 ++ r ++ 0x1#2 ++ e)
  | .pst q a r e => some (0x238#10 ++ q ++ a ++ 0x0#7 ++ r ++ 0x1#2 ++ e)
  | .gath q a j r s e => some (0x240#10 ++ q ++ a ++ 0x0#3 ++ j ++ r ++ s ++ 0x1#2 ++ e)
  | .scat q a j r s e => some (0x248#10 ++ q ++ a ++ 0x0#3 ++ j ++ r ++ s ++ 0x1#2 ++ e)
  | .qsnd q a e => some (0x250#10 ++ q ++ a ++ 0x1#14 ++ e)
  | .qrcv d q e => some (0x4B#7 ++ d ++ 0x0#3 ++ q ++ 0x1#14 ++ e)
  | .copy d a e => some (0x4C#7 ++ d ++ a ++ 0x1#14 ++ e)
  | .dcmp d a e => some (0x4D#7 ++ d ++ a ++ 0x1#14 ++ e)
  | .fill d a e => some (0x4E#7 ++ d ++ a ++ 0x1#14 ++ e)
  | .csum d a e => some (0x4F#7 ++ d ++ a ++ 0x1#14 ++ e)
  | .seminc a s e => some (0xA00#12 ++ a ++ 0x0#6 ++ s ++ 0x1#2 ++ e)
  | .semset a s e => some (0xA20#12 ++ a ++ 0x0#6 ++ s ++ 0x1#2 ++ e)
  | .semwait a s e => some (0xA40#12 ++ a ++ 0x0#6 ++ s ++ 0x1#2 ++ e)
  | .send d a b l e => some (0x53#7 ++ d ++ a ++ b ++ 0x0#1 ++ l ++ 0x1#2 ++ e)
  | .mbreg d a b m e => some (0x54#7 ++ d ++ a ++ b ++ 0x0#3 ++ m ++ 0x1#2 ++ e)
  | .mma f a b k p e => some (0x55#7 ++ f ++ a ++ b ++ k ++ p ++ 0x1#2 ++ e)
  | .mmaSat f a b k p e => some (0x56#7 ++ f ++ a ++ b ++ k ++ p ++ 0x1#2 ++ e)
  | .mmas f a b k p e => some (0x57#7 ++ f ++ a ++ b ++ k ++ p ++ 0x1#2 ++ e)
  | .mzero p e => some (0x5800000#27 ++ p ++ 0x1#2 ++ e)
  | .mld a p e => some (0xB20#12 ++ a ++ 0x0#10 ++ p ++ 0x1#2 ++ e)
  | .mst d a b k p e => some (0x5A#7 ++ d ++ a ++ b ++ k ++ p ++ 0x1#2 ++ e)
  | .mstSat d a b k p e => some (0x5B#7 ++ d ++ a ++ b ++ k ++ p ++ 0x1#2 ++ e)
  | .coll d a e => some (0x5C#7 ++ d ++ a ++ 0x1#14 ++ e)
  | .reside d a b e => some (0x5D#7 ++ d ++ a ++ b ++ 0x1#9 ++ e)
  | .evict d a e => some (0x5E#7 ++ d ++ a ++ 0x1#14 ++ e)
  | .rquery d a e => some (0x5F#7 ++ d ++ a ++ 0x1#14 ++ e)
  | .spawn d a e => some (0x60#7 ++ d ++ a ++ 0x1#14 ++ e)
  | .fence => some (0xC2000003#32)
  | .trig e => some (0x61000005#31 ++ e)
  | .dwait => some (0xC2000013#32)
  | .exit => some (0xC200001B#32)
  | .yield => some (0xC2000023#32)
  | .eret => some (0xC200002B#32)
  | .trap c => some (0x18800#17 ++ c ++ 0x3#3)
  | .fadd d a b r t e => some (0x40#7 ++ d ++ a ++ b ++ 0x0#3 ++ r ++ t ++ 0x2#2 ++ e)
  | .fsub d a b r t e => some (0x40#7 ++ d ++ a ++ b ++ 0x1#3 ++ r ++ t ++ 0x2#2 ++ e)
  | .fmul d a b r t e => some (0x40#7 ++ d ++ a ++ b ++ 0x2#3 ++ r ++ t ++ 0x2#2 ++ e)
  | .fmin d a b t e => some (0x40#7 ++ d ++ a ++ b ++ 0xC#5 ++ t ++ 0x2#2 ++ e)
  | .fmax d a b t e => some (0x40#7 ++ d ++ a ++ b ++ 0x10#5 ++ t ++ 0x2#2 ++ e)
  | .fdiv d a b r t e => some (0x40#7 ++ d ++ a ++ b ++ 0x5#3 ++ r ++ t ++ 0x2#2 ++ e)
  | .fsqrt d a r t e => some (0x40#7 ++ d ++ a ++ 0x6#8 ++ r ++ t ++ 0x2#2 ++ e)
  | .fma d a b c n r t e => some (0x41#7 ++ d ++ a ++ b ++ 0x0#1 ++ c ++ n ++ r ++ t ++ 0x2#2 ++ e)
  | .fcmp d a b c t e => some (0x42#7 ++ d ++ a ++ b ++ 0x0#1 ++ c ++ 0x0#2 ++ t ++ 0x2#2 ++ e)
  | .fcvt d a s u r k e => some (0x43#7 ++ d ++ a ++ 0x0#2 ++ s ++ 0x0#1 ++ u ++ r ++ k ++ 0x2#2 ++ e)
  | .div d a b s e => some (0x44#7 ++ d ++ a ++ b ++ 0x0#6 ++ s ++ 0x2#2 ++ e)
  | .divRem d a b s e => some (0x44#7 ++ d ++ a ++ b ++ 0x1#6 ++ s ++ 0x2#2 ++ e)
  | .xsndScalar q a e => some (0x228#10 ++ q ++ a ++ 0x2#14 ++ e)
  | .xsndPanel q p r f e => some (0x228#10 ++ q ++ p ++ 0x0#1 ++ r ++ 0x0#2 ++ f ++ 0x6#3 ++ e)
  | .xrcv d q e => some (0x46#7 ++ d ++ 0x0#3 ++ q ++ 0x2#14 ++ e)
  | .vadd d a b m t e => some (0x48#7 ++ d ++ a ++ b ++ m ++ t ++ 0x2#2 ++ e)
  | .vsub d a b m t e => some (0x49#7 ++ d ++ a ++ b ++ m ++ t ++ 0x2#2 ++ e)
  | .vmul d a b m t e => some (0x4A#7 ++ d ++ a ++ b ++ m ++ t ++ 0x2#2 ++ e)
  | .vfma d a b m t e => some (0x4B#7 ++ d ++ a ++ b ++ m ++ t ++ 0x2#2 ++ e)
  | .vmin d a b t e => some (0x4C#7 ++ d ++ a ++ b ++ 0x0#2 ++ t ++ 0x2#2 ++ e)
  | .vmax d a b t e => some (0x4D#7 ++ d ++ a ++ b ++ 0x0#2 ++ t ++ 0x2#2 ++ e)
  | .vabs d a t e => some (0x4E#7 ++ d ++ a ++ 0x0#7 ++ t ++ 0x2#2 ++ e)
  | .vneg d a t e => some (0x4E#7 ++ d ++ a ++ 0x4#7 ++ t ++ 0x2#2 ++ e)
  | .vand d a b t e => some (0x4F#7 ++ d ++ a ++ b ++ 0x0#2 ++ t ++ 0x2#2 ++ e)
  | .vor d a b t e => some (0x50#7 ++ d ++ a ++ b ++ 0x0#2 ++ t ++ 0x2#2 ++ e)
  | .vxor d a b t e => some (0x51#7 ++ d ++ a ++ b ++ 0x0#2 ++ t ++ 0x2#2 ++ e)
  | .vnot d a t e => some (0x52#7 ++ d ++ a ++ 0x0#7 ++ t ++ 0x2#2 ++ e)
  | .vshl d a b t e => some (0x53#7 ++ d ++ a ++ b ++ 0x0#2 ++ t ++ 0x2#2 ++ e)
  | .vshr d a b t e => some (0x54#7 ++ d ++ a ++ b ++ 0x0#2 ++ t ++ 0x2#2 ++ e)
  | .vsra d a b t e => some (0x55#7 ++ d ++ a ++ b ++ 0x0#2 ++ t ++ 0x2#2 ++ e)
  | .vcmp d a b c t e => some (0x56#7 ++ d ++ a ++ b ++ c ++ t ++ 0x2#2 ++ e)
  | .vsel d a b t e => some (0x57#7 ++ d ++ a ++ b ++ 0x0#2 ++ t ++ 0x2#2 ++ e)
  | .vcvt d a s m t e => some (0x58#7 ++ d ++ a ++ s ++ m ++ t ++ 0x2#2 ++ e)
  | .vcvtSat d a s m t e => some (0x59#7 ++ d ++ a ++ s ++ m ++ t ++ 0x2#2 ++ e)
  | .vrshr d a b t e => some (0x5A#7 ++ d ++ a ++ b ++ 0x0#2 ++ t ++ 0x2#2 ++ e)
  | .vexp2 d a m t e => some (0x5B#7 ++ d ++ a ++ 0x0#5 ++ m ++ t ++ 0x2#2 ++ e)
  | .vlog2 d a m t e => some (0x5B#7 ++ d ++ a ++ 0x1#5 ++ m ++ t ++ 0x2#2 ++ e)
  | .vrcp d a m t e => some (0x5B#7 ++ d ++ a ++ 0x2#5 ++ m ++ t ++ 0x2#2 ++ e)
  | .vrsq d a m t e => some (0x5B#7 ++ d ++ a ++ 0x3#5 ++ m ++ t ++ 0x2#2 ++ e)
  | .vredr d a o m t e => some (0x5C#7 ++ d ++ a ++ o ++ m ++ t ++ 0x2#2 ++ e)
  | .vredc d a o m t e => some (0x5D#7 ++ d ++ a ++ o ++ m ++ t ++ 0x2#2 ++ e)
  | .vbcr d a b t e => some (0x5E#7 ++ d ++ a ++ b ++ 0x0#2 ++ t ++ 0x2#2 ++ e)
  | .vbcc d a b t e => some (0x5F#7 ++ d ++ a ++ b ++ 0x0#2 ++ t ++ 0x2#2 ++ e)
  | .vrotr d a b t e => some (0x60#7 ++ d ++ a ++ b ++ 0x0#2 ++ t ++ 0x2#2 ++ e)
  | .vrotc d a b t e => some (0x61#7 ++ d ++ a ++ b ++ 0x0#2 ++ t ++ 0x2#2 ++ e)
  | .vscan d a o m t e => some (0x62#7 ++ d ++ a ++ o ++ m ++ t ++ 0x2#2 ++ e)
  | .vperm d a b t e => some (0x63#7 ++ d ++ a ++ b ++ 0x0#2 ++ t ++ 0x2#2 ++ e)
  | .part d a b t e => some (0x64#7 ++ d ++ a ++ b ++ 0x0#2 ++ t ++ 0x2#2 ++ e)
  | .vtopk d a b t e => some (0x65#7 ++ d ++ a ++ b ++ 0x0#2 ++ t ++ 0x2#2 ++ e)
  | .vmov d a e => some (0x66#7 ++ d ++ a ++ 0x2#14 ++ e)
  | .vmovi d i e => some (0x67#7 ++ d ++ i ++ 0x2#2 ++ e)
  | .vins d a b t e => some (0x68#7 ++ d ++ a ++ b ++ 0x0#2 ++ t ++ 0x2#2 ++ e)
  | .vext d a b t e => some (0x69#7 ++ d ++ a ++ b ++ 0x0#2 ++ t ++ 0x2#2 ++ e)
  | .wrot n b e => some (0x1A80000#25 ++ n ++ b ++ 0x2#2 ++ e)
  | .fmtset a k e => some (0xD60#12 ++ a ++ 0x0#8 ++ k ++ 0x2#2 ++ e)
  | .fmtsel l n e => some (0x3600000#26 ++ l ++ n ++ 0x2#2 ++ e)
  | .rfch b a d => some (0x0#7 ++ b ++ a ++ 0x0#3 ++ d ++ 0xB#7)
  | .xfld b a d => some (0x0#7 ++ b ++ a ++ 0x1#3 ++ d ++ 0xB#7)
  | .sgwt b a d => some (0x0#7 ++ b ++ a ++ 0x2#3 ++ d ++ 0xB#7)
  | .disp b a d => some (0x0#7 ++ b ++ a ++ 0x3#3 ++ d ++ 0xB#7)
  | _ => none

/-- The instruction the decoders read from a row's word, numbered as the opcode table numbers it: a Rivan word, or a
word of the supervisor extension (their encodings are disjoint: bit 3 of a supervisor word is 1, and major 0 admits only 0 there). -/
def decodeTableWord (nbits w : Nat) : Option Instr :=
  if nbits ≤ 32 then
    match decode (bytesOfWord (BitVec.ofNat 32 w)) with
    | .ok (i, _) => some i
    | .error _ =>
      match decodeSup (bytesOfWord (BitVec.ofNat 32 w)) with
      | .ok (i, _) => some i
      | .error _ => none
  else none

end Sys2Proof
end

