-- ==== Sys2Proof/Machine/Flags.lean ====
section
/-! DEFINITION. Sys2Proof/Machine/Flags.lean: the status flags of FPSTAT (spec/04_number_formats.md R112, R113) and
every flag computation: each helper of R120 answers its result with the set of flags it raises. -/

namespace Sys2Proof.Machine

/-- A set of flags in the places of FPSTAT: NX bit 0, UF 1, OF 2, DZ 3, NV 4, IS 5 (R112). -/
abbrev Flags := BitVec 6

def flagNX : Flags := 1#6
def flagUF : Flags := 2#6
def flagOF : Flags := 4#6
def flagDZ : Flags := 8#6
def flagNV : Flags := 16#6
def flagIS : Flags := 32#6

/-- `f` when `c` holds, and no flag otherwise. -/
def raiseIf (c : Bool) (f : Flags) : Flags := if c then f else 0#6

/-- A rounding mode (R108). -/
inductive Rnd where
  | rne
  | rtz
  | rup
  | rdn
  deriving DecidableEq, Repr, Inhabited

/-- The codes 00, 01, 10 and 11 (R108). -/
def Rnd.ofBits (m : BitVec 2) : Rnd :=
  match m.toNat with
  | 0 => .rne
  | 1 => .rtz
  | 2 => .rup
  | _ => .rdn

/-- A value of R120: NaN, an infinity, a zero with its sign, or the number m × 2^e, m not 0, with its sign. -/
inductive Val where
  | nan
  | inf (neg : Bool)
  | zero (neg : Bool)
  | fin (neg : Bool) (m : Nat) (e : Int)
  deriving DecidableEq, Repr, Inhabited

/-- Floor of the base 2 logarithm of m × 2^e. -/
def expOf (m : Nat) (e : Int) : Int := e + (Nat.log2 m : Nat)

/-- Whether m1 × 2^e1 < m2 × 2^e2. -/
def magLt (m1 : Nat) (e1 : Int) (m2 : Nat) (e2 : Int) : Bool :=
  if e1 ≤ e2 then m1 < m2 * 2 ^ (e2 - e1).toNat else m1 * 2 ^ (e1 - e2).toNat < m2

/-- Whether the two magnitudes are equal. -/
def magEq (m1 : Nat) (e1 : Int) (m2 : Nat) (e2 : Int) : Bool :=
  if e1 ≤ e2 then m1 == m2 * 2 ^ (e2 - e1).toNat else m1 * 2 ^ (e1 - e2).toNat == m2

/-- The integer that R109 gives for the magnitude m × 2^(-s) on the grid of integers, with the sign `neg` of the value,
and whether it differs from that magnitude. -/
def roundShift (neg : Bool) (m : Nat) (s : Nat) (mode : Rnd) : Nat × Bool :=
  let lo := m >>> s
  let rem := m - lo <<< s
  if rem == 0 then (lo, false)
  else
    let up := match mode with
      | .rtz => false
      | .rup => !neg
      | .rdn => neg
      | .rne => 2 * rem > 1 <<< s || (2 * rem == 1 <<< s && lo % 2 == 1)
    (if up then lo + 1 else lo, true)

/-- The magnitude m × 2^e rounded by R109 to a multiple of 2^q: the multiple, and whether it is inexact. -/
def roundGrid (neg : Bool) (m : Nat) (e q : Int) (mode : Rnd) : Nat × Bool :=
  if q ≤ e then (m <<< (e - q).toNat, false) else roundShift neg m (q - e).toNat mode

/-- The smallest normal exponent (R100). -/
def BinFmt.emin (f : BinFmt) : Int := 1 - (f.bias : Int)

/-- The largest finite magnitude as a significand and a power of two (R100). -/
def BinFmt.maxFinite (f : BinFmt) : Nat × Int :=
  if f.ieee then (2 ^ (f.wf + 1) - 1, ((2 ^ f.eb - 2 : Nat) : Int) - f.bias - f.wf)
  else if f.topNan then (2 ^ (f.wf + 1) - 2, ((2 ^ f.eb - 1 : Nat) : Int) - f.bias - f.wf)
  else (2 ^ (f.wf + 1) - 1, ((2 ^ f.eb - 1 : Nat) : Int) - f.bias - f.wf)

/-! MK8 (R102 to R104). -/

/-- The exponent e of a non-zero MK8 body with its marker at `p` (R102). -/
def mk8Exp (p field : Nat) : Int :=
  match p with
  | 6 => (field : Int) - 4
  | 5 => if field < 4 then 4 + (field : Int) else -5 - ((field - 4 : Nat) : Int)
  | 4 => if field < 2 then 8 + (field : Int) else -9 - ((field - 2 : Nat) : Int)
  | 3 => if field < 2 then 10 + (field : Int) else -11 - ((field - 2 : Nat) : Int)
  | 2 => if field = 0 then 12 else -13
  | 1 => if field = 0 then 13 else -14
  | _ => -15

/-- The width of the exponent field with the marker at `p` (R102). -/
def mk8We (p : Nat) : Nat :=
  match p with
  | 6 => 3
  | 5 => 3
  | 4 => 2
  | 3 => 2
  | 2 => 1
  | 1 => 1
  | _ => 0

/-- A non-zero body as a significand, a power of two and the width of its fraction (R102). -/
def mk8Body (b : Nat) : Nat × Int :=
  let p := Nat.log2 b
  let we := mk8We p
  let wf := p - we
  let low := b - 2 ^ p
  (2 ^ wf + low % 2 ^ wf, mk8Exp p (low / 2 ^ wf) - wf)

/-- The bodies in ascending magnitude (R104). -/
def mk8Order : List Nat :=
  [0x01, 0x03, 0x06, 0x07, 0x0E, 0x0F, 0x0C, 0x0D, 0x1C, 0x1D, 0x1E, 0x1F, 0x18, 0x19, 0x1A, 0x1B] ++
  [0x3C, 0x3D, 0x3E, 0x3F, 0x38, 0x39, 0x3A, 0x3B, 0x34, 0x35, 0x36, 0x37, 0x30, 0x31, 0x32, 0x33] ++
  ((List.range 64).map (· + 0x40)) ++ ((List.range 16).map (· + 0x20)) ++ ((List.range 8).map (· + 0x10)) ++
  [0x08, 0x09, 0x0A, 0x0B, 0x04, 0x05, 0x02]

/-- The greatest body of `l` (ascending) whose magnitude is at most m × 2^e, or `acc`; and the next body. -/
def mk8Bracket (m : Nat) (e : Int) : List Nat → Nat → Nat × Nat
  | [], acc => (acc, acc)
  | b :: l, acc =>
    let (bm, be) := mk8Body b
    if magLt m e bm be then (acc, b) else mk8Bracket m e l b

/-- The significand of a body, 0 for the zero body: the k of R109. -/
def mk8K (b : Nat) : Nat := if b = 0 then 0 else (mk8Body b).1

/-- The body nearest to m × 2^e (at most 8,192) by R109, and whether it is inexact. -/
def mk8Round (neg : Bool) (m : Nat) (e : Int) (mode : Rnd) : Nat × Bool :=
  let (lo, hi) := mk8Bracket m e mk8Order 0
  let exact := lo ≠ 0 && (let (bm, be) := mk8Body lo; magEq bm be m e)
  if exact then (lo, false)
  else
    let (lm, le) := if lo = 0 then (0, (0 : Int)) else mk8Body lo
    let (hm, he) := mk8Body hi
    -- twice the value against lo + hi, on a common grid
    let q := min (min le he) e
    let v2 := 2 * (m * 2 ^ (e - q).toNat)
    let sum := lm * 2 ^ (le - q).toNat + hm * 2 ^ (he - q).toNat
    let up := match mode with
      | .rtz => false
      | .rup => !neg
      | .rdn => neg
      | .rne => v2 > sum || (v2 == sum && !(mk8K lo % 2 == 0 && mk8K hi % 2 == 1))
    (if up then hi else lo, true)

/-! Decode, RoundTo and Encode (R120). -/

/-- Two's complement reading of `bits` in a signed or unsigned format of width `w` (R105). -/
def intOf (signed : Bool) (w bits : Nat) : Int :=
  let b := bits % 2 ^ w
  if signed && 2 ^ w ≤ 2 * b then (b : Int) - 2 ^ w else b

/-- The exact value of an integer, as a Val. -/
def valOfInt (n : Int) : Val :=
  if n = 0 then .zero false else .fin (n < 0) n.natAbs 0

/-- Decode of a binary format (R100). -/
def decodeBin (f : BinFmt) (bits : Nat) : Val :=
  let frac := bits % 2 ^ f.wf
  let ex := bits / 2 ^ f.wf % 2 ^ f.eb
  let neg := bits / 2 ^ (f.wf + f.eb) % 2 == 1
  if f.ieee && ex == 2 ^ f.eb - 1 then (if frac == 0 then .inf neg else .nan)
  else if f.topNan && ex == 2 ^ f.eb - 1 && frac == 2 ^ f.wf - 1 then .nan
  else if ex == 0 then
    if frac == 0 then .zero neg else .fin neg frac (f.emin - f.wf)
  else .fin neg (2 ^ f.wf + frac) ((ex : Int) - f.bias - f.wf)

/-- Decode (R120): the value of an element's bits. -/
def decodeVal (f : Fmt) (bits : Nat) : Val :=
  match f with
  | .bin f => decodeBin f bits
  | .mk8 =>
    let b := bits % 256
    if b == 0 then .zero false
    else if b == 128 then .nan
    else let (m, e) := mk8Body (b % 128); .fin (b ≥ 128) m e
  | .int s w => valOfInt (intOf s w bits)

/-- The code of a value that the binary format represents (R100); the canonical NaN for NaN (R101). -/
def codeBin (f : BinFmt) (v : Val) : Nat :=
  let sign (n : Bool) : Nat := if n then 2 ^ (f.wf + f.eb) else 0
  match v with
  | .nan =>
    if f.ieee then (2 ^ f.eb - 1) * 2 ^ f.wf + 2 ^ (f.wf - 1)
    else if f.topNan then 2 ^ (f.wf + f.eb) - 1 else 0
  | .inf n => sign n + (2 ^ f.eb - 1) * 2 ^ f.wf
  | .zero n => sign n
  | .fin n m e =>
    let ex := expOf m e
    if f.emin ≤ ex then
      let l := Nat.log2 m
      let fr := if l ≤ f.wf then m <<< (f.wf - l) else m >>> (l - f.wf)
      sign n + (ex + f.bias).toNat * 2 ^ f.wf + (fr - 2 ^ f.wf)
    else
      let q := f.emin - f.wf
      sign n + (if q ≤ e then m <<< (e - q).toNat else m >>> (q - e).toNat)

/-- The body of MK8 that represents the magnitude m × 2^e. -/
def mk8CodeOf (m : Nat) (e : Int) : Nat := (mk8Bracket m e mk8Order 0).1

/-- The code of a value that the format represents. -/
def codeOf (f : Fmt) (v : Val) : Nat :=
  match f with
  | .bin f => codeBin f v
  | .mk8 =>
    match v with
    | .nan => 128
    | .inf n => if n then 0x82 else 0x02
    | .zero _ => 0
    | .fin n m e => (if n then 128 else 0) + mk8CodeOf m e
  | .int _ w =>
    match v with
    | .fin n m e =>
      let k : Int := (if 0 ≤ e then m <<< e.toNat else m >>> (-e).toNat : Nat)
      ((if n then -k else k) % (2 ^ w : Int)).toNat
    | _ => 0

/-- The result of an overflow, and of an infinite operand (R110). -/
def overflowVal (f : BinFmt) (neg : Bool) (mode : Rnd) (sat : Bool) : Val :=
  let largest : Val := .fin neg f.maxFinite.1 f.maxFinite.2
  let beyond : Val := if f.ieee then .inf neg else .nan
  if sat || (!f.ieee && !f.topNan) then largest
  else match mode with
    | .rne => beyond
    | .rtz => largest
    | .rup => if neg then largest else beyond
    | .rdn => if neg then beyond else largest

/-- The largest finite MK8 magnitude, 8,192 (R103). -/
def mk8Max (neg : Bool) : Val := .fin neg 1 13

/-- RoundTo of R120 for a binary format, with the underflow and zero rules of R111. -/
def roundToBin (f : BinFmt) (v : Val) (mode : Rnd) (sat : Bool) : Val × Flags :=
  match v with
  | .nan => if f.ieee || f.topNan then (.nan, 0#6) else (.zero false, flagNV)
  | .inf n => (overflowVal f n mode sat, 0#6)
  | .zero n => (.zero n, 0#6)
  | .fin n m e =>
    let (mm, me) := f.maxFinite
    if (!f.ieee && !f.topNan) && magLt mm me m e then (.fin n mm me, flagOF ||| flagNX)
    else
      let q := max (expOf m e) f.emin - f.wf
      let (k, inexact) := roundGrid n m e q mode
      if k ≠ 0 && magLt mm me k q then (overflowVal f n mode sat, flagOF ||| flagNX)
      else
        let (k', _) := roundGrid n m e (expOf m e - f.wf) mode
        let tiny := magLt k' (expOf m e - f.wf) 1 f.emin
        ((if k = 0 then .zero n else .fin n k q), raiseIf inexact flagNX ||| raiseIf (inexact && tiny) flagUF)

/-- RoundTo of R120 for MK8 (R111). -/
def roundToMk8 (v : Val) (mode : Rnd) : Val × Flags :=
  match v with
  | .nan => (.nan, 0#6)
  | .inf n => (mk8Max n, 0#6)
  | .zero _ => (.zero false, 0#6)
  | .fin n m e =>
    if magLt 1 13 m e then (mk8Max n, flagOF ||| flagNX)
    else
      let (b, inexact) := mk8Round n m e mode
      let w : Val := if b = 0 then .zero false else (let (bm, be) := mk8Body b; .fin n bm be)
      (w, raiseIf inexact flagNX ||| raiseIf (inexact && magLt m e 1 (-15)) flagUF)

/-- Limits of an integer format (R105). -/
def intMin (s : Bool) (w : Nat) : Int := if s then -(2 ^ (w - 1) : Int) else 0
def intMax (s : Bool) (w : Nat) : Int := if s then (2 ^ (w - 1) : Int) - 1 else (2 ^ w : Int) - 1

/-- The integer n modulo 2^w, read in the format. -/
def intWrap (s : Bool) (w : Nat) (n : Int) : Int := intOf s w (n % (2 ^ w : Int)).toNat

/-- ToInt (R115, R120). -/
def toInt (s : Bool) (w : Nat) (v : Val) (mode : Rnd) (sat : Bool) : Int × Flags :=
  match v with
  | .nan => (0, flagNV)
  | .inf n => ((if sat then (if n then intMin s w else intMax s w) else 0), flagNV)
  | .zero _ => (0, 0#6)
  | .fin n m e =>
    let (k, inexact) := roundGrid n m e 0 mode
    let i : Int := if n then -(k : Int) else k
    if intMin s w ≤ i && i ≤ intMax s w then (i, raiseIf inexact flagNX)
    else ((if sat then (if n then intMin s w else intMax s w) else intWrap s w i), flagNV)

/-- IntNarrow (R116, R120). -/
def intNarrow (s : Bool) (w : Nat) (n : Int) (sat : Bool) : Int × Flags :=
  if intMin s w ≤ n && n ≤ intMax s w then (n, 0#6)
  else if sat then ((if n < 0 then intMin s w else intMax s w), flagIS)
  else (intWrap s w n, 0#6)

/-- RShiftRound (R117, R120). -/
def rshiftRound (n : Int) (c : Nat) : Int :=
  let m : Nat := if c ≤ 64 then (2 * n.natAbs / 2 ^ c + 1) / 2 else 0
  if n < 0 then -(m : Int) else m

/-- RoundTo for any floating format (R120); an integer format takes ToInt's value. -/
def roundTo (f : Fmt) (v : Val) (mode : Rnd) (sat : Bool) : Val × Flags :=
  match f with
  | .bin f => roundToBin f v mode sat
  | .mk8 => roundToMk8 v mode
  | .int s w => let (n, fl) := toInt s w v mode sat; (valOfInt n, fl)

/-- The bits of an integer in a format of width w. -/
def intBits (w : Nat) (n : Int) : Nat := (n % (2 ^ w : Int)).toNat

/-- Encode (R120), which is also a conversion between floating formats (R114): the bits of the value in the format, and the flags raised. -/
def encodeVal (f : Fmt) (v : Val) (mode : Rnd) (sat : Bool) : Nat × Flags :=
  match f with
  | .int s w => let (n, fl) := toInt s w v mode sat; (intBits w n, fl)
  | f => let (u, fl) := roundTo f v mode sat; (codeOf f u, fl)

/-! Exact arithmetic (R120). -/

def Val.neg : Val → Val
  | .nan => .nan
  | .inf n => .inf (!n)
  | .zero n => .zero (!n)
  | .fin n m e => .fin (!n) m e

def Val.sign : Val → Bool
  | .nan => false
  | .inf n => n
  | .zero n => n
  | .fin n _ _ => n

def Val.isNan : Val → Bool
  | .nan => true
  | _ => false

/-- ExactMul (R120). -/
def exactMul (a b : Val) : Val × Flags :=
  match a, b with
  | .nan, _ => (.nan, 0#6)
  | _, .nan => (.nan, 0#6)
  | .inf _, .zero _ => (.nan, flagNV)
  | .zero _, .inf _ => (.nan, flagNV)
  | .inf n, b => (.inf (n != b.sign), 0#6)
  | a, .inf n => (.inf (a.sign != n), 0#6)
  | .zero n, b => (.zero (n != b.sign), 0#6)
  | a, .zero n => (.zero (a.sign != n), 0#6)
  | .fin n m e, .fin n' m' e' => (.fin (n != n') (m * m') (e + e'), 0#6)

/-- The least exponent among the finite terms. -/
def minExp : List Val → Option Int
  | [] => none
  | .fin _ _ e :: l => (match minExp l with
    | none => some e
    | some e' => some (min e e'))
  | _ :: l => minExp l

/-- The sum of the finite terms as a multiple of 2^q. -/
def sumAt (q : Int) : List Val → Int
  | [] => 0
  | .fin n m e :: l => let k : Int := ((m <<< (e - q).toNat : Nat) : Int); (if n then -k else k) + sumAt q l
  | _ :: l => sumAt q l

/-- ExactSum (R120). -/
def exactSum (terms : List Val) (mode : Rnd) : Val × Flags :=
  if terms.any Val.isNan then (.nan, 0#6)
  else
    let pos := terms.any fun t => t == .inf false
    let neg := terms.any fun t => t == .inf true
    if pos && neg then (.nan, flagNV)
    else if pos then (.inf false, 0#6)
    else if neg then (.inf true, 0#6)
    else
      match minExp terms with
      | none => (if terms.all (fun t => t == .zero true) then .zero true else .zero (mode == .rdn), 0#6)
      | some q =>
        let s := sumAt q terms
        if s = 0 then (.zero (mode == .rdn), 0#6) else (.fin (s < 0) s.natAbs q, 0#6)

/-- Whether a number is less than another (neither NaN), with −0 and +0 equal (R118). -/
def valLt (a b : Val) : Bool :=
  match a, b with
  | .nan, _ => false
  | _, .nan => false
  | .inf n, .inf n' => n && !n'
  | .inf n, _ => n
  | _, .inf n' => !n'
  | .zero _, .zero _ => false
  | .zero _, .fin n' _ _ => !n'
  | .fin n _ _, .zero _ => n
  | .fin n m e, .fin n' m' e' =>
    if n && !n' then true
    else if !n && n' then false
    else if n then magLt m' e' m e else magLt m e m' e'

/-- Equality of numbers, with −0 and +0 equal (R118). -/
def valEq (a b : Val) : Bool :=
  match a, b with
  | .nan, _ => false
  | _, .nan => false
  | .zero _, .zero _ => true
  | .inf n, .inf n' => n == n'
  | .fin n m e, .fin n' m' e' => n == n' && magEq m e m' e'
  | _, _ => false

/-- Minimum and maximum of R118: −0 less than +0, and a NaN yields to a number. -/
def valMin (a b : Val) : Val :=
  match a, b with
  | .nan, b => b
  | a, .nan => a
  | .zero n, .zero n' => .zero (n || n')
  | a, b => if valLt b a then b else a

def valMax (a b : Val) : Val :=
  match a, b with
  | .nan, b => b
  | a, .nan => a
  | .zero n, .zero n' => .zero (n && n')
  | a, b => if valLt a b then b else a

/-- The conditions EQ, LT, LE and UN (R118). -/
def valCond (c : Nat) (a b : Val) : Bool :=
  match c with
  | 0 => valEq a b
  | 1 => valLt a b
  | 2 => valLt a b || valEq a b
  | _ => a.isNan || b.isNan

/-! Quotients, roots, powers and logarithms: enough leading bits of the exact value, and a last bit that says
whether bits were left behind, round as the exact value does (R358, R359, R425). -/

/-- Bits kept before the last (sticky) bit: more than any format rounds to. -/
def keepBits : Nat := 140

/-- The exact quotient (R358). -/
def quotVal (a b : Val) : Val × Flags :=
  match a, b with
  | .nan, _ => (.nan, 0#6)
  | _, .nan => (.nan, 0#6)
  | .inf _, .inf _ => (.nan, flagNV)
  | .zero _, .zero _ => (.nan, flagNV)
  | .inf n, b => (.inf (n != b.sign), raiseIf (match b with | .zero _ => true | _ => false) flagDZ)
  | .fin n _ _, .zero n' => (.inf (n != n'), flagDZ)
  | a, .inf n' => (.zero (a.sign != n'), 0#6)
  | .zero n, b => (.zero (n != b.sign), 0#6)
  | .fin n m e, .fin n' m' e' =>
    let sh := keepBits + Nat.log2 m'
    let q := (m <<< sh) / m'
    let st := if q * m' == m <<< sh then 0 else 1
    (.fin (n != n') (2 * q + st) (e - e' - sh - 1), 0#6)

/-- Floor of the square root, by Newton steps on `fuel`. -/
def isqrtGo (n : Nat) : Nat → Nat → Nat
  | 0, x => x
  | fuel + 1, x => let y := (x + n / x) / 2; if y < x then isqrtGo n fuel y else x

/-- Floor of the square root. -/
def isqrt (n : Nat) : Nat := if n = 0 then 0 else isqrtGo n (Nat.log2 n + 8) (2 ^ (Nat.log2 n / 2 + 1))

/-- The exact square root (R359). -/
def sqrtVal (a : Val) : Val × Flags :=
  match a with
  | .nan => (.nan, 0#6)
  | .zero n => (.zero n, 0#6)
  | .inf true => (.nan, flagNV)
  | .inf false => (.inf false, 0#6)
  | .fin true _ _ => (.nan, flagNV)
  | .fin false m e =>
    let odd : Nat := (e % 2).toNat
    let m' := m <<< (odd + 2 * keepBits)
    let r := isqrt m'
    (.fin false (2 * r + if r * r == m' then 0 else 1) ((e - odd) / 2 - keepBits - 1), 0#6)

/-- The exact reciprocal square root (R425). -/
def rsqVal (a : Val) : Val × Flags :=
  match a with
  | .nan => (.nan, 0#6)
  | .zero n => (.inf n, flagDZ)
  | .inf true => (.nan, flagNV)
  | .inf false => (.zero false, 0#6)
  | .fin true _ _ => (.nan, flagNV)
  | .fin false m e =>
    -- 1 / sqrt (m 2^e) = sqrt (2^s / m) 2^(-(e + s)/2) with e + s even
    let s0 := 2 * keepBits + 2 * Nat.log2 m + 2
    let s := s0 + ((e + s0) % 2).toNat
    let q := 2 ^ s / m
    let r := isqrt q
    let exact := q * m == 2 ^ s && r * r == q
    (.fin false (2 * r + if exact then 0 else 1) (-((e + s) / 2) - 1), 0#6)

/-! Exp2 and Log2 by fixed point with `prec` fraction bits. -/

/-- Fraction bits of the fixed-point work. -/
def prec : Nat := 320

/-- sqrt(2), sqrt(sqrt(2)), …: the next root of a fixed-point number. -/
def fixSqrt (x : Nat) : Nat := isqrt (x <<< prec)

/-- Product of fixed-point numbers, rounded down. -/
def fixMul (x y : Nat) : Nat := (x * y) >>> prec

/-- 2^f for the `n` bits of f below the point (f read from its top bit), by the successive square roots of 2. -/
def exp2Frac : Nat → Nat → Nat → Nat → Nat
  | 0, _, _, acc => acc
  | n + 1, f, root, acc =>
    exp2Frac n f (fixSqrt root) (if f.testBit n then fixMul acc root else acc)

/-- 2^a for a finite non-zero a (R425). Its fraction is taken to 190 bits; below that the value is 1 + a fraction less
than any format's rounding, which the last bit records. -/
def exp2Val (a : Val) : Val × Flags :=
  match a with
  | .nan => (.nan, 0#6)
  | .inf false => (.inf false, 0#6)
  | .inf true => (.zero false, 0#6)
  | .zero _ => (.fin false 1 0, 0#6)
  | .fin n m e =>
    if 12 < expOf m e then (.fin false 1 (if n then -8192 else 8192), 0#6)
    else if 0 ≤ e then
      let k : Int := ((m <<< e.toNat : Nat) : Int)
      (.fin false 1 (if n then -k else k), 0#6)
    else if expOf m e < -170 then
      -- 1 + or - less than 2^-169
      (if n then .fin false (2 ^ 160 - 1) (-160) else .fin false (2 ^ 160 + 1) (-160), 0#6)
    else
      -- floor and fraction of the exact a, on a grid of 2^e (190 bits when e is lower: the rest cannot reach the rounding)
      let w := (-e).toNat
      let k : Int := if n then -(m : Int) else m
      let fl := k / (2 ^ w : Int)
      let fr := (k % (2 ^ w : Int)).toNat
      if fr = 0 then (.fin false 1 fl, 0#6)
      else
        let fr190 := if w ≤ 190 then fr <<< (190 - w) else fr >>> (w - 190)
        let r := exp2Frac 190 fr190 (fixSqrt (2 <<< prec)) (1 <<< prec)
        -- 2^f is irrational: keep 180 bits and a last bit of 1
        (.fin false (2 * (r >>> (prec - 180)) + 1) (fl - (180 + 1)), 0#6)

/-- `n` bits of the logarithm of a fixed-point x in [1, 2), by repeated squaring. -/
def log2Frac : Nat → Nat → Nat → Nat
  | 0, _, acc => acc
  | n + 1, x, acc =>
    let y := fixMul x x
    if y ≥ 2 <<< prec then log2Frac n (y >>> 1) (2 * acc + 1) else log2Frac n y (2 * acc)

/-- log2 of a value (R425). -/
def log2Val (a : Val) : Val × Flags :=
  match a with
  | .nan => (.nan, 0#6)
  | .zero _ => (.inf true, flagDZ)
  | .inf false => (.inf false, 0#6)
  | .inf true => (.nan, flagNV)
  | .fin true _ _ => (.nan, flagNV)
  | .fin false m e =>
    let l := Nat.log2 m
    let ex := expOf m e
    if m == 2 ^ l then (valOfInt ex, 0#6)
    else
      -- the fraction of the logarithm; near 1 it is as small as 2^-52 / ln 2, so 240 bits leave 180 of significance
      let x := if l ≤ prec then m <<< (prec - l) else m >>> (l - prec)
      let f := log2Frac 240 x 0
      let k : Int := 2 * (ex * (2 ^ 240 : Int) + f) + 1
      (.fin (k < 0) k.natAbs (-241), 0#6)

end Sys2Proof.Machine
end

