-- ==== Sys2Proof/Config.lean ====
section
/-! DEFINITION. Sys2Proof/Config.lean: what an implementation fixes, and the free values. Every opaque constant has no
body: a claim holds whatever it is. Each stands in a row of notes/assumptions. -/

namespace Sys2Proof.Config

/-- The turn that comes when the schedule in the state is empty: no rule orders the agents (assumption 1). -/
opaque arbiter : Nat → Turn

/-- A value that the spec leaves open, fresh for each number (assumption 14). -/
opaque freeWord : Nat → Word

/-- A byte that a peer device or a host answers with, fresh for each number (assumption 17). -/
opaque freeByte : Nat → Byte

/-- A yes or no that the spec leaves open, fresh for each number (assumption 14). -/
opaque freeBool : Nat → Bool

/-- What page `a / 4096` of a supervisor's address space names: which memory or unit, and which page of it (assumption 8). -/
opaque supPage : Nat → Nat × Nat

/-- The fused security version (R316). -/
opaque fusedSvn : BitVec 8

/-- The fused digest of the firmware key (R317). -/
opaque keyDigest : List Byte

/-- SHA-512 (R317): the spec names it and does not define it. -/
opaque sha512 : List Byte → List Byte

/-- Whether an RSASSA-PSS signature verifies: modulus, message, signature (R317). -/
opaque pssVerifies : List Byte → List Byte → List Byte → Bool

/-- The two firmware images of the module flash, A then B (R317). -/
opaque flashImage : Bool → List Byte

/-- The fused device secret (R318). -/
opaque deviceSecret : List Byte

/-- The identity key derived from a device secret and the digest of a firmware body (R318). -/
opaque identityKey : List Byte → List Byte → List Byte

/-- The RSASSA-PSS signature of a message under a key (R319). -/
opaque pssSign : List Byte → List Byte → List Byte

/-- The certificate of the root, in DER form (R318). -/
opaque rootCertificate : List Byte

/-- The device certificate, bound to a fused secret (R318). -/
opaque deviceCertificate : List Byte → List Byte

/-- The identity certificate of a key, which the device of a secret signs at boot (R318). -/
opaque identityCertificate : List Byte → List Byte → List Byte

/-- The digest of the ROM (R319). -/
opaque romDigest : List Byte

end Sys2Proof.Config
end

