-- ==== Sys2Proof/Machine/State.lean ====
section
/-! DEFINITION. Sys2Proof/Machine/State.lean: the whole state of the device as plain data, and its reset value. -/

namespace Sys2Proof.Machine

/-! ## Memory -/

/-- A byte-addressed memory with its poisoned 8-byte words (R140). `cells` lists addresses strictly rising and no zero
byte: an unlisted address reads 0 (assumption 5). `poison` lists word numbers (address / 8). -/
structure Ram where
  cells : List Host.Cell
  poison : List Nat
  deriving DecidableEq, Repr, Inhabited

/-- Nothing listed. -/
def Ram.empty : Ram := ⟨[], []⟩

/-! ## A strand -/

/-- An entry of a queue (R40, R369): a scalar; a row; row `k` of those that read `id` of a PLD or GATH reserved, whose bytes
are not all read; such a row that is complete and not yet poppable; and one that is poppable while other rows of its read are
not complete. -/
inductive QEntry where
  | scalar (v : Word)
  | row (r : Row)
  | pending (id k : Nat)
  | reserved (r : Row)
  | early (r : Row)
  deriving DecidableEq, Repr, Inhabited

/-- A queue of up to 32 entries, oldest first, and the slot of the oldest (R40, R300). -/
structure Queue where
  head : BitVec 5
  entries : List QEntry
  deriving DecidableEq, Repr, Inhabited

/-- One loop level of a counter (R43, R285). `count` is the c of R44. -/
structure Level where
  active : Bool
  held : Bool
  rem : BitVec 32
  count : BitVec 32
  start : BitVec 22
  stop : BitVec 22
  deriving DecidableEq, Repr, Inhabited

/-- A piece of a read: `len` bytes at `addr` that become bytes `off` on of the result (R182). -/
structure ReadPiece where
  off : Nat
  addr : Nat
  len : Nat
  deriving DecidableEq, Repr, Inhabited

/-- What a read of the access counter serves (R368): register `d`, extended as type `ty` says; the `n` rows that a PLD or
GATH reserved in A→X queue `q`; or the check of the words that a SCAT writes (R371). -/
inductive ReadKind where
  | reg (d : BitVec 5) (ty : BitVec 3)
  | rows (q : Fin 4) (n : Nat)
  | check (parts : List (List Host.Cell))
  deriving DecidableEq, Repr, Inhabited

/-- What the access counter returns to when a read meets POISON (R368): its registers, levels and counts as they stood
before the group of the read, and how many entries it had pushed and popped that older reads still hide. -/
structure Snap where
  areg : Vector Word 32
  busy : BitVec 32
  pcA : BitVec 22
  heldA : Option (BitVec 22 × Instr)
  orgA : Option (BitVec 22)
  loopsA : Vector Level 3
  passedA : Word
  fence : Nat
  streamCount : Word
  matrixCount : Word
  hid : Vector Nat 4
  took : Vector Nat 4
  deriving DecidableEq, Repr, Inhabited

/-- A read that has issued and has not been performed (R182, R189, R368): the word at `pc`, the pieces left, the bytes read
so far. Stores below `stores` are older than it, and those below `fence` are older than the FENCE before it. -/
structure ReadOp where
  id : Nat
  pc : BitVec 22
  kind : ReadKind
  left : List ReadPiece
  data : List Host.Cell
  stores : Nat
  fence : Nat
  snap : Snap
  deriving DecidableEq, Repr, Inhabited

/-- An entry of the store buffer (R184, R185). `line` names the 64-byte line of an entry of the 8; a PST or SCAT is an
entry without a line. `parts` are its write pieces, each the bytes of one aligned word; `left` the pieces of a PST or SCAT
not yet written. It is held back while a read below `rd` is outstanding (R368), and belongs to the task of key `task`. -/
structure SbEntry where
  id : Nat
  line : Option Nat
  rel : Bool
  parts : List (List Host.Cell)
  left : List Nat
  rd : Nat
  task : Nat
  deriving DecidableEq, Repr, Inhabited

/-- A SEMINC or SEMSET that waits for the older accesses of its strand (R399): the stores below `mark`, the reads below
`rd`. -/
structure SemOp where
  set : Bool
  sem : Fin 64
  amount : Word
  mark : Nat
  rd : Nat
  task : Nat
  deriving DecidableEq, Repr, Inhabited

/-- A mailbox registration (R53, R297). -/
structure Mailbox where
  valid : Bool
  base : BitVec 32
  len : BitVec 32
  handler : BitVec 32
  /-- key of the task that bound it -/
  owner : Nat
  /-- accepts deliveries (R55, R294) -/
  accepting : Bool
  deriving DecidableEq, Repr, Inhabited

/-- An effect of the access counter that others see at once, which waits behind an outstanding read (R368): what a SEMWAIT
takes from a semaphore, a binding of MBREG, TRIG, YIELD, a CSRW (one of INJECT with the stream commands counted before it), and
what ERET does to the execute counter. -/
inductive LateKind where
  | take (sem : Fin 64) (amount : Word)
  | bind (m : Fin 16) (box : Mailbox)
  | fire
  | yield
  | csr (c : Nat) (v : Word)
  | inject (v seq : Word)
  | eret (passedX : Word) (pcX : BitVec 22)
  deriving DecidableEq, Repr, Inhabited

/-- Such an effect: reads below `rd` are older. -/
structure LateOp where
  rd : Nat
  kind : LateKind
  deriving DecidableEq, Repr, Inhabited

/-- Which residency operation (R229). -/
inductive ResKind where
  | reside
  | evict
  | rquery
  deriving DecidableEq, Repr, Inhabited

/-- A residency operation that has issued (R230). -/
structure ResOp where
  kind : ResKind
  d : BitVec 5
  id : Word
  loc : Word
  /-- reads below it are older (R368) -/
  rd : Nat
  /-- key of the task that issued it -/
  task : Nat
  deriving DecidableEq, Repr, Inhabited

/-- Where an execute counter has stopped (R32, R286). -/
inductive XStop where
  | no
  | exit
  | eret
  deriving DecidableEq, Repr, Inhabited

/-- The state of one physical strand (R27 and the rules each field names). -/
structure Strand where
  /-- a0 to a31 (R27) -/
  areg : Vector Word 32
  /-- x0 to x31 (R27) -/
  xreg : Vector Word 32
  /-- physical panels (R27, R46) -/
  panels : Vector Panel 16
  /-- A→X queues (R40) -/
  qax : Vector Queue 4
  /-- X→A queues (R40) -/
  qxa : Vector Queue 4
  /-- loop levels of the access counter (R43) -/
  loopsA : Vector Level 3
  /-- loop levels of the execute counter (R43) -/
  loopsX : Vector Level 3
  /-- passed(A) (R37) -/
  passedA : Word
  /-- passed(X) (R37) -/
  passedX : Word
  /-- byte address of the next word of the access counter (R26, R282) -/
  pcA : BitVec 22
  /-- byte address of the next word of the execute counter -/
  pcX : BitVec 22
  /-- the first word of the group that the access counter gathers, with its address (R33) -/
  heldA : Option (BitVec 22 × Instr)
  /-- the same for the execute counter -/
  heldX : Option (BitVec 22 × Instr)
  /-- a taken transfer of the access counter named a target that TRAPPC cannot hold: its word (R36) -/
  orgA : Option (BitVec 22)
  /-- the same for the execute counter -/
  orgX : Option (BitVec 22)
  /-- whether the execute counter stands at EXIT or ERET (R32, R286) -/
  xstop : XStop
  /-- bit n: register a-n is unavailable (R49, R50) -/
  busy : BitVec 32
  /-- the format table (R47) -/
  fmt : Vector (BitVec 32) 16
  /-- SLIPW (R38) -/
  slipw : Word
  /-- ROTBASE (R46) -/
  rotbase : Word
  /-- FMTIDX (R48) -/
  fmtidx : Word
  /-- FPSTAT (R112) -/
  fpstat : Word
  /-- flags of results that have not arrived, oldest first (R113) -/
  fpPend : List (BitVec 6)
  /-- NUMVER (R121) -/
  numver : Word
  /-- STRAND (R30) -/
  strandCsr : Word
  /-- TASKID (R29) -/
  taskid : Word
  /-- TRAPCAUSE (R281) -/
  trapcause : Word
  /-- TRAPPC (R282) -/
  trappc : Word
  /-- TRAPVEC (R283) -/
  trapvec : Word
  /-- store buffer, oldest first (R184) -/
  sbuf : List SbEntry
  /-- number of the next store buffer entry: an older store is one of a lower number -/
  sbNext : Nat
  /-- stores below this number are older than the last FENCE (R187) -/
  fence : Nat
  /-- reads that have issued and are not yet performed, oldest first (R189, R368) -/
  reads : List ReadOp
  /-- number of the next read -/
  rdNext : Nat
  /-- entries at the tail of each A→X queue that the access counter pushed behind an outstanding read (R368) -/
  hid : Vector Nat 4
  /-- entries at the head of each X→A queue that the access counter popped behind an outstanding read: not yet released -/
  took : Vector Nat 4
  /-- effects that wait behind an outstanding read, oldest first (R368) -/
  late : List LateOp
  /-- SEMINC and SEMSET not yet applied, oldest first (R399) -/
  semops : List SemOp
  /-- residency operations not yet performed, oldest first (R230) -/
  resops : List ResOp
  /-- pending async causes, TRAPCAUSE images with SLIP zero, oldest first (R287) -/
  async : List Word
  /-- stream commands issued since the task's start (R221, R332) -/
  streamCount : Word
  /-- matrix commands issued since the task's start (R281) -/
  matrixCount : Word
  /-- key of the task that the strand runs; 0 for none (R262) -/
  task : Nat
  /-- the strand runs a handler task of it (R54) -/
  handler : Bool
  /-- the strand is stopped for pre-emption (R58) -/
  stopped : Bool
  deriving DecidableEq, Repr, Inhabited

/-! ## Walks and engine commands -/

/-- A walk record as read (R143). -/
structure Walk where
  base : Word
  ext : List Nat
  stride : List Int
  esize : Nat
  flags : BitVec 8
  deriving DecidableEq, Repr, Inhabited

/-- A plane: its bits, its tag (0 FP32, 1 INT32, 2 FP64) and its poison mark (R150, R297). -/
structure Plane where
  bits : PlaneBits
  tag : BitVec 2
  poisoned : Bool
  deriving DecidableEq, Repr, Inhabited

/-- An entry of the matrix queue (R157, R298). -/
structure MatCmd where
  /-- the word of the command -/
  word : BitVec 32
  /-- token register of an MST, 0 for none or when its write is discarded (R289) -/
  tok : BitVec 5
  strand : Fin 4
  /-- the task that issued it (0 when it has ended and its token is discarded) -/
  task : Nat
  /-- index of the strand within the task -/
  idx : BitVec 2
  numver : BitVec 2
  follow : Bool
  started : Bool
  scl : BitVec 2
  s1 : Word
  s2 : Word
  /-- next k index or beat -/
  next : Nat
  count : Word
  walks : List Walk
  /-- stores below this number must drain before it starts (R190) -/
  mark : Nat
  /-- reads below this number must be performed before it reaches the engine (R368) -/
  rd : Nat
  /-- poison met by the current k-block, by an MLD so far, or the plane's for an MST -/
  poisoned : Bool
  /-- pieces of the current k-block or beat not yet read (R182) -/
  left : List ReadPiece
  /-- bytes read for it -/
  data : List Host.Cell
  /-- pieces of the current beat not yet written -/
  out : List (List Host.Cell)
  /-- the record of an MST of a poisoned plane has been sent: it and the token are unordered (R222) -/
  told : Bool
  deriving DecidableEq, Repr, Inhabited

/-- Which stream command (R161). -/
inductive StrKind where
  | copy
  | dcmp
  | fill
  | csum
  | send
  | coll
  | spawn
  deriving DecidableEq, Repr, Inhabited

/-- Where a stream command stands. -/
inductive StrPhase where
  /-- not yet started -/
  | waiting
  /-- the engine reads its card, notation or message, and its walk records (R147, R162) -/
  | reading
  /-- an arming COLL that has passed its checks and waits for an arming entry (R232) -/
  | arming
  /-- in flight -/
  | flight
  /-- held by a translation fault (R209) -/
  | held
  deriving DecidableEq, Repr, Inhabited

/-- A translation fault (R206, R210). -/
structure XlatFault where
  addr : Word
  kind : Nat
  write : Bool
  level : Nat
  entry : Word
  /-- the link of a tag-4 piece had failed: the hold ends when it comes up (R314) -/
  lost : Bool
  /-- the record is in the supervisor's fault queue -/
  reported : Bool
  deriving DecidableEq, Repr, Inhabited

/-- An entry of the stream queue (R161, R301). -/
structure StrCmd where
  slot : Nat
  kind : StrKind
  strand : Fin 4
  task : Nat
  idx : BitVec 2
  word : BitVec 32
  tok : BitVec 5
  /-- the S1 value: address of the card, notation, message or header -/
  s1 : Word
  /-- the S2 value of SEND -/
  s2 : Word
  numver : BitVec 2
  scl : BitVec 2
  seq : Word
  mark : Nat
  /-- reads below this number must be performed before it reaches the engine (R368) -/
  rd : Nat
  /-- INJECT chose this command (R225) -/
  inject : Bool
  phase : StrPhase
  /-- which of its records the engine reads: the card, then what the card names -/
  stage : Nat
  /-- pieces of those records not yet read (R182) -/
  need : List ReadPiece
  /-- bytes of its records as read, by their address -/
  recs : List Host.Cell
  /-- a record held a poisoned word (R141) -/
  recPois : Bool
  card : List Byte
  /-- the source walk, then the destinations, as decoded -/
  walks : List Walk
  /-- physical core of each tag-0 destination -/
  cores : List Nat
  /-- bytes read, by their offset in walk order -/
  data : List Host.Cell
  /-- offsets of bytes read from poisoned words -/
  pois : List Nat
  /-- pieces of the source that have been read -/
  srcDone : List Nat
  /-- pieces of the destinations that have been written: destination, piece -/
  dstDone : List (Nat × Nat)
  /-- source and destination progress in elements that a resume starts from (R209, R301) -/
  srcFrom : Nat
  dstFrom : Nat
  /-- destinations of which a piece landed in a word that stays poisoned (R220) -/
  badDst : List Nat
  /-- partial S1 and S2 of the source bytes before `srcFrom` (R301) -/
  sums : Word × Word
  /-- a byte moved before the recorded progress was poisoned: its source offset (R141) -/
  taint : Option Nat
  /-- INJECT has corrupted its byte, and the value of INJECT that did (R225) -/
  hit : Bool
  hitWith : Word
  /-- increments sent and not yet applied -/
  incs : Nat
  /-- whether its increments have been sent -/
  incSent : Bool
  /-- whether its last byte is visible and the handlers of its destinations are queued (R53) -/
  queued : Bool
  /-- the token word of a command whose record has been sent: the two are unordered (R222) -/
  verdict : Option Word
  /-- whether its follow-on has entered the matrix queue -/
  followed : Bool
  /-- DCMP stream position, or COLL packet number -/
  pos : Nat
  /-- DCMP bytes output -/
  out : Nat
  /-- DCMP history, newest first (R174) -/
  hist : List Byte
  fault : Option XlatFault
  deriving DecidableEq, Repr, Inhabited

/-! ## A core -/

/-- A pending handler task (R53, R54, R297). -/
structure Pending where
  owner : Nat
  /-- a1 to a10 -/
  regs : List Word
  regid : Word
  entry : BitVec 22
  deriving DecidableEq, Repr, Inhabited

/-- A stream command: its core, its slot and its sequence count. -/
structure CmdRef where
  core : Nat
  slot : Nat
  seq : Word
  deriving DecidableEq, Repr, Inhabited

/-- A delivery at a core's ingress (R53, R401). -/
structure Delivery where
  mailbox : Fin 16
  regid : Word
  /-- a1 to a9 -/
  regs : List Word
  /-- sender, for the order of R401: its core and strand -/
  src : Nat × Nat
  /-- the SEND whose token it writes -/
  token : Option CmdRef
  len : Nat
  /-- of a copy that became visible while its mailbox was bound: the task and the entry word of that binding (R382) -/
  bound : Option (Nat × BitVec 22)
  deriving DecidableEq, Repr, Inhabited

/-- An arming entry (R232, R242, R297). -/
structure Arming where
  collid : Word
  context : Word
  /-- local address of the notation -/
  nota : Word
  strand : Fin 4
  task : Nat
  idx : BitVec 2
  tok : BitVec 5
  seq : Word
  pair : Word × Word
  /-- a completion that arrived before the COLL armed, kept for its region -/
  kept : Option Word
  regid : Word
  /-- the walks of the participant's entries, as read (R147) -/
  walks : List (Nat × Walk)
  /-- the COLL has armed -/
  armed : Bool
  deriving DecidableEq, Repr, Inhabited

/-- A semaphore increment on its way (R170, R179): the semaphore, the amount and the command that waits for it. -/
structure Increment where
  sem : Fin 64
  amount : Word
  ref : Option CmdRef
  /-- a host packet that waits for it: port, queue, serial number -/
  pkt : Option (Nat × Nat × Nat)
  deriving DecidableEq, Repr, Inhabited

/-- An entry of a translation buffer (R207). -/
structure TlbEntry where
  context : Word
  va : Nat
  size : Nat
  pa : Nat
  rd : Bool
  w : Bool
  deriving DecidableEq, Repr, Inhabited

/-- Slot states (R262). -/
inductive SlotState where
  | free
  | reserved
  | mapped
  deriving DecidableEq, Repr, Inhabited

/-- A delivery to a saved logical core that its image has not taken (R295). -/
inductive HeldDelivery where
  | bytes (addr : Nat) (cells : List Host.Cell) (poison : Bool)
  | incr (i : Increment)
  | message (d : Delivery)
  | completion (collid context status : Word)
  deriving DecidableEq, Repr, Inhabited

/-- A loader message (R321). -/
structure LoadMsg where
  code : Word
  arg : Word
  taskIdx : Nat
  mask : BitVec 4
  numver : Nat
  textBase : Nat
  dataBase : Nat
  tid : Word
  regid : Word
  reply : Word
  textEnd : Nat
  deriving DecidableEq, Repr, Inhabited

/-- How far a loader is (R322): not begun, reading the object's header, reading the rest, writing sections, done. -/
inductive LoadPhase where
  | asked
  | head
  | body
  | write
  | done
  deriving DecidableEq, Repr, Inhabited

/-- A loader at work on a core (R320, R322), piece by piece (R182). -/
structure LoadJob where
  /-- the task it starts; 0 for a message whose task has not been made -/
  key : Nat
  /-- it acts on the oldest message to mailbox 0 -/
  boot : Bool
  msg : LoadMsg
  /-- strands that a saved task takes; none for a task that starts -/
  resume : Option (List (Fin 4))
  phase : LoadPhase
  /-- pieces of the object not yet read, as bytes `off` on of it -/
  left : List ReadPiece
  /-- the object as read -/
  data : List Host.Cell
  /-- pieces of the sections not yet written -/
  out : List (List Host.Cell)
  /-- the status it has found (R322, R271), 0 so far for none -/
  status : Nat
  deriving DecidableEq, Repr, Inhabited

/-- The state of one core. -/
structure Core where
  strands : Vector Strand 4
  /-- local SRAM (R134, R140) -/
  sram : Ram
  planes : Vector Plane 4
  sems : Vector Word 64
  mailboxes : Vector Mailbox 16
  /-- pending handler tasks, oldest first (R53) -/
  pending : List Pending
  /-- deliveries at the ingress, oldest first (R53, R401) -/
  ingress : List Delivery
  /-- messages to mailbox 0: a1 to a8, the port of a BOOTGO (2 for none), HDR physical address of a bind start (0 for none) (R320) -/
  loader : List (List Word × Nat × Nat)
  /-- loaders at work or waiting to begin, oldest first (R320) -/
  jobs : List LoadJob
  arming : List Arming
  mq : List MatCmd
  sq : List StrCmd
  /-- the strand served last by the stream engine (R161) -/
  served : Fin 4
  incs : List Increment
  /-- firings that have reached this core: task keys (R410) -/
  firings : List Nat
  /-- CONFLICTS (R139) -/
  conflicts : Word
  /-- INJECT (R223) -/
  inject : Word
  /-- INJECT has chosen its command (R225) -/
  chosen : Bool
  tlb : List TlbEntry
  slot : SlotState
  /-- region of the slot (R262) -/
  regid : Word
  /-- logical CORE of the slot (R262) -/
  lcore : BitVec 12
  /-- regions a core is held for, the root first (R254) -/
  heldFor : List Word
  /-- regions for whose SPARE it is held, the root first (R252, R303) -/
  spareFor : List Word
  /-- context of the last mapping, for R261 -/
  lastCtx : Word
  /-- context, code pointer and TEXTBASE last loaded (R322) -/
  loaded : Option (Word × Word × Nat)
  /-- next line to scrub of each bank group (R142) -/
  scrub : Vector Nat 4
  deriving DecidableEq, Repr, Inhabited

/-! ## Clusters, dies -/

/-- RISC-V privilege modes (assumption 7). -/
inductive Mode where
  | m
  | s
  | u
  deriving DecidableEq, Repr, Inhabited

/-- A cluster supervisor (R17, R265). Its base instruction set is RV64GC; its registers are the family's (assumption 7). -/
structure Supervisor where
  x : Vector Word 32
  /-- f0 to f31 and fcsr of RV64GC -/
  f : Vector Word 32
  fcsr : Word
  pc : Word
  mode : Mode
  mcause : Word
  mtval : Word
  mepc : Word
  mtvec : Word
  mstatus : Word
  medeleg : Word
  scause : Word
  stval : Word
  sepc : Word
  stvec : Word
  mie : Word
  /-- the pending bits that software writes: SSIP 1, STIP 5, SEIP 9 -/
  mip : Word
  mideleg : Word
  mscratch : Word
  sscratch : Word
  mcounteren : Word
  scounteren : Word
  /-- mcycle less the clocks of its die (R18) -/
  cycleOff : Word
  minstret : Word
  /-- the reservation of LR: address, bytes and the value read -/
  reserved : Option (Nat × Nat × Word)
  /-- private SRAM of 512 KiB -/
  sram : List Host.Cell
  deriving DecidableEq, Repr, Inhabited

/-- An entry of a residency table (R226). -/
structure ResEntry where
  context : Word
  id : Word
  loc : Word
  deriving DecidableEq, Repr, Inhabited

/-- The state of one package cluster. -/
structure Cluster where
  pool : Ram
  resid : List ResEntry
  /-- rings 0 to 3, oldest entry first, 32 bytes each (R266) -/
  rings : Vector (List (BitVec 256)) 4
  /-- pending event signals, bits 4 to 7 (R269) -/
  events : BitVec 8
  /-- translation resolve register (R211) -/
  resolve : Word
  /-- resolve error register (R269) -/
  resolveErr : Word
  /-- spawned headers: task key and header (R404) -/
  spawn : List (Nat × List Byte)
  sup : Supervisor
  /-- tempo boundaries seen (R272) -/
  boundary : Nat
  deriving DecidableEq, Repr, Inhabited

/-- Die health (R279, R303, R304). -/
inductive Health where
  | healthy
  | degraded
  | retired
  | failed
  deriving DecidableEq, Repr, Inhabited

/-- The state of one die. -/
structure Die where
  pool : Ram
  /-- CYC (R18) -/
  cyc : Word
  health : Health
  /-- out of reset (R18) -/
  up : Bool
  /-- firmware inserts idle clocks (R325) -/
  idle : Bool
  /-- errors corrected, and words found uncorrectable, for its health (R140, R303) -/
  corrected : Nat
  uncorrectable : Nat
  deriving DecidableEq, Repr, Inhabited

/-! ## Package -/

/-- A region control block in force (R252), with its windows, its port and its physical address. -/
structure Region where
  regid : Word
  pa : Nat
  parent : Nat
  ovr : BitVec 32
  depth : Nat
  prio : Nat
  numver : Nat
  flags : BitVec 8
  clusters : Word
  cores : Nat
  reserved : Nat
  cpool : Nat
  dpool : Nat
  hbm : Nat
  linkshare : Nat
  fdom : BitVec 16
  spare : Nat
  root : Nat
  heapBase : Nat
  heapLen : Nat
  tempoLog : Nat
  port : Nat
  /-- pool windows: cluster, base, length -/
  cwin : List (Nat × Nat × Nat)
  /-- die, base, length -/
  dwin : List (Nat × Nat × Nat)
  /-- being destroyed or ended -/
  ending : Bool
  deriving DecidableEq, Repr, Inhabited

/-- A host handle (R202). -/
structure Handle where
  context : Word
  num : Nat
  bus : Nat
  len : Nat
  port : Nat
  w : Bool
  deriving DecidableEq, Repr, Inhabited

/-- Where a task stands. -/
inductive TaskState where
  /-- known, waiting for producers before it enters ring 0 (R278) -/
  | dependent
  /-- in ring 0 or waiting to be bound (R273) -/
  | waiting
  /-- bound to strands (R264) -/
  | running
  /-- its strands have ended and its handlers have not (R55) -/
  | draining
  /-- its counters are stopped, its save has not been made (R293) -/
  | stopping
  /-- saved in a slot (R296) -/
  | saved
  /-- ended -/
  | ended
  deriving DecidableEq, Repr, Inhabited

/-- A task (R255, R262, R273). -/
structure Task where
  key : Nat
  tid : Word
  regid : Word
  gang : Word
  /-- physical address of its header; 0 for a boot message start -/
  hdr : Nat
  st : TaskState
  core : Nat
  lcore : BitVec 16
  strands : BitVec 4
  nstrands : Nat
  textBase : Nat
  textEnd : Nat
  dataBase : Nat
  code : Word
  /-- producers' TASKIDs (R277) -/
  prods : List Word
  early : Bool
  base : Nat
  /-- effective priority, boundaries waited, boundary it began to wait (R273) -/
  e : Nat
  waited : Nat
  since : Nat
  /-- tempos it has run, and whether it was bound as due in this tempo (R274) -/
  ran : Nat
  boundDue : Bool
  /-- key of the waiting task for which it was pre-empted, 0 for none (R274) -/
  forTask : Nat
  started : Bool
  fired : Bool
  yielding : Bool
  /-- cluster whose ring 0 it entered, source (0 LAUNCH, 1 SPAWN) -/
  cluster : Nat
  source : Nat
  /-- physical core whose slot holds its image, and whether with the core section -/
  slotCore : Nat
  slotCoreSec : Bool
  /-- why it stops: 0 pre-empt, 1 retirement -/
  why : Nat
  /-- loop counts of a saved task: strand, then A and X levels (assumption 21) -/
  counts : List (List (BitVec 32))
  /-- cluster and die pool windows while bound: base and length (R200, R254) -/
  cwin : Nat × Nat
  dwin : Nat × Nat
  /-- NUMVER and SLIPW with which its strands and handlers start (R27, R54, R121) -/
  nv : Nat
  slip : Nat
  /-- deliveries held for the saved logical core, oldest first (R295) -/
  held : List HeldDelivery
  /-- of its image: strand sections, which of them are handlers, and the tasks that own the mailboxes (R297) -/
  savedMask : BitVec 4
  hands : BitVec 4
  owners : List Nat
  /-- what its stream commands and arming entries hold that R297 and R301 give no place in the image (assumption 21) -/
  cmds : List StrCmd
  arms : List Arming
  chosen : Bool
  /-- its image, by offset, when the supervisor has moved it out of the slot (R296) -/
  stash : Option Ram
  /-- it is bound, and the loader has not yet started or resumed it (R322) -/
  loading : Bool
  deriving DecidableEq, Repr, Inhabited

/-- A gang or a LAUNCH at the arbiter (R256 to R260). -/
structure Gang where
  id : Word
  regid : Word
  donesig : Word
  port : Nat
  /-- parts: HDR, unit type, unit, tasks, SRAM -/
  parts : List (Word × Nat × Nat × Nat × Nat)
  /-- task keys, empty until commit -/
  tasks : List Nat
  /-- the arbiter has not attempted it yet (R257) -/
  fresh : Bool
  /-- 0 reserving, 1 running, 2 stalemated -/
  st : Nat
  /-- queue and packet to complete at commit -/
  pkt : Nat × Nat
  /-- what its strands had passed at the previous boundary, when all else of R276 held there -/
  suspect : Option (List (Word × Word))
  deriving DecidableEq, Repr, Inhabited

/-- An error record or notice on its way: region to report to, the port of its root, its 64 bytes as 8 words, and
whether the notice of a root region's end goes to the host (R221, R222, R290, R292). -/
structure Record where
  regid : Word
  port : Nat
  words : List Word
  toHost : Bool
  deriving DecidableEq, Repr, Inhabited

/-- A region that has been destroyed: its records go to what its parent is now, or to the port that created its root (R222). -/
structure Gone where
  regid : Word
  /-- REGID of its parent; 0 for a root -/
  parent : Word
  /-- its context went with it -/
  context : Bool
  port : Nat
  deriving DecidableEq, Repr, Inhabited

/-- Where a collective packet stands: on the way to a core, waiting at a link, or at the peer's side. -/
inductive PacketAt where
  | core (lcore : BitVec 12)
  | link (n : Fin 16)
  | away
  deriving DecidableEq, Repr, Inhabited

/-- A packet of a collective (R237). -/
structure CollPacket where
  coll : Nat
  no : Nat
  /-- index of the entry that acts next -/
  entry : Nat
  data : List Byte
  /-- offsets of poisoned bytes within the packet -/
  pois : List Nat
  stamp : Word × Word
  failed : Bool
  at_ : PacketAt
  /-- the context whose logical cores its entries name: the collective's, or the one bound to the link it came by (R235) -/
  ctx : Word
  /-- the entry that acts on it has begun: pieces left, operand bytes read by their offset, and offsets of poisoned ones -/
  work : Bool
  left : List ReadPiece
  buf : List Host.Cell
  marks : List Nat
  /-- the combiner errs in an element, by an amount of its aligned significand (R245) -/
  upset : Option (Nat × Nat)
  deriving DecidableEq, Repr, Inhabited

/-- A collective in flight (R232 to R246). -/
structure Coll where
  key : Nat
  collid : Word
  context : Word
  regid : Word
  task : Nat
  origin : Nat
  numver : BitVec 2
  pair : Word × Word
  image : List Byte
  injected : Bool
  /-- payload bytes that each entry has treated -/
  landed : List (Nat × Nat)
  /-- sums of R218 over the payload bytes that each entry has treated -/
  sums : List (Nat × Nat × Nat)
  /-- operand headers as read: entry, bytes, and whether a word was poisoned (R244) -/
  headers : List (Nat × List Byte × Bool)
  /-- landing rows granted to each APPEND entry: entry, first row address; 0 when refused -/
  granted : List (Nat × Nat)
  capacity : Bool
  failed : Bool
  poisoned : Bool
  recorded : Bool
  deriving DecidableEq, Repr, Inhabited

/-- A completion flit on its way to a core (R242). -/
structure CollDone where
  regid : Word
  lcore : BitVec 12
  collid : Word
  context : Word
  status : Word
  deriving DecidableEq, Repr, Inhabited

/-- An invalidation in progress (R214). -/
structure Inval where
  context : Word
  lo : Nat
  hi : Nat
  /-- translation units that have not acknowledged: 0 to 4095 the cores, 4096 and 4097 the command processors -/
  units : List Nat
  /-- the UNMAP that it completes; none for a change by a supervisor -/
  pkt : Option (Nat × Nat × Nat)
  deriving DecidableEq, Repr, Inhabited

/-- A device link (R314, R315). -/
structure Link where
  /-- 0 down, 1 training, 2 up, 3 failed -/
  st : BitVec 2
  peerDev : BitVec 12
  peerLink : BitVec 4
  retries : BitVec 32
  fails : Nat
  ctx : Word
  /-- it has come up since reset: PEERDEV and PEERLINK hold what training exchanged (R314) -/
  known : Bool
  deriving DecidableEq, Repr, Inhabited

/-- A fetched or issued packet of a host queue (R248, R250). -/
structure Packet where
  id : Nat
  off : Nat
  bytes : List Byte
  /-- progress of an HCOPY in pieces, or 1 once an effect has been started -/
  done : Nat
  /-- what a RESYNC has gathered (R279) -/
  gathered : List Byte
  deriving DecidableEq, Repr, Inhabited

/-- A host command queue (R247, R307 to R311). -/
structure HostQueue where
  qbase : Word
  qsize : Word
  cbase : Word
  tail : Nat
  head : Nat
  chead : Nat
  ctail : Nat
  en : Bool
  skip : Bool
  halted : Bool
  dberr : Bool
  fetcherr : Bool
  cfgerr : Bool
  irq : Bool
  vec : BitVec 6
  /-- offset the fetcher reads next -/
  fetchAt : Nat
  fetched : List Packet
  issued : List Packet
  /-- the HWAIT at the head of the issued packets holds the queue (R249) -/
  waiting : Bool
  nextId : Nat
  deriving DecidableEq, Repr, Inhabited

/-- A vector of an MSI-X table (R305): a masked one is kept pending. -/
structure Vector' where
  addr : Word
  data : BitVec 32
  masked : Bool
  pending : Bool
  deriving DecidableEq, Repr, Inhabited

/-- A PCI Express port with its window and the memory of its host (R305 to R312). -/
structure Port where
  queues : Vector HostQueue 16
  nbase : Word
  ntail : Word
  resyncst : Word
  attcmd : Word
  attaddr : Word
  attstat : Word
  attnonce : Vector Word 8
  bootmsg : Vector Word 8
  bootreg : Word
  bootcore : Word
  bootstatus : Word
  /-- MSI-X vectors sent, oldest first -/
  msix : List (BitVec 6)
  host : List Host.Cell
  tlb : List TlbEntry
  /-- trained width and rate in tenths of GT/s; 0 before training -/
  width : Nat
  rate : Nat
  /-- BAR0/BAR1, the completion timeout range, the uncorrectable errors logged, the MSI-X table (R305) -/
  bar : Word
  timeout : BitVec 4
  errors : BitVec 32
  vecs : Vector Vector' 64
  deriving DecidableEq, Repr, Inhabited

/-! ## The acting agent -/

/-- Which word of a group is being executed. -/
inductive Phase where
  | single
  | first
  | second
  deriving DecidableEq, Repr, Inhabited

/-- What became of the word being executed. -/
inductive Res where
  | none
  | gathered
  | issued
  | jump (target : Int)
  | waiting
  | trapped (pc : BitVec 22) (cause : Nat) (detail : BitVec 16)
  | ended
  /-- an event that could not take place now, or an encoded word given as an event -/
  | stutter
  deriving DecidableEq, Repr, Inhabited

/-- The agent that acts: the model's own field (assumption 1). -/
structure Cur where
  core : Nat
  strand : Fin 4
  ctr : Ctr
  cluster : Nat
  /-- address of the word being executed -/
  pc : BitVec 22
  phase : Phase
  /-- extension of the LIMM before it (R66) -/
  ext : Option (BitVec 22)
  /-- the word wrote ROTBASE, so the advance of R46 at this word came first (R439) -/
  rotw : Bool
  /-- NUMVER as the group found it (R123) -/
  numver : Word
  /-- reads that the second word of the group makes (R368) -/
  ahead : Nat
  /-- results whose flags had not arrived when the group began (R113) -/
  flags : Nat
  res : Res
  deriving DecidableEq, Repr, Inhabited

/-- The whole machine. A core, cluster or die that is not listed has every field at reset. -/
structure State where
  cores : List (Nat × Core)
  clusters : List (Nat × Cluster)
  dies : List (Nat × Die)
  hbm : Ram
  regions : List Region
  /-- destroyed regions whose REGID is not in use again -/
  gone : List Gone
  handles : List Handle
  tasks : List Task
  nextTask : Nat
  gangs : List Gang
  records : List Record
  packets : List CollPacket
  colls : List Coll
  collDones : List CollDone
  nextColl : Nat
  invals : List Inval
  links : Vector Link 16
  ports : Vector Port 2
  /-- BOOTSTAT (R316) -/
  bootstat : Word
  /-- DEVNUM (R313) -/
  devnum : Word
  /-- PWRLIM (R326) -/
  pwrlim : Word
  /-- digest of the verified firmware body (R317) -/
  firmware : List Byte
  /-- the die whose ROM boots (R316) -/
  bootDie : Fin 16
  /-- the firmware runs from image B (R317) -/
  bootImageB : Bool
  /-- RESYNCs that gather (R279): while there is one the arbiter takes no attempt -/
  resync : Nat
  /-- dies whose retirement is in progress: die, port, queue, packet (port 2 for firmware) -/
  retiring : List (Nat × Nat × Nat × Nat)
  /-- model's own fields (assumptions 1 and 14) -/
  cur : Cur
  turns : List Turn
  tick : Nat
  free : Nat
  deriving DecidableEq, Repr, Inhabited

/-! ## Reset -/

def Queue.empty : Queue := ⟨0#5, []⟩
def Level.off : Level := ⟨false, false, 0#32, 0#32, 0#22, 0#22⟩

/-- A strand at reset. Where the spec gives no value before a task starts, assumption 6 names it. -/
def Strand.reset : Strand :=
  { areg := Vector.replicate 32 0#64, xreg := Vector.replicate 32 0#64, panels := Vector.replicate 16 0#32768,
    qax := Vector.replicate 4 Queue.empty, qxa := Vector.replicate 4 Queue.empty,
    loopsA := Vector.replicate 3 Level.off, loopsX := Vector.replicate 3 Level.off,
    passedA := 0#64, passedX := 0#64, pcA := 0#22, pcX := 0#22, heldA := none, heldX := none, orgA := none, orgX := none, xstop := .no,
    busy := 0#32, fmt := Vector.replicate 16 0#32, slipw := 0x100#64, rotbase := 0#64, fmtidx := 0#64, fpstat := 0#64, fpPend := [],
    numver := 3#64, strandCsr := 0#64, taskid := 0#64, trapcause := 0#64, trappc := 0#64, trapvec := 0#64,
    sbuf := [], sbNext := 0, fence := 0, reads := [], rdNext := 0, hid := Vector.replicate 4 0,
    took := Vector.replicate 4 0, late := [], semops := [], resops := [], async := [],
    streamCount := 0#64, matrixCount := 0#64, task := 0, handler := false, stopped := false }

def Plane.reset : Plane := ⟨0#131072, 0#2, false⟩
def Mailbox.none : Mailbox := ⟨false, 0#32, 0#32, 0#32, 0, false⟩

/-- A core at reset (R139, R150, R178, R223, R262). -/
def Core.reset : Core :=
  { strands := Vector.replicate 4 Strand.reset, sram := Ram.empty, planes := Vector.replicate 4 Plane.reset,
    sems := Vector.replicate 64 0#64, mailboxes := Vector.replicate 16 Mailbox.none, pending := [], ingress := [],
    loader := [], jobs := [], arming := [], mq := [], sq := [], served := 3, incs := [], firings := [], conflicts := 0#64,
    inject := 0#64, chosen := false, tlb := [], slot := .free, regid := 0#64, lcore := 0#12, heldFor := [], spareFor := [],
    lastCtx := 0#64, loaded := none, scrub := Vector.replicate 4 0 }

def Supervisor.reset : Supervisor :=
  { x := Vector.replicate 32 0#64, f := Vector.replicate 32 0#64, fcsr := 0#64, pc := 0#64, mode := .m, mcause := 0#64, mtval := 0#64, mepc := 0#64, mtvec := 0#64,
    mstatus := 0#64, medeleg := 0#64, scause := 0#64, stval := 0#64, sepc := 0#64, stvec := 0#64, mie := 0#64, mip := 0#64,
    mideleg := 0#64, mscratch := 0#64, sscratch := 0#64, mcounteren := 0#64, scounteren := 0#64, cycleOff := 0#64, minstret := 0#64,
    reserved := none, sram := [] }

def Cluster.reset : Cluster :=
  { pool := Ram.empty, resid := [], rings := Vector.replicate 4 [], events := 0#8, resolve := 0#64, resolveErr := 0#64, spawn := [],
    sup := Supervisor.reset, boundary := 0 }

def Die.reset : Die := { pool := Ram.empty, cyc := 0#64, health := .healthy, up := false, idle := false, corrected := 0, uncorrectable := 0 }

def Link.reset : Link := ⟨0#2, 0#12, 0#4, 0#32, 0, 0#64, false⟩

def HostQueue.reset : HostQueue :=
  { qbase := 0#64, qsize := 0#64, cbase := 0#64, tail := 0, head := 0, chead := 0, ctail := 0, en := false, skip := false,
    halted := false, dberr := false, fetcherr := false, cfgerr := false, irq := false, vec := 0#6, fetchAt := 0,
    fetched := [], issued := [], waiting := false, nextId := 0 }

def Port.reset : Port :=
  { queues := Vector.replicate 16 HostQueue.reset, nbase := 0#64, ntail := 0#64, resyncst := 0#64, attcmd := 0#64,
    attaddr := 0#64, attstat := 0#64, attnonce := Vector.replicate 8 0#64, bootmsg := Vector.replicate 8 0#64,
    bootreg := 0#64, bootcore := 0#64, bootstatus := 0#64, msix := [], host := [], tlb := [], width := 0, rate := 0,
    bar := 4#64, timeout := 0#4, errors := 0#32, vecs := Vector.replicate 64 ⟨0#64, 0#32, true, false⟩ }

def Cur.reset : Cur :=
  { core := 0, strand := 0, ctr := .a, cluster := 0, pc := 0#22, phase := .single, ext := none, rotw := false, numver := 0#64, ahead := 0, flags := 0, res := .none }

/-- The machine right after reset: BOOTSTAT at STAGE 0 with the fused SVN (R316), DEVNUM 0 (R313), PWRLIM 2,400 (R326),
no region, task or packet, and every memory empty. -/
def State.reset : State :=
  { cores := [], clusters := [], dies := [], hbm := Ram.empty, regions := [], gone := [], handles := [], tasks := [], nextTask := 1,
    gangs := [], records := [], packets := [], colls := [], collDones := [], nextColl := 1, invals := [],
    links := Vector.replicate 16 Link.reset, ports := Vector.replicate 2 Port.reset,
    bootstat := (Config.fusedSvn.zeroExtend 64) <<< 32, devnum := 0#64, pwrlim := 2400#64, firmware := [], bootDie := 0, bootImageB := false,
    resync := 0, retiring := [], cur := Cur.reset, turns := [], tick := 0, free := 0 }

/-! ## Faults and refusals -/

/-- Why the machine stops. -/
inductive Fault where
  /-- A turn names a core, cluster or die that the package does not have (01 R11). Raised by step. Safe: the device has no
  such agent. -/
  | noSuchAgent
  deriving DecidableEq, Repr, Inhabited

/-- Why the model gives no step. -/
inductive Refusal where
  /-- The instruction has no meaning yet. Raised by exec. Safe. -/
  | notModelled (mnemonic : String)
  /-- A store of a supervisor's base instruction to its placement unit, residency table or slot table, whose registers the spec
  does not lay out (R17). Raised by step. Safe: the model goes no further. -/
  | supervisorUnit
  deriving DecidableEq, Repr, Inhabited

end Sys2Proof.Machine
end

