-- ==== Sys2Proof/Machine/Mem.lean ====
section
/-! DEFINITION. Sys2Proof/Machine/Mem.lean: sparse memories in canonical form (no zero byte listed, addresses rising),
little-endian numbers (spec/00_scope.md R1) and poisoned words (spec/06_local_memory_and_walks.md R140). -/

namespace Sys2Proof.Machine

/-- The byte at address `a`; 0 where nothing is listed (assumption 5). -/
def readCell : List Host.Cell → Nat → Byte
  | [], _ => 0#8
  | (k, v) :: l, a => if k = a then v else if a < k then 0#8 else readCell l a

/-- Writes a byte: writing 0 removes the entry. -/
def writeCell : List Host.Cell → Nat → Byte → List Host.Cell
  | [], a, v => if v = 0#8 then [] else [(a, v)]
  | (k, w) :: l, a, v =>
    if k = a then (if v = 0#8 then l else (a, v) :: l)
    else if a < k then (if v = 0#8 then (k, w) :: l else (a, v) :: (k, w) :: l)
    else (k, w) :: writeCell l a v

/-- The canonical form: addresses strictly rising from at least `lo`, no zero byte. -/
def cellsFrom : Nat → List Host.Cell → Bool
  | _, [] => true
  | lo, (k, v) :: l => lo ≤ k && v != 0#8 && cellsFrom (k + 1) l

/-- The form of a memory (every memory of State has it at reset and keeps it). -/
def Ram.wf (r : Ram) : Bool := cellsFrom 0 r.cells

/-- `n` bytes from `a`. -/
def readCells (m : List Host.Cell) (a : Nat) : Nat → List Byte
  | 0 => []
  | n + 1 => readCell m a :: readCells m (a + 1) n

/-- The bytes of a list written from `a` on. -/
def writeCells (m : List Host.Cell) (a : Nat) : List Byte → List Host.Cell
  | [] => m
  | v :: l => writeCells (writeCell m a v) (a + 1) l

/-- Listed bytes at their own addresses, one after the other. -/
def storeCells (m : List Host.Cell) : List Host.Cell → List Host.Cell
  | [] => m
  | (a, v) :: l => storeCells (writeCell m a v) l

/-- Every byte of [lo, hi) becomes 0. -/
def clearCells (m : List Host.Cell) (lo hi : Nat) : List Host.Cell :=
  m.filter fun c => c.1 < lo || hi ≤ c.1

/-- A number from little-endian bytes. -/
def leNat : List Byte → Nat
  | [] => 0
  | b :: l => b.toNat + 256 * leNat l

/-- The `n` low bytes of a number, little-endian. -/
def natBytes : Nat → Nat → List Byte
  | 0, _ => []
  | n + 1, v => BitVec.ofNat 8 v :: natBytes n (v / 256)

/-- `n` bytes at `off` of a list, as a number; a missing byte reads 0. -/
def field (l : List Byte) (off n : Nat) : Nat := leNat ((l.drop off).take n)

/-- Whether every byte of [off, off + n) of a list is 0. -/
def zeros (l : List Byte) (off n : Nat) : Bool := ((l.drop off).take n).all (· == 0#8)

/-- Overwrites the bytes of a list from `off` on. -/
def patch (l : List Byte) (off : Nat) (v : List Byte) : List Byte := l.take off ++ v ++ l.drop (off + v.length)

/-! ## A memory with poison -/

/-- A little-endian number of `n` bytes at `a`. -/
def Ram.readLE (r : Ram) (a n : Nat) : Nat := leNat (readCells r.cells a n)

def Ram.bytes (r : Ram) (a n : Nat) : List Byte := readCells r.cells a n

/-- The words that [a, a + n) meets, by number. -/
def wordsOf (a n : Nat) : List Nat :=
  if n = 0 then [] else (List.range ((a + n - 1) / 8 - a / 8 + 1)).map (· + a / 8)

/-- Whether [a, a + n) meets a poisoned word. -/
def Ram.poisoned (r : Ram) (a n : Nat) : Bool :=
  !r.poison.isEmpty && (wordsOf a n).any fun w => r.poison.contains w

/-- Marks word `w` poisoned. -/
def Ram.mark (r : Ram) (w : Nat) : Ram := if r.poison.contains w then r else { r with poison := w :: r.poison }

/-- One write piece: the bytes land, and an aligned 8-byte piece clears the poison of its word (R140). -/
def Ram.write (r : Ram) (a : Nat) (v : List Byte) : Ram :=
  { cells := writeCells r.cells a v,
    poison := if v.length = 8 && a % 8 = 0 then r.poison.filter (· != a / 8) else r.poison }

/-- One write piece given as cells of one word: all eight bytes clear the poison of the word. -/
def Ram.store (r : Ram) (p : List Host.Cell) : Ram :=
  { cells := storeCells r.cells p,
    poison := if p.length = 8 then (match p with
      | (a, _) :: _ => r.poison.filter (· != a / 8)
      | [] => r.poison) else r.poison }

/-- The bytes land in a word that becomes, or stays, poisoned (R141). -/
def Ram.writePoisoned (r : Ram) (a : Nat) (v : List Byte) : Ram :=
  (wordsOf a v.length).foldl Ram.mark { r with cells := writeCells r.cells a v }

/-- [lo, hi) becomes zero and unpoisoned (R261). -/
def Ram.clear (r : Ram) (lo hi : Nat) : Ram :=
  { cells := clearCells r.cells lo hi, poison := r.poison.filter fun w => 8 * w + 8 ≤ lo || hi ≤ 8 * w }

/-! ## Sparse tables of cores, clusters and dies -/

/-- The entry of key `k`, or `d`. -/
def lookupD {α : Type} (d : α) : List (Nat × α) → Nat → α
  | [], _ => d
  | (k, v) :: l, a => if k = a then v else lookupD d l a

/-- Sets the entry of key `k`, keys rising. -/
def insertD {α : Type} : List (Nat × α) → Nat → α → List (Nat × α)
  | [], a, v => [(a, v)]
  | (k, w) :: l, a, v =>
    if k = a then (a, v) :: l else if a < k then (a, v) :: (k, w) :: l else (k, w) :: insertD l a v

/-- Entry `i` of a list replaced. -/
def setNth {α : Type} (l : List α) (i : Nat) (v : α) : List α := l.set i v

/-- The list without its entry `i`. -/
def dropNth {α : Type} (l : List α) (i : Nat) : List α := l.eraseIdx i

end Sys2Proof.Machine
end

