-- ==== Sys2Proof/Machine/Ops.lean ====
section
/-! DEFINITION. Sys2Proof/Machine/Ops.lean: the named operations over the state: cores, strands, registers, panels, queues,
loops, text, tasks, rings and records; taking an exception and returning from one; and how a word issues. -/

namespace Sys2Proof.Machine

/-! ## Access to the parts -/

def State.core (s : State) (c : Nat) : Core := lookupD Core.reset s.cores c
def State.setCore (s : State) (c : Nat) (k : Core) : State := { s with cores := insertD s.cores c k }
def State.modCore (s : State) (c : Nat) (f : Core → Core) : State := s.setCore c (f (s.core c))
def State.cluster (s : State) (c : Nat) : Cluster := lookupD Cluster.reset s.clusters c
def State.modCluster (s : State) (c : Nat) (f : Cluster → Cluster) : State :=
  { s with clusters := insertD s.clusters c (f (s.cluster c)) }
def State.die (s : State) (d : Nat) : Die := lookupD Die.reset s.dies d
def State.modDie (s : State) (d : Nat) (f : Die → Die) : State := { s with dies := insertD s.dies d (f (s.die d)) }
def State.port (s : State) (p : Fin 2) : Port := s.ports.get p
def State.setPort (s : State) (p : Fin 2) (v : Port) : State := { s with ports := s.ports.set p v }
def State.modPort (s : State) (p : Fin 2) (f : Port → Port) : State := s.setPort p (f (s.port p))
def State.queue (s : State) (p : Fin 2) (q : Fin 16) : HostQueue := (s.port p).queues.get q
def State.modQueue (s : State) (p : Fin 2) (q : Fin 16) (f : HostQueue → HostQueue) : State :=
  s.modPort p fun v => { v with queues := v.queues.set q (f (v.queues.get q)) }
def State.link (s : State) (n : Fin 16) : Link := s.links.get n
def State.modLink (s : State) (n : Fin 16) (f : Link → Link) : State := { s with links := s.links.set n (f (s.link n)) }

def Core.strand (k : Core) (n : Fin 4) : Strand := k.strands.get n
def Core.setStrand (k : Core) (n : Fin 4) (t : Strand) : Core := { k with strands := k.strands.set n t }
def State.strand (s : State) (c : Nat) (n : Fin 4) : Strand := (s.core c).strand n
def State.setStrand (s : State) (c : Nat) (n : Fin 4) (t : Strand) : State := s.modCore c fun k => k.setStrand n t
def State.modStrand (s : State) (c : Nat) (n : Fin 4) (f : Strand → Strand) : State := s.setStrand c n (f (s.strand c n))

/-- Cores of the package (R11). -/
def coreCount : Nat := 4096

/-- The die of a physical core (R5). -/
def dieOf (c : Nat) : Nat := c / 256

/-- The package cluster of a physical core (R13). -/
def clusterOf (c : Nat) : Nat := 4 * (c / 256) + 2 * (c / 16 % 16 / 8) + c % 16 / 8

/-- The cores of a package cluster, ascending (R13). -/
def clusterCores (k : Nat) : List Nat :=
  (List.range 64).map fun i => 256 * (k / 4) + 16 * (8 * (k % 4 / 2) + i / 8) + 8 * (k % 2) + i % 8

/-- The strands of a core. -/
def strandNums : List (Fin 4) := [0, 1, 2, 3]

/-- A strand number as the index of the state's vector. -/
def fin4 (n : Nat) : Fin 4 := Fin.ofNat 4 n

/-! ## The acting strand -/

def State.me (s : State) : Strand := s.strand s.cur.core s.cur.strand
def State.setMe (s : State) (t : Strand) : State := s.setStrand s.cur.core s.cur.strand t
def State.modMe (s : State) (f : Strand → Strand) : State := s.setMe (f s.me)
def State.myCore (s : State) : Core := s.core s.cur.core
def State.modMyCore (s : State) (f : Core → Core) : State := s.modCore s.cur.core f

/-! ## Registers (R27, R35) -/

/-- Register `r` of the access counter: a0 reads 0. -/
def Strand.a (t : Strand) (r : BitVec 5) : Word := if r = 0#5 then 0#64 else t.areg.get r.toFin
/-- Register `r` of the execute counter: x0 reads 0. -/
def Strand.x (t : Strand) (r : BitVec 5) : Word := if r = 0#5 then 0#64 else t.xreg.get r.toFin
/-- A write of an a register: a write of a0 is discarded. -/
def Strand.setA (t : Strand) (r : BitVec 5) (v : Word) : Strand :=
  if r = 0#5 then t else { t with areg := t.areg.set r.toFin v }
def Strand.setX (t : Strand) (r : BitVec 5) (v : Word) : Strand :=
  if r = 0#5 then t else { t with xreg := t.xreg.set r.toFin v }
/-- Register `r` of the file of counter `k` (R35). -/
def Strand.reg (t : Strand) (k : Ctr) (r : BitVec 5) : Word :=
  match k with
  | .a => t.a r
  | .x => t.x r
def Strand.setReg (t : Strand) (k : Ctr) (r : BitVec 5) (v : Word) : Strand :=
  match k with
  | .a => t.setA r v
  | .x => t.setX r v

/-- Register a-r is unavailable (R49, R50). -/
def Strand.isBusy (t : Strand) (r : BitVec 5) : Bool := t.busy.getLsbD r.toNat
def Strand.setBusy (t : Strand) (r : BitVec 5) : Strand :=
  if r = 0#5 then t else { t with busy := t.busy ||| (1#32 <<< r.toNat) }
def Strand.clearBusy (t : Strand) (r : BitVec 5) : Strand := { t with busy := t.busy &&& ~~~(1#32 <<< r.toNat) }

/-- Whether counter `k` must wait for one of the registers (R49): only a registers become unavailable for longer than an
instruction's latency. -/
def Strand.waits (t : Strand) (k : Ctr) (rs : List (BitVec 5)) : Bool :=
  match k with
  | .a => t.busy != 0#32 && rs.any t.isBusy
  | .x => false

/-! ## Program counters and loop levels -/

def Strand.pc (t : Strand) (k : Ctr) : BitVec 22 :=
  match k with
  | .a => t.pcA
  | .x => t.pcX
def Strand.setPc (t : Strand) (k : Ctr) (v : BitVec 22) : Strand :=
  match k with
  | .a => { t with pcA := v, orgA := none }
  | .x => { t with pcX := v, orgX := none }
def Strand.passed (t : Strand) (k : Ctr) : Word :=
  match k with
  | .a => t.passedA
  | .x => t.passedX
def Strand.addPassed (t : Strand) (k : Ctr) (n : Nat) : Strand :=
  match k with
  | .a => { t with passedA := t.passedA + BitVec.ofNat 64 n }
  | .x => { t with passedX := t.passedX + BitVec.ofNat 64 n }
def Strand.held (t : Strand) (k : Ctr) : Option (BitVec 22 × Instr) :=
  match k with
  | .a => t.heldA
  | .x => t.heldX
def Strand.setHeld (t : Strand) (k : Ctr) (h : Option (BitVec 22 × Instr)) : Strand :=
  match k with
  | .a => { t with heldA := h }
  | .x => { t with heldX := h }
def Strand.loops (t : Strand) (k : Ctr) : Vector Level 3 :=
  match k with
  | .a => t.loopsA
  | .x => t.loopsX
def Strand.setLoops (t : Strand) (k : Ctr) (l : Vector Level 3) : Strand :=
  match k with
  | .a => { t with loopsA := l }
  | .x => { t with loopsX := l }

/-- passed(A) − passed(X) (R37). -/
def Strand.slip (t : Strand) : Int := (t.passedA - t.passedX).toInt

/-- Whether counter `k` may pass `n` more words (R37). -/
def Strand.slipOk (t : Strand) (k : Ctr) (n : Nat) : Bool :=
  let lead : Int := match k with
    | .a => t.slip
    | .x => -t.slip
  lead + n ≤ t.slipw.toNat

/-- Whether `pc` is the end word of an active level that is not held (R44, R285). -/
def Level.endsAt (l : Level) (pc : BitVec 22) : Bool := l.active && !l.held && l.stop == pc

def endsLoop (ls : Vector Level 3) (pc : BitVec 22) : Bool := ls.toList.any fun l => l.endsAt pc

/-- R44 for levels 0, 1 and 2 in order: the levels afterwards, the loop-back target, and whether an iteration of lc0 ended. -/
def passEnd (ls : Vector Level 3) (pc : BitVec 22) : Vector Level 3 × Option (BitVec 22) × Bool :=
  let l0 := ls.get 0
  let l1 := ls.get 1
  let l2 := ls.get 2
  let e0 := l0.endsAt pc
  if e0 && 1#32 < l0.rem then (ls.set 0 { l0 with rem := l0.rem - 1 }, some l0.start, true)
  else
    let ls := if e0 then ls.set 0 { l0 with active := false } else ls
    if l1.endsAt pc && 1#32 < l1.rem then (ls.set 1 { l1 with rem := l1.rem - 1 }, some l1.start, e0)
    else
      let ls := if l1.endsAt pc then ls.set 1 { l1 with active := false } else ls
      if l2.endsAt pc && 1#32 < l2.rem then (ls.set 2 { l2 with rem := l2.rem - 1 }, some l2.start, e0)
      else
        let ls := if l2.endsAt pc then ls.set 2 { l2 with active := false } else ls
        (ls, none, e0)

/-- FMTIDX.IDX follows the level it is bound to while that level is active (R48). -/
def Strand.syncIdx (t : Strand) : Strand :=
  if t.fmtidx.getLsbD 6 then
    let l := t.loopsX.get (Fin.ofNat 3 ((t.fmtidx.extractLsb' 4 2).toNat % 3))
    if l.active then
      { t with fmtidx := (t.fmtidx &&& ~~~15#64) ||| ((l.count - l.rem).zeroExtend 64 &&& 15#64) }
    else t
  else t

/-- BASE advances by 1 modulo 8 while EN = 1 (R46). -/
def advanceRot (r : Word) : Word :=
  if r.getLsbD 3 then (r &&& ~~~7#64) ||| ((r + 1#64) &&& 7#64) else r

/-- Counter `k` has passed the word at `pc` and goes to the word that R44 gives, or falls through. `rotw`: the word itself
wrote ROTBASE (R439). -/
def Strand.advance (t : Strand) (k : Ctr) (pc : BitVec 22) (rotw : Bool) : Strand :=
  let (ls, back, it) := passEnd (t.loops k) pc
  let t := t.setLoops k ls
  let t := t.setPc k (back.getD (pc + 4#22))
  match k with
  | .a => t
  | .x => (if it && !rotw then { t with rotbase := advanceRot t.rotbase } else t).syncIdx

/-- Counter `k` goes to byte address `target` (Next of R328). A target that 22 bits cannot hold leaves the counter at the
word that named it, marked (R36). -/
def Strand.goto (t : Strand) (k : Ctr) (pc : BitVec 22) (target : Int) : Strand :=
  let t := if 0 ≤ target && target < 2 ^ 22 then t.setPc k (BitVec.ofInt 22 target)
    else match k with
      | .a => { t with pcA := pc, orgA := some pc }
      | .x => { t with pcX := pc, orgX := some pc }
  match k with
  | .a => t
  | .x => t.syncIdx

/-! ## Panels and queues -/

/-- The physical panel of panel operand `n` (R46). -/
def Strand.phys (t : Strand) (n : BitVec 5) : Fin 16 :=
  let m := n.toNat % 16
  if 8 ≤ m && t.rotbase.getLsbD 3 then Fin.ofNat 16 (8 + (m - 8 + (t.rotbase.extractLsb' 0 3).toNat) % 8)
  else Fin.ofNat 16 m

def Strand.panel (t : Strand) (n : BitVec 5) : Panel := t.panels.get (t.phys n)
def Strand.setPanel (t : Strand) (n : BitVec 5) (v : Panel) : Strand := { t with panels := t.panels.set (t.phys n) v }

/-- A row entry that can be popped as a row, a scalar, or one that is not yet poppable (R39, R369). -/
def Queue.poppable (q : Queue) : Nat :=
  (q.entries.takeWhile fun e => match e with
    | .reserved _ => false
    | .pending _ _ => false
    | _ => true).length

/-- Free space (R39, R40): 32 entries, reserved rows counted. -/
def Queue.free (q : Queue) : Nat := 32 - q.entries.length

def Queue.push (q : Queue) (es : List QEntry) : Queue := { q with entries := q.entries ++ es }
def Queue.drop (q : Queue) (n : Nat) : Queue :=
  { head := q.head + BitVec.ofNat 5 n, entries := q.entries.drop n }

/-- The row of an entry; none for a scalar. -/
def QEntry.row? : QEntry → Option Row
  | .row r => some r
  | .reserved r => some r
  | .early r => some r
  | .pending _ _ => none
  | .scalar _ => none

/-! ## Reads that have issued (R189, R368) -/

/-- Every read below `rd` has been performed: what was issued behind them may be seen. -/
def Strand.visible (t : Strand) (rd : Nat) : Bool := t.reads.head?.all fun o => rd ≤ o.id

/-- Entries at the head of A→X queue `q` that the execute counter may pop (R39, R368, R369). -/
def Strand.axReady (t : Strand) (q : Fin 4) : Nat := min (t.qax.get q).poppable ((t.qax.get q).entries.length - t.hid.get q)

/-- X→A queue `q` as the access counter sees it: without the entries that it has popped and not yet released. -/
def Strand.xaView (t : Strand) (q : Fin 4) : Queue := (t.qxa.get q).drop (t.took.get q)

/-- The access counter pushes entries onto A→X queue `q`; behind an outstanding read they are hidden. -/
def Strand.pushAX (t : Strand) (q : Fin 4) (es : List QEntry) (hide : Bool) : Strand :=
  { t with
    qax := t.qax.set q ((t.qax.get q).push es)
    hid := if hide then t.hid.set q (t.hid.get q + es.length) else t.hid }

/-- The access counter pops `n` entries of X→A queue `q`; behind an outstanding read they are not released. -/
def Strand.popXA (t : Strand) (q : Fin 4) (n : Nat) (hide : Bool) : Strand :=
  if hide then { t with took := t.took.set q (t.took.get q + n) }
  else { t with qxa := t.qxa.set q ((t.xaView q).drop n), took := t.took.set q 0 }

/-- What the access counter would return to. -/
def Snap.of (t : Strand) : Snap :=
  { areg := t.areg, busy := t.busy, pcA := t.pcA, heldA := t.heldA, orgA := t.orgA, loopsA := t.loopsA, passedA := t.passedA,
    fence := t.fence, streamCount := t.streamCount, matrixCount := t.matrixCount, hid := t.hid, took := t.took }

/-- An older result `v` arrives in register a-r, or only frees it, where the snapshot was taken while it was unavailable. -/
def Snap.arrive (p : Snap) (r : BitVec 5) (v : Option Word) : Snap :=
  if p.busy.getLsbD r.toNat then
    { p with
      busy := p.busy &&& ~~~(1#32 <<< r.toNat)
      areg := match v with
        | some v => p.areg.set r.toFin v
        | none => p.areg }
  else p

/-- A result arrives in register a-r, or the register becomes available and keeps its value (R49, R50, R288). -/
def Strand.arrive (t : Strand) (r : BitVec 5) (v : Option Word) : Strand :=
  if r = 0#5 then t
  else
    let t := match v with
      | some v => t.setA r v
      | none => t
    { t.clearBusy r with reads := t.reads.map fun o => { o with snap := o.snap.arrive r v } }

/-- A read meets POISON: every group that issued after it is discarded, and the access counter stands as before its group
(R368). -/
def Strand.discard (t : Strand) (o : ReadOp) : Strand :=
  let p := o.snap
  { t with
    areg := p.areg, busy := p.busy, pcA := p.pcA, heldA := p.heldA, orgA := p.orgA, loopsA := p.loopsA, passedA := p.passedA,
    fence := p.fence, streamCount := p.streamCount, matrixCount := p.matrixCount
    qax := Vector.ofFn fun q =>
      { t.qax.get q with
        entries := ((t.qax.get q).entries.take ((t.qax.get q).entries.length - (t.hid.get q - p.hid.get q))).filter fun e =>
          match e with
          | .early _ => false
          | _ => true }
    hid := p.hid, took := p.took, reads := []
    sbuf := t.sbuf.filter fun e => e.rd ≤ o.id
    late := t.late.filter fun e => e.rd ≤ o.id
    semops := t.semops.filter fun e => e.rd ≤ o.id
    resops := t.resops.filter fun e => e.rd ≤ o.id }

/-- The same for the core: the commands that issued after read `o` of strand `n` go, and INJECT chooses again (R225). -/
def Core.discard (k : Core) (n : Fin 4) (o : ReadOp) : Core :=
  let late : StrCmd → Bool := fun c => c.strand == n && decide (o.id < c.rd)
  { k.setStrand n ((k.strand n).discard o) with
    sq := k.sq.filter fun c => !late c
    mq := k.mq.filter fun c => !(c.strand == n && decide (o.id < c.rd))
    chosen := k.chosen && !(k.sq.any fun c => late c && c.inject) }

/-- The oldest read is done and `rest` is left: what was issued behind it, up to the next read, may now be seen: its pushes
can be popped and its pops are released. -/
def Strand.settle (t : Strand) (rest : List ReadOp) : Strand :=
  let h := match rest with
    | [] => t.hid
    | o :: _ => o.snap.hid
  let k := match rest with
    | [] => t.took
    | o :: _ => o.snap.took
  { t with
    hid := Vector.ofFn fun q => t.hid.get q - h.get q
    took := Vector.ofFn fun q => t.took.get q - k.get q
    qxa := Vector.ofFn fun q => (t.qxa.get q).drop (k.get q)
    reads := rest.map fun o => { o with snap := { o.snap with
      hid := Vector.ofFn fun q => o.snap.hid.get q - h.get q
      took := Vector.ofFn fun q => o.snap.took.get q - k.get q } } }

/-- The same for the core: the matrix commands that may now be seen reach the queue's end in their order (R158, R368). -/
def Core.settle (k : Core) (n : Fin 4) (id : Nat) (rest : List ReadOp) : Core :=
  let t := (k.strand n).settle rest
  let fresh : MatCmd → Bool := fun c => c.strand == n && decide (id < c.rd) && t.visible c.rd
  { k.setStrand n t with mq := (k.mq.filter fun c => !fresh c) ++ k.mq.filter fresh }

/-- COUNT and OVF of a semaphore (R178). -/
def semCount (v : Word) : Nat := v.toNat % 2 ^ 56
def semOvf (v : Word) : Bool := v.getLsbD 56
def semWord (count : Nat) (ovf : Bool) : Word := BitVec.ofNat 64 (count + if ovf then 2 ^ 56 else 0)

/-- A SEMWAIT takes its threshold from COUNT (R179). -/
def Core.takeSem (k : Core) (m : Fin 64) (v : Nat) : Core :=
  { k with sems := k.sems.set m (semWord (semCount (k.sems.get m) - v) (semOvf (k.sems.get m))) }

/-- Strand `n` waits for no read any more: what stood behind them in the engines' queues is seen, and what its SEMWAITs took
is taken. -/
def Core.settleAll (k : Core) (n : Fin 4) : Core :=
  let t := k.strand n
  let k := match t.reads with
    | [] => k
    | o :: _ => k.settle n o.id []
  t.late.foldl (fun k o => match o.kind with
    | .take m v => k.takeSem m v.toNat
    | _ => k) k

/-! ## Tasks, text and regions -/

def State.task? (s : State) (key : Nat) : Option Task := s.tasks.find? fun t => t.key == key
def State.modTask (s : State) (key : Nat) (f : Task → Task) : State :=
  { s with tasks := s.tasks.map fun t => if t.key == key then f t else t }

/-- A task that protects its text: bound, and not ended (R135, R55). -/
def Task.live (t : Task) : Bool :=
  match t.st with
  | .running => true
  | .draining => true
  | .stopping => true
  | _ => false

/-- Protected text ranges of a core (R135). -/
def State.textRanges (s : State) (c : Nat) : List (Nat × Nat) :=
  (s.tasks.filter fun t => t.live && t.core == c).map fun t => (t.textBase, t.textEnd)

/-- Whether [a, a + n) of core `c` meets a protected text range. -/
def State.meetsText (s : State) (c a n : Nat) : Bool :=
  (s.textRanges c).any fun r => r.1 < a + n && a < r.2

def State.region? (s : State) (regid : Word) : Option Region := s.regions.find? fun r => r.regid == regid
def State.regionAt? (s : State) (pa : Nat) : Option Region := s.regions.find? fun r => r.pa == pa

/-- A field of the nearest region that sets it: bit `n` of OVR (R253), by at most 8 steps to the root (DEPTH 0 to 7). -/
def State.ancestor (s : State) (n : Nat) : Nat → Region → Region
  | 0, r => r
  | fuel + 1, r =>
    if r.ovr.getLsbD n then r
    else match s.regionAt? r.parent with
      | some p => s.ancestor n fuel p
      | none => r

/-- The effective holder of the field that OVR bit `n` marks. -/
def State.inherit (s : State) (n : Nat) (r : Region) : Region := s.ancestor n 8 r

/-- The chain from a region to its root. -/
def State.chain (s : State) : Nat → Region → List Region
  | 0, r => [r]
  | fuel + 1, r =>
    if r.parent = 0 then [r]
    else match s.regionAt? r.parent with
      | some p => r :: s.chain fuel p
      | none => [r]

def State.rootOf (s : State) (r : Region) : Region := ((s.chain 8 r).getLast?).getD r

/-- The block opens a context: it sets FLAGS (OVR bit 2) with CONTEXT = 1 (R252, R253). -/
def Region.context (r : Region) : Bool := r.ovr.getLsbD 2 && r.flags.getLsbD 1

/-- The destroyed region of a REGID. -/
def State.gone? (s : State) (regid : Word) : Option Gone := s.gone.find? fun g => g.regid == regid

/-- The region that stands for a REGID: its own, or for a destroyed one the nearest ancestor that is left (DEPTH 0 to 7). The
Bool says that the context went with it. -/
def State.heir (s : State) : Nat → Word → Option Region × Bool
  | 0, _ => (none, true)
  | fuel + 1, regid =>
    match s.region? regid, s.gone? regid with
    | some r, _ => (some r, false)
    | none, some g =>
      if g.parent = 0#64 then (none, true)
      else
        let h := s.heir fuel g.parent
        (h.1, h.2 || g.context)
    | none, none => (none, true)

/-- The context of a region: the REGID of the nearest block with CONTEXT = 1 (R253). -/
def State.contextOf (s : State) (regid : Word) : Word :=
  match s.heir 8 regid with
  | (some r, false) => ((s.chain 8 r).find? Region.context).elim 0#64 (·.regid)
  | _ => 0#64

/-- The port that created the root of a region (R222, R312); 2 where there is none. -/
def State.portOf (s : State) (regid : Word) : Nat :=
  match s.region? regid with
  | some r => (s.rootOf r).port
  | none => ((s.gone? regid).map (·.port)).getD 2

/-- Regions of the subtree of `r`, itself included. -/
def State.subtree (s : State) (r : Region) : List Region :=
  s.regions.filter fun b => (s.chain 8 b).any fun a => a.regid == r.regid

/-- The core that region `regid` holds, reserved or mapped, under logical CORE `l` (R166, R262). -/
def State.resolve (s : State) (regid : Word) (l : BitVec 12) : Option Nat :=
  (s.cores.find? fun e => e.2.slot != .free && e.2.regid == regid && e.2.lcore == l).map (·.1)

/-- The REGID of the task of a key. -/
def State.regidOf (s : State) (key : Nat) : Word := ((s.task? key).map (·.regid)).getD 0#64

/-! ## Rings, records, notices -/

/-- A ring entry of 32 bytes from its fields (value, byte offset). -/
def entry32 (fs : List (Nat × Nat)) : BitVec 256 :=
  fs.foldl (fun acc f => acc ||| (BitVec.ofNat 256 f.1 <<< (8 * f.2))) 0#256

def State.pushRing (s : State) (cl : Nat) (ring : Fin 4) (e : BitVec 256) : State :=
  s.modCluster cl fun k => { k with rings := k.rings.set ring (k.rings.get ring ++ [e]) }

/-- A ring 2 entry (R266, R267). -/
def State.completion (s : State) (t : Task) (event status : Nat) : State :=
  s.pushRing (clusterOf t.core) 2
    (entry32 [(t.tid.toNat, 0), (t.core, 8), (t.strands.toNat, 10), (event, 11), (status, 12)])

/-- Bits of the uncorrectable errors that a port logs (assumption 92): a completion timeout, an unsupported request. -/
def errTimeout : BitVec 32 := 0x4000#32
def errRequest : BitVec 32 := 0x100000#32

/-- The die of a port (R23). -/
def portDie (p : Fin 2) : Nat := if p = 0 then 0 else 15

/-- The port and its command processor are reachable (R25, R304). -/
def State.portUp (s : State) (p : Fin 2) : Bool := (s.die (portDie p)).health != .failed

/-- The supervisors of a cluster's die run: it is neither retired nor failed (R25). -/
def State.supervised (s : State) (cluster : Nat) : Bool :=
  (s.die (cluster / 4)).health != .retired && (s.die (cluster / 4)).health != .failed

/-- An error is logged at a port (R305). -/
def State.portError (s : State) (p : Fin 2) (e : BitVec 32) : State := s.modPort p fun v => { v with errors := v.errors ||| e }

/-- A port sends an MSI-X vector: a write of its data at its address, kept pending while the vector is masked (R305). -/
def Port.signal (v : Port) (n : BitVec 6) : Port :=
  let x := v.vecs.get n.toFin
  let v := { v with msix := v.msix ++ [n] }
  if x.masked then { v with vecs := v.vecs.set n.toFin { x with pending := true } }
  else { v with host := writeCells v.host x.addr.toNat (natBytes 4 x.data.toNat) }

/-- The eight words of a notice (R290). -/
def noticeWords (tid regid : Word) (lcore : Nat) (event : Nat) (cause pc arg : Word) : List Word :=
  [tid, regid, BitVec.ofNat 64 (lcore + 5 * 2 ^ 16 + event * 2 ^ 24), cause, pc, arg, 0#64, 0#64]

/-- A notice or record set on its way to the fault domain of a region (R222, R290). -/
def State.report (s : State) (regid : Word) (ws : List Word) : State :=
  { s with records := s.records ++ [{ regid := regid, port := s.portOf regid, words := ws, toHost := false }] }

/-- An error record of R221. -/
def recordWords (chunk seq : Word) (step kind hoptype hop : Nat) (e1 e2 f1 f2 gen : Word) : List Word :=
  [chunk, seq, BitVec.ofNat 64 (step + kind * 2 ^ 16 + hoptype * 2 ^ 24 + hop * 2 ^ 32), e1, e2, f1, f2, gen]

/-- SEQ of an event of one core (R221). -/
def eventSeq (source : Nat) (strand core : Nat) (count : Word) : Word :=
  BitVec.ofNat 64 (count.toNat % 2 ^ 32 + core * 2 ^ 32 + strand * 2 ^ 44 + source * 2 ^ 46)

/-- HOP of a core (R221). -/
def State.hopCore (s : State) (c : Nat) : Nat := (s.core c).lcore.toNat + c * 2 ^ 16

/-! ## Taking an exception (R280 to R292) -/

/-- Cause codes (R280). -/
def causeIllegal : Nat := 1
def causeSpace : Nat := 2
def causeAlign : Nat := 3
def causePoison : Nat := 4
def causeQueue : Nat := 5
def causeSemOvf : Nat := 6
def causeNumver : Nat := 7
def causeTrap : Nat := 8
def causeConflict : Nat := 9
def causeOverlap : Nat := 10
def causeWalk : Nat := 11
def causeCard : Nat := 12
def causeStream : Nat := 13
def causeHeader : Nat := 14
def causeNotation : Nat := 15
def causeStalemate : Nat := 16
def causeRegionEnd : Nat := 17
def causeDieFailed : Nat := 18
def causeLinkFailed : Nat := 19

/-- TRAPCAUSE (R281). -/
def causeWord (cause : Nat) (ctr : Nat) (async eng : Bool) (detail : BitVec 16) (slip : Int) : Word :=
  BitVec.ofNat 64 (cause + ctr * 2 ^ 16 + (if async then 2 ^ 17 else 0) + (BitVec.ofInt 12 slip).toNat * 2 ^ 32
    + (if eng then 2 ^ 44 else 0) + detail.toNat * 2 ^ 48)

/-- TRAPPC from the two resume addresses (R282). -/
def pcPair (a x : BitVec 22) : Word := BitVec.ofNat 64 (a.toNat + x.toNat * 2 ^ 32)

/-- Byte address of the handler, ENTRY × 4 (R283). -/
def Strand.entry (t : Strand) : BitVec 22 := (t.trapvec.extractLsb' 2 20) ++ 0#2

/-- The text of the task a strand runs. -/
def State.textOf (s : State) (t : Strand) : Nat × Nat :=
  match s.task? t.task with
  | some k => (k.textBase, k.textEnd)
  | none => (0, 0)

def inRange (r : Nat × Nat) (a : Nat) : Bool := r.1 ≤ a && a < r.2

/-- EN = 1 and the entry lies in the text (R284). -/
def State.canHandle (s : State) (t : Strand) : Bool :=
  t.trapvec.getLsbD 0 && inRange (s.textOf t) t.entry.toNat

/-- The address at which a counter resumes: the first word of a group it holds, or its next word (R284, R58). -/
def Strand.resume (t : Strand) (k : Ctr) : BitVec 22 :=
  match t.held k with
  | some (pc, _) => pc
  | none => t.pc k

/-- Marks the active levels held (R285). -/
def holdLevels (ls : Vector Level 3) : Vector Level 3 := ls.map fun l => if l.active then { l with held := true } else l
def releaseLevels (ls : Vector Level 3) : Vector Level 3 := ls.map fun l => { l with held := false }

/-- Both counters of the strand enter the handler (R284), TRAPCAUSE being `cause` with SLIP as it stands, and `pa` and `px`
the resume addresses. -/
def Strand.enterHandler (t : Strand) (cause : Word) (pa px : BitVec 22) : Strand :=
  { t with
    trapcause := cause ||| BitVec.ofNat 64 ((BitVec.ofInt 12 t.slip).toNat * 2 ^ 32)
    trappc := pcPair pa px
    trapvec := t.trapvec ||| 2#64
    passedX := t.passedA
    pcA := t.entry, pcX := t.entry, orgA := none, orgX := none
    heldA := none, heldX := none, xstop := .no
    loopsA := holdLevels t.loopsA, loopsX := holdLevels t.loopsX }

/-- The token writes of a task's commands are discarded from now on (R289). -/
def Core.dropTokens (k : Core) (key : Nat) : Core :=
  { k with
    sq := k.sq.map fun c => if c.task == key then { c with tok := 0#5 } else c
    mq := k.mq.map fun c => if c.task == key then { c with tok := 0#5 } else c }

/-- A strand that runs nothing: its queue entries and registers cease to exist (R32). The engines keep what it issued. -/
def Strand.ended (t : Strand) : Strand :=
  { Strand.reset with sbuf := t.sbuf, sbNext := t.sbNext, rdNext := t.rdNext, semops := t.semops, resops := t.resops }

/-- Ends every strand of a core that runs the task, its handlers included. -/
def Core.stopTask (k : Core) (key : Nat) : Core :=
  strandNums.foldl (fun k n =>
    if (k.strand n).task == key then
      let k := k.settleAll n
      k.setStrand n (k.strand n).ended
    else k) k

/-- The registrations of a task are removed (R261), and its pending handlers discarded (R289). -/
def Core.unbindTask (k : Core) (key : Nat) : Core :=
  { k with
    mailboxes := k.mailboxes.map fun m => if m.valid && m.owner == key then Mailbox.none else m
    pending := k.pending.filter fun p => p.owner != key
    ingress := k.ingress.filter fun d => d.bound.all fun b => b.1 != key }

/-- A user cause that cannot be delivered ends its task (R289): strands and handlers stop, pending handlers and mailbox
registrations go, ring 2 receives event 1 with status 4, and a notice goes to the fault domain. -/
def State.escalate (s : State) (c : Nat) (key : Nat) (cause pc : Word) : State :=
  match s.task? key with
  | none => s
  | some t =>
    let s := s.modCore c fun k => ((k.stopTask key).unbindTask key).dropTokens key
    let s := s.modTask key fun t => { t with st := .ended, fired := true }
    let s := s.completion t 1 4
    s.report t.regid (noticeWords t.tid t.regid (s.core c).lcore.toNat 1 cause pc 0#64)

/-- Takes a precise cause at the word of the acting counter (R284, R287): into the handler, or by escalation. `s` is the
state before the word's group; a TRAP resumes after its word (R408). -/
def State.deliverNow (s : State) (pc : BitVec 22) (cause : Nat) (detail : BitVec 16) : State :=
  let t := s.me
  let here := if cause = causeTrap then pc + 4#22 else pc
  let pa := match s.cur.ctr with
    | .a => here
    | .x => t.resume .a
  let px := match s.cur.ctr with
    | .a => t.resume .x
    | .x => here
  let cw := causeWord cause (match s.cur.ctr with | .a => 0 | .x => 1) false false detail 0
  let s' := { s with cur := { s.cur with res := .trapped pc cause detail } }
  if s.canHandle t && !t.trapvec.getLsbD 1 then s'.setMe (t.enterHandler cw pa px)
  else
    s'.escalate s.cur.core t.task
      (cw ||| BitVec.ofNat 64 ((BitVec.ofInt 12 t.slip).toNat * 2 ^ 32)) (pcPair pa px)

/-- A word of a counter raises a precise cause. It waits for the reads of the access counter, of which one may meet POISON
first and move that counter back (R368). -/
def State.deliver (s : State) (pc : BitVec 22) (cause : Nat) (detail : BitVec 16) : State :=
  if !s.me.reads.isEmpty then { s with cur := { s.cur with res := .waiting } }
  else s.deliverNow pc cause detail

/-- A token register becomes available and keeps its value (R288). -/
def State.releaseToken (s : State) (c : Nat) (n : Fin 4) (cause : Word) : State :=
  let r : BitVec 5 := cause.extractLsb' 48 5
  s.modStrand c n fun t => t.arrive r none

/-- Takes an async cause of strand `n` of core `c` (R284, R288), or escalates. -/
def State.deliverAsync (s : State) (c : Nat) (n : Fin 4) (cause : Word) : State :=
  let t := s.strand c n
  let s := s.releaseToken c n cause
  let t' := s.strand c n
  if s.canHandle t then s.setStrand c n (t'.enterHandler cause (t.resume .a) (t.resume .x))
  else s.escalate c t.task (cause ||| BitVec.ofNat 64 ((BitVec.ofInt 12 t.slip).toNat * 2 ^ 32)) (pcPair (t.resume .a) (t.resume .x))

/-- An engine reports an async cause to a strand (R284, R287): it waits in the pending list of up to 24 entries while EN = 1
and the entry lies in the text, and escalates at once otherwise. ASYNC_CAUSE_DELIVERY takes it from the list. -/
def State.raiseAsync (s : State) (c : Nat) (n : Fin 4) (key : Nat) (cause : Nat) (eng : Bool) (tok : BitVec 5) (count : Word) : State :=
  let t := s.strand c n
  if key = 0 || t.task != key then s
  else
    let detail : BitVec 16 := BitVec.ofNat 16 (tok.toNat + (count.toNat % 2048) * 32)
    let cw := causeWord cause 0 true eng detail 0
    if s.canHandle t then s.setStrand c n { t with async := t.async ++ [cw] }
    else s.escalate c key (cw ||| BitVec.ofNat 64 ((BitVec.ofInt 12 t.slip).toNat * 2 ^ 32)) (pcPair (t.resume .a) (t.resume .x))

/-- The return of the access counter from a handler (R286): its levels, and its place as the strand `v` gives it in TRAPPC. -/
def Strand.eretA (t v : Strand) : Strand :=
  { t with loopsA := releaseLevels t.loopsA, pcA := v.trappc.extractLsb' 0 22, orgA := none }

/-- passed(X) after ERET: SLIP of TRAPCAUSE restored (R286). -/
def Strand.eretPassed (t : Strand) : Word := t.passedA - (t.trapcause.extractLsb' 32 12).signExtend 64

/-- The return of the execute counter, and ACTIVE cleared (R286). -/
def Strand.eretX (t : Strand) (passedX : Word) (pcX : BitVec 22) : Strand :=
  { t with
    passedX := passedX, pcX := pcX, loopsX := releaseLevels t.loopsX, trapvec := t.trapvec &&& ~~~2#64
    orgX := none, heldX := none, xstop := .no }

/-! ## How a word issues -/

/-- What a word does when its group would issue. -/
inductive Act where
  /-- its effect; the counter goes on -/
  | done (s : State)
  /-- its effect, and the next word (Next of R328) -/
  | jump (s : State) (target : Int)
  /-- its effect, counters placed -/
  | final (s : State)
  /-- it waits (R56) -/
  | wait
  /-- it would pop an entry of the wrong kind (R41): `s` is the state with its pops made, in which the second word of its
  group must be able to issue before QUEUE-FAULT is raised -/
  | queueFault (s : State)
  /-- it raises a cause, and no word of its group takes effect -/
  | trap (cause : Nat) (detail : BitVec 16)
  /-- the same, with the resume address elsewhere (R378) -/
  | trapAt (pc : BitVec 22) (cause : Nat) (detail : BitVec 16)

def State.res (s : State) (r : Res) : State := { s with cur := { s.cur with res := r } }

/-- The counter has issued a group of `n` words that ends at `pc` (R34, R44). -/
def State.issued (s : State) (n : Nat) (pc : BitVec 22) : State :=
  (s.modMe fun t => (((t.addPassed s.cur.ctr n).setHeld s.cur.ctr none).advance s.cur.ctr pc s.cur.rotw)).res .issued

/-- The same when the last word names the next (R337). A target of the word after it is no transfer: R44 applies. -/
def State.jumped (s : State) (n : Nat) (pc : BitVec 22) (target : Int) : State :=
  if target = (pc.toNat : Int) + 4 then s.issued n pc
  else
    (s.modMe fun t => (((t.addPassed s.cur.ctr n).setHeld s.cur.ctr none).goto s.cur.ctr pc target)).res .issued

/-- A first word with E = 0 is gathered (R33). -/
def State.gather (s : State) (i : Instr) : State :=
  (s.modMe fun t => (t.setHeld s.cur.ctr (some (s.cur.pc, i))).setPc s.cur.ctr (s.cur.pc + 4#22)).res .gathered

/-- AMO and CAS are performed in the clock in which their group issues (R335, R342): what follows one in its group stands
apart, and a read that the second word makes returns to the point between the two (assumption 20). -/
def solid : Instr → Bool
  | .amo _ _ _ _ _ _ _ => true
  | .cas _ _ _ _ _ => true
  | _ => false

/-- The word reads memory after it issues (R368). -/
def readsLate : Instr → Bool
  | .ld _ _ _ _ _ => true
  | .ldAcq _ _ _ _ _ => true
  | .pld _ _ _ _ => true
  | .gath _ _ _ _ _ _ => true
  | .scat _ _ _ _ _ _ => true
  | _ => false

/-- Reads that a group makes after the word being executed. -/
def State.ahead (s : State) : Nat :=
  match s.cur.phase with
  | .single => 0
  | _ => s.cur.ahead

/-- The mark of an effect of the word being executed: reads below it are older, or of its own group (R368). -/
def State.rdMark (s : State) : Nat := s.me.rdNext + s.ahead

/-- The effects of the word being executed are hidden by an outstanding read (R368). -/
def State.hides (s : State) : Bool := !s.me.reads.isEmpty || s.ahead != 0

/-- The word being executed is the second of a group whose first word stands apart. -/
def State.afterSolid (s : State) : Bool :=
  match s.cur.phase with
  | .second => s.me.heldA.any fun h => solid h.2
  | _ => false

/-- What the word being executed would return to. -/
def State.snapHere (s : State) : Snap :=
  let t := s.me
  if s.afterSolid then { Snap.of t with pcA := s.cur.pc, heldA := none, passedA := t.passedA + 1#64 } else Snap.of t

/-- Runs the word at the acting counter. A word with E = 0 is gathered. A group of one word takes effect and its counter
goes on; the words of a group of two take effect one after the other, and their pair is completed by the counter's turn
(Machine/Run.lean). -/
def issueWord (i : Instr) (e : BitVec 1) (body : State → Act) (s : State) : Host.Outcome State Fault Refusal :=
  match s.cur.phase with
  | .single =>
    if e = 0#1 then .next (s.gather i)
    else
      match body s with
      | .done s' => .next (s'.issued 1 s.cur.pc)
      | .jump s' t => .next (s'.jumped 1 s.cur.pc t)
      | .final s' => .next (s'.res .ended)
      | .wait => .next (s.res .waiting)
      | .queueFault _ => .next (s.deliver s.cur.pc causeQueue 0#16)
      | .trap c d => .next (s.deliver s.cur.pc c d)
      | .trapAt p c d => .next (s.deliver p c d)
  | _ =>
    match body s with
    | .done s' => .next (s'.res .issued)
    | .jump s' t => .next (s'.res (.jump t))
    | .final s' => .next (s'.res .ended)
    | .wait => .next (s.res .waiting)
    | .queueFault s' => .next (s'.res (.trapped s.cur.pc causeQueue 0#16))
    | .trap c d => .next (s.res (.trapped s.cur.pc c d))
    | .trapAt p c d => .next (s.res (.trapped p c d))

/-- The counter that a shared word of tag `g` acts on: the tag's, or for a both-tagged word the acting one (R35). -/
def tagCtr (g : Tag) (s : State) : Ctr :=
  match g with
  | .acc => .a
  | .exe => .x
  | .both => s.cur.ctr

/-- The state with the acting counter set to the one that the word belongs to. -/
def State.actAs (s : State) (k : Ctr) : State := { s with cur := { s.cur with ctr := k } }

/-- An immediate of `w` bits, widened by the LIMM before it (R62, R66). -/
def State.imm (s : State) {w : Nat} (i : BitVec w) : Int :=
  match s.cur.ext with
  | none => i.toInt
  | some x => (x ++ i).toInt

end Sys2Proof.Machine
end

