-- ==== Sys2Proof/Machine/Operands.lean ====
section
/-! DEFINITION. Sys2Proof/Machine/Operands.lean: the operand forms: registers, sign- and zero-extended fields, CSRs, panel
operands and queue sources, and local addresses. -/

namespace Sys2Proof.Machine

/-- A 64-bit word from an integer. -/
def wordOf (n : Int) : Word := BitVec.ofInt 64 n

/-! ## Local addresses (R134, R135) -/

/-- Bytes of local SRAM. -/
def sramSize : Nat := 0x300000

/-- An access of `n` bytes at `addr` breaks the limit of local SRAM or carries a tag other than 0. -/
def outsideSram (addr : Word) (n : Nat) : Bool :=
  addr.extractLsb' 60 4 != 0#4 || sramSize < addr.toNat + n

/-- The same for `n` bytes at a register plus an offset: the sum is exact (R6, R373), so one that 64 bits do not hold is
outside. -/
def outsideLocal (base : Word) (o : Int) (n : Nat) : Bool :=
  let addr : Int := (base.toNat : Int) + o
  decide (addr < 0) || decide ((sramSize : Int) < addr + n)

/-! ## CSRs (R75) -/

/-- COREID (R463). -/
def State.coreId (s : State) : Word :=
  BitVec.ofNat 64 (s.myCore.lcore.toNat + s.cur.core * 2 ^ 16)

/-- The value CSRR reads (R347). -/
def State.readCsr (s : State) (c : Nat) : Word :=
  let t := s.me
  match c with
  | 0x000 => (s.die (dieOf s.cur.core)).cyc
  | 0x001 => s.coreId
  | 0x002 => t.strandCsr
  | 0x003 => t.taskid
  | 0x010 => t.numver
  | 0x011 => t.slipw
  | 0x012 => t.rotbase
  | 0x013 => t.fmtidx
  | 0x014 => t.fpstat
  | 0x020 => s.myCore.conflicts
  | 0x021 => s.myCore.inject
  | 0x030 => t.trapcause
  | 0x031 => t.trappc
  | 0x032 => t.trapvec
  | _ => 0#64

/-- Bits that CSR `c` reserves (R31 and its layout); every bit of a read-only CSR. -/
def csrReserved (c : Nat) : Word :=
  match c with
  | 0x010 => 0xFFFFFFFFFFFFFFFC#64
  | 0x011 => 0xFFFFFFFFFFFFF800#64
  | 0x012 => 0xFFFFFFFFFFFFFFF0#64
  | 0x013 => 0xFFFFFFFFFFFFFF80#64
  | 0x014 => 0xFFFFFFFFFFFFFFC0#64
  | 0x020 => 0xFFFFFFFF00000000#64
  | 0x021 => 0xFFFFE00000000000#64
  | 0x030 => 0x0000E000FFFCFF00#64
  | 0x031 => 0xFFC00003FFC00003#64
  | 0x032 => 0xFFFFFFFFFFC00000#64
  | _ => 0xFFFFFFFFFFFFFFFF#64

/-- A read-only CSR (R75). -/
def csrReadOnly (c : Nat) : Bool := c ≤ 3

/-- The region of the acting task is debug-enabled (R252 FLAGS bit 0, with inheritance). -/
def State.debugRegion (s : State) (regid : Word) : Bool :=
  match s.region? regid with
  | none => false
  | some r => (s.inherit 2 r).flags.getLsbD 0

/-- The cause with which CSRW refuses `v`, if it does (R348). -/
def State.csrRefuses (s : State) (c : Nat) (v : Word) : Option Nat :=
  if csrReadOnly c then some causeIllegal
  else if v &&& csrReserved c != 0#64 then some causeIllegal
  else if c = 0x010 && v == 0#64 then some causeNumver
  else if c = 0x013 && v.extractLsb' 4 2 == 3#2 then some causeIllegal
  else if c = 0x021 && (!s.debugRegion (s.regidOf s.me.task) || (v.getLsbD 32 && v.extractLsb' 33 8 == 0#8)) then some causeIllegal
  else none

/-- SLIPW as stored (R38). -/
def clampSlip (v : Word) : Word := if v.toNat < 16 then 16#64 else if 1024 < v.toNat then 1024#64 else v

/-- TRAPVEC replaced; a write that clears ACTIVE releases the held levels (R348). -/
def Strand.writeTrapvec (t : Strand) (v : Word) : Strand :=
  let t := if t.trapvec.getLsbD 1 && !v.getLsbD 1 then
      { t with loopsA := releaseLevels t.loopsA, loopsX := releaseLevels t.loopsX } else t
  { t with trapvec := v }

/-- INJECT replaced: what had been chosen is taken back, in the queue and in tasks saved from the core without its core
section, and the next command of the class is chosen (R225). A write that waited behind a read of strand `n` leaves what that
strand issued after it: its task's commands after number `seq`. -/
def State.writeInject (s : State) (c : Nat) (n : Fin 4) (v : Word) (seq : Option Word) : State :=
  let key := (s.strand c n).task
  let later : StrCmd → Bool := fun q => q.strand == n && q.task == key && seq.any fun r => decide (r.toNat < q.seq.toNat)
  let s := s.modCore c fun k =>
    { k with
      inject := v
      chosen := k.sq.any fun q => later q && q.inject
      sq := k.sq.map fun q => if later q then q else { q with inject := false } }
  { s with tasks := s.tasks.map fun t =>
      if t.st == .saved && t.slotCore == c && !t.slotCoreSec then
        { t with chosen := false, cmds := t.cmds.map fun q => { q with inject := false } }
      else t }

/-- The effect of an accepted CSRW (R348). -/
def State.writeCsr (s : State) (c : Nat) (v : Word) : State :=
  match c with
  | 0x010 => s.modMe fun t => { t with numver := v }
  | 0x011 => s.modMe fun t => { t with slipw := clampSlip v }
  | 0x012 => { (s.modMe fun t => { t with rotbase := v }) with cur := { s.cur with rotw := s.cur.ctr == .x } }
  | 0x013 => s.modMe fun t => ({ t with fmtidx := v }).syncIdx
  | 0x014 => s.modMe fun t => { t with fpstat := v }
  | 0x020 => s.modMyCore fun k => { k with conflicts := v }
  | 0x021 => s.writeInject s.cur.core s.cur.strand v none
  | 0x030 => s.modMe fun t => { t with trapcause := v }
  | 0x031 => s.modMe fun t => { t with trappc := v }
  | 0x032 => s.modMe fun t => t.writeTrapvec v
  | _ => s

/-- Flags that an instruction raises: they are ORed into FPSTAT in the clock its result is written (R113), which RESULT turns
give (assumption 89). -/
def Strand.raise (t : Strand) (f : Flags) : Strand := if f = 0#6 then t else { t with fpPend := t.fpPend ++ [f] }

/-- The flags of result `k` of those that have not arrived are ORed into FPSTAT (R113): a younger result of a shorter latency
may come first. -/
def Strand.landFlags (t : Strand) (k : Nat) : Strand :=
  { t with fpstat := t.fpstat ||| ((t.fpPend.getD k 0#6).zeroExtend 64), fpPend := t.fpPend.eraseIdx k }

/-- A CSRR or CSRW of FPSTAT by the execute counter waits for the results of earlier instructions (R113); that of the first
word of its own group is not earlier in this sense (assumption 89). -/
def State.awaitsFlags (s : State) (k : Ctr) (c : Nat) : Bool :=
  k == .x && c == 0x014 &&
    match s.cur.phase with
    | .second => s.cur.flags != 0
    | _ => !s.me.fpPend.isEmpty

/-! ## Effects behind an outstanding read (R368; assumption 20) -/

/-- `f` as strand `n` of core `c` does it. -/
def State.acting (s : State) (c : Nat) (n : Fin 4) (f : State → State) : State :=
  { f { s with cur := { s.cur with core := c, strand := n } } with cur := s.cur }

/-- What the SEMWAITs that wait behind outstanding reads will take from a semaphore: no other SEMWAIT may count on it. -/
def Core.taken (k : Core) (m : Fin 64) : Nat :=
  (k.strands.toList.flatMap (·.late)).foldl (fun r o => match o.kind with
    | .take j v => if j = m then r + v.toNat else r
    | _ => r) 0

/-- MBREG binds or frees mailbox `m` (R382): a binding accepts deliveries while the task's strands run. -/
def State.bindBox (s : State) (c : Nat) (m : Fin 16) (b : Mailbox) : State :=
  s.modCore c fun k => { k with mailboxes := k.mailboxes.set m { b with accepting := b.valid && (s.task? b.owner).any fun t => t.st == .running } }

/-- TRIG fires the task, for its own core at once (R410). -/
def State.fireTask (s : State) (c key : Nat) : State :=
  (s.modTask key fun t => { t with fired := true }).modCore c fun k =>
    if k.firings.contains key then k else { k with firings := key :: k.firings }

/-- An effect of strand `n` of core `c` takes place. A binding does not replace one that another task has made meanwhile. -/
def State.applyLate (s : State) (c : Nat) (n : Fin 4) (o : LateOp) : State :=
  match o.kind with
  | .take m v => s.modCore c fun k => k.takeSem m v.toNat
  | .bind m b =>
    let x := (s.core c).mailboxes.get m
    if x.valid && x.owner != (s.strand c n).task then s else s.bindBox c m b
  | .fire => s.fireTask c (s.strand c n).task
  | .yield => s.modTask (s.strand c n).task fun t => { t with yielding := true }
  | .inject v seq => s.writeInject c n v (some seq)
  | .csr a v => s.acting c n fun s => s.writeCsr a v
  | .eret px pc => s.modStrand c n fun t => t.eretX px pc

/-- An effect of the word being executed: at once, or behind an outstanding read. -/
def State.effect (s : State) (k : LateKind) : State :=
  if s.hides then s.modMe fun t => { t with late := t.late ++ [⟨s.rdMark, k⟩] }
  else s.applyLate s.cur.core s.cur.strand ⟨0, k⟩

/-- The effects of a strand that no outstanding read hides any more take place. -/
def State.applyDue (s : State) (c : Nat) (n : Fin 4) : State :=
  let t := s.strand c n
  let due := t.late.filter fun o => t.visible o.rd
  due.foldl (fun s o => s.applyLate c n o) (s.setStrand c n { t with late := t.late.filter fun o => !t.visible o.rd })

/-- A change that the access counter sees before others do. -/
def LateKind.own : LateKind → Bool
  | .csr _ _ => true
  | .inject _ _ => true
  | .eret _ _ => true
  | _ => false

/-- The state as the acting counter sees its CSRs: the access counter with its own writes that others do not yet see. -/
def State.view (s : State) (k : Ctr) : State :=
  if k == .x || s.me.reads.isEmpty then s
  else (s.me.late.filter fun o => o.kind.own).foldl (fun s o => s.applyLate s.cur.core s.cur.strand o) s

/-- Whether the acting counter may pass `n` more words (R37). -/
def State.slipOk (s : State) (n : Nat) : Bool := (s.view s.cur.ctr).me.slipOk s.cur.ctr n

/-! ## Floating registers (R331) and panels (R411) -/

/-- The format of a scalar type code: 00 f32, 01 f64, 10 f16, 11 bf16 (R81). -/
def scalarFmt (t : BitVec 2) : Fmt := fmtOf t.toNat

/-- The format of an FCVT code (R81). -/
def cvtFmt (c : BitVec 3) : Fmt :=
  match c.toNat with
  | 0 => fmtOf 0
  | 1 => fmtOf 1
  | 2 => fmtOf 2
  | 3 => fmtOf 3
  | 4 => .int true 32
  | 5 => .int false 32
  | 6 => .int true 64
  | _ => .int false 64

/-- The value of a floating operand in a register (R331). -/
def Strand.fp (t : Strand) (f : Fmt) (r : BitVec 5) : Val := decodeVal f ((t.x r).toNat % 2 ^ f.bits)

/-- Element `e` of `w` bits of a panel or of consecutive rows (R411). -/
def elem {n : Nat} (p : BitVec n) (w e : Nat) : Nat := (p.extractLsb' (w * e) w).toNat

/-- `n` elements of `w` bits, element 0 lowest, as one number. -/
def packElems (w : Nat) : List Nat → Nat
  | [] => 0
  | v :: l => v % 2 ^ w + 2 ^ w * packElems w l

/-- A panel from its elements from 0 on; the rest is zero. -/
def panelOf (w : Nat) (l : List Nat) : Panel := BitVec.ofNat 32768 (packElems w l)

/-- Rows from a number. -/
def rowOf (n : Nat) : Row := BitVec.ofNat 2048 n

/-- Row `r` of a panel. -/
def panelRow (p : Panel) (r : Nat) : Row := p.extractLsb' (2048 * r) 2048

/-- A panel from rows, row 0 first. -/
def panelOfRows (l : List Row) : Panel := BitVec.ofNat 32768 (packElems 2048 (l.map BitVec.toNat))

/-- What a source operand of `rows` rows gives (R63, R413): a panel's bits, or the rows at the head of a queue, which are
popped; none while the queue holds too few; QUEUE-FAULT when one of them is a scalar, `t` having them popped. -/
inductive Source where
  | bits (v : Panel) (t : Strand)
  | short
  | fault (t : Strand)

/-- Reads a source operand. -/
def Strand.source (t : Strand) (a : BitVec 5) (rows : Nat) : Source :=
  if a.toNat < 16 then .bits (t.panel a) t
  else
    let qn : Fin 4 := fin4 (a.toNat - 16)
    let q := t.qax.get qn
    if t.axReady qn < rows then .short
    else
      match (q.entries.take rows).mapM QEntry.row? with
      | none => .fault { t with qax := t.qax.set qn (q.drop rows) }
      | some rs => .bits (panelOfRows rs) { t with qax := t.qax.set qn (q.drop rows) }

end Sys2Proof.Machine
end

