-- ==== Sys2Proof/Machine/Buffer.lean ====
section
/-! DEFINITION. Sys2Proof/Machine/Buffer.lean: the accesses of a strand to local SRAM: pieces, the store buffer, reads
after issue and reserved rows (spec/08_memory_model.md R182 to R189, spec/16_reference_g_to_s.md R368, R369), with the
events STORE_DRAIN, LOAD_PERFORM and ROW_COMPLETE. -/

namespace Sys2Proof.Machine

/-! ## Pieces -/

/-- The pieces of [a, a + n), one per aligned 8-byte word, as bytes `off` on of a result (R182). -/
def readPieces (off a n : Nat) : List ReadPiece :=
  (wordsOf a n).map fun w =>
    let lo := max a (8 * w)
    ⟨off + (lo - a), lo, min (a + n) (8 * w + 8) - lo⟩

/-- Bytes written piece by piece (R182). -/
def Ram.writeAll (m : Ram) (a : Nat) (v : List Byte) : Ram :=
  (readPieces 0 a v.length).foldl (fun m p => m.write p.addr ((v.drop p.off).take p.len)) m

/-- Bytes of a list at addresses from `a` on, zero bytes included. -/
def cellsAt (a : Nat) : List Byte → List Host.Cell
  | [] => []
  | v :: l => (a, v) :: cellsAt (a + 1) l

/-- Cells of rising addresses cut at the 8-byte boundaries. -/
def splitWords : List Host.Cell → List (List Host.Cell)
  | [] => []
  | c :: l =>
    match splitWords l with
    | [] => [[c]]
    | [] :: ps => [c] :: ps
    | (d :: p) :: ps => if d.1 / 8 = c.1 / 8 then (c :: d :: p) :: ps else [c] :: (d :: p) :: ps

/-- The word of a write piece. -/
def pieceWord (p : List Host.Cell) : Nat :=
  match p with
  | (a, _) :: _ => a / 8
  | [] => 0

/-- Writes a byte into cells of rising addresses; a zero byte is kept. -/
def putCell : List Host.Cell → Nat → Byte → List Host.Cell
  | [], a, v => [(a, v)]
  | (k, w) :: l, a, v =>
    if k = a then (a, v) :: l else if a < k then (a, v) :: (k, w) :: l else (k, w) :: putCell l a v

def putCells (m : List Host.Cell) : List Host.Cell → List Host.Cell
  | [] => m
  | (a, v) :: l => putCells (putCell m a v) l

/-! ## The store buffer (R184, R185) -/

/-- The byte that a list of cells gives for an address. -/
def cellAt (l : List Host.Cell) (a : Nat) : Option Byte := (l.find? fun c => c.1 == a).map (·.2)

def SbEntry.byteAt (e : SbEntry) (a : Nat) : Option Byte := cellAt e.parts.flatten a

/-- The byte of the youngest buffered store below number `n` at `a`. -/
def Strand.buffered (t : Strand) (n a : Nat) : Option Byte :=
  t.sbuf.reverse.findSome? fun e => if e.id < n then e.byteAt a else none

/-- The byte that a load of the strand reads at `a`: that of a store below number `n`, or the bank's (R184). -/
def Strand.loadByte (t : Strand) (m : Ram) (n a : Nat) : Byte := (t.buffered n a).getD (readCell m.cells a)

def Strand.loadBytes (t : Strand) (m : Ram) (n a len : Nat) : List Byte :=
  (List.range len).map fun i => t.loadByte m n (a + i)

/-- A load piece reads a poisoned word from its bank (R141); bytes that the buffer gives are not read there. -/
def Strand.loadPoisoned (t : Strand) (m : Ram) (n a len : Nat) : Bool :=
  m.poisoned a len && (List.range len).any fun i => (t.buffered n (a + i)).isNone

/-- A read must wait: a store older than the FENCE before it has not drained (R187), or an older PST or SCAT that shares a
byte has not been performed (R372). A PST or SCAT of the read's own group cannot be performed before it (R71, R368): the read
takes the bytes from its entry. -/
def Strand.loadHeld (t : Strand) (o : ReadOp) (a len : Nat) : Bool :=
  (t.sbuf.any fun e => e.id < o.fence) ||
    t.sbuf.any fun e => e.line.isNone && decide (e.id < o.stores) && decide (e.rd ≤ o.id) &&
      (List.range len).any fun i => (e.byteAt (a + i)).isSome

/-- Line entries in use (R184). -/
def Strand.lineEntries (t : Strand) : Nat := (t.sbuf.filter fun e => e.line.isSome).length

/-- A plain store of the cells of one line may merge into the youngest entry (R185). A store behind an outstanding read
merges only into one that stands behind it too (R368). -/
def Strand.mergeable (t : Strand) (line rd : Nat) (hide : Bool) : Bool :=
  match t.sbuf.getLast? with
  | some e => e.line == some line && !e.rel && decide (t.fence ≤ e.id) && (!hide || e.rd == rd)
  | none => false

/-- Enters the cells of one line; none when all 8 entries are in use (R185). -/
def Strand.enterLine (t : Strand) (rel : Bool) (rd : Nat) (hide : Bool) (cs : List Host.Cell) : Option Strand :=
  match cs with
  | [] => some t
  | (a, _) :: _ =>
    let line := a / 64
    if !rel && t.mergeable line rd hide then
      match t.sbuf.getLast? with
      | some e => some { t with sbuf := t.sbuf.dropLast ++ [{ e with parts := splitWords (putCells e.parts.flatten cs) }] }
      | none => none
    else if t.lineEntries < 8 then
      some { t with
        sbuf := t.sbuf ++ [⟨t.sbNext, some line, rel, splitWords cs, [], rd, t.task⟩], sbNext := t.sbNext + 1 }
    else none

/-- Enters a store of `v` at `a`. The pieces of a store that crosses a line have no order (R182): `swap` enters the higher
line first. -/
def Strand.enterStore (t : Strand) (rel swap : Bool) (rd : Nat) (hide : Bool) (a : Nat) (v : List Byte) : Option Strand :=
  let cs := cellsAt a v
  let lo := cs.filter fun c => c.1 / 64 == a / 64
  let hi := cs.filter fun c => c.1 / 64 != a / 64
  if hi.isEmpty then t.enterLine rel rd hide lo
  else if swap then (t.enterLine rel rd hide hi).bind fun t => t.enterLine rel rd hide lo
  else (t.enterLine rel rd hide lo).bind fun t => t.enterLine rel rd hide hi

/-- Enters the pieces of a PST or SCAT (R372, R395). -/
def Strand.enterWide (t : Strand) (rd : Nat) (parts : List (List Host.Cell)) : Strand :=
  { t with
    sbuf := t.sbuf ++ [⟨t.sbNext, none, false, parts, List.range parts.length, rd, t.task⟩], sbNext := t.sbNext + 1 }

/-- Some piece of a store narrower than its word meets poison (R141, R368). -/
def Ram.narrowPoison (m : Ram) (parts : List (List Host.Cell)) : Bool :=
  parts.any fun p => p.length != 8 && m.poison.contains (pieceWord p)

/-- No store of the strand older than mark `n` is left (R190). -/
def Strand.drained (t : Strand) (n : Nat) : Bool := t.sbuf.all fun e => n ≤ e.id

/-- The stores older than a SCAT have drained (R371, R372); one of its own group drains with it (R71). -/
def Strand.drainedFor (t : Strand) (o : ReadOp) : Bool := t.sbuf.all fun e => o.stores ≤ e.id || o.id < e.rd

/-- A store of the SCAT's own group writes the whole word of piece `p` before it, and clears its poison (R374). -/
def Strand.cleared (t : Strand) (o : ReadOp) (p : List Host.Cell) : Bool :=
  t.sbuf.any fun e => decide (e.id < o.stores) && e.parts.any fun q => q.length == 8 && pieceWord q == pieceWord p

/-! ## Draining (R185, R372, R374) -/

/-- The record of a narrow store lost to poison (R374), for the region of its task. -/
def State.lostStore (s : State) (c : Nat) (n : Fin 4) (task : Nat) : State :=
  s.report (s.regidOf task)
    (recordWords 0#64 (eventSeq 2 n.val c 0#64) 0 4 0 (s.hopCore c) 0#64 0#64 0#64 0#64 0#64)

/-- One piece of a store of strand `n` of core `c`, issued by `task`, is written: a narrow piece at a word that is poisoned
is lost (R374). -/
def State.drainPart (s : State) (c : Nat) (n : Fin 4) (task : Nat) (p : List Host.Cell) : State :=
  let m := (s.core c).sram
  if m.narrowPoison [p] then s.lostStore c n task
  else s.modCore c fun k => { k with sram := k.sram.store p }

/-- Whether piece `k` of a list may be written: no earlier piece of its word is left (R371). -/
def partReady (parts : List (List Host.Cell)) (k : Nat) : Bool :=
  match parts[k]? with
  | none => false
  | some p => (parts.take k).all fun q => pieceWord q != pieceWord p

/-- Whether piece `k` of an entry may be written: it is left, and no earlier piece of its word is (R371). -/
def SbEntry.partReady (e : SbEntry) (k : Nat) : Bool :=
  e.left.contains k && e.left.all fun j => k ≤ j || pieceWord (e.parts.getD j []) != pieceWord (e.parts.getD k [])

/-- The oldest store buffer entry drains: a line whole, piece `k` of a PST or SCAT (R185, R372). One behind an outstanding
read does not (R368). -/
def State.drainOldest (s : State) (c : Nat) (n : Fin 4) (k : Nat) : State :=
  match (s.strand c n).sbuf with
  | [] => s.res .stutter
  | e :: l =>
    if !(s.strand c n).visible e.rd then s.res .stutter
    else
      match e.line with
      | some _ =>
        let s := e.parts.foldl (fun s p => s.drainPart c n e.task p) s
        s.modStrand c n fun t => { t with sbuf := l }
      | none =>
        if e.partReady k then
          let s := s.drainPart c n e.task (e.parts.getD k [])
          let rest := e.left.filter (· != k)
          s.modStrand c n fun t => { t with sbuf := if rest.isEmpty then l else { e with left := rest } :: l }
        else s.res .stutter

/-- STORE_DRAIN (R185). -/
def execStoreDrain (core : Nat) (strand : Fin 4) (k : Nat) (s : State) : Host.Outcome State Fault Refusal :=
  .next (s.drainOldest core strand k)

/-! ## Reads after issue (R182, R189, R368; assumption 20) -/

/-- A stream command that has not started and names nothing (R161). -/
def StrCmd.blank : StrCmd :=
  { slot := 0, kind := .copy, strand := 0, task := 0, idx := 0#2, word := 0#32, tok := 0#5, s1 := 0#64, s2 := 0#64,
    numver := 0#2, scl := 0#2, seq := 0#64, mark := 0, rd := 0, inject := false, phase := .waiting, stage := 0, need := [],
    recs := [], recPois := false, card := [], walks := [], cores := [], data := [], pois := [], srcDone := [], dstDone := [],
    srcFrom := 0, dstFrom := 0, badDst := [], sums := (0#64, 0#64), taint := none, hit := false, hitWith := 0#64,
    incs := 0, incSent := false, queued := false, verdict := none, followed := false, pos := 0, out := 0, hist := [], fault := none }


/-- A loaded value, extended as its type says (R78). -/
def loadValue (ty : Nat) (l : List Byte) : Word :=
  let n := 2 ^ (ty % 4)
  if 4 ≤ ty then wordOf (intOf true (8 * n) (leNat l)) else BitVec.ofNat 64 (leNat l)

/-- Rows that read `id` reserves (R369). -/
def pendingRows (id n : Nat) : List QEntry := (List.range n).map (QEntry.pending id)

/-- A reserved row takes its bytes once no piece of it is left to read (R369). -/
def ReadOp.fill (o : ReadOp) (e : QEntry) : QEntry :=
  match e with
  | .pending id k =>
    if id = o.id && !(o.left.any fun p => p.off / 256 == k) then .reserved (rowOf (leNat (readCells o.data (256 * k) 256)))
    else e
  | e => e

/-- A row that could be popped before its read was done is a row like others. -/
def QEntry.close : QEntry → QEntry
  | .early r => .row r
  | e => e

/-- The rows of a PLD or GATH that are complete take their bytes. -/
def Strand.fillRows (t : Strand) (o : ReadOp) : Strand :=
  match o.kind with
  | .rows q _ => { t with qax := t.qax.set q { t.qax.get q with entries := (t.qax.get q).entries.map o.fill } }
  | _ => t

/-- The acting strand begins a read: it is performed later, by LOAD_PERFORM turns (R189, R368). -/
def State.startRead (s : State) (kind : ReadKind) (pieces : List ReadPiece) : State :=
  let p := s.snapHere
  s.modMe fun t =>
    { t with
      reads := t.reads ++ [{ id := t.rdNext, pc := s.cur.pc, kind := kind, left := pieces, data := [], stores := t.sbNext,
                             fence := t.fence, snap := p }]
      rdNext := t.rdNext + 1 }

/-- The second word of a group whose first word stands apart finds poison at once (assumption 20). -/
def State.poisonAtOnce (s : State) (pieces : List ReadPiece) : Bool :=
  s.afterSolid && pieces.any fun p => s.me.loadPoisoned s.myCore.sram s.me.sbNext p.addr p.len

/-- The oldest read has all its bytes: a register takes its value, and reserved rows have their bytes. -/
def Strand.finishRead (t : Strand) (o : ReadOp) : Strand :=
  match o.kind with
  | .reg d ty => t.arrive d (some (loadValue ty.toNat (readCells o.data 0 (2 ^ (ty.toNat % 4)))))
  | .rows q _ =>
    let t := t.fillRows o
    { t with qax := t.qax.set q { t.qax.get q with entries := (t.qax.get q).entries.map QEntry.close } }
  | .check _ => t

/-- The oldest read of strand `n` of core `c` is done without POISON: what it alone had hidden is seen. -/
def State.completeRead (s : State) (c : Nat) (n : Fin 4) (o : ReadOp) : State :=
  (s.modCore c fun k =>
    let k := k.setStrand n ((k.strand n).finishRead o)
    k.settle n o.id ((k.strand n).reads.drop 1)).applyDue c n

/-- A read meets POISON: what issued behind it is discarded, and the cause is delivered at its word (R368). -/
def State.poisonedRead (s : State) (c : Nat) (n : Fin 4) (o : ReadOp) : State :=
  let s := s.modCore c fun k => k.discard n o
  { s with cur := { s.cur with core := c, strand := n, ctr := .a, pc := o.pc, phase := .single } }.deliverNow o.pc causePoison 0#16

/-- Piece `k` of the oldest read of a strand is performed, and with the last one the read is done. -/
def State.performRead (s : State) (c : Nat) (n : Fin 4) (k : Nat) : State :=
  let t := s.strand c n
  let m := (s.core c).sram
  match t.reads with
  | [] => s.res .stutter
  | o :: l =>
    match o.kind, o.left[k]? with
    | .check parts, _ =>
      if !t.drainedFor o then s.res .stutter
      else if m.narrowPoison (parts.filter fun p => !t.cleared o p) then s.poisonedRead c n o
      else (s.completeRead c n o).res .issued
    | _, none => if o.left.isEmpty then (s.completeRead c n o).res .issued else s.res .stutter
    | _, some p =>
      if t.loadHeld o p.addr p.len then s.res .stutter
      else if t.loadPoisoned m o.stores p.addr p.len then s.poisonedRead c n o
      else
        let o := { o with left := o.left.eraseIdx k, data := writeCells o.data p.off (t.loadBytes m o.stores p.addr p.len) }
        let s := s.setStrand c n ({ t with reads := o :: l }.fillRows o)
        if o.left.isEmpty then (s.completeRead c n o).res .issued else s.res .issued

/-- LOAD_PERFORM (R368, R373): one piece of the oldest read of a strand is performed at its bank. -/
def execLoadPerform (core : Nat) (strand : Fin 4) (k : Nat) (s : State) : Host.Outcome State Fault Refusal :=
  .next (s.performRead core strand k)

/-- The first complete reserved row, by its place and its bytes. -/
def firstComplete : List QEntry → Nat → Option (Nat × Row)
  | [], _ => none
  | .reserved r :: _, n => some (n, r)
  | _ :: l, n => firstComplete l (n + 1)

/-- One entry of queue `q` is hidden no more, in what any later read would return to as well. -/
def Strand.unhide (t : Strand) (q : Fin 4) : Strand :=
  let f : Vector Nat 4 → Vector Nat 4 := fun h => h.set q (h.get q - 1)
  { t with
    hid := f t.hid
    reads := match t.reads with
      | [] => []
      | o :: l => o :: l.map fun p => { p with snap := { p.snap with hid := f p.snap.hid } } }

/-- ROW_COMPLETE (R369): the oldest complete reserved row of an A→X queue becomes poppable: of a read that is done, or, where
nothing hidden stands before it, of one of which other rows are not complete. -/
def execRowComplete (core : Nat) (strand q : Fin 4) (s : State) : Host.Outcome State Fault Refusal :=
  let t := s.strand core strand
  let v := t.qax.get q
  let seen := v.entries.length - t.hid.get q
  match firstComplete v.entries 0 with
  | none => .next (s.res .stutter)
  | some (n, r) =>
    if n < seen then .next (s.setStrand core strand { t with qax := t.qax.set q { v with entries := v.entries.set n (.row r) } })
    else if n = seen then
      .next (s.setStrand core strand
        ({ t with qax := t.qax.set q { v with entries := v.entries.set n (.early r) } }.unhide q))
    else .next (s.res .stutter)

end Sys2Proof.Machine
end

