-- ==== Sys2Proof/Machine/Access.lean ====
section
/-! DEFINITION. Sys2Proof/Machine/Access.lean: the access-private map (spec/03_instruction_encoding.md R77): loads and
stores, atomics, rows, queues, semaphores, mailboxes, the issue of engine commands and residency operations, and control. -/

namespace Sys2Proof.Machine

/-- A word of the access counter. -/
def aWord (i : Instr) (e : BitVec 1) (body : State → Act) (s : State) : Host.Outcome State Fault Refusal :=
  issueWord i e body (s.actAs .a)

/-! ## Loads and stores (R373 to R375) -/

/-- Access size in bytes of an M-format type (R78). -/
def accessSize (ty : Nat) : Nat := 2 ^ (ty % 4)

/-- LD and LD.acq: at core scope both order alike (R186). The word issues; its register is unavailable until LOAD_PERFORM
turns have performed the read (R189). -/
def load (d a : BitVec 5) (o : BitVec 9) (ty : BitVec 3) (s : State) : Act :=
  if s.me.waits .a [a] then .wait
  else
    let n := accessSize ty.toNat
    let addr := s.me.a a + wordOf (s.imm o)
    if outsideLocal (s.me.a a) (s.imm o) n then .trap causeSpace 0#16
    else if s.me.waits .a [d] then .wait
    else
      let pieces := readPieces 0 addr.toNat n
      if s.poisonAtOnce pieces then .trap causePoison 0#16
      else .done ((s.startRead (.reg d ty) pieces).modMe fun t => t.setBusy d)

/-- LD (R373). -/
def execLd (d a : BitVec 5) (o : BitVec 9) (t : BitVec 3) (e : BitVec 1) (s : State) : Host.Outcome State Fault Refusal :=
  aWord (.ld d a o t e) e (load d a o t) s

/-- LD.acq (R373, R186). -/
def execLdAcq (d a : BitVec 5) (o : BitVec 9) (t : BitVec 3) (e : BitVec 1) (s : State) : Host.Outcome State Fault Refusal :=
  aWord (.ldAcq d a o t e) e (load d a o t) s

/-- ST and ST.rel: `rel` keeps the entry unmerged (R186). The check bits of a narrow store's words are read when it enters
the buffer (R368). -/
def store (rel : Bool) (d a : BitVec 5) (o : BitVec 9) (ty : BitVec 2) (s : State) : Act :=
  if s.me.waits .a [d, a] then .wait
  else
    let n := accessSize ty.toNat
    let addr := s.me.a a + wordOf (s.imm o)
    let v := natBytes n (s.me.a d).toNat
    if outsideLocal (s.me.a a) (s.imm o) n || s.meetsText s.cur.core addr.toNat n then .trap causeSpace 0#16
    else
      match s.me.enterStore rel (Config.freeBool s.free) s.rdMark s.hides addr.toNat v with
      | none => .wait
      | some t =>
        if s.myCore.sram.narrowPoison (splitWords (cellsAt addr.toNat v)) then .trap causePoison 0#16
        else .done { s.setMe t with free := s.free + 1 }

/-- ST (R373, R374). -/
def execSt (d a : BitVec 5) (o : BitVec 9) (t : BitVec 2) (e : BitVec 1) (s : State) : Host.Outcome State Fault Refusal :=
  aWord (.st d a o t e) e (store false d a o t) s

/-- ST.rel (R373, R186). -/
def execStRel (d a : BitVec 5) (o : BitVec 9) (t : BitVec 2) (e : BitVec 1) (s : State) : Host.Outcome State Fault Refusal :=
  aWord (.stRel d a o t e) e (store true d a o t) s

/-! ## Atomics (R334, R335, R342) -/

/-- The new value of an AMO on `n` bytes: `p` is the operation, `u` unsigned (R79, R334). -/
def amoValue (p : Nat) (u : Bool) (n : Nat) (old v : Nat) : Nat :=
  let w := 8 * n
  let lt : Bool := if u then v < old else intOf true w v < intOf true w old
  match p with
  | 0 => (old + v) % 2 ^ w
  | 1 => old &&& v
  | 2 => old ||| v
  | 3 => old ^^^ v
  | 4 => v
  | 5 => if lt then v else old
  | _ => if lt then old else v

/-- AMO and CAS on the `n` bytes at Reg(S1): `f` gives the value to write, if any. SPACE and ALIGN are checked when the
counter passes the word; the word issues when every older access has been performed (R188, R335). -/
def atomic (d a b : BitVec 5) (n : Nat) (f : Nat → Option Nat) (s : State) : Act :=
  if s.me.waits .a [a] then .wait
  else
    let addr := s.me.a a
    if outsideSram addr n || s.meetsText s.cur.core addr.toNat n then .trap causeSpace 0#16
    else if addr.toNat % n ≠ 0 then .trap causeAlign 0#16
    else if s.me.waits .a [b, d] || !s.me.sbuf.isEmpty || !s.me.reads.isEmpty then .wait
    else if s.myCore.sram.poisoned addr.toNat n then .trap causePoison 0#16
    else
      let old := s.myCore.sram.readLE addr.toNat n
      let s := match f old with
        | some v => s.modMyCore fun k => { k with sram := k.sram.write addr.toNat (natBytes n v) }
        | none => s
      .done (s.modMe fun t => t.setA d (BitVec.ofNat 64 old))

/-- Bytes that a size bit names. -/
def atomicSize (z : BitVec 1) : Nat := if z = 0#1 then 4 else 8

/-- AMO (R334). -/
def execAmo (d a b : BitVec 5) (u z : BitVec 1) (p : BitVec 3) (e : BitVec 1) (s : State) :
    Host.Outcome State Fault Refusal :=
  aWord (.amo d a b u z p e) e (fun s =>
    atomic d a b (atomicSize z)
      (fun old => some (amoValue p.toNat (u == 1#1) (atomicSize z) old ((s.me.a b).toNat % 2 ^ (8 * atomicSize z)))) s) s

/-- CAS (R342). -/
def execCas (d a b : BitVec 5) (z e : BitVec 1) (s : State) : Host.Outcome State Fault Refusal :=
  aWord (.cas d a b z e) e (fun s =>
    atomic d a b (atomicSize z)
      (fun old => if old = (s.me.a d).toNat % 2 ^ (8 * atomicSize z) then some ((s.me.a b).toNat % 2 ^ (8 * atomicSize z)) else none) s) s

/-! ## Rows (R369 to R372, R394, R395) -/

/-- The bytes of a row. -/
def rowBytes (r : Row) : List Byte := natBytes 256 r.toNat

/-- PLD (R394): issues and reserves its rows, which are read and complete later (R369). -/
def execPld (q : BitVec 2) (a r : BitVec 5) (e : BitVec 1) (s : State) : Host.Outcome State Fault Refusal :=
  aWord (.pld q a r e) e (fun s =>
    if s.me.waits .a [a] then .wait
    else
      let n := r.toNat + 1
      let addr := s.me.a a
      if addr.extractLsb' 0 6 != 0#6 then .trap causeAlign 0#16
      else if outsideSram addr (256 * n) then .trap causeSpace 0#16
      else if (s.me.qax.get q.toFin).free < n then .wait
      else
        let pieces := readPieces 0 addr.toNat (256 * n)
        if s.poisonAtOnce pieces then .trap causePoison 0#16
        else .done ((s.startRead (.rows q.toFin n) pieces).modMe fun t =>
          t.pushAX q.toFin (pendingRows t.rdNext n) true)) s

/-- Rows popped from the head of a queue; none when one of them is a scalar (R41). -/
def Queue.headRows (q : Queue) (n : Nat) : Option (List Row) := (q.entries.take n).mapM QEntry.row?

/-- PST (R394, R395). -/
def execPst (q : BitVec 2) (a r : BitVec 5) (e : BitVec 1) (s : State) : Host.Outcome State Fault Refusal :=
  aWord (.pst q a r e) e (fun s =>
    if s.me.waits .a [a] then .wait
    else
      let n := r.toNat + 1
      let addr := s.me.a a
      let v := s.me.xaView q.toFin
      if addr.extractLsb' 0 6 != 0#6 then .trap causeAlign 0#16
      else if outsideSram addr (256 * n) || s.meetsText s.cur.core addr.toNat (256 * n) then .trap causeSpace 0#16
      else if v.poppable < n then .wait
      else
        match v.headRows n with
        | none => .queueFault (s.modMe fun t => t.popXA q.toFin n s.hides)
        | some rows => .done (s.modMe fun t =>
            (t.popXA q.toFin n s.hides).enterWide s.rdMark
              (splitWords (cellsAt addr.toNat (rows.flatMap rowBytes))))) s

/-- The indices of the rows of an index queue (R370). -/
def indicesOf (rows : List Row) : List Nat :=
  rows.flatMap fun r => (List.range 64).map fun i => (r.extractLsb' (32 * i) 32).toNat

/-- Element size (R370). -/
def gathSize (sz : BitVec 2) : Nat := 2 ^ sz.toNat

/-- Data rows of `r` index rows of elements of `sz` bytes (R370). -/
def dataRows (r sz : Nat) : Nat := (r * sz + 3) / 4

/-- An index that is no hole, with its element's address. -/
def elemAddr (base : Word) (sz idx : Nat) : Option Nat := if idx < 2 ^ 31 then some (base.toNat + idx * sz) else none

/-- Some element breaks the limit of local SRAM (R371). -/
def elemsOutside (base : Word) (sz : Nat) (idx : List Nat) : Bool :=
  idx.any fun i => match elemAddr base sz i with
    | none => false
    | some a => base.extractLsb' 60 4 != 0#4 || sramSize < a + sz

/-- The read pieces of a GATH: element n becomes bytes n × s on (R370, R182). -/
def gathPieces (base : Word) (sz : Nat) : Nat → List Nat → List ReadPiece
  | _, [] => []
  | n, i :: l =>
    (match elemAddr base sz i with
      | none => []
      | some a => readPieces (n * sz) a sz) ++ gathPieces base sz (n + 1) l

/-- GATH (R370 to R372). -/
def execGath (q : BitVec 2) (a : BitVec 5) (j : BitVec 2) (r : BitVec 5) (sz : BitVec 2) (e : BitVec 1) (s : State) :
    Host.Outcome State Fault Refusal :=
  aWord (.gath q a j r sz e) e (fun s =>
    if s.me.waits .a [a] then .wait
    else
      let n := r.toNat + 1
      let w := gathSize sz
      let d := dataRows n w
      let base := s.me.a a
      let v := s.me.xaView j.toFin
      if w = 8 && 16 < n then .trap causeIllegal 0#16
      else if v.poppable < n || (s.me.qax.get q.toFin).free < d then .wait
      else
        match v.headRows n with
        | none => .queueFault (s.modMe fun t => t.popXA j.toFin n s.hides)
        | some rows =>
          let idx := indicesOf rows
          if elemsOutside base w idx then .trap causeSpace 0#16
          else
            let pieces := gathPieces base w 0 idx
            if s.poisonAtOnce pieces then .trap causePoison 0#16
            else .done ((s.startRead (.rows q.toFin d) pieces).modMe fun t =>
              (t.popXA j.toFin n true).pushAX q.toFin (pendingRows t.rdNext d) true)) s

/-- The write pieces of a SCAT, element by element (R371, R182). -/
def scatParts (base : Word) (sz : Nat) (data : List Byte) : Nat → List Nat → List (List Host.Cell)
  | _, [] => []
  | n, i :: l =>
    (match elemAddr base sz i with
      | none => []
      | some a => splitWords (cellsAt a ((data.drop (n * sz)).take sz))) ++ scatParts base sz data (n + 1) l

/-- SCAT (R370 to R372): the words that its elements write are checked for poison once every older store has drained, and
nothing of it is written before. -/
def execScat (q : BitVec 2) (a : BitVec 5) (j : BitVec 2) (r : BitVec 5) (sz : BitVec 2) (e : BitVec 1) (s : State) :
    Host.Outcome State Fault Refusal :=
  aWord (.scat q a j r sz e) e (fun s =>
    if s.me.waits .a [a] then .wait
    else
      let n := r.toNat + 1
      let w := gathSize sz
      let d := dataRows n w
      let base := s.me.a a
      let vi := s.me.xaView j.toFin
      let vd := s.me.xaView q.toFin
      if (w = 8 && 16 < n) || q = j then .trap causeIllegal 0#16
      else if vi.poppable < n || vd.poppable < d then .wait
      else
        match vi.headRows n, vd.headRows d with
        | some rows, some dat =>
          let idx := indicesOf rows
          let parts := scatParts base w (dat.flatMap rowBytes) 0 idx
          if elemsOutside base w idx || (idx.any fun i => match elemAddr base w i with
              | none => false
              | some x => s.meetsText s.cur.core x w) then .trap causeSpace 0#16
          else if parts.isEmpty then .done (s.modMe fun t => (t.popXA j.toFin n s.hides).popXA q.toFin d s.hides)
          else .done ((s.startRead (.check parts) []).modMe fun t =>
            ((t.popXA j.toFin n true).popXA q.toFin d true).enterWide (t.rdNext + s.ahead) parts)
        | _, _ => .queueFault (s.modMe fun t => (t.popXA j.toFin n s.hides).popXA q.toFin d s.hides)) s

/-! ## Scalars on queues (R396) -/

/-- QSND (R396). -/
def execQsnd (q : BitVec 2) (a : BitVec 5) (e : BitVec 1) (s : State) : Host.Outcome State Fault Refusal :=
  aWord (.qsnd q a e) e (fun s =>
    if s.me.waits .a [a] || (s.me.qax.get q.toFin).free < 1 then .wait
    else .done (s.modMe fun t => t.pushAX q.toFin [.scalar (t.a a)] s.hides)) s

/-- QRCV (R396). -/
def execQrcv (d : BitVec 5) (q : BitVec 2) (e : BitVec 1) (s : State) : Host.Outcome State Fault Refusal :=
  aWord (.qrcv d q e) e (fun s =>
    let v := s.me.xaView q.toFin
    if s.me.waits .a [d] || v.poppable < 1 then .wait
    else
      match v.entries with
      | .scalar x :: _ => .done (s.modMe fun t => (t.popXA q.toFin 1 s.hides).setA d x)
      | _ => .queueFault (s.modMe fun t => t.popXA q.toFin 1 s.hides)) s

/-! ## Semaphores (R179, R399) -/

/-- COUNT + v with saturation (R179). -/
def semAdd (x v : Word) : Word :=
  if 2 ^ 56 - 1 < semCount x + v.toNat then semWord (2 ^ 56 - 1) true else semWord (semCount x + v.toNat) (semOvf x)

/-- SEMSET (R179). -/
def semSet (v : Word) : Word := if v.toNat ≤ 2 ^ 56 - 1 then semWord v.toNat false else semWord (2 ^ 56 - 1) true

/-- A SEMINC or SEMSET issues at once and is applied once older accesses are done (R399). -/
def semOp (i : Instr) (set : Bool) (a : BitVec 5) (n : BitVec 6) (e : BitVec 1) (s : State) : Host.Outcome State Fault Refusal :=
  aWord i e (fun s =>
    if s.me.waits .a [a] then .wait
    else .done (s.modMe fun t =>
      { t with semops := t.semops ++ [⟨set, n.toFin, t.a a, t.sbNext, s.rdMark, t.task⟩] })) s

/-- SEMINC (R399). -/
def execSeminc (a : BitVec 5) (n : BitVec 6) (e : BitVec 1) (s : State) : Host.Outcome State Fault Refusal :=
  semOp (.seminc a n e) false a n e s

/-- SEMSET (R399). -/
def execSemset (a : BitVec 5) (n : BitVec 6) (e : BitVec 1) (s : State) : Host.Outcome State Fault Refusal :=
  semOp (.semset a n e) true a n e s

/-- SEMWAIT (R179, R399). Behind an outstanding read it issues, and others see what it takes when the read is done (R368). -/
def execSemwait (a : BitVec 5) (n : BitVec 6) (e : BitVec 1) (s : State) : Host.Outcome State Fault Refusal :=
  aWord (.semwait a n e) e (fun s =>
    if s.me.waits .a [a] then .wait
    else
      let v := s.me.a a
      let x := s.myCore.sems.get n.toFin
      if semOvf x || 2 ^ 56 - 1 < v.toNat then .trap causeSemOvf 0#16
      else if semCount x < v.toNat + s.myCore.taken n.toFin then .wait
      else .done (s.effect (.take n.toFin v))) s

/-- SEMINC_APPLY (R399, R190): the oldest SEMINC or SEMSET of the strand is applied once its older stores have drained and
its older reads have been performed. -/
def execSemincApply (core : Nat) (strand : Fin 4) (s : State) : Host.Outcome State Fault Refusal :=
  let t := s.strand core strand
  match t.semops with
  | [] => .next (s.res .stutter)
  | o :: l =>
    if !t.drained o.mark || !t.visible o.rd then .next (s.res .stutter)
    else
      let s := s.setStrand core strand { t with semops := l }
      .next (s.modCore core fun k =>
        { k with sems := k.sems.set o.sem (if o.set then semSet o.amount else semAdd (k.sems.get o.sem) o.amount) })

/-! ## The issue of stream commands (R161, R162, R332, R400, R404) -/

/-- A local structure of `n` bytes that must lie at a multiple of 64 (R143, R162). -/
def recordCause (addr : Word) (n : Nat) : Option Nat :=
  if addr.extractLsb' 0 6 != 0#6 then some causeAlign
  else if outsideSram addr n then some causeSpace
  else none

/-- SCL of the format table entry that FMTIDX names (R47, R387). -/
def Strand.scl (t : Strand) : BitVec 2 := (t.fmt.get ((t.fmtidx.extractLsb' 0 4).toFin)).extractLsb' 18 2

/-- Stream queue entries of a strand in use (R161). -/
def Core.streamUsed (k : Core) (n : Fin 4) : List StrCmd := k.sq.filter fun c => c.strand == n

/-- The lowest free entry of a strand, if any (R161). -/
def Core.freeSlot (k : Core) (n : Fin 4) : Option Nat :=
  ((List.range 8).find? fun i => !(k.sq.any fun c => c.slot == 8 * n.val + i)).map (8 * n.val + ·)

/-- The 32 bits of the word that is being executed. -/
def wordBits (i : Instr) : BitVec 32 := (encode i).getD 0#32

/-- CHK of a card is 01 (R164), or the header of a notation names the issuing core as its origin (R232): the command that
INJECT may choose (R225). The engine reads the record after the issue, so the strand's buffered stores count. -/
def State.injectable (s : State) (kind : StrKind) (card : Nat) : Bool :=
  let rd (a n : Nat) : Nat := leNat (s.me.loadBytes s.myCore.sram s.me.sbNext a n)
  match kind with
  | .copy => rd (card + 8) 4 / 16 % 4 == 1
  | .coll => rd (card + 0x18) 2 % 4096 == s.myCore.lcore.toNat && rd (card + 0x1A) 2 == s.devnum.toNat % 4096
  | _ => false

/-- INJECT chooses this command (R225): armed, of its class, and none chosen yet. -/
def State.injectChooses (s : State) (kind : StrKind) (card : Nat) : Bool :=
  let k := s.myCore
  k.inject.getLsbD 32 && !k.chosen &&
    (if k.inject.getLsbD 44 then kind == .coll else kind == .copy) && s.injectable kind card

/-- A stream command enters the queue with its token pending (R332). -/
def State.enqueueStream (s : State) (kind : StrKind) (i : Instr) (d : BitVec 5) (s1 s2 : Word) (slot : Nat) : State :=
  let t := s.me
  let u := (s.view .a).me
  let inj := (s.view .a).injectChooses kind s1.toNat
  let seq := t.streamCount + 1
  let c : StrCmd :=
    { StrCmd.blank with
      slot := slot, kind := kind, strand := s.cur.strand, task := t.task, idx := t.strandCsr.extractLsb' 0 2,
      word := wordBits i, tok := d, s1 := s1, s2 := s2, numver := u.numver.extractLsb' 0 2, scl := u.scl, seq := seq,
      mark := t.sbNext, rd := s.rdMark, inject := inj }
  let s := s.setMe ({ t with streamCount := seq }.setBusy d)
  s.modMyCore fun k => { k with sq := k.sq ++ [c], chosen := k.chosen || inj }

/-- A stream command: `check` is its cause at the word, once the registers in `rs` are available. -/
def streamWord (i : Instr) (kind : StrKind) (d a : BitVec 5) (rs : List (BitVec 5)) (check : Strand → Option Nat)
    (s2 : Strand → Word) (e : BitVec 1) (s : State) : Host.Outcome State Fault Refusal :=
  aWord i e (fun s =>
    if s.me.waits .a rs then .wait
    else
      match check s.me with
      | some c => .trap c 0#16
      | none =>
        if s.me.waits .a [d] then .wait
        else
          match s.myCore.freeSlot s.cur.strand with
          | none => .wait
          | some slot => .done (s.enqueueStream kind i d (s.me.a a) (s2 s.me) slot)) s

/-- A command whose card of `n` bytes Reg(S1) names (R332). -/
def cardWord (i : Instr) (kind : StrKind) (n : Nat) (d a : BitVec 5) (e : BitVec 1) (s : State) :
    Host.Outcome State Fault Refusal :=
  streamWord i kind d a [a] (fun t => recordCause (t.a a) n) (fun _ => 0#64) e s

/-- COPY (R345): the issue; the engine acts in its own events. -/
def execCopy (d a : BitVec 5) (e : BitVec 1) (s : State) : Host.Outcome State Fault Refusal :=
  cardWord (.copy d a e) .copy 128 d a e s

/-- DCMP (R350). -/
def execDcmp (d a : BitVec 5) (e : BitVec 1) (s : State) : Host.Outcome State Fault Refusal :=
  cardWord (.dcmp d a e) .dcmp 64 d a e s

/-- FILL (R363). -/
def execFill (d a : BitVec 5) (e : BitVec 1) (s : State) : Host.Outcome State Fault Refusal :=
  cardWord (.fill d a e) .fill 64 d a e s

/-- CSUM (R349). -/
def execCsum (d a : BitVec 5) (e : BitVec 1) (s : State) : Host.Outcome State Fault Refusal :=
  cardWord (.csum d a e) .csum 64 d a e s

/-- COLL (R343). -/
def execColl (d a : BitVec 5) (e : BitVec 1) (s : State) : Host.Outcome State Fault Refusal :=
  cardWord (.coll d a e) .coll 64 d a e s

/-- SPAWN (R404). -/
def execSpawn (d a : BitVec 5) (e : BitVec 1) (s : State) : Host.Outcome State Fault Refusal :=
  cardWord (.spawn d a e) .spawn 256 d a e s

/-- SEND (R400). -/
def execSend (d a b : BitVec 5) (l : BitVec 6) (e : BitVec 1) (s : State) : Host.Outcome State Fault Refusal :=
  streamWord (.send d a b l e) .send d a [a, b] (fun t =>
    if outsideSram (t.a a) (l.toNat + 1) then some causeSpace
    else if (t.a b).extractLsb' 16 48 != 0#48 || (t.a b).extractLsb' 12 4 == 0#4 then some causeSpace
    else none) (fun t => t.a b) e s

/-! ## Mailboxes (R381, R382) -/

/-- The cause with which MBREG refuses its operands (R381). -/
def State.mbregCause (s : State) (m : BitVec 4) (h base len : Word) : Option Nat :=
  let b := s.myCore.mailboxes.get m.toFin
  if m = 0#4 then some causeIllegal
  else if h.extractLsb' 0 2 != 0#2 then some causeAlign
  else if !inRange (s.textOf s.me) h.toNat || base.extractLsb' 60 4 != 0#4 then some causeSpace
  else if len != 0#64 && sramSize < base.toNat + len.toNat then some causeSpace
  else if b.valid && b.owner != s.me.task then some causeSpace
  else none

/-- MBREG (R381, R382). Behind an outstanding read the binding is seen when the read is done (R368). -/
def execMbreg (d a b : BitVec 5) (m : BitVec 4) (e : BitVec 1) (s : State) : Host.Outcome State Fault Refusal :=
  aWord (.mbreg d a b m e) e (fun s =>
    if s.me.waits .a [d, a, b] then .wait
    else
      match s.mbregCause m (s.me.a d) (s.me.a a) (s.me.a b) with
      | some c => .trap c 0#16
      | none =>
        let box : Mailbox :=
          if s.me.a b != 0#64 then
            ⟨true, (s.me.a a).extractLsb' 0 32, (s.me.a b).extractLsb' 0 32, (s.me.a d).extractLsb' 0 32, s.me.task, true⟩
          else Mailbox.none
        .done (s.effect (.bind m.toFin box))) s

/-! ## The issue of matrix commands (R383 to R389) -/

/-- Formats that version 1 does not allow in an MMA or MMAS (R124). -/
def v1Refused (c : Nat) : Bool := (6 ≤ c && c ≤ 10) || 19 ≤ c

/-- The pieces that read the walk records of a matrix command (R147): `n` records, the first at s1, the second at s2. -/
def recordPieces (n : Nat) (s1 s2 : Word) : List ReadPiece :=
  (if n = 0 then [] else readPieces 0 s1.toNat 64) ++ (if n < 2 then [] else readPieces 64 s2.toNat 64)

/-- A matrix command of `n` walks enters the queue (R157, R281). -/
def State.enqueueMatrix (s : State) (i : Instr) (n : Nat) (tok : BitVec 5) (s1 s2 : Word) : State :=
  let t := s.me
  let u := (s.view .a).me
  let c : MatCmd :=
    { word := wordBits i, tok := tok, strand := s.cur.strand, task := t.task, idx := t.strandCsr.extractLsb' 0 2,
      numver := u.numver.extractLsb' 0 2, follow := false, started := false, scl := u.scl, s1 := s1, s2 := s2, next := 0,
      count := t.matrixCount + 1, walks := [], mark := t.sbNext, rd := s.rdMark, poisoned := false,
      left := recordPieces n s1 s2, data := [], out := [], told := false }
  let s := s.setMe ({ t with matrixCount := t.matrixCount + 1 }.setBusy tok)
  s.modMyCore fun k => { k with mq := k.mq ++ [c] }

/-- A matrix command: the registers that name walks or a header, whether version 1 refuses it, its token, and its S2. -/
def matrixWord (i : Instr) (ws : List (BitVec 5)) (hdr : Option (BitVec 5)) (v1 : Bool) (tok a b : BitVec 5) (e : BitVec 1)
    (s : State) : Host.Outcome State Fault Refusal :=
  aWord i e (fun s =>
    let t := s.me
    if v1 && (s.view .a).me.numver.extractLsb' 0 2 == 1#2 then .trap causeNumver 0#16
    else if t.waits .a (ws ++ hdr.toList) then .wait
    else
      match ws.findSome? fun r => recordCause (t.a r) 64 with
      | some c => .trap c 0#16
      | none =>
        match hdr.bind fun r => if t.a r = 0#64 then none else recordCause (t.a r) 64 with
        | some c => .trap c 0#16
        | none =>
          if t.waits .a [tok] || 16 ≤ s.myCore.mq.length then .wait
          else .done (s.enqueueMatrix i ws.length tok (t.a a) (t.a b))) s

/-- MMA (R385). -/
def execMma (f a b k : BitVec 5) (p : BitVec 2) (e : BitVec 1) (s : State) : Host.Outcome State Fault Refusal :=
  matrixWord (.mma f a b k p e) [a, b] none (v1Refused f.toNat || v1Refused k.toNat) 0#5 a b e s

/-- MMA.sat (R385). -/
def execMmaSat (f a b k : BitVec 5) (p : BitVec 2) (e : BitVec 1) (s : State) : Host.Outcome State Fault Refusal :=
  matrixWord (.mmaSat f a b k p e) [a, b] none (v1Refused f.toNat || v1Refused k.toNat) 0#5 a b e s

/-- MMAS (R387). -/
def execMmas (f a b k : BitVec 5) (p : BitVec 2) (e : BitVec 1) (s : State) : Host.Outcome State Fault Refusal :=
  matrixWord (.mmas f a b k p e) [a, b] none true 0#5 a b e s

/-- MZERO (R389). -/
def execMzero (p : BitVec 2) (e : BitVec 1) (s : State) : Host.Outcome State Fault Refusal :=
  matrixWord (.mzero p e) [] none false 0#5 0#5 0#5 e s

/-- MLD (R384). -/
def execMld (a : BitVec 5) (p : BitVec 2) (e : BitVec 1) (s : State) : Host.Outcome State Fault Refusal :=
  matrixWord (.mld a p e) [a] none false 0#5 a 0#5 e s

/-- MST (R388). -/
def execMst (d a b k : BitVec 5) (p : BitVec 2) (e : BitVec 1) (s : State) : Host.Outcome State Fault Refusal :=
  matrixWord (.mst d a b k p e) [a] (some b) (k == 9#5) d a b e s

/-- MST.sat (R388). -/
def execMstSat (d a b k : BitVec 5) (p : BitVec 2) (e : BitVec 1) (s : State) : Host.Outcome State Fault Refusal :=
  matrixWord (.mstSat d a b k p e) [a] (some b) (k == 9#5) d a b e s

/-! ## The issue of residency operations (R228 to R230) -/

def residencyWord (i : Instr) (kind : ResKind) (d a b : BitVec 5) (e : BitVec 1) (s : State) :
    Host.Outcome State Fault Refusal :=
  aWord i e (fun s =>
    if s.me.waits .a [a, b, d] then .wait
    else .done (s.modMe fun t => ({ t with resops := t.resops ++ [(⟨kind, d, t.a a, t.a b, s.rdMark, t.task⟩ : ResOp)] } : Strand).setBusy d)) s

/-- RESIDE (R397). -/
def execReside (d a b : BitVec 5) (e : BitVec 1) (s : State) : Host.Outcome State Fault Refusal :=
  residencyWord (.reside d a b e) .reside d a b e s

/-- EVICT (R355). -/
def execEvict (d a : BitVec 5) (e : BitVec 1) (s : State) : Host.Outcome State Fault Refusal :=
  residencyWord (.evict d a e) .evict d a 0#5 e s

/-- RQUERY (R397). -/
def execRquery (d a : BitVec 5) (e : BitVec 1) (s : State) : Host.Outcome State Fault Refusal :=
  residencyWord (.rquery d a e) .rquery d a 0#5 e s

/-! ## Control -/

/-- FENCE (R187, R362): younger accesses are held until older stores have drained. -/
def execFence (s : State) : Host.Outcome State Fault Refusal :=
  aWord .fence 1#1 (fun s => .done (s.modMe fun t => { t with fence := t.sbNext })) s

/-- TRIG (R410): the task fires; in a handler task it has no effect. Others see it once the older reads are done (R368). -/
def execTrig (e : BitVec 1) (s : State) : Host.Outcome State Fault Refusal :=
  aWord (.trig e) e (fun s =>
    if s.me.handler then .done s else .done (s.effect .fire)) s

/-- A producer of the context has fired and its firing has reached core `c` (R277, R353). -/
def State.firedAt (s : State) (c : Nat) (context : Word) (tid : Word) : Bool :=
  s.tasks.any fun p =>
    p.tid == tid && p.fired && s.contextOf p.regid == context && (s.core c).firings.contains p.key

/-- DWAIT (R353). -/
def execDwait (s : State) : Host.Outcome State Fault Refusal :=
  aWord .dwait 1#1 (fun s =>
    match s.task? s.me.task with
    | none => .done s
    | some t =>
      if s.me.handler || t.prods.all (s.firedAt s.cur.core (s.contextOf t.regid)) then .done s else .wait) s

/-- Everything strand `n` of a core issued for its task has completed, its results' flags included (R32, R113), and no cause of a failed command waits (R357). -/
def Core.strandQuiet (k : Core) (n : Fin 4) : Bool :=
  let t := k.strand n
  !(k.sq.any fun c => c.strand == n && c.task == t.task) &&
    !(k.mq.any fun c => c.strand == n && c.task == t.task) &&
    !(k.arming.any fun c => c.armed && c.strand == n && c.task == t.task) &&
    t.sbuf.isEmpty && t.reads.isEmpty && t.fpPend.isEmpty && (t.resops.all fun o => o.task != t.task) && t.async.isEmpty

/-- Strand `n` of core `c` ends (R32). When it was the last of its task, the task drains: its bindings take no further
delivery (R55). -/
def State.endStrand (s : State) (c : Nat) (n : Fin 4) : State :=
  let key := (s.strand c n).task
  let s := s.modStrand c n Strand.ended
  if (s.core c).strands.toList.any fun t => t.task == key && !t.handler then s
  else
    match s.task? key with
    | some t =>
      if t.st == .running then
        (s.modTask key fun t => { t with st := .draining }).modCore c fun k =>
          { k with mailboxes := k.mailboxes.map fun m => if m.valid && m.owner == key then { m with accepting := false } else m }
      else s
    | none => s

/-- EXIT (R32, R356). While it waits a cause may enter the handler, whose ERET comes back to it (R357). -/
def execExit (s : State) : Host.Outcome State Fault Refusal :=
  aWord .exit 1#1 (fun s =>
    if s.me.xstop == .exit && s.myCore.strandQuiet s.cur.strand then .final (s.endStrand s.cur.core s.cur.strand)
    else .wait) s

/-- YIELD (R443): marks the task; in a handler task it has no effect. -/
def execYield (s : State) : Host.Outcome State Fault Refusal :=
  aWord .yield 1#1 (fun s =>
    if s.me.handler then .done s else .done (s.effect .yield)) s

/-- ERET (R286, R354). Behind an outstanding read the access counter goes on, and the execute counter when the read is done
(R368). -/
def execEret (s : State) : Host.Outcome State Fault Refusal :=
  aWord .eret 1#1 (fun s =>
    if !(s.view .a).me.trapvec.getLsbD 1 then .trap causeIllegal 0#16
    else if s.me.xstop == .eret then
      let s := s.modMe fun t => t.addPassed .a 1
      let v := s.view .a
      .final ((s.modMe fun t => t.eretA v.me).effect (.eret (v.me.eretPassed) (v.me.trappc.extractLsb' 32 22)))
    else .wait) s

/-- TRAP (R408). -/
def execTrap (c : BitVec 12) (s : State) : Host.Outcome State Fault Refusal :=
  aWord (.trap c) 1#1 (fun _ => .trap causeTrap (c.zeroExtend 16)) s

end Sys2Proof.Machine
end

