-- ==== Sys2Proof/Machine/Walks.lean ====
section
/-! DEFINITION. Sys2Proof/Machine/Walks.lean: walk records (spec/06_local_memory_and_walks.md R143 to R149), pieces of a walk
(spec/08_memory_model.md R182), the checksum pair (spec/10_chunks_residency_placement.md R217, R218) and token status words
(spec/02_execution_model.md R51). -/

namespace Sys2Proof.Machine

/-- A walk record from its 64 bytes (R143). -/
def decodeWalk (l : List Byte) : Walk :=
  { base := BitVec.ofNat 64 (field l 0 8)
    ext := [field l 8 4, field l 12 4, field l 16 4, field l 20 4]
    stride := [intOf true 32 (field l 24 4), intOf true 32 (field l 28 4), intOf true 32 (field l 32 4), intOf true 32 (field l 36 4)]
    esize := field l 40 1
    flags := BitVec.ofNat 8 (field l 41 1) }

/-- A reserved byte or FLAGS bit of a record is not zero (R143). -/
def walkReserved (l : List Byte) : Bool := !zeros l 42 22 || 8 ≤ field l 41 1

def Walk.tag (w : Walk) : Nat := w.base.toNat / 2 ^ 60
def Walk.fwd (w : Walk) : Bool := w.flags.getLsbD 0
def Walk.replay (w : Walk) : Bool := w.flags.getLsbD 1
def Walk.csumc (w : Walk) : Bool := w.flags.getLsbD 2

/-- The offset of BASE, where a chunk header lies when CSUMC = 1. -/
def Walk.hdr (w : Walk) : Nat := w.base.toNat % 2 ^ 60

/-- OFF (R144). -/
def Walk.off (w : Walk) : Nat := w.hdr + if w.csumc then 64 else 0

/-- Elements (R144). -/
def Walk.count (w : Walk) : Nat := w.ext.foldl (· * ·) 1

/-- An extent is zero (R146). -/
def Walk.isZero (w : Walk) : Bool := w.ext.any (· == 0)

/-- Bytes of the walk. -/
def Walk.size (w : Walk) : Nat := w.count * w.esize

/-- The displacement of element `n`, dimension by dimension from the innermost (R144). -/
def walkStep : List Nat → List Int → Nat → Int
  | e :: es, d :: ds, n => (n % e : Nat) * d + walkStep es ds (n / e)
  | _, _, _ => 0

/-- The offset of element `n` (R144). -/
def Walk.elem (w : Walk) (n : Nat) : Int := w.off + walkStep w.ext w.stride n

/-- The strides of a forward-linear walk: a dimension of one index may have any (R144). -/
def linearFrom : Nat → List Nat → List Int → Bool
  | b, e :: es, d :: ds => (e ≤ 1 || d == (b : Int)) && linearFrom (b * e) es ds
  | _, _, _ => true

/-- The walk is forward-linear (R144). -/
def Walk.linear (w : Walk) : Bool := w.isZero || linearFrom w.esize w.ext w.stride

/-- The least and greatest displacement of an element. -/
def walkSpan : List Nat → List Int → Int × Int
  | e :: es, d :: ds =>
    let r := walkSpan es ds
    let x := ((e - 1 : Nat) : Int) * d
    (r.1 + min 0 x, r.2 + max 0 x)
  | _, _ => (0, 0)

/-- The lowest offset that the walk or its chunk header reaches. -/
def Walk.low (w : Walk) : Int := min (w.hdr : Int) (w.off + (walkSpan w.ext w.stride).1)

/-- One past the highest. -/
def Walk.high (w : Walk) : Int := w.off + (walkSpan w.ext w.stride).2 + w.esize

/-- Every byte of the walk and of its header lies in [0, limit) (R145, R201). -/
def Walk.within (w : Walk) (limit : Nat) : Bool :=
  0 ≤ w.off + (walkSpan w.ext w.stride).1 && w.high ≤ limit && (!w.csumc || w.hdr + 64 ≤ limit)

/-- ESIZE is one of the listed values (R143). -/
def esizeListed (n : Nat) : Bool := n == 1 || n == 2 || n == 4 || n == 8 || n == 17 || n == 25 || n == 33

/-- WALK-FORMAT of R145: `res` says that a reserved field is set, `replayOk` that the command admits REPLAY here, and
`esizeOk` which element sizes it admits. A zero extent skips none of it (R146); a walk without elements is forward-linear. -/
def Walk.formatBad (w : Walk) (res replayOk : Bool) (esizeOk : Nat → Bool) : Bool :=
  !esizeListed w.esize || res || !esizeOk w.esize || (w.fwd && w.replay) || (w.replay && !replayOk) ||
    (w.fwd && !w.linear) || (w.csumc && w.hdr % 64 != 0)

/-- Addresses of the bytes of `n` elements from element `k` on, in walk order. -/
def Walk.bytesFrom (w : Walk) (k n : Nat) : List Nat :=
  (List.range n).flatMap fun i => (List.range w.esize).map fun j => (w.elem (k + i)).toNat + j

/-- Addresses of the bytes of the walk, in walk order. -/
def Walk.addrs (w : Walk) : List Nat := w.bytesFrom 0 w.count

/-- Pieces of a list of byte addresses: consecutive addresses of one aligned word in one piece (R182). `o` is the offset of
the first byte. -/
def piecesOf : Nat → List Nat → List ReadPiece
  | _, [] => []
  | o, a :: l =>
    match piecesOf (o + 1) l with
    | [] => [⟨o, a, 1⟩]
    | p :: ps => if p.addr = a + 1 && p.addr / 8 = a / 8 then ⟨o, a, p.len + 1⟩ :: ps else ⟨o, a, 1⟩ :: p :: ps

/-- Some byte of the elements meets [r.1, r.2) (R135). -/
def Walk.meets (w : Walk) (r : Nat × Nat) : Bool :=
  w.low < r.2 && (r.1 : Int) < w.high &&
    (List.range w.count).any fun n => w.elem n < r.2 && (r.1 : Int) < w.elem n + w.esize

/-- The destination bytes, or the bytes of a header that the command writes, meet a protected text range of core `c`
(R135, R145). -/
def State.walkHitsText (s : State) (c : Nat) (w : Walk) (hdr : Bool) : Bool :=
  (s.textRanges c).any fun r => w.meets r || (hdr && w.csumc && w.hdr < r.2 && r.1 < w.hdr + 64)

/-! ## The checksum pair (R218) -/

def csumM : Nat := 2 ^ 61 - 1

/-- The words of R218. -/
def csumWords (l : List Byte) : List Nat := (List.range ((l.length + 7) / 8)).map fun i => field l (8 * i) 8

/-- Sum of (i + k) × w[i]. -/
def weightedSum : Nat → List Nat → Nat
  | _, [] => 0
  | k, w :: l => k * w + weightedSum (k + 1) l

/-- The pair of words numbered from `i` on. -/
def pairFrom (i : Nat) (ws : List Nat) : Word × Word :=
  (BitVec.ofNat 64 (ws.foldl (· + ·) 0 % csumM), BitVec.ofNat 64 (weightedSum (i + 1) ws % csumM))

/-- The pair of a string of bytes (R218). -/
def csumPair (l : List Byte) : Word × Word := pairFrom 0 (csumWords l)

/-- The eight bytes of a word. -/
def bytes8 (v : Word) : List Byte := natBytes 8 v.toNat

/-- HEADER-FORMAT (R217): the 64 bytes of a header, and the payload bytes of its walk. -/
def headerBad (h : List Byte) (n : Nat) : Bool :=
  let fmt := field h 12 1
  !zeros h 14 2 || !zeros h 56 8 || (24 ≤ fmt && fmt != 31) || field h 13 1 == 0 || 3 < field h 13 1 ||
    0x100000 < field h 8 4 || field h 8 4 != n

/-- The pair that a chunk header stores (R216). -/
def headerPair (h : List Byte) : Word × Word := (BitVec.ofNat 64 (field h 0x28 8), BitVec.ofNat 64 (field h 0x30 8))

/-! ## Tokens (R51) -/

/-- A token status word: ERR, POISON, VERDICT, BYTES. -/
def tokenWord (err : Nat) (poison : Bool) (verdict bytes : Nat) : Word :=
  BitVec.ofNat 64 (2 ^ 63 + err * 2 ^ 48 + (if poison then 2 ^ 43 else 0) + verdict * 2 ^ 41 + min bytes (2 ^ 40 - 1))

/-- A token of strand `n` of core `c` is written and becomes available (R50), while the task that issued the command still
runs there. -/
def State.writeToken (s : State) (c : Nat) (n : Fin 4) (task : Nat) (tok : BitVec 5) (v : Word) : State :=
  let t := s.strand c n
  if tok = 0#5 || task = 0 || t.task != task then s
  else s.setStrand c n (t.arrive tok (some v))

end Sys2Proof.Machine
end

