-- ==== Sys2Proof/Machine/Space.lean ====
section
/-! DEFINITION. Sys2Proof/Machine/Space.lean: the spaces of tagged pointers (spec/09_address_spaces_translation.md R199 to
R202), device-virtual translation (R203 to R208), routes (spec/01_device_overview.md R12, R14), and single pieces read and
written at the memory that an offset reaches. -/

namespace Sys2Proof.Machine

/-! ## Places -/

/-- A memory of the package, a peer behind a link, or the host behind a port. -/
inductive Place where
  | sram (core : Nat)
  | cpool (cluster : Nat)
  | dpool (die : Nat)
  | hbm
  | peer (n : Fin 16)
  | host (p : Fin 2)
  deriving DecidableEq, Repr, Inhabited

/-- A byte of a place. -/
structure Loc where
  place : Place
  addr : Nat
  deriving DecidableEq, Repr, Inhabited

/-- The die that holds a byte: routes to it end there (R12, R14, R23). -/
def Loc.die (l : Loc) : Nat :=
  match l.place with
  | .sram c => dieOf c
  | .cpool k => k / 4
  | .dpool d => d
  | .hbm =>
    let s := l.addr / (48 * 2 ^ 30)
    4 * (s / 2) + 2 * (s % 2) + l.addr % (48 * 2 ^ 30) / (24 * 2 ^ 30)
  | .peer n => n.val
  | .host p => if p = 0 then 0 else 15

/-- Dies from `a` to `b`, both named, along the mesh row and then the column (R12): at most 6 edges. -/
def routeFrom : Nat → Nat → Nat → List Nat
  | 0, a, _ => [a]
  | fuel + 1, a, b =>
    if a % 4 < b % 4 then a :: routeFrom fuel (a + 1) b
    else if b % 4 < a % 4 then a :: routeFrom fuel (a - 1) b
    else if a / 4 < b / 4 then a :: routeFrom fuel (a + 4) b
    else if b / 4 < a / 4 then a :: routeFrom fuel (a - 4) b
    else [a]

def route (a b : Nat) : List Nat := routeFrom 6 a b

/-- A die of the route has failed hard (R304). -/
def State.routeDead (s : State) (a b : Nat) : Bool := (route a b).any fun d => (s.die d).health == .failed

/-- Some die has failed hard. -/
def State.anyFailed (s : State) : Bool := s.dies.any fun d => d.2.health == .failed

/-- The memory of a place of the package; a peer's and a host's are not memories of it. -/
def State.ram (s : State) (p : Place) : Ram :=
  match p with
  | .sram c => (s.core c).sram
  | .cpool k => (s.cluster k).pool
  | .dpool d => (s.die d).pool
  | .hbm => s.hbm
  | .host p => ⟨(s.port p).host, []⟩
  | .peer _ => Ram.empty

def State.modRam (s : State) (p : Place) (f : Ram → Ram) : State :=
  match p with
  | .sram c => s.modCore c fun k => { k with sram := f k.sram }
  | .cpool k => s.modCluster k fun v => { v with pool := f v.pool }
  | .dpool d => s.modDie d fun v => { v with pool := f v.pool }
  | .hbm => { s with hbm := f s.hbm }
  | .host p => s.modPort p fun v => { v with host := (f ⟨v.host, []⟩).cells }
  | .peer _ => s

/-! ## Who translates -/

/-- What a command or a packet reaches: its translation unit (a core's number, or 4096 plus a port), its context, its core,
its region and its pool windows. -/
structure Space where
  unit : Nat
  context : Word
  core : Nat
  regid : Word
  cwin : Nat × Nat
  dwin : Nat × Nat
  deriving DecidableEq, Repr, Inhabited

/-- The spaces that a command of task `key` on core `c` reaches (R200, R202). -/
def State.spaceOf (s : State) (c key : Nat) : Space :=
  match s.task? key with
  | some t => ⟨c, s.contextOf t.regid, c, t.regid, t.cwin, t.dwin⟩
  | none => ⟨c, 0#64, c, 0#64, (0, 0), (0, 0)⟩

/-- The spaces that a packet of port `p` for region `regid` reaches (R207). -/
def State.packetSpace (s : State) (p : Fin 2) (regid : Word) : Space :=
  ⟨4096 + p.val, s.contextOf regid, if p = 0 then 0 else 0xF00, regid, (0, 0), (0, 0)⟩

def State.unitTlb (s : State) (u : Nat) : List TlbEntry :=
  if u < 4096 then (s.core u).tlb else (s.port (Fin.ofNat 2 (u - 4096))).tlb

def State.setTlb (s : State) (u : Nat) (l : List TlbEntry) : State :=
  if u < 4096 then s.modCore u fun k => { k with tlb := l }
  else s.modPort (Fin.ofNat 2 (u - 4096)) fun v => { v with tlb := l }

/-! ## Translation (R203 to R208) -/

/-- The result of a walk: a page, or a fault of a kind and level with the entry as read (R206). -/
inductive Walked where
  | page (pa size : Nat) (rd w : Bool)
  | fault (kind level : Nat) (entry : Word)
  deriving DecidableEq, Repr, Inhabited

/-- Index of a level (R203). -/
def pteIndex (lvl va : Nat) : Nat :=
  match lvl with
  | 1 => va / 2 ^ 42 % 1024
  | 2 => va / 2 ^ 29 % 8192
  | _ => va / 2 ^ 16 % 8192

/-- Bytes that a leaf of a level maps (R203, R205). -/
def leafSize (lvl : Nat) (cont : Bool) : Nat :=
  match lvl with
  | 2 => 2 ^ 29 * if cont then 16 else 1
  | _ => 2 ^ 16 * if cont then 32 else 1

/-- PA of an entry, as an address (R204). -/
def ptePa (e : Nat) : Nat := e / 2 ^ 16 % 2 ^ 36 * 2 ^ 16

/-- TABLE-FORMAT (R206). -/
def pteBad (lvl e : Nat) : Bool :=
  let leaf := e.testBit 1
  let rd := e.testBit 2
  let w := e.testBit 3
  let cont := e.testBit 4
  e / 2 ^ 52 != 0 || e / 2 ^ 5 % 2 ^ 11 != 0 || (leaf && lvl == 1) || (!leaf && lvl == 3) ||
    (leaf && ptePa e % leafSize lvl cont != 0) || (!leaf && (rd || w || cont)) || (w && !rd)

/-- One past the highest physical address (R14). -/
def hbmTop : Nat := 0x6000000000

/-- The walk of R206 over the levels given, from table `t`. An entry that `lost` names cannot be read, and is taken as a
poisoned one (assumption 90). -/
def walkTables (m : Ram) (lost : Nat → Bool) (va : Nat) (write : Bool) : List Nat → Nat → Walked
  | [], _ => .fault 3 3 0#64
  | lvl :: ls, t =>
    let a := t + 8 * pteIndex lvl va
    if m.poison.contains (a / 8) || lost a then .fault 6 lvl 0#64
    else
      let e := m.readLE a 8
      let ew := BitVec.ofNat 64 e
      if !e.testBit 0 then .fault 1 lvl ew
      else if pteBad lvl e then .fault 3 lvl ew
      else if e.testBit 1 then
        let size := leafSize lvl (e.testBit 4)
        if hbmTop < ptePa e + size then .fault 4 lvl ew
        else if (write && !e.testBit 3) || (!write && !e.testBit 2) then .fault 2 lvl ew
        else .page (ptePa e) size (e.testBit 2) (e.testBit 3)
      else if hbmTop < ptePa e + 65536 then .fault 4 lvl ew
      else walkTables m lost va write ls (ptePa e)

/-- A byte of HBM whose half-stack has been lost with its die (R25). -/
def State.hbmLost (s : State) (a : Nat) : Bool := s.anyFailed && (s.die (Loc.die ⟨.hbm, a⟩)).health == .failed

/-- A fresh walk of a context's tables. -/
def State.walkVa (s : State) (ctx : Word) (va : Nat) (write : Bool) : Walked :=
  match s.region? ctx with
  | none => .fault 1 1 0#64
  | some r => walkTables s.hbm s.hbmLost va write [1, 2, 3] r.root

/-- Entries of a unit's buffer (R207). -/
def tlbSize (u : Nat) : Nat := if u < 4096 then 256 else 64

/-- An entry that gives `va` to the access. -/
def TlbEntry.gives (e : TlbEntry) (ctx : Word) (va : Nat) (write : Bool) : Bool :=
  e.context == ctx && e.va ≤ va && va < e.va + e.size && (if write then e.w else e.rd)

/-- The translation of `va`: through a buffered entry, or afresh. Which entries a buffer still holds is left open: a free
value decides whether a matching one is used (assumption 14). -/
def State.translate (s : State) (u : Nat) (ctx : Word) (va : Nat) (write : Bool) : State × Walked :=
  let l := s.unitTlb u
  let s' := { s with free := s.free + 1 }
  match (if Config.freeBool s.free then l.find? fun e => e.gives ctx va write else none) with
  | some e => (s', .page e.pa e.size e.rd e.w)
  | none =>
    match s.walkVa ctx va write with
    | .page pa size rd w =>
      let e : TlbEntry := ⟨ctx, va / size * size, size, pa, rd, w⟩
      let l := l.filter fun x => !(x.context == ctx && x.va == e.va && x.size == size)
      (s'.setTlb u ((e :: l).take (tlbSize u)), .page pa size rd w)
    | f => (s', f)

/-! ## The layout and limits of a space (R199, R201, R202, R314) -/

/-- The handle that a tag-5 offset names in a context. -/
def State.handle? (s : State) (ctx : Word) (n : Nat) : Option Handle :=
  s.handles.find? fun h => h.context == ctx && h.num == n

/-- The range of offsets that a pointer of tag `tag` with offset `off` may reach; none where it breaks its layout, or names
what is not there. -/
def State.limits (s : State) (sp : Space) (tag off : Nat) (write : Bool) : Option (Nat × Nat) :=
  match tag with
  | 0 => if off < 2 ^ 22 then some (0, 0x300000) else none
  | 1 => if off < 2 ^ 25 then some (0, sp.cwin.2) else none
  | 2 => if off < 2 ^ 26 then some (0, sp.dwin.2) else none
  | 3 => if off < 2 ^ 52 then some (0, 2 ^ 52) else none
  | 4 =>
    let n := off / 2 ^ 56
    if off % 2 ^ 56 < 2 ^ 52 && (s.link (Fin.ofNat 16 n)).st == 2#2 then some (n * 2 ^ 56, n * 2 ^ 56 + 2 ^ 52) else none
  | 5 =>
    let n := off / 2 ^ 48
    match s.handle? sp.context n with
    | some h => if write && !h.w then none else some (n * 2 ^ 48, n * 2 ^ 48 + min h.len (2 ^ 48))
    | none => none
  | _ => none

/-- The walk and its header lie within [lo, hi). -/
def Walk.inside (w : Walk) (lo hi : Nat) : Bool :=
  (lo : Int) ≤ w.off + (walkSpan w.ext w.stride).1 && w.high ≤ hi && (!w.csumc || (lo ≤ w.hdr && w.hdr + 64 ≤ hi))

/-- The walk breaks the layout or the limit of its space. -/
def State.walkOutside (s : State) (sp : Space) (w : Walk) (write : Bool) : Bool :=
  match s.limits sp w.tag w.hdr write with
  | some (lo, hi) => !w.inside lo hi
  | none => true

/-! ## Reaching a byte -/

/-- What an offset reaches. -/
inductive Reach where
  | loc (l : Loc)
  | fault (kind level : Nat) (entry : Word)
  /-- it is not there (any more) -/
  | gone
  deriving DecidableEq, Repr, Inhabited

/-- A byte that nothing on die `d` reaches any more: its route crosses a die that failed hard (R25, R304). -/
def State.lostFrom (s : State) (d : Nat) (l : Loc) : Bool := s.anyFailed && s.routeDead d l.die

/-- The byte that offset `off` of tag `tag` names: tag 0 in the core `c` given. -/
def State.locate (s : State) (sp : Space) (c tag off : Nat) (write : Bool) : State × Reach :=
  match tag with
  | 0 => (s, .loc ⟨.sram c, off⟩)
  | 1 => (s, .loc ⟨.cpool (clusterOf sp.core), sp.cwin.1 + off⟩)
  | 2 => (s, .loc ⟨.dpool (dieOf sp.core), sp.dwin.1 + off⟩)
  | 3 =>
    match s.translate sp.unit sp.context off write with
    | (s, .page pa size _ _) => (s, .loc ⟨.hbm, pa + off % size⟩)
    | (s, .fault k l e) => (s, .fault k l e)
  | 4 => (s, .loc ⟨.peer (Fin.ofNat 16 (off / 2 ^ 56)), off % 2 ^ 52⟩)
  | 5 =>
    match s.handle? sp.context (off / 2 ^ 48) with
    | some h => (s, .loc ⟨.host (Fin.ofNat 2 h.port), h.bus + off % 2 ^ 48⟩)
    | none => (s, .gone)
  | _ => (s, .gone)

/-- The byte that offset `off` of tag `tag` reaches. One that lies behind a die that failed hard is gone, also for a piece
whose page was mapped after its walk was checked: a read of it brings poisoned free bytes, and a write is lost (assumption 90). -/
def State.reach (s : State) (sp : Space) (c tag off : Nat) (write : Bool) : State × Reach :=
  match s.locate sp c tag off write with
  | (s, .loc l) => if s.lostFrom (dieOf sp.core) l then (s, .gone) else (s, .loc l)
  | r => r

/-- The byte named by a fresh walk, for checks and records. -/
def State.reachNow (s : State) (sp : Space) (c tag off : Nat) : Option Loc :=
  if tag = 3 then
    match s.walkVa sp.context off false with
    | .page pa size _ _ => some ⟨.hbm, pa + off % size⟩
    | .fault _ _ _ => none
  else
    match (s.locate sp c tag off false).2 with
    | .loc l => some l
    | _ => none

/-- Bytes that a peer answers with (assumption 17). -/
def freeBytes (n0 : Nat) (n : Nat) : List Byte := (List.range n).map fun i => Config.freeByte (n0 + i)

/-- A read piece at its memory: bytes, and whether its word is poisoned. A read of a host may fail: its bytes are then
poisoned (R202), and a free value decides (assumption 17). -/
def State.readLoc (s : State) (l : Loc) (n : Nat) : State × List Byte × Bool :=
  match l.place with
  | .peer _ => ({ s with free := s.free + n }, freeBytes s.free n, false)
  | .host p =>
    let s' := { s with free := s.free + n + 1 }
    if Config.freeBool (s.free + n) then (s', freeBytes s.free n, true) else (s', (s.ram (.host p)).bytes l.addr n, false)
  | p => (s, (s.ram p).bytes l.addr n, (s.ram p).poisoned l.addr n)

/-- A write piece at its memory; it lands poisoned when `pois`. -/
def State.writeLoc (s : State) (l : Loc) (v : List Byte) (pois : Bool) : State :=
  s.modRam l.place fun m => if pois then m.writePoisoned l.addr v else m.write l.addr v

/-- The word of a piece stays or becomes poisoned when the piece lands. -/
def State.landsPoisoned (s : State) (l : Loc) (n : Nat) (pois : Bool) : Bool :=
  pois || ((s.ram l.place).poisoned l.addr n && !(n = 8 && l.addr % 8 = 0))

/-! ## Where a delivery to a logical core goes (R166, R295) -/

inductive Target where
  | live (core : Nat)
  | saved (task : Nat)
  deriving DecidableEq, Repr, Inhabited

/-- The saved task whose image is the logical core's whole state. -/
def State.savedAt (s : State) (regid : Word) (l : BitVec 12) : Option Task :=
  s.tasks.find? fun t => t.st == .saved && t.slotCoreSec && t.regid == regid && t.lcore == l.zeroExtend 16

/-- The core that region `regid` holds under logical CORE `l`, or the image that stands for it. -/
def State.target (s : State) (regid : Word) (l : BitVec 12) : Option Target :=
  match s.savedAt regid l with
  | some t => some (.saved t.key)
  | none => (s.resolve regid l).map .live

/-- A delivery joins those held for a saved logical core. -/
def State.hold (s : State) (key : Nat) (h : HeldDelivery) : State := s.modTask key fun t => { t with held := t.held ++ [h] }

/-! ## The hop that a record names (R221) -/

/-- HOPTYPE and HOP of a byte. -/
def State.hopOf (s : State) (l : Loc) : Nat × Nat :=
  match l.place with
  | .sram c => (0, s.hopCore c)
  | .cpool k => (3, k)
  | .dpool d => (4, d)
  | .hbm => (5, l.addr / (48 * 2 ^ 30) + 8 * (l.addr % (48 * 2 ^ 30) / (24 * 2 ^ 30)))
  | .peer n => (2, n.val)
  | .host p => (6, p.val)

/-- The first check on the route from die `a` to a byte: a die edge, a device link, or the landing memory (R219, R220). -/
def State.firstHop (s : State) (a : Nat) (l : Loc) : Nat × Nat :=
  match route a l.die with
  | x :: y :: _ => (1, x + 16 * y)
  | _ => s.hopOf l

end Sys2Proof.Machine
end

