-- ==== Sys2Proof/Machine/Rings.lean ====
section
/-! DEFINITION. Sys2Proof/Machine/Rings.lean: host command rings, their fetch, issue and completion records
(spec/12_scheduling.md R247 to R251, spec/14_host_links_boot_power.md R308 to R311), with the events PACKET_FETCH,
PACKET_ISSUE, FETCH_RETRY and PAD. -/

namespace Sys2Proof.Machine

/-! ## A queue's rings (R247, R308, R310) -/

/-- Bytes of the command ring and of the completion ring (R308). -/
def HostQueue.size (q : HostQueue) : Nat := 2 ^ (q.qsize.toNat % 32)
def HostQueue.recSize (q : HostQueue) : Nat := 2 ^ (q.qsize.toNat / 2 ^ 8 % 32)

/-- The address of a base (R308). -/
def ringAddr (base : Word) : Nat := base.toNat % 2 ^ 52

/-- A byte of HBM that a port's command processor cannot reach (R25, R304). -/
def State.portLost (s : State) (p : Fin 2) (a : Nat) : Bool := s.anyFailed && s.routeDead (portDie p) (Loc.die ⟨.hbm, a⟩)

/-- `n` bytes of a ring at offset `off`; none when the read fails: a poisoned or lost word of HBM, or a host that does not complete
it, which is free (assumption 17). -/
def State.ringRead (s : State) (p : Fin 2) (base : Word) (off n : Nat) : State × Option (List Byte) :=
  let a := ringAddr base + off
  if base.getLsbD 63 then
    ({ s with free := s.free + 1 }, if Config.freeBool s.free then none else some (readCells (s.port p).host a n))
  else (s, if s.hbm.poisoned a n || s.portLost p a then none else some (s.hbm.bytes a n))

/-- Bytes written to a ring. -/
def State.ringWrite (s : State) (p : Fin 2) (base : Word) (off : Nat) (v : List Byte) : State :=
  let a := ringAddr base + off
  if base.getLsbD 63 then s.modPort p fun k => { k with host := writeCells k.host a v }
  else if s.portLost p a then s
  else { s with hbm := s.hbm.write a v }

/-! ## Packets (R248, R249) -/

def Packet.type (k : Packet) : Nat := field k.bytes 0 1
def Packet.fence (k : Packet) : Bool := (field k.bytes 1 1).testBit 0
def Packet.units (k : Packet) : Nat := field k.bytes 2 2
def Packet.seq (k : Packet) : Nat := field k.bytes 4 4
def Packet.regid (k : Packet) : Word := BitVec.ofNat 64 (field k.bytes 8 8)

/-- A number of the body. -/
def Packet.num (k : Packet) (off n : Nat) : Nat := field k.bytes off n

/-- SIZE that a packet must have (R249). -/
def Packet.wantUnits (k : Packet) : Nat :=
  match k.type with
  | 0 => k.units
  | 1 => 3 + k.num 0x20 4
  | 2 => 10
  | 3 => 2 + k.num 0x18 4 / 2
  | 4 => 3
  | 5 => 3
  | 6 => 3
  | 7 => 2
  | 8 => 2
  | 9 => 2
  | _ => 2

/-- Bytes of the body that the table of R249 does not list, as offset and length. -/
def Packet.reserved (k : Packet) : List (Nat × Nat) :=
  match k.type with
  | 0 => [(0x10, 16 * k.units - 16)]
  | 1 => [(0x24, 4), (0x28 + 16 * k.num 0x20 4, 8)]
  | 2 => [(0x19, 7)]
  | 3 => [(0x1C, 4)]
  | 4 => [(0x2C, 4)]
  | 5 => [(0x13, 5), (0x28, 8)]
  | 6 => [(0x28, 8)]
  | 7 => [(0x13, 5)]
  | 8 => []
  | 9 => [(0x11, 15)]
  | _ => []

def tag3 (p : Nat) : Bool := p / 2 ^ 60 == 3
def tag5 (p : Nat) : Bool := p / 2 ^ 60 == 5

/-- A part of a LAUNCH breaks R256. -/
def partBad (b : List Byte) : Bool :=
  !tag3 (field b 0 8) || 1 < field b 8 1 || (if field b 8 1 = 0 then 64 else 16) ≤ field b 9 1 ||
    field b 10 2 == 0 || (if field b 8 1 = 0 then 64 else 256) < field b 10 2 || field b 12 4 % 65536 != 0 || sramSize < field b 12 4

/-- A field of the body has a value that R249 does not allow. -/
def Packet.bodyBad (k : Packet) : Bool :=
  match k.type with
  | 1 =>
    k.num 0x10 8 == 0 || (k.num 0x18 8 != 0 && (!tag3 (k.num 0x18 8) || k.num 0x18 8 % 8 != 0)) || k.num 0x20 4 == 0 ||
      61 < k.num 0x20 4 || (List.range (k.num 0x20 4)).any fun i => partBad ((k.bytes.drop (0x28 + 16 * i)).take 16)
  | 2 => 2 < k.num 0x18 1 || k.num 0x10 8 % 128 != 0
  | 3 => k.num 0x10 8 % 8 != 0 || k.num 0x18 4 < 2 || 124 < k.num 0x18 4 || k.num 0x18 4 % 2 != 0
  | 4 => k.num 0x18 8 % 65536 != 0 || 8192 < k.num 0x28 4 || k.num 0x20 8 % 8 != 0
  | 5 => 4095 < k.num 0x10 2 || 1 < k.num 0x12 1
  | 6 =>
    !(tag5 (k.num 0x10 8) || tag5 (k.num 0x18 8)) || !(tag3 (k.num 0x10 8) || tag5 (k.num 0x10 8)) ||
      !(tag3 (k.num 0x18 8) || tag5 (k.num 0x18 8))
  | 7 => 4095 < k.num 0x10 2 || 63 < k.num 0x12 1
  | 8 => !tag3 (k.num 0x10 8) || k.num 0x10 8 % 8 != 0
  | 9 => 15 < k.num 0x10 1
  | 10 => !(tag3 (k.num 0x10 8) || tag5 (k.num 0x10 8))
  | _ => false

/-- FORMAT (R248, R249). -/
def Packet.formatBad (k : Packet) : Bool :=
  10 < k.type || 2 ≤ k.num 1 1 || k.units == 0 || 64 < k.units || k.bytes.length != 16 * k.units || k.units != k.wantUnits ||
    ((k.type == 0 || 9 ≤ k.type) && k.regid != 0#64) || (k.reserved.any fun r => !zeros k.bytes r.1 r.2) || k.bodyBad

/-! ## Completion and halting (R251, R310, R311) -/

/-- VEC is sent when IRQ is set (R308). -/
def State.interrupt (s : State) (p : Fin 2) (q : Fin 16) : State :=
  let v := s.queue p q
  if v.irq then s.modPort p fun k => k.signal v.vec else s

/-- The queue halts with the packet at `off` at its head (R251, R311). -/
def State.halt (s : State) (p : Fin 2) (q : Fin 16) (off : Nat) : State :=
  (s.modQueue p q fun v => { v with halted := true, head := off, fetchAt := off, fetched := [] }).interrupt p q

/-- A completion record of R251. -/
def recordBytes (k : Packet) (status detail : Nat) : List Byte :=
  natBytes 4 k.seq ++ natBytes 1 k.type ++ natBytes 1 status ++ [0#8, 0#8] ++ natBytes 8 detail

/-- A packet completes: its record is written at CTAIL, and CHANGED and FORMAT halt the queue (R251, R310). -/
def State.completePacket (s : State) (p : Fin 2) (q : Fin 16) (k : Packet) (status detail : Nat) : State :=
  let v := s.queue p q
  let s := s.ringWrite p v.cbase v.ctail (recordBytes k status detail)
  let s := s.modQueue p q fun v =>
    { v with
      ctail := (v.ctail + 16) % v.recSize, issued := v.issued.filter fun x => x.id != k.id,
      waiting := v.waiting && k.type != 8 }
  let s := s.interrupt p q
  if status = 1 || status = 2 then s.halt p q k.off else s

/-- Issued packet `k` of a queue, when it is of a type. -/
def State.packet? (s : State) (p : Fin 2) (q : Fin 16) (k type : Nat) : Option Packet :=
  if s.portUp p then ((s.queue p q).issued[k]?).filter fun x => x.type == type else none

/-- The progress of an issued packet. -/
def State.setDone (s : State) (p : Fin 2) (q : Fin 16) (id n : Nat) : State :=
  s.modQueue p q fun v => { v with issued := v.issued.map fun x => if x.id == id then { x with done := n } else x }

/-- PAD (R249). -/
def execPad (port : Fin 2) (q : Fin 16) (k : Nat) (s : State) : Host.Outcome State Fault Refusal :=
  match s.packet? port q k 0 with
  | some x => .next (s.completePacket port q x 0 0)
  | none => .next (s.res .stutter)

/-! ## Fetching (R247, R250, R309) -/

/-- Bytes of the packet whose header stands at an offset. A SIZE that R248 does not allow, or that crosses the ring's end, is
taken as one unit. -/
def packetLength (ring off : Nat) (h : List Byte) : Nat :=
  let n := field h 2 2
  if 1 ≤ n && n ≤ 64 && off + 16 * n ≤ ring then 16 * n else 16

/-- The fetcher may read a packet: at most 16 ahead of the head, and none past the tail. -/
def HostQueue.mayFetch (v : HostQueue) : Bool := v.en && !v.halted && v.fetched.length < 16 && v.fetchAt != v.tail

/-- The fetcher reads one packet whole; a failed read sets FETCHERR, and a good one clears it (R309). -/
def State.fetchOne (s : State) (p : Fin 2) (q : Fin 16) : State :=
  let v := s.queue p q
  let r := s.ringRead p v.qbase v.fetchAt 16
  let fail (s : State) : State := s.modQueue p q fun v => { v with fetcherr := true }
  match r with
  | (s, none) => fail s
  | (s, some h) =>
    let n := packetLength v.size v.fetchAt h
    if (v.tail + v.size - v.fetchAt) % v.size < n then s
    else
      match s.ringRead p v.qbase v.fetchAt n with
      | (s, none) => fail s
      | (s, some l) =>
        s.modQueue p q fun v =>
          { v with
            fetcherr := false, fetched := v.fetched ++ [⟨v.nextId, v.fetchAt, l, 0, []⟩], nextId := v.nextId + 1,
            fetchAt := (v.fetchAt + n) % v.size }

/-- PACKET_FETCH (R250). -/
def execPacketFetch (port : Fin 2) (q : Fin 16) (s : State) : Host.Outcome State Fault Refusal :=
  let v := s.queue port q
  if s.portUp port && v.mayFetch && !v.fetcherr then .next (s.fetchOne port q) else .next (s.res .stutter)

/-- FETCH_RETRY (R309). -/
def execFetchRetry (port : Fin 2) (q : Fin 16) (s : State) : Host.Outcome State Fault Refusal :=
  let v := s.queue port q
  if s.portUp port && v.mayFetch && v.fetcherr then .next (s.fetchOne port q) else .next (s.res .stutter)

/-! ## Issue (R250, R251) -/

/-- Room for the records of every packet issued and of one more (R310). -/
def HostQueue.recordRoom (v : HostQueue) : Bool :=
  (v.ctail + v.recSize - v.chead) % v.recSize / 16 + v.issued.length + 1 < v.recSize / 16

/-- A fetched packet may issue (R251, R310). -/
def HostQueue.mayIssue (v : HostQueue) (k : Packet) : Bool :=
  v.en && !v.halted && !v.waiting && v.recordRoom && (!k.fence || v.issued.isEmpty)

/-- The packet leaves the fetched ones. -/
def State.unfetch (s : State) (p : Fin 2) (q : Fin 16) : State := s.modQueue p q fun v => { v with fetched := v.fetched.drop 1 }

/-- PACKET_ISSUE (R250, R251): the header is read again and compared, the packet is checked, and it issues. -/
def execPacketIssue (port : Fin 2) (q : Fin 16) (s : State) : Host.Outcome State Fault Refusal :=
  let v := s.queue port q
  match v.fetched with
  | [] => .next (s.res .stutter)
  | k :: _ =>
    if !s.portUp port || !v.mayIssue k then .next (s.res .stutter)
    else
      match s.ringRead port v.qbase k.off 16 with
      | (s, none) => .next (s.modQueue port q fun v => { v with fetcherr := true, fetchAt := k.off, fetched := [] })
      | (s, some h) =>
        let s := s.unfetch port q
        if h != k.bytes.take 16 then .next (s.completePacket port q k 1 0)
        else if k.formatBad then .next (s.completePacket port q k 2 0)
        else
          .next (s.modQueue port q fun v =>
            { v with
              head := (k.off + k.bytes.length) % v.size, issued := v.issued ++ [k], waiting := v.waiting || k.type == 8 })

end Sys2Proof.Machine
end

