-- ==== Sys2Proof/Machine/Supervisor.lean ====
section
/-! DEFINITION. Sys2Proof/Machine/Supervisor.lean: the Rivan supervisor extension (spec/12_scheduling.md R265 to R270), with
the RISC-V exception entry that the family gives it (assumption 7). -/

namespace Sys2Proof.Machine

/-- Bytes of private SRAM (R17, R266). -/
def privateSize : Nat := 0x80000

def State.modSup (s : State) (f : Supervisor → Supervisor) : State :=
  s.modCluster s.cur.cluster fun k => { k with sup := f k.sup }
def State.sup (s : State) : Supervisor := (s.cluster s.cur.cluster).sup

/-- Register x-r of the supervisor: x0 reads 0. -/
def Supervisor.reg (u : Supervisor) (r : BitVec 5) : Word := if r = 0#5 then 0#64 else u.x.get r.toFin
def Supervisor.setReg (u : Supervisor) (r : BitVec 5) (v : Word) : Supervisor :=
  if r = 0#5 then u else { u with x := u.x.set r.toFin v }
/-- The word is done: the next one, and one more instruction counted. -/
def Supervisor.nextWord (u : Supervisor) : Supervisor := { u with pc := u.pc + 4#64, minstret := u.minstret + 1#64 }

/-- The two bits of a mode in mstatus.MPP (assumption 7). -/
def Mode.bits : Mode → Word
  | .u => 0#64
  | .s => 1#64
  | .m => 3#64

/-- Bits of mstatus (assumption 7): SIE 1, MIE 3, SPIE 5, MPIE 7, SPP 8, MPP 12:11. -/
def enterM (st : Word) (md : Mode) : Word :=
  (st &&& ~~~0x1888#64) ||| (if st.getLsbD 3 then 0x80#64 else 0#64) ||| (md.bits <<< 11)
def enterS (st : Word) (md : Mode) : Word :=
  (st &&& ~~~0x122#64) ||| (if st.getLsbD 1 then 0x20#64 else 0#64) ||| (if md = .u then 0#64 else 0x100#64)

/-- The supervisor takes an exception (R265): to S-mode when delegated from below M-mode, else to M-mode. -/
def Supervisor.exception (u : Supervisor) (cause : Nat) (tval : Word) : Supervisor :=
  if u.mode != .m && u.medeleg.getLsbD cause then
    { u with scause := BitVec.ofNat 64 cause, stval := tval, sepc := u.pc, mstatus := enterS u.mstatus u.mode, mode := .s,
             pc := u.stvec &&& ~~~3#64 }
  else
    { u with mcause := BitVec.ofNat 64 cause, mtval := tval, mepc := u.pc, mstatus := enterM u.mstatus u.mode, mode := .m,
             pc := u.mtvec &&& ~~~3#64 }

/-- Where an interrupt goes: the base of a trap vector, and with bit 0 the entry of its cause. -/
def vectored (tvec : Word) (cause : Nat) : Word :=
  (tvec &&& ~~~3#64) + (if tvec.getLsbD 0 then BitVec.ofNat 64 (4 * cause) else 0#64)

/-- The supervisor takes an interrupt (R269): its pc is kept as it stands, at the SGWT while one waits. It goes to S-mode when
delegated, else to M-mode; none while it is not enabled, or the mode it goes to, or a lower one, has interrupts off (assumption
7). -/
def Supervisor.interrupt (u : Supervisor) (cause : Nat) : Option Supervisor :=
  let code := BitVec.ofNat 64 (2 ^ 63 + cause)
  if 64 ≤ cause || !u.mie.getLsbD cause then none
  else if u.mideleg.getLsbD cause then
    if u.mode == .m || (u.mode == .s && !u.mstatus.getLsbD 1) then none
    else
      some { u with
        scause := code, stval := 0#64, sepc := u.pc, mstatus := enterS u.mstatus u.mode, mode := .s, pc := vectored u.stvec cause }
  else if u.mode == .m && !u.mstatus.getLsbD 3 then none
  else
    some { u with
      mcause := code, mtval := 0#64, mepc := u.pc, mstatus := enterM u.mstatus u.mode, mode := .m, pc := vectored u.mtvec cause }

/-- Cause codes (R265): illegal instruction and the four of the extension. -/
def supIllegal : Nat := 2
def ringFault : Nat := 24
def fieldFault : Nat := 25
def signalFault : Nat := 26
def bindFault : Nat := 27

/-- What a supervisor instruction does in M-mode or S-mode. -/
inductive SupAct where
  | done (d : BitVec 5) (v : Word) (s : State)
  | wait
  | fault (cause : Nat) (tval : Word)

/-- Runs a supervisor instruction: in U-mode it is illegal (R265). -/
def supWord (word : Word) (body : State → SupAct) (s : State) : Host.Outcome State Fault Refusal :=
  if s.sup.mode = .u then .next ((s.modSup fun u => u.exception supIllegal word).res (.trapped 0#22 supIllegal 0#16))
  else
    match body s with
    | .done d v s' => .next ((s'.modSup fun u => (u.setReg d v).nextWord).res .issued)
    | .wait => .next (s.res .waiting)
    | .fault c v => .next ((s.modSup fun u => u.exception c v).res (.trapped 0#22 c 0#16))

/-- The word of a supervisor instruction (R265). -/
def supBits (f3 : Nat) (b a d : BitVec 5) : Word :=
  BitVec.ofNat 64 (0x0B + d.toNat * 2 ^ 7 + f3 * 2 ^ 12 + a.toNat * 2 ^ 15 + b.toNat * 2 ^ 20)

/-- An address of 32 bytes of private SRAM, a multiple of 32 (R266, R270). -/
def privateRecord (a : Word) : Bool := a.toNat % 32 == 0 && a.toNat + 32 ≤ privateSize

/-- RFCH (R266). -/
def execRfch (b a d : BitVec 5) (s : State) : Host.Outcome State Fault Refusal :=
  supWord (supBits 0 b a d) (fun s =>
    let u := s.sup
    if 3 < (u.reg a).toNat then .fault ringFault (u.reg a)
    else if !privateRecord (u.reg b) then .fault ringFault (u.reg b)
    else
      let r := fin4 (u.reg a).toNat
      match (s.cluster s.cur.cluster).rings.get r with
      | [] => .done d 0#64 s
      | e :: l =>
        .done d 1#64 (s.modCluster s.cur.cluster fun k =>
          { k with rings := k.rings.set r l
                   sup := { k.sup with sram := writeCells k.sup.sram (u.reg b).toNat (natBytes 32 e.toNat) } })) s

/-- XFLD (R268). -/
def execXfld (b a d : BitVec 5) (s : State) : Host.Outcome State Fault Refusal :=
  supWord (supBits 1 b a d) (fun s =>
    let v := s.sup.reg b
    let lo := (v.extractLsb' 0 6).toNat
    let w := (v.extractLsb' 6 6).toNat + 1
    if v.extractLsb' 12 52 != 0#52 || 64 < lo + w then .fault fieldFault v
    else .done d (BitVec.ofNat 64 ((s.sup.reg a).toNat / 2 ^ lo % 2 ^ w)) s) s

/-- P of R269: bits 0 to 3 while a ring is not empty, and the pending events. -/
def Cluster.signals (k : Cluster) : Word :=
  ((List.range 4).foldl (fun acc i => if (k.rings.get (fin4 i)).isEmpty then acc else acc ||| (1#64 <<< i)) 0#64)
    ||| (k.events &&& 0xF0#8).zeroExtend 64

/-- SGWT (R269). -/
def execSgwt (b a d : BitVec 5) (s : State) : Host.Outcome State Fault Refusal :=
  supWord (supBits 2 b a d) (fun s =>
    let want := s.sup.reg a
    let p := (s.cluster s.cur.cluster).signals
    if b ≠ 0#5 then .fault signalFault (s.sup.reg b)
    else if want = 0#64 || want.extractLsb' 8 56 != 0#56 then .fault signalFault want
    else if p &&& want = 0#64 then .wait
    else .done d (p &&& want)
      (s.modCluster s.cur.cluster fun k => { k with events := k.events &&& ~~~((p &&& want).truncate 8) })) s

end Sys2Proof.Machine
end

