-- ==== Sys2Proof/Machine/Group.lean ====
section
/-! DEFINITION. Sys2Proof/Machine/Group.lean: which two words may form a group (spec/03_instruction_encoding.md R65 to R70,
R335). -/

namespace Sys2Proof.Machine

/-- A resource of R68. `table` is the whole format table. -/
inductive Resrc where
  | reg (r : BitVec 5)
  | panel (p : Nat)
  | csr (c : Nat)
  | fmt (k : Nat)
  | table
  deriving DecidableEq, Repr, Inhabited

/-- A register, but for register 0 (R68). -/
def regRes (r : BitVec 5) : List Resrc := if r = 0#5 then [] else [.reg r]
def regsRes (l : List (BitVec 5)) : List Resrc := l.flatMap regRes

/-- A panel operand: its physical panel, renamed by ROTBASE (R46); none for a queue. -/
def panelRes (t : Strand) (a : BitVec 5) : List Resrc := if a.toNat < 16 then [.panel (t.phys a).val] else []
def panelsRes (t : Strand) (l : List (BitVec 5)) : List Resrc := l.flatMap (panelRes t)

/-- What a panel word reads besides its panels: ROTBASE, and for type 31 FMTIDX and the table (R68). -/
def panelImplicit (ty : BitVec 5) : List Resrc := .csr 0x012 :: if ty = 31#5 then [.csr 0x013, .table] else []

/-- The resources a word reads. The spec does not define a panel word (R68): FMTSET and FMTSEL, which name no panel, are taken not
to read ROTBASE, so each may follow a WROT or a CSRW of ROTBASE in its group (assumption 100). -/
def readsOf (t : Strand) : Instr → List Resrc
  | .add _ a b _ _ => regsRes [a, b]
  | .sub _ a b _ _ => regsRes [a, b]
  | .and _ a b _ _ => regsRes [a, b]
  | .or _ a b _ _ => regsRes [a, b]
  | .xor _ a b _ _ => regsRes [a, b]
  | .shl _ a b _ _ => regsRes [a, b]
  | .shr _ a b _ _ => regsRes [a, b]
  | .sra _ a b _ _ => regsRes [a, b]
  | .slt _ a b _ _ => regsRes [a, b]
  | .sltu _ a b _ _ => regsRes [a, b]
  | .minS64 _ a b _ _ => regsRes [a, b]
  | .minZ64 _ a b _ _ => regsRes [a, b]
  | .maxS64 _ a b _ _ => regsRes [a, b]
  | .maxZ64 _ a b _ _ => regsRes [a, b]
  | .mul _ a b _ _ => regsRes [a, b]
  | .mulhS64 _ a b _ _ => regsRes [a, b]
  | .mulhZ64 _ a b _ _ => regsRes [a, b]
  | .madd d a b _ _ => regsRes [d, a, b]
  | .addi _ a _ _ _ => regRes a
  | .andi _ a _ _ _ => regRes a
  | .ori _ a _ _ _ => regRes a
  | .xori _ a _ _ _ => regRes a
  | .shlImm _ a _ _ _ => regRes a
  | .shrImm _ a _ _ _ => regRes a
  | .sraImm _ a _ _ _ => regRes a
  | .bfxZ64 _ a _ _ _ _ => regRes a
  | .bfxS64 _ a _ _ _ _ => regRes a
  | .bfi d a _ _ _ _ => regsRes [d, a]
  | .csrr _ c _ _ => [.csr c.toNat]
  | .csrw a _ _ _ => regRes a
  | .ret _ _ => regRes 31#5
  | .beq a b _ _ _ => regsRes [a, b]
  | .bne a b _ _ _ => regsRes [a, b]
  | .blt a b _ _ _ => regsRes [a, b]
  | .bge a b _ _ _ => regsRes [a, b]
  | .bltu a b _ _ _ => regsRes [a, b]
  | .bgeu a b _ _ _ => regsRes [a, b]
  | .loop _ a _ _ _ => regRes a
  | .ld _ a _ _ _ => regRes a
  | .ldAcq _ a _ _ _ => regRes a
  | .st d a _ _ _ => regsRes [d, a]
  | .stRel d a _ _ _ => regsRes [d, a]
  | .amo _ a b _ _ _ _ => regsRes [a, b]
  | .cas d a b _ _ => regsRes [d, a, b]
  | .pld _ a _ _ => regRes a
  | .pst _ a _ _ => regRes a
  | .gath _ a _ _ _ _ => regRes a
  | .scat _ a _ _ _ _ => regRes a
  | .qsnd _ a _ => regRes a
  | .copy _ a _ => regRes a
  | .dcmp _ a _ => regRes a
  | .fill _ a _ => regRes a
  | .csum _ a _ => regRes a
  | .seminc a _ _ => regRes a
  | .semset a _ _ => regRes a
  | .semwait a _ _ => regRes a
  | .send _ a b _ _ => regsRes [a, b]
  | .mbreg d a b _ _ => regsRes [d, a, b]
  | .mma _ a b _ _ _ => .csr 0x010 :: regsRes [a, b]
  | .mmaSat _ a b _ _ _ => .csr 0x010 :: regsRes [a, b]
  | .mmas _ a b _ _ _ => [.csr 0x010, .csr 0x013, .table] ++ regsRes [a, b]
  | .mld a _ _ => .csr 0x010 :: regRes a
  | .mst _ a b _ _ _ => .csr 0x010 :: regsRes [a, b]
  | .mstSat _ a b _ _ _ => .csr 0x010 :: regsRes [a, b]
  | .coll _ a _ => .csr 0x010 :: regRes a
  | .reside _ a b _ => regsRes [a, b]
  | .evict _ a _ => regRes a
  | .rquery _ a _ => regRes a
  | .spawn _ a _ => regRes a
  | .fadd _ a b _ _ _ => regsRes [a, b]
  | .fsub _ a b _ _ _ => regsRes [a, b]
  | .fmul _ a b _ _ _ => regsRes [a, b]
  | .fmin _ a b _ _ => regsRes [a, b]
  | .fmax _ a b _ _ => regsRes [a, b]
  | .fdiv _ a b _ _ _ => regsRes [a, b]
  | .fsqrt _ a _ _ _ => regRes a
  | .fma d a b _ _ _ _ _ => regsRes [d, a, b]
  | .fcmp _ a b _ _ _ => regsRes [a, b]
  | .fcvt _ a _ _ _ _ _ => regRes a
  | .div _ a b _ _ => regsRes [a, b]
  | .divRem _ a b _ _ => regsRes [a, b]
  | .xsndScalar _ a _ => regRes a
  | .xsndPanel _ p _ _ _ => .csr 0x012 :: panelRes t p
  | .vadd _ a b _ ty _ => panelImplicit ty ++ panelsRes t [a, b]
  | .vsub _ a b _ ty _ => panelImplicit ty ++ panelsRes t [a, b]
  | .vmul _ a b _ ty _ => panelImplicit ty ++ panelsRes t [a, b]
  | .vfma d a b _ ty _ => panelImplicit ty ++ panelsRes t [d, a, b]
  | .vmin _ a b ty _ => panelImplicit ty ++ panelsRes t [a, b]
  | .vmax _ a b ty _ => panelImplicit ty ++ panelsRes t [a, b]
  | .vabs _ a _ _ => .csr 0x012 :: panelRes t a
  | .vneg _ a _ _ => .csr 0x012 :: panelRes t a
  | .vand _ a b _ _ => .csr 0x012 :: panelsRes t [a, b]
  | .vor _ a b _ _ => .csr 0x012 :: panelsRes t [a, b]
  | .vxor _ a b _ _ => .csr 0x012 :: panelsRes t [a, b]
  | .vnot _ a _ _ => .csr 0x012 :: panelRes t a
  | .vshl _ a b _ _ => .csr 0x012 :: panelsRes t [a, b]
  | .vshr _ a b _ _ => .csr 0x012 :: panelsRes t [a, b]
  | .vsra _ a b _ _ => .csr 0x012 :: panelsRes t [a, b]
  | .vcmp _ a b _ _ _ => .csr 0x012 :: panelsRes t [a, b]
  | .vsel d a b _ _ => .csr 0x012 :: panelsRes t [d, a, b]
  | .vcvt _ a _ _ _ _ => .csr 0x012 :: panelRes t a
  | .vcvtSat _ a _ _ _ _ => .csr 0x012 :: panelRes t a
  | .vrshr _ a b _ _ => .csr 0x012 :: panelsRes t [a, b]
  | .vexp2 _ a _ _ _ => .csr 0x012 :: panelRes t a
  | .vlog2 _ a _ _ _ => .csr 0x012 :: panelRes t a
  | .vrcp _ a _ _ _ => .csr 0x012 :: panelRes t a
  | .vrsq _ a _ _ _ => .csr 0x012 :: panelRes t a
  | .vredr _ a _ _ _ _ => .csr 0x012 :: panelRes t a
  | .vredc _ a _ _ _ _ => .csr 0x012 :: panelRes t a
  | .vbcr _ a b _ _ => .csr 0x012 :: (panelRes t a ++ regRes b)
  | .vbcc _ a b _ _ => .csr 0x012 :: (panelRes t a ++ regRes b)
  | .vrotr _ a b _ _ => .csr 0x012 :: (panelRes t a ++ regRes b)
  | .vrotc _ a b _ _ => .csr 0x012 :: (panelRes t a ++ regRes b)
  | .vscan _ a _ _ _ _ => .csr 0x012 :: panelRes t a
  | .vperm _ a b _ _ => .csr 0x012 :: panelsRes t [a, b]
  | .part _ a _ _ _ => .csr 0x012 :: panelRes t a
  | .vtopk _ a b _ _ => .csr 0x012 :: (panelRes t a ++ regRes b)
  | .vmov _ a _ => .csr 0x012 :: panelRes t a
  | .vmovi _ _ _ => [.csr 0x012]
  | .vins d a b _ _ => .csr 0x012 :: (panelRes t d ++ regsRes [a, b])
  | .vext _ a b _ _ => .csr 0x012 :: (panelRes t a ++ regRes b)
  | .fmtset a _ _ => regRes a
  | _ => []

/-- The resources a word writes. -/
def writesOf (t : Strand) : Instr → List Resrc
  | .add d _ _ _ _ => regRes d
  | .sub d _ _ _ _ => regRes d
  | .and d _ _ _ _ => regRes d
  | .or d _ _ _ _ => regRes d
  | .xor d _ _ _ _ => regRes d
  | .shl d _ _ _ _ => regRes d
  | .shr d _ _ _ _ => regRes d
  | .sra d _ _ _ _ => regRes d
  | .slt d _ _ _ _ => regRes d
  | .sltu d _ _ _ _ => regRes d
  | .minS64 d _ _ _ _ => regRes d
  | .minZ64 d _ _ _ _ => regRes d
  | .maxS64 d _ _ _ _ => regRes d
  | .maxZ64 d _ _ _ _ => regRes d
  | .mul d _ _ _ _ => regRes d
  | .mulhS64 d _ _ _ _ => regRes d
  | .mulhZ64 d _ _ _ _ => regRes d
  | .madd d _ _ _ _ => regRes d
  | .addi d _ _ _ _ => regRes d
  | .andi d _ _ _ _ => regRes d
  | .ori d _ _ _ _ => regRes d
  | .xori d _ _ _ _ => regRes d
  | .shlImm d _ _ _ _ => regRes d
  | .shrImm d _ _ _ _ => regRes d
  | .sraImm d _ _ _ _ => regRes d
  | .bfxZ64 d _ _ _ _ _ => regRes d
  | .bfxS64 d _ _ _ _ _ => regRes d
  | .bfi d _ _ _ _ _ => regRes d
  | .lui d _ _ _ => regRes d
  | .csrr d _ _ _ => regRes d
  | .csrw _ c _ _ => [.csr c.toNat]
  | .call _ _ _ => regRes 31#5
  | .ld d _ _ _ _ => regRes d
  | .ldAcq d _ _ _ _ => regRes d
  | .amo d _ _ _ _ _ _ => regRes d
  | .cas d _ _ _ _ => regRes d
  | .qrcv d _ _ => regRes d
  | .copy d _ _ => regRes d
  | .dcmp d _ _ => regRes d
  | .fill d _ _ => regRes d
  | .csum d _ _ => regRes d
  | .send d _ _ _ _ => regRes d
  | .mst d _ _ _ _ _ => regRes d
  | .mstSat d _ _ _ _ _ => regRes d
  | .coll d _ _ => regRes d
  | .reside d _ _ _ => regRes d
  | .evict d _ _ => regRes d
  | .rquery d _ _ => regRes d
  | .spawn d _ _ => regRes d
  | .fadd d _ _ _ _ _ => regRes d
  | .fsub d _ _ _ _ _ => regRes d
  | .fmul d _ _ _ _ _ => regRes d
  | .fmin d _ _ _ _ => regRes d
  | .fmax d _ _ _ _ => regRes d
  | .fdiv d _ _ _ _ _ => regRes d
  | .fsqrt d _ _ _ _ => regRes d
  | .fma d _ _ _ _ _ _ _ => regRes d
  | .fcmp d _ _ _ _ _ => regRes d
  | .fcvt d _ _ _ _ _ _ => regRes d
  | .div d _ _ _ _ => regRes d
  | .divRem d _ _ _ _ => regRes d
  | .xrcv d _ _ => regRes d
  | .vadd d _ _ _ _ _ => panelRes t d
  | .vsub d _ _ _ _ _ => panelRes t d
  | .vmul d _ _ _ _ _ => panelRes t d
  | .vfma d _ _ _ _ _ => panelRes t d
  | .vmin d _ _ _ _ => panelRes t d
  | .vmax d _ _ _ _ => panelRes t d
  | .vabs d _ _ _ => panelRes t d
  | .vneg d _ _ _ => panelRes t d
  | .vand d _ _ _ _ => panelRes t d
  | .vor d _ _ _ _ => panelRes t d
  | .vxor d _ _ _ _ => panelRes t d
  | .vnot d _ _ _ => panelRes t d
  | .vshl d _ _ _ _ => panelRes t d
  | .vshr d _ _ _ _ => panelRes t d
  | .vsra d _ _ _ _ => panelRes t d
  | .vcmp d _ _ _ _ _ => panelRes t d
  | .vsel d _ _ _ _ => panelRes t d
  | .vcvt d _ _ _ _ _ => panelRes t d
  | .vcvtSat d _ _ _ _ _ => panelRes t d
  | .vrshr d _ _ _ _ => panelRes t d
  | .vexp2 d _ _ _ _ => panelRes t d
  | .vlog2 d _ _ _ _ => panelRes t d
  | .vrcp d _ _ _ _ => panelRes t d
  | .vrsq d _ _ _ _ => panelRes t d
  | .vredr d _ _ _ _ _ => panelRes t d
  | .vredc d _ _ _ _ _ => panelRes t d
  | .vbcr d _ _ _ _ => panelRes t d
  | .vbcc d _ _ _ _ => panelRes t d
  | .vrotr d _ _ _ _ => panelRes t d
  | .vrotc d _ _ _ _ => panelRes t d
  | .vscan d _ _ _ _ _ => panelRes t d
  | .vperm d _ _ _ _ => panelRes t d
  | .part d _ b _ _ => panelRes t d ++ regRes b
  | .vtopk d _ _ _ _ => panelRes t d
  | .vmov d _ _ => panelRes t d
  | .vmovi d _ _ => panelRes t d
  | .vins d _ _ _ _ => panelRes t d
  | .vext d _ _ _ _ => regRes d
  | .wrot _ _ _ => [.csr 0x012]
  | .fmtset _ k _ => [.fmt k.toNat]
  | .fmtsel _ _ _ => [.csr 0x013]
  | _ => []

/-- The E bit of a word. -/
def endsGroup (i : Instr) : Bool := ((encode i).getD 0#32).getLsbD 0

/-- A both-tagged word. -/
def bothTagged (i : Instr) : Bool := ((encode i).getD 0#32).extractLsb' 1 2 == 0#2

/-- Words that must end their group (R69). -/
def mustEnd : Instr → Bool
  | .br _ _ _ => true
  | .call _ _ _ => true
  | .ret _ _ => true
  | .beq _ _ _ _ _ => true
  | .bne _ _ _ _ _ => true
  | .blt _ _ _ _ _ => true
  | .bge _ _ _ _ _ => true
  | .bltu _ _ _ _ _ => true
  | .bgeu _ _ _ _ _ => true
  | .loop _ _ _ _ _ => true
  | .brkl _ _ _ => true
  | _ => false

/-- Words that must stand alone (R69). -/
def standsAlone : Instr → Bool
  | .trap _ => true
  | .eret => true
  | .exit => true
  | .yield => true
  | .fence => true
  | .dwait => true
  | _ => false

/-- Targets of LIMM (R65). -/
def extendable : Instr → Bool
  | .addi _ _ _ _ _ => true
  | .andi _ _ _ _ _ => true
  | .ori _ _ _ _ _ => true
  | .xori _ _ _ _ _ => true
  | .lui _ _ _ _ => true
  | .ld _ _ _ _ _ => true
  | .ldAcq _ _ _ _ _ => true
  | .st _ _ _ _ _ => true
  | .stRel _ _ _ _ _ => true
  | .vmovi _ _ _ => true
  | _ => false

def isLimm : Instr → Bool
  | .limm _ _ => true
  | _ => false

/-- AMO and CAS must be first in their group (R335). -/
def isAtomic : Instr → Bool
  | .amo _ _ _ _ _ _ _ => true
  | .cas _ _ _ _ _ => true
  | _ => false

/-- The second word reads or writes a resource that the first writes (R68). -/
def conflict (t : Strand) (i j : Instr) : Bool :=
  let w := writesOf t i
  let r := readsOf t j ++ writesOf t j
  (w.any fun x => r.contains x) ||
    (r.contains .table && w.any fun x => match x with
      | .fmt _ => true
      | _ => false)

/-- A word with E = 0 may not begin a group (R67, R69, R70). -/
def firstIllegal (t : Strand) (k : Ctr) (pc : BitVec 22) (i : Instr) : Bool :=
  mustEnd i || bothTagged i || endsLoop (t.loops k) pc

/-- Word `j` may not follow word `i` in a group (R65, R67 to R69, R335). -/
def secondIllegal (t : Strand) (i j : Instr) : Bool :=
  !endsGroup j || bothTagged j || standsAlone j || (isLimm i && !extendable j) || isAtomic j || conflict t i j

end Sys2Proof.Machine
end

