-- ==== Sys2Proof/Machine/Execute.lean ====
section
/-! DEFINITION. Sys2Proof/Machine/Execute.lean: the scalar words of the execute-private map (spec/03_instruction_encoding.md
R80, R81): floating arithmetic, conversions, division, queue words, rotation and the format table. -/

namespace Sys2Proof.Machine

/-- A word of the execute counter. -/
def xWord (i : Instr) (e : BitVec 1) (body : State → Act) (s : State) : Host.Outcome State Fault Refusal :=
  issueWord i e body (s.actAs .x)

/-- Writes `v` to x-d and ORs flags into FPSTAT (R113). -/
def Strand.putX (t : Strand) (d : BitVec 5) (v : Nat) (f : Flags) : Strand := (t.setX d (BitVec.ofNat 64 v)).raise f

/-- A floating operation: its exact value, then one rounding (R331, R358). -/
def fpWord (i : Instr) (e : BitVec 1) (d : BitVec 5) (t r : BitVec 2) (f : Strand → Fmt → Val × Flags) (s : State) :
    Host.Outcome State Fault Refusal :=
  xWord i e (fun s => .done (s.modMe fun st =>
    let fm := scalarFmt t
    let (v, fl) := f st fm
    let (b, fl') := encodeVal fm v (Rnd.ofBits r) false
    st.putX d b (fl ||| fl'))) s

/-- FADD (R358). -/
def execFadd (d a b : BitVec 5) (r t : BitVec 2) (e : BitVec 1) (s : State) : Host.Outcome State Fault Refusal :=
  fpWord (.fadd d a b r t e) e d t r (fun st f => exactSum [st.fp f a, st.fp f b] (Rnd.ofBits r)) s

/-- FSUB (R358). -/
def execFsub (d a b : BitVec 5) (r t : BitVec 2) (e : BitVec 1) (s : State) : Host.Outcome State Fault Refusal :=
  fpWord (.fsub d a b r t e) e d t r (fun st f => exactSum [st.fp f a, (st.fp f b).neg] (Rnd.ofBits r)) s

/-- FMUL (R358). -/
def execFmul (d a b : BitVec 5) (r t : BitVec 2) (e : BitVec 1) (s : State) : Host.Outcome State Fault Refusal :=
  fpWord (.fmul d a b r t e) e d t r (fun st f => exactMul (st.fp f a) (st.fp f b)) s

/-- FMIN (R358, R118): written exactly, no flag. -/
def execFmin (d a b : BitVec 5) (t : BitVec 2) (e : BitVec 1) (s : State) : Host.Outcome State Fault Refusal :=
  fpWord (.fmin d a b t e) e d t 0#2 (fun st f => (valMin (st.fp f a) (st.fp f b), 0#6)) s

/-- FMAX (R358, R118). -/
def execFmax (d a b : BitVec 5) (t : BitVec 2) (e : BitVec 1) (s : State) : Host.Outcome State Fault Refusal :=
  fpWord (.fmax d a b t e) e d t 0#2 (fun st f => (valMax (st.fp f a) (st.fp f b), 0#6)) s

/-- FDIV (R358). -/
def execFdiv (d a b : BitVec 5) (r t : BitVec 2) (e : BitVec 1) (s : State) : Host.Outcome State Fault Refusal :=
  fpWord (.fdiv d a b r t e) e d t r (fun st f => quotVal (st.fp f a) (st.fp f b)) s

/-- FSQRT (R358). -/
def execFsqrt (d a : BitVec 5) (r t : BitVec 2) (e : BitVec 1) (s : State) : Host.Outcome State Fault Refusal :=
  fpWord (.fsqrt d a r t e) e d t r (fun st f => sqrtVal (st.fp f a)) s

/-- FMA (R364): `n` negates the product, `c` the addend. -/
def execFma (d a b : BitVec 5) (c n : BitVec 1) (r t : BitVec 2) (e : BitVec 1) (s : State) : Host.Outcome State Fault Refusal :=
  fpWord (.fma d a b c n r t e) e d t r (fun st f =>
    let (p, fl) := exactMul (st.fp f a) (st.fp f b)
    let p := if n = 1#1 then p.neg else p
    let ad := st.fp f d
    let ad := if c = 1#1 then ad.neg else ad
    let (v, fl') := exactSum [p, ad] (Rnd.ofBits r)
    (v, fl ||| fl')) s

/-- FCMP (R360). -/
def execFcmp (d a b : BitVec 5) (c t : BitVec 2) (e : BitVec 1) (s : State) : Host.Outcome State Fault Refusal :=
  xWord (.fcmp d a b c t e) e (fun s => .done (s.modMe fun st =>
    let f := scalarFmt t
    st.setX d (if valCond c.toNat (st.fp f a) (st.fp f b) then 1#64 else 0#64))) s

/-- The result of FCVT from the bits of its source register (R361). -/
def cvtResult (src dst : Fmt) (x : Word) (mode : Rnd) (sat : Bool) : Nat × Flags :=
  let bits := x.toNat % 2 ^ src.bits
  match src, dst with
  | .int s w, .int s' w' =>
    let (n, fl) := intNarrow s' w' (intOf s w bits) sat
    (intBits 64 n, fl)
  | src, .int s' w' =>
    let (n, fl) := toInt s' w' (decodeVal src bits) mode sat
    (intBits 64 n, fl)
  | src, dst => encodeVal dst (decodeVal src bits) mode sat

/-- FCVT (R361): `s` source code, `k` destination code, `u` SAT. -/
def execFcvt (d a : BitVec 5) (sc : BitVec 3) (u : BitVec 1) (r : BitVec 2) (k : BitVec 3) (e : BitVec 1) (s : State) :
    Host.Outcome State Fault Refusal :=
  xWord (.fcvt d a sc u r k e) e (fun s => .done (s.modMe fun st =>
    let (v, fl) := cvtResult (cvtFmt sc) (cvtFmt k) (st.x a) (Rnd.ofBits r) (u == 1#1)
    st.putX d v fl)) s

/-- Quotient and remainder of R352. -/
def divPair (signed : Bool) (x y : Word) : Word × Word :=
  if y = 0#64 then (0xFFFFFFFFFFFFFFFF#64, x)
  else if signed then
    let n := x.toInt
    let m := y.toInt
    (wordOf (n.tdiv m), wordOf (n - n.tdiv m * m))
  else (BitVec.ofNat 64 (x.toNat / y.toNat), BitVec.ofNat 64 (x.toNat % y.toNat))

/-- DIV (R352): `g` 0 is the signed form. -/
def execDiv (d a b : BitVec 5) (g e : BitVec 1) (s : State) : Host.Outcome State Fault Refusal :=
  xWord (.div d a b g e) e (fun s => .done (s.modMe fun st => st.setX d (divPair (g == 0#1) (st.x a) (st.x b)).1)) s

/-- DIV.rem (R352). -/
def execDivRem (d a b : BitVec 5) (g e : BitVec 1) (s : State) : Host.Outcome State Fault Refusal :=
  xWord (.divRem d a b g e) e (fun s => .done (s.modMe fun st => st.setX d (divPair (g == 0#1) (st.x a) (st.x b)).2)) s

/-- XSND of a scalar (R442). -/
def execXsndScalar (q : BitVec 2) (a : BitVec 5) (e : BitVec 1) (s : State) : Host.Outcome State Fault Refusal :=
  xWord (.xsndScalar q a e) e (fun s =>
    let t := s.me
    if (t.qxa.get q.toFin).free < 1 then .wait
    else .done (s.setMe { t with qxa := t.qxa.set q.toFin ((t.qxa.get q.toFin).push [.scalar (t.x a)]) })) s

/-- XSND of rows of a panel (R442): `r` holds rows minus 1, `f` the first row. -/
def execXsndPanel (q : BitVec 2) (p : BitVec 5) (r f : BitVec 4) (e : BitVec 1) (s : State) : Host.Outcome State Fault Refusal :=
  xWord (.xsndPanel q p r f e) e (fun s =>
    let t := s.me
    let n := r.toNat + 1
    if (t.qxa.get q.toFin).free < n then .wait
    else
      let rows := (List.range n).map fun i => QEntry.row (panelRow (t.panel p) (f.toNat + i))
      .done (s.setMe { t with qxa := t.qxa.set q.toFin ((t.qxa.get q.toFin).push rows) })) s

/-- XRCV (R441). -/
def execXrcv (d : BitVec 5) (q : BitVec 2) (e : BitVec 1) (s : State) : Host.Outcome State Fault Refusal :=
  xWord (.xrcv d q e) e (fun s =>
    let t := s.me
    let qu := t.qax.get q.toFin
    if t.axReady q.toFin < 1 then .wait
    else match qu.entries with
    | .scalar v :: _ => .done (s.setMe ({ t with qax := t.qax.set q.toFin (qu.drop 1) }.setX d v))
    | _ :: _ => .queueFault (s.setMe { t with qax := t.qax.set q.toFin (qu.drop 1) })
    | [] => .wait) s

/-- WROT (R439). -/
def execWrot (n : BitVec 1) (b : BitVec 3) (e : BitVec 1) (s : State) : Host.Outcome State Fault Refusal :=
  xWord (.wrot n b e) e (fun s =>
    .done { (s.modMe fun t => { t with rotbase := (n ++ b).zeroExtend 64 }) with cur := { s.cur with rotw := true } }) s

/-- A format table entry that FMTSET admits (R366). -/
def fmtEntryOk (v : Word) : Bool :=
  v.toNat < 2 ^ 20 && panelCode (v.extractLsb' 0 5).toNat && panelCode (v.extractLsb' 5 5).toNat
    && panelCode (v.extractLsb' 10 5).toNat

/-- FMTSET (R366). -/
def execFmtset (a : BitVec 5) (k : BitVec 4) (e : BitVec 1) (s : State) : Host.Outcome State Fault Refusal :=
  xWord (.fmtset a k e) e (fun s =>
    let v := s.me.x a
    if fmtEntryOk v then .done (s.modMe fun t => { t with fmt := t.fmt.set k.toFin (v.extractLsb' 0 32) })
    else .trap causeIllegal 0#16) s

/-- FMTSEL (R365): BND `n` and LVL `l`; R48 then governs IDX. -/
def execFmtsel (l : BitVec 2) (n e : BitVec 1) (s : State) : Host.Outcome State Fault Refusal :=
  xWord (.fmtsel l n e) e (fun s =>
    .done (s.modMe fun t =>
      ({ t with fmtidx := (t.fmtidx &&& 15#64) ||| (n ++ l ++ 0#4).zeroExtend 64 }).syncIdx)) s

end Sys2Proof.Machine
end

