-- ==== Sys2Proof/Machine/Panel.lean ====
section
/-! DEFINITION. Sys2Proof/Machine/Panel.lean: the panel words of the execute-private map (spec/17_reference_t_to_z.md R411 to
R438, spec/16_reference_g_to_s.md R392). Each check is made at the word (R414), flags are ORed into FPSTAT and only the add forms
of VREDR and VREDC depend on NUMVER (R416). -/

namespace Sys2Proof.Machine

/-- Elements of a panel of element width `w` bits. -/
def perPanel (w : Nat) : Nat := 32768 / w

/-- The first `n` elements. -/
def elems (p : Panel) (w n : Nat) : List Nat := (List.range n).map (elem p w)

/-- A panel word with one source of `rows` rows (R413). -/
def panel1 (i : Instr) (e : BitVec 1) (a : BitVec 5) (rows : Nat) (f : Strand → Panel → Strand) (s : State) :
    Host.Outcome State Fault Refusal :=
  xWord i e (fun s =>
    match s.me.source a rows with
    | .short => .wait
    | .fault t => .queueFault (s.setMe t)
    | .bits v t => .done (s.setMe (f t v))) s

/-- A panel word with two sources: from one queue, the first takes the first rows; a scalar raises QUEUE-FAULT once both hold
their rows (R39, R41, R413; that it waits for the other source, and for the other word of its group, is assumption 110). -/
def panel2 (i : Instr) (e : BitVec 1) (a b : BitVec 5) (ra rb : Nat) (f : Strand → Panel → Panel → Strand) (s : State) :
    Host.Outcome State Fault Refusal :=
  xWord i e (fun s =>
    match s.me.source a ra with
    | .short => .wait
    | .fault t =>
      match t.source b rb with
      | .short => .wait
      | .fault t => .queueFault (s.setMe t)
      | .bits _ t => .queueFault (s.setMe t)
    | .bits v t =>
      match t.source b rb with
      | .short => .wait
      | .fault t => .queueFault (s.setMe t)
      | .bits w t => .done (s.setMe (f t v w))) s

/-- The integer that a value is. -/
def valInt : Val → Int
  | .fin n m e =>
    let k : Int := ((if 0 ≤ e then m <<< e.toNat else m >>> (-e).toNat : Nat) : Int)
    if n then -k else k
  | _ => 0

/-- One element's result: narrowed when every format is an integer, encoded otherwise (R412, R419). -/
def writeElem (allInt : Bool) (f : Fmt) (v : Val) (rnd : Rnd) (sat : Bool) : Nat × Flags :=
  match f with
  | .int s w =>
    if allInt then
      let (n, fl) := intNarrow s w (valInt v) sat
      (intBits w n, fl)
    else
      let (n, fl) := toInt s w v rnd sat
      (intBits w n, fl)
  | f => encodeVal f v rnd sat

/-- The union of the flags of a list of results. -/
def allFlags (l : List (Nat × Flags)) : Flags := l.foldl (fun acc r => acc ||| r.2) 0#6

/-- A panel from results. -/
def putElems (t : Strand) (d : BitVec 5) (w : Nat) (l : List (Nat × Flags)) : Strand :=
  (t.setPanel d (panelOf w (l.map Prod.fst))).raise (allFlags l)

/-- The formats, rounding and saturation of an arithmetic panel word (R82, R412). -/
structure PanelForm where
  fa : Fmt
  fb : Fmt
  fc : Fmt
  rnd : Rnd
  sat : Bool

/-- From the type and mode, or from table entry FMTIDX.IDX for type 31. -/
def Strand.form (t : Strand) (ty : BitVec 5) (m : BitVec 2) : PanelForm :=
  if ty = 31#5 then
    let en := t.fmt.get (t.fmtidx.extractLsb' 0 4).toFin
    { fa := fmtOf (en.extractLsb' 0 5).toNat, fb := fmtOf (en.extractLsb' 5 5).toNat,
      fc := fmtOf (en.extractLsb' 10 5).toNat, rnd := Rnd.ofBits (en.extractLsb' 16 2), sat := en.getLsbD 15 }
  else
    let f := fmtOf ty.toNat
    { fa := f, fb := f, fc := f, rnd := Rnd.ofBits m, sat := f.isInt && m == 1#2 }

def PanelForm.allInt (p : PanelForm) : Bool := p.fa.isInt && p.fb.isInt && p.fc.isInt

/-- Elements processed: 4,096 over the widest element (R119). -/
def PanelForm.n (p : PanelForm) : Nat := 4096 / max p.fa.bytes (max p.fb.bytes p.fc.bytes)

/-- Rows that `n` elements of a format take. -/
def rowsFor (f : Fmt) (n : Nat) : Nat := n * f.bytes / 256

/-- An element-wise word on two sources and D (R412, R419, R428). -/
def arith (i : Instr) (e : BitVec 1) (d a b : BitVec 5) (m : BitVec 2) (ty : BitVec 5)
    (op : Rnd → Val → Val → Val → Val × Flags) (s : State) : Host.Outcome State Fault Refusal :=
  let p := s.me.form ty m
  panel2 i e a b (rowsFor p.fa p.n) (rowsFor p.fb p.n) (fun t va vb =>
    let vd := t.panel d
    putElems t d p.fc.bits ((List.range p.n).map fun k =>
      let (v, fl) := op p.rnd (decodeVal p.fa (elem va p.fa.bits k)) (decodeVal p.fb (elem vb p.fb.bits k))
        (decodeVal p.fc (elem vd p.fc.bits k))
      let (r, fl') := writeElem p.allInt p.fc v p.rnd p.sat
      (r, fl ||| fl'))) s

/-- VADD (R419). -/
def execVadd (d a b : BitVec 5) (m : BitVec 2) (t : BitVec 5) (e : BitVec 1) (s : State) : Host.Outcome State Fault Refusal :=
  arith (.vadd d a b m t e) e d a b m t (fun r x y _ => exactSum [x, y] r) s

/-- VSUB (R419). The negative of an integer 0 is −0 here where the sources mix integer and floating formats, so a floating −0
less an integer 0 gives −0; the spec gives an integer 0 no sign (assumption 53). -/
def execVsub (d a b : BitVec 5) (m : BitVec 2) (t : BitVec 5) (e : BitVec 1) (s : State) : Host.Outcome State Fault Refusal :=
  arith (.vsub d a b m t e) e d a b m t (fun r x y _ => exactSum [x, y.neg] r) s

/-- VMUL (R419). -/
def execVmul (d a b : BitVec 5) (m : BitVec 2) (t : BitVec 5) (e : BitVec 1) (s : State) : Host.Outcome State Fault Refusal :=
  arith (.vmul d a b m t e) e d a b m t (fun _ x y _ => exactMul x y) s

/-- VFMA (R419). -/
def execVfma (d a b : BitVec 5) (m : BitVec 2) (t : BitVec 5) (e : BitVec 1) (s : State) : Host.Outcome State Fault Refusal :=
  arith (.vfma d a b m t e) e d a b m t (fun r x y z =>
    let (p, fl) := exactMul x y
    let (v, fl') := exactSum [p, z] r
    (v, fl ||| fl')) s

/-- VMIN (R428). -/
def execVmin (d a b t : BitVec 5) (e : BitVec 1) (s : State) : Host.Outcome State Fault Refusal :=
  arith (.vmin d a b t e) e d a b 0#2 t (fun _ x y _ => (valMin x y, 0#6)) s

/-- VMAX (R428). -/
def execVmax (d a b t : BitVec 5) (e : BitVec 1) (s : State) : Host.Outcome State Fault Refusal :=
  arith (.vmax d a b t e) e d a b 0#2 t (fun _ x y _ => (valMax x y, 0#6)) s

/-- One source, one type: each element's bits from the element's bits, with flags. -/
def unary (i : Instr) (e : BitVec 1) (d a : BitVec 5) (f : Fmt) (op : Nat → Nat × Flags) (s : State) :
    Host.Outcome State Fault Refusal :=
  panel1 i e a 16 (fun t v => putElems t d f.bits ((elems v f.bits (perPanel f.bits)).map op)) s

/-- The sign bit of a code of `w` bits. -/
def signBit (w : Nat) : Nat := 2 ^ (w - 1)

/-- VABS of one element (R418). -/
def absElem (f : Fmt) (b : Nat) : Nat :=
  match f with
  | .int _ w => intBits w (intOf true w b).natAbs
  | f => if (decodeVal f b).isNan then codeOf f .nan else b % signBit f.bits

/-- VNEG of one element (R418). -/
def negElem (f : Fmt) (b : Nat) : Nat :=
  match f with
  | .int _ w => intBits w (-(intOf true w b))
  | .mk8 => if b = 128 then 128 else if b = 0 then 0 else b ^^^ 128
  | f => if (decodeVal f b).isNan then codeOf f .nan else b ^^^ signBit f.bits

/-- VABS (R418). -/
def execVabs (d a t : BitVec 5) (e : BitVec 1) (s : State) : Host.Outcome State Fault Refusal :=
  unary (.vabs d a t e) e d a (fmtOf t.toNat) (fun b => (absElem (fmtOf t.toNat) b, 0#6)) s

/-- VNEG (R418). -/
def execVneg (d a t : BitVec 5) (e : BitVec 1) (s : State) : Host.Outcome State Fault Refusal :=
  unary (.vneg d a t e) e d a (fmtOf t.toNat) (fun b => (negElem (fmtOf t.toNat) b, 0#6)) s

/-- VAND (R420). -/
def execVand (d a b t : BitVec 5) (e : BitVec 1) (s : State) : Host.Outcome State Fault Refusal :=
  panel2 (.vand d a b t e) e a b 16 16 (fun st x y => st.setPanel d (x &&& y)) s

/-- VOR (R420). -/
def execVor (d a b t : BitVec 5) (e : BitVec 1) (s : State) : Host.Outcome State Fault Refusal :=
  panel2 (.vor d a b t e) e a b 16 16 (fun st x y => st.setPanel d (x ||| y)) s

/-- VXOR (R420). -/
def execVxor (d a b t : BitVec 5) (e : BitVec 1) (s : State) : Host.Outcome State Fault Refusal :=
  panel2 (.vxor d a b t e) e a b 16 16 (fun st x y => st.setPanel d (x ^^^ y)) s

/-- VNOT (R420). -/
def execVnot (d a t : BitVec 5) (e : BitVec 1) (s : State) : Host.Outcome State Fault Refusal :=
  panel1 (.vnot d a t e) e a 16 (fun st x => st.setPanel d (~~~x)) s

/-- Two sources, one type: each element's bits from the two elements' bits. -/
def binary (i : Instr) (e : BitVec 1) (d a b : BitVec 5) (f : Fmt) (op : Nat → Nat → Nat) (s : State) :
    Host.Outcome State Fault Refusal :=
  panel2 i e a b 16 16 (fun t x y =>
    t.setPanel d (panelOf f.bits ((List.range (perPanel f.bits)).map fun k => op (elem x f.bits k) (elem y f.bits k)))) s

/-- VSHL (R437). -/
def execVshl (d a b t : BitVec 5) (e : BitVec 1) (s : State) : Host.Outcome State Fault Refusal :=
  let w := (fmtOf t.toNat).bits
  binary (.vshl d a b t e) e d a b (fmtOf t.toNat) (fun x k => if w ≤ k then 0 else x <<< k % 2 ^ w) s

/-- VSHR (R437). -/
def execVshr (d a b t : BitVec 5) (e : BitVec 1) (s : State) : Host.Outcome State Fault Refusal :=
  let w := (fmtOf t.toNat).bits
  binary (.vshr d a b t e) e d a b (fmtOf t.toNat) (fun x k => if w ≤ k then 0 else x >>> k) s

/-- VSRA (R437). -/
def execVsra (d a b t : BitVec 5) (e : BitVec 1) (s : State) : Host.Outcome State Fault Refusal :=
  let w := (fmtOf t.toNat).bits
  binary (.vsra d a b t e) e d a b (fmtOf t.toNat) (fun x k => intBits w (intOf true w x / 2 ^ (min k w))) s

/-- VCMP (R422): all ones where the condition holds. -/
def execVcmp (d a b : BitVec 5) (c : BitVec 2) (t : BitVec 5) (e : BitVec 1) (s : State) : Host.Outcome State Fault Refusal :=
  let f := fmtOf t.toNat
  binary (.vcmp d a b c t e) e d a b f
    (fun x y => if valCond c.toNat (decodeVal f x) (decodeVal f y) then 2 ^ f.bits - 1 else 0) s

/-- VSEL (R436). -/
def execVsel (d a b t : BitVec 5) (e : BitVec 1) (s : State) : Host.Outcome State Fault Refusal :=
  let w := (fmtOf t.toNat).bits
  panel2 (.vsel d a b t e) e a b 16 16 (fun st x y =>
    let c := st.panel d
    st.setPanel d (panelOf w ((List.range (perPanel w)).map fun k =>
      if elem c w k = 0 then elem y w k else elem x w k))) s

/-- One element of VCVT (R424). -/
def cvtElem (src dst : Fmt) (b : Nat) (rnd : Rnd) (sat : Bool) : Nat × Flags :=
  match src, dst with
  | .int s w, .int s' w' =>
    let (n, fl) := intNarrow s' w' (intOf s w b) sat
    (intBits w' n, fl)
  | src, .int s' w' =>
    let (n, fl) := toInt s' w' (decodeVal src b) .rne sat
    (intBits w' n, fl)
  | src, dst => encodeVal dst (decodeVal src b) rnd sat

/-- A conversion of n elements from code `sc` to type `ty`; the rest of D is zero (R424). -/
def convert (i : Instr) (e : BitVec 1) (d a sc ty : BitVec 5) (rnd : Rnd) (sat : Bool) (s : State) :
    Host.Outcome State Fault Refusal :=
  let src := fmtOf sc.toNat
  let dst := fmtOf ty.toNat
  let n := 4096 / max src.bytes dst.bytes
  panel1 i e a (rowsFor src n) (fun t v =>
    putElems t d dst.bits ((elems v src.bits n).map fun b => cvtElem src dst b rnd sat)) s

/-- VCVT (R423): the mode is the rounding of a floating destination, or saturation of an integer one. -/
def execVcvt (d a sc : BitVec 5) (m : BitVec 2) (t : BitVec 5) (e : BitVec 1) (s : State) : Host.Outcome State Fault Refusal :=
  convert (.vcvt d a sc m t e) e d a sc t (Rnd.ofBits m) (panelInt t.toNat && m == 1#2) s

/-- VCVT.sat (R423). -/
def execVcvtSat (d a sc : BitVec 5) (m : BitVec 2) (t : BitVec 5) (e : BitVec 1) (s : State) :
    Host.Outcome State Fault Refusal :=
  convert (.vcvtSat d a sc m t e) e d a sc t (Rnd.ofBits m) true s

/-- VRSHR (R434, R117). -/
def execVrshr (d a b t : BitVec 5) (e : BitVec 1) (s : State) : Host.Outcome State Fault Refusal :=
  panel2 (.vrshr d a b t e) e a b 16 16 (fun st x y =>
    match fmtOf t.toNat with
    | .int sg w =>
      putElems st d w ((List.range 1024).map fun k =>
        let (n, fl) := intNarrow sg w (rshiftRound (intOf true 32 (elem x 32 k)) (elem y 32 k)) true
        (intBits w n, fl))
    | _ => st) s

/-- A function unit word (R425). -/
def funcUnit (i : Instr) (e : BitVec 1) (d a : BitVec 5) (m : BitVec 2) (t : BitVec 5) (op : Val → Val × Flags) (s : State) :
    Host.Outcome State Fault Refusal :=
  let f := fmtOf t.toNat
  unary i e d a f (fun b =>
    let (v, fl) := op (decodeVal f b)
    let (r, fl') := encodeVal f v (Rnd.ofBits m) false
    (r, fl ||| fl')) s

/-- VEXP2 (R425). -/
def execVexp2 (d a : BitVec 5) (m : BitVec 2) (t : BitVec 5) (e : BitVec 1) (s : State) : Host.Outcome State Fault Refusal :=
  funcUnit (.vexp2 d a m t e) e d a m t exp2Val s

/-- VLOG2 (R425). -/
def execVlog2 (d a : BitVec 5) (m : BitVec 2) (t : BitVec 5) (e : BitVec 1) (s : State) : Host.Outcome State Fault Refusal :=
  funcUnit (.vlog2 d a m t e) e d a m t log2Val s

/-- VRCP (R425). -/
def execVrcp (d a : BitVec 5) (m : BitVec 2) (t : BitVec 5) (e : BitVec 1) (s : State) : Host.Outcome State Fault Refusal :=
  funcUnit (.vrcp d a m t e) e d a m t (quotVal (.fin false 1 0)) s

/-- VRSQ (R425). -/
def execVrsq (d a : BitVec 5) (m : BitVec 2) (t : BitVec 5) (e : BitVec 1) (s : State) : Host.Outcome State Fault Refusal :=
  funcUnit (.vrsq d a m t e) e d a m t rsqVal s

/-! Reductions (R131, R432, R435). -/

/-- Comb of R131 for operator 0 add, 1 max, 2 min. -/
def comb (f : Fmt) (o : Nat) (rnd : Rnd) (sat : Bool) (u v : Val) : Val × Flags :=
  match o with
  | 0 =>
    match f with
    | .int s w =>
      let (n, fl) := intNarrow s w (valInt u + valInt v) sat
      (valOfInt n, fl)
    | f =>
      let (x, fl) := exactSum [u, v] rnd
      let (y, fl') := roundTo f x rnd false
      (y, fl ||| fl')
  | 1 => (valMax u v, 0#6)
  | _ => (valMin u v, 0#6)

/-- A left fold (versions 1 and 2). -/
def foldSeq (c : Val → Val → Val × Flags) : Val → List Val → Val × Flags
  | acc, [] => (acc, 0#6)
  | acc, v :: l =>
    let (x, fl) := c acc v
    let (y, fl') := foldSeq c x l
    (y, fl ||| fl')

/-- Comb of two lists element by element. -/
def zipComb (c : Val → Val → Val × Flags) : List Val → List Val → List Val × Flags
  | u :: us, v :: vs =>
    let (x, fl) := c u v
    let (xs, fl') := zipComb c us vs
    (x :: xs, fl ||| fl')
  | _, _ => ([], 0#6)

/-- The halving tree (version 3), by at most `fuel` steps. -/
def foldTree (c : Val → Val → Val × Flags) : Nat → List Val → Val × Flags
  | 0, l => (l.headD (.zero false), 0#6)
  | fuel + 1, l =>
    if l.length ≤ 1 then (l.headD (.zero false), 0#6)
    else
      let h := l.length / 2
      let (l', fl) := zipComb c (l.take h) (l.drop h)
      let (y, fl') := foldTree c fuel l'
      (y, fl ||| fl')

/-- The reduction of R131 under a version. -/
def reduce (ver : Nat) (c : Val → Val → Val × Flags) (l : List Val) : Val × Flags :=
  if ver = 3 then foldTree c 9 l
  else match l with
    | [] => (.zero false, 0#6)
    | v :: l => foldSeq c v l

/-- Saturation and rounding of a reduction's mode (R432). -/
def modeSat (f : Fmt) (m : BitVec 2) : Bool := f.isInt && m == 1#2

/-- NUMVER as the group found it (R123). -/
def State.groupNumver (s : State) : Nat :=
  match s.cur.phase with
  | .second => s.cur.numver.toNat % 4
  | _ => s.me.numver.toNat % 4

/-- VREDR (R432): row sums in column 0. -/
def execVredr (d a o : BitVec 5) (m : BitVec 2) (t : BitVec 5) (e : BitVec 1) (s : State) : Host.Outcome State Fault Refusal :=
  let f := fmtOf t.toNat
  let w := f.bits
  let cols := 2048 / w
  let ver := (s.actAs .x).groupNumver
  panel1 (.vredr d a o m t e) e a 16 (fun st v =>
    let rs := (List.range 16).map fun r =>
      reduce ver (comb f o.toNat (Rnd.ofBits m) (modeSat f m)) ((List.range cols).map fun c => decodeVal f (elem v w (r * cols + c)))
    putElems st d w (rs.flatMap fun x => (codeOf f x.1, x.2) :: List.replicate (cols - 1) (0, 0#6))) s

/-- VREDC (R432): column sums in row 0. -/
def execVredc (d a o : BitVec 5) (m : BitVec 2) (t : BitVec 5) (e : BitVec 1) (s : State) : Host.Outcome State Fault Refusal :=
  let f := fmtOf t.toNat
  let w := f.bits
  let cols := 2048 / w
  let ver := (s.actAs .x).groupNumver
  panel1 (.vredc d a o m t e) e a 16 (fun st v =>
    putElems st d w ((List.range cols).map fun c =>
      let x := reduce ver (comb f o.toNat (Rnd.ofBits m) (modeSat f m)) ((List.range 16).map fun r => decodeVal f (elem v w (r * cols + c)))
      (codeOf f x.1, x.2))) s

/-- An inclusive prefix (R435). -/
def scanSeq (c : Val → Val → Val × Flags) : Val → List Val → List (Val × Flags)
  | _, [] => []
  | acc, v :: l => let x := c acc v; x :: scanSeq c x.1 l

/-- VSCAN (R435). -/
def execVscan (d a o : BitVec 5) (m : BitVec 2) (t : BitVec 5) (e : BitVec 1) (s : State) : Host.Outcome State Fault Refusal :=
  let f := fmtOf t.toNat
  let w := f.bits
  let cols := 2048 / w
  panel1 (.vscan d a o m t e) e a 16 (fun st v =>
    putElems st d w ((List.range 16).flatMap fun r =>
      match (List.range cols).map fun c => decodeVal f (elem v w (r * cols + c)) with
      | [] => []
      | x :: l =>
        ((x, 0#6) :: scanSeq (comb f o.toNat (Rnd.ofBits m) (modeSat f m)) x l).map fun y => (codeOf f y.1, y.2))) s

/-! Movement (R421, R431, R433, R392, R438). -/

/-- D[r, c] from the row, the column and the number of columns. -/
def rearrange (t : Strand) (d : BitVec 5) (w : Nat) (v : Panel) (src : Nat → Nat → Nat × Nat) : Strand :=
  let cols := 2048 / w
  t.setPanel d (panelOf w ((List.range (16 * cols)).map fun k =>
    let (r, c) := src (k / cols) (k % cols)
    elem v w (r * cols + c)))

/-- VBCR (R421). -/
def execVbcr (d a b t : BitVec 5) (e : BitVec 1) (s : State) : Host.Outcome State Fault Refusal :=
  let w := (fmtOf t.toNat).bits
  panel1 (.vbcr d a b t e) e a 16 (fun st v =>
    rearrange st d w v (fun r _ => (r, (st.x b).toNat % (2048 / w)))) s

/-- VBCC (R421). -/
def execVbcc (d a b t : BitVec 5) (e : BitVec 1) (s : State) : Host.Outcome State Fault Refusal :=
  let w := (fmtOf t.toNat).bits
  panel1 (.vbcc d a b t e) e a 16 (fun st v =>
    rearrange st d w v (fun _ c => ((st.x b).toNat % 16, c))) s

/-- VROTR (R433). -/
def execVrotr (d a b t : BitVec 5) (e : BitVec 1) (s : State) : Host.Outcome State Fault Refusal :=
  let w := (fmtOf t.toNat).bits
  panel1 (.vrotr d a b t e) e a 16 (fun st v =>
    rearrange st d w v (fun r c => (r, (((c : Int) + (st.x b).toInt) % ((2048 / w : Nat) : Int)).toNat))) s

/-- VROTC (R433). -/
def execVrotc (d a b t : BitVec 5) (e : BitVec 1) (s : State) : Host.Outcome State Fault Refusal :=
  let w := (fmtOf t.toNat).bits
  panel1 (.vrotc d a b t e) e a 16 (fun st v =>
    rearrange st d w v (fun r c => ((((r : Int) + (st.x b).toInt) % 16).toNat, c))) s

/-- VPERM (R431). -/
def execVperm (d a b t : BitVec 5) (e : BitVec 1) (s : State) : Host.Outcome State Fault Refusal :=
  let w := (fmtOf t.toNat).bits
  panel2 (.vperm d a b t e) e a b 16 16 (fun st v j =>
    rearrange st d w v (fun r c => (r, elem j w (r * (2048 / w) + c) % (2048 / w)))) s

/-- PART (R52, R392, R393): true indices up from element 0, false indices down from element 1,023. -/
def execPart (d a b t : BitVec 5) (e : BitVec 1) (s : State) : Host.Outcome State Fault Refusal :=
  panel1 (.part d a b t e) e a 16 (fun st v =>
    let yes := (List.range 1024).filter fun k => elem v 32 k != 0
    let no := (List.range 1024).filter fun k => elem v 32 k == 0
    (st.setPanel d (panelOf 32 (yes ++ no.reverse))).setX b (BitVec.ofNat 64 yes.length)) s

/-- Whether value `a` ranks above value `b` before columns decide (R438). -/
def ranksAbove (a b : Val) : Bool := if a.isNan then false else if b.isNan then true else valLt b a

/-- Inserts a later column below its equals. -/
def rankInsert (x : Nat × Val) : List (Nat × Val) → List (Nat × Val)
  | [] => [x]
  | y :: l => if ranksAbove x.2 y.2 then x :: y :: l else y :: rankInsert x l

/-- One row of VTOPK (R438). -/
def topkRow (f : Fmt) (k : Nat) (row : List Nat) : List Nat :=
  let w := f.bits
  let ranked := ((List.range row.length).zip (row.map (decodeVal f))).foldl (fun acc x => rankInsert x acc) []
  let js := (ranked.take k).map Prod.fst
  js ++ List.replicate (32 - js.length) (2 ^ w - 1) ++ js.map (fun j => row.getD j 0) ++ List.replicate (32 - js.length) 0
    ++ List.replicate (row.length - 64) 0

/-- VTOPK (R438). -/
def execVtopk (d a b t : BitVec 5) (e : BitVec 1) (s : State) : Host.Outcome State Fault Refusal :=
  let f := fmtOf t.toNat
  let cols := 2048 / f.bits
  panel1 (.vtopk d a b t e) e a 16 (fun st v =>
    st.setPanel d (panelOf f.bits ((List.range 16).flatMap fun r =>
      topkRow f (min (st.x b).toNat 32) ((List.range cols).map fun c => elem v f.bits (r * cols + c))))) s

/-- VMOV (R429). -/
def execVmov (d a : BitVec 5) (e : BitVec 1) (s : State) : Host.Outcome State Fault Refusal :=
  panel1 (.vmov d a e) e a 16 (fun st v => st.setPanel d v) s

/-- VMOVI (R430). -/
def execVmovi (d : BitVec 5) (i : BitVec 17) (e : BitVec 1) (s : State) : Host.Outcome State Fault Refusal :=
  xWord (.vmovi d i e) e (fun s =>
    .done (s.modMe fun t => t.setPanel d (panelOf 32 (List.replicate 1024 (intBits 32 (s.imm i)))))) s

/-- VINS (R427). -/
def execVins (d a b t : BitVec 5) (e : BitVec 1) (s : State) : Host.Outcome State Fault Refusal :=
  let w := (fmtOf t.toNat).bits
  xWord (.vins d a b t e) e (fun s => .done (s.modMe fun st =>
    let k := (st.x b).toNat % perPanel w
    let v := st.panel d
    let mask : Panel := BitVec.ofNat 32768 ((2 ^ w - 1) * 2 ^ (w * k))
    st.setPanel d ((v &&& ~~~mask) ||| BitVec.ofNat 32768 ((st.x a).toNat % 2 ^ w * 2 ^ (w * k))))) s

/-- VEXT (R426): sign-extended for s types, zero-extended as bits for every other. -/
def execVext (d a b t : BitVec 5) (e : BitVec 1) (s : State) : Host.Outcome State Fault Refusal :=
  let f := fmtOf t.toNat
  xWord (.vext d a b t e) e (fun s => .done (s.modMe fun st =>
    let v := elem (st.panel a) f.bits ((st.x b).toNat % perPanel f.bits)
    st.setX d (match f with
      | .int true w => wordOf (intOf true w v)
      | _ => BitVec.ofNat 64 v))) s

end Sys2Proof.Machine
end

