-- ==== Sys2Proof/Machine/Matrix.lean ====
section
/-! DEFINITION. Sys2Proof/Machine/Matrix.lean: the matrix engine (spec/07_matrix_and_stream_engines.md R150 to R160) and the
sums of spec/05_numeric_versions.md R125 to R130, with the events MATRIX_COMMAND_PERFORM and MST_COMPLETE. -/

namespace Sys2Proof.Machine

/-! ## The fields of a matrix command -/

inductive MatOp where
  | mma
  | mmaSat
  | mmas
  | mzero
  | mld
  | mst
  | mstSat
  deriving DecidableEq, Repr, Inhabited

/-- The command that a word names (R77). -/
def matOp (w : BitVec 32) : MatOp :=
  match (w.extractLsb' 25 6).toNat with
  | 0x15 => .mma
  | 0x16 => .mmaSat
  | 0x17 => .mmas
  | 0x18 => .mzero
  | 0x19 => .mld
  | 0x1A => .mst
  | _ => .mstSat

/-- Walk records that a command names (R153, R383). -/
def MatOp.walks (o : MatOp) : Nat :=
  match o with
  | .mzero => 0
  | .mld => 1
  | .mst => 1
  | .mstSat => 1
  | _ => 2

def MatCmd.op (c : MatCmd) : MatOp := matOp c.word
def MatCmd.fa (c : MatCmd) : Nat := (c.word.extractLsb' 20 5).toNat
def MatCmd.fb (c : MatCmd) : Nat := (c.word.extractLsb' 5 5).toNat
def MatCmd.plane (c : MatCmd) : Fin 4 := (c.word.extractLsb' 3 2).toFin

/-- Bytes of a walk element of an operand (R153). -/
def operandSize (code : Nat) : Nat :=
  match code with
  | 19 => 17
  | 20 => 25
  | 21 => 25
  | 22 => 33
  | 23 => 33
  | 1 => 8
  | 0 => 4
  | 2 => 2
  | 3 => 2
  | _ => 1

/-- c: the k indices in one walk element (R153). -/
def perElement (code : Nat) : Nat := if 19 ≤ code then 32 else if code = 8 || code = 10 then 2 else 1

/-- The accumulator format C of R125, as a plane tag: 0 FP32, 1 INT32, 2 FP64. -/
def accTag (code : Nat) : BitVec 2 := if code = 1 then 2#2 else if code = 10 || code = 11 then 1#2 else 0#2

/-- The format a plane tag names (R150). -/
def tagFmt (t : BitVec 2) : Fmt :=
  match t.toNat with
  | 1 => .int true 32
  | 2 => .bin binary64
  | _ => .bin binary32

/-- The k-block of R126: version 1 takes the indices one by one (R129). -/
def blockSize (ver code : Nat) : Nat :=
  if ver = 1 then 1
  else if ver = 2 then 16
  else if code = 8 || code = 10 || code = 19 then 128
  else if code = 2 || code = 3 then 32
  else if code = 0 then 16
  else if code = 1 then 8
  else 64

/-! ## Planes -/

def Plane.elem (p : Plane) (n : Nat) : Nat := (p.bits.extractLsb' (32 * n) 32).toNat

/-- The plane with the elements that `f` gives. -/
def Plane.update (p : Plane) (f : Nat → Option Nat) : Plane :=
  { p with bits := BitVec.ofNat 131072 (packElems 32 ((List.range 4096).map fun n => (f n).getD (p.elem n))) }

/-- The even plane of a pair, and the odd one (R150). -/
def evenPlane (p : Fin 4) : Fin 4 := fin4 (p.val / 2 * 2)
def oddPlane (p : Fin 4) : Fin 4 := fin4 (p.val / 2 * 2 + 1)

/-- The bits of element `n` under a tag: of the plane, or of the pair that holds it (R152). -/
def Core.planeBits (k : Core) (p : Fin 4) (tag : BitVec 2) (n : Nat) : Nat :=
  if tag = 2#2 then (k.planes.get (evenPlane p)).elem n + 2 ^ 32 * (k.planes.get (oddPlane p)).elem n
  else (k.planes.get p).elem n

/-- Whether the plane, or the pair under an FP64 tag, is poisoned (R152). -/
def Core.planePoisoned (k : Core) (p : Fin 4) (tag : BitVec 2) : Bool :=
  if tag = 2#2 then (k.planes.get (evenPlane p)).poisoned || (k.planes.get (oddPlane p)).poisoned
  else (k.planes.get p).poisoned

/-- The element bits that `f` gives are written under a tag, to the plane or the pair, with tag and mark (R151, R152). -/
def Core.writePlane (k : Core) (p : Fin 4) (tag : BitVec 2) (f : Nat → Option Nat) (mark : Bool) : Core :=
  if tag = 2#2 then
    let e := k.planes.get (evenPlane p)
    let o := k.planes.get (oddPlane p)
    let pois := mark || e.poisoned || o.poisoned
    let e := { e.update (fun n => (f n).map (· % 2 ^ 32)) with tag := tag, poisoned := pois }
    let o := { o.update (fun n => (f n).map (· / 2 ^ 32)) with tag := tag, poisoned := pois }
    { k with planes := (k.planes.set (evenPlane p) e).set (oddPlane p) o }
  else
    let v := k.planes.get p
    { k with planes := k.planes.set p { v.update f with tag := tag, poisoned := v.poisoned || mark } }

/-! ## Accumulation (R125 to R129) -/

/-- AccRound (R125). -/
def accRound (c : Fmt) (v : Val) (sat : Bool) : Val :=
  match c with
  | .int s w => valOfInt (intNarrow s w (valInt v) sat).1
  | f => (roundTo f v .rne false).1

/-- The least normal magnitude of an accumulator format (R128). -/
def minNormal (c : Fmt) : Nat × Int :=
  match c with
  | .bin f => (1, f.emin)
  | _ => (0, 0)

/-- A subnormal value becomes a zero of its sign (R128). -/
def flushSub (c : Fmt) (v : Val) : Val :=
  match v with
  | .fin n m e => if magLt m e (minNormal c).1 (minNormal c).2 then .zero n else v
  | v => v

/-- The window of 40 bits of R128: `q` is E − 39. -/
def truncTo (q : Int) (v : Val) : Val :=
  match v with
  | .fin n m e =>
    if q ≤ e then v
    else
      let k := m >>> (q - e).toNat
      if k = 0 then .zero n else .fin n k q
  | v => v

/-- E of R128: the greatest exponent of the finite non-zero products. -/
def topExp : List Val → Option Int
  | [] => none
  | .fin _ m e :: l => (match topExp l with
    | none => some (expOf m e)
    | some x => some (max x (expOf m e)))
  | _ :: l => topExp l

def isFinite : Val → Bool
  | .nan => false
  | .inf _ => false
  | _ => true

/-- One k-block under version 2 (R128). -/
def blockV2 (c : Fmt) (sat : Bool) (ps : List Val) (acc : Val) : Val :=
  if c.isInt then accRound c (exactSum (ps ++ [acc]) .rne).1 sat
  else
    let ps := ps.map (flushSub c)
    let acc := flushSub c acc
    let ps := if ps.all isFinite then
        (match topExp ps with
          | some x => ps.map (truncTo (x - 39))
          | none => ps)
      else ps
    flushSub c (accRound c (exactSum (ps ++ [acc]) .rne).1 sat)

/-- Products of unscaled operands. -/
def products (as bs : List (Val × Val)) : List Val := List.zipWith (fun a b => (exactMul a.1 b.1).1) as bs

/-- Products of operands with their scales inside. -/
def scaledProducts (as bs : List (Val × Val)) : List Val :=
  List.zipWith (fun a b => (exactMul (exactMul a.1 a.2).1 (exactMul b.1 b.2).1).1) as bs

/-- The partial sums of the records of a block (R127). -/
def recordSums (as bs : List (Val × Val)) : List Val :=
  (List.range (as.length / 32)).map fun r =>
    let xs := (as.drop (32 * r)).take 32
    let ys := (bs.drop (32 * r)).take 32
    let p := (exactSum (products xs ys) .rne).1
    let sa := (xs.head?.map (·.2)).getD (.zero false)
    let sb := (ys.head?.map (·.2)).getD (.zero false)
    (exactMul (exactMul p sa).1 sb).1

/-- One k-block of one element: operands as (value, scale) pairs (R127, R128, R129). -/
def blockAcc (ver : Nat) (c : Fmt) (sat blk : Bool) (as bs : List (Val × Val)) (acc : Val) : Val :=
  if ver = 2 then blockV2 c sat (scaledProducts as bs) acc
  else if blk then accRound c (exactSum (recordSums as bs ++ [acc]) .rne).1 sat
  else accRound c (exactSum (products as bs ++ [acc]) .rne).1 sat

/-! ## Operands (R99, R106, R107, R153) -/

/-- An E8M0 scale (R107); 2^0 where SCL sets it aside. -/
def scaleVal (byte : Nat) (applies : Bool) : Val :=
  if !applies then .fin false 1 0 else if byte = 255 then .nan else .fin false 1 ((byte : Int) - 127)

/-- Operand `t` of a walk element of format `code`, with its scale. -/
def operandVal (code : Nat) (applies : Bool) (l : List Byte) (t : Nat) : Val × Val :=
  let n := leNat l
  if code = 8 || code = 10 then (decodeVal (fmtOf code) (n / 16 ^ t % 16), .fin false 1 0)
  else if code = 6 || code = 7 then (decodeVal (fmtOf code) (n % 64), .fin false 1 0)
  else if 19 ≤ code then
    let w := (fmtOf code).bits
    (decodeVal (fmtOf code) (n / 256 / 2 ^ (w * t) % 2 ^ w), scaleVal (n % 256) applies)
  else (decodeVal (fmtOf code) n, .fin false 1 0)

/-- SCL (R47): whether A's and B's scales apply. -/
def sclA (v : BitVec 2) : Bool := v = 0#2 || v = 1#2
def sclB (v : BitVec 2) : Bool := v = 0#2 || v = 2#2

/-- Walk elements that hold k indices [k0, k1) of an operand of `m` rows: first, and how many. -/
def elemsFor (c m k0 k1 : Nat) : Nat × Nat := (m * (k0 / c), m * ((k1 - 1) / c + 1 - k0 / c))

def MatCmd.walk (c : MatCmd) (i : Nat) : Walk := c.walks.getD i default
def Walk.ext0 (w : Walk) : Nat := w.ext.headD 0

/-- K (R153). -/
def kOf (code : Nat) (w : Walk) : Nat := perElement code * (w.count / w.ext0)

/-- The end of the k-block at `next`. -/
def MatCmd.blockEnd (c : MatCmd) : Nat := min (kOf c.fa (c.walk 0)) (c.next + blockSize c.numver.toNat c.fa)

/-- The pieces that the k-block at `next` reads: those of A, then those of B. -/
def MatCmd.blockPieces (c : MatCmd) : List ReadPiece :=
  let a := elemsFor (perElement c.fa) (c.walk 0).ext0 c.next c.blockEnd
  let b := elemsFor (perElement c.fb) (c.walk 1).ext0 c.next c.blockEnd
  piecesOf 0 ((c.walk 0).bytesFrom a.1 a.2) ++ piecesOf (a.2 * (c.walk 0).esize) ((c.walk 1).bytesFrom b.1 b.2)

/-- The operands of rows of a walk over [k0, k1), from the bytes read for them: row `i`, then k. -/
def operandTable (code : Nat) (applies : Bool) (w : Walk) (bytes : List Byte) (k0 k1 : Nat) : List (List (Val × Val)) :=
  let c := perElement code
  let m := w.ext0
  let e0 := m * (k0 / c)
  (List.range m).map fun i => (List.range (k1 - k0)).map fun j =>
    let k := k0 + j
    let n := m * (k / c) + i - e0
    operandVal code applies ((bytes.drop (n * w.esize)).take w.esize) (k % c)

/-- The results of the k-block whose operands have been read. -/
def MatCmd.blockResult (c : MatCmd) (k : Core) : Core :=
  let a := elemsFor (perElement c.fa) (c.walk 0).ext0 c.next c.blockEnd
  let b := elemsFor (perElement c.fb) (c.walk 1).ext0 c.next c.blockEnd
  let na := a.2 * (c.walk 0).esize
  let bytes := readCells c.data 0 (na + b.2 * (c.walk 1).esize)
  let blk : Bool := 19 ≤ c.fa
  let as := operandTable c.fa (sclA c.scl || c.op != .mmas) (c.walk 0) (bytes.take na) c.next c.blockEnd
  let bs := operandTable c.fb (sclB c.scl || c.op != .mmas) (c.walk 1) (bytes.drop na) c.next c.blockEnd
  let tag := accTag c.fa
  let f := tagFmt tag
  k.writePlane c.plane tag (fun n =>
    match as[n / 64]?, bs[n % 64]? with
    | some x, some y =>
      let acc := decodeVal f (k.planeBits c.plane tag n)
      some (codeOf f (blockAcc c.numver.toNat f (c.op == .mmaSat) blk x y acc))
    | _, _ => none) c.poisoned

/-! ## Checks at the start (R145, R146, R149, R153, R154) -/

/-- Elements per beat (R148). -/
def beatElems (esize : Nat) : Nat :=
  match esize with
  | 1 => 64
  | 2 => 32
  | 4 => 16
  | 8 => 8
  | _ => 1

/-- Beats of a walk (R148). -/
def Walk.beats (w : Walk) : Nat := (w.count + beatElems w.esize - 1) / beatElems w.esize

/-- Bank group of an address (R134). -/
def bankGroup (a : Nat) : Nat := a / 0xC0000

/-- Lines that [a, a + n) meets. -/
def linesOf (a n : Nat) : List Nat := (List.range ((a + n - 1) / 64 - a / 64 + 1)).map (· + a / 64)

/-- The bank of a line: its group, and address bits 9:6 (R134). -/
def bankOf (line : Nat) : Nat × Nat := (bankGroup (64 * line), line % 16)

/-- A list names two different lines of one bank. -/
def twoLines : List Nat → Bool
  | [] => false
  | x :: l => (l.any fun y => y != x && bankOf y == bankOf x) || twoLines l

/-- A beat of the walk needs two different lines of one bank (R149). -/
def Walk.beatConflict (w : Walk) : Bool :=
  (List.range w.beats).any fun b =>
    let n := min (beatElems w.esize) (w.count - b * beatElems w.esize)
    twoLines ((List.range n).flatMap fun i => linesOf (w.elem (b * beatElems w.esize + i)).toNat w.esize)

/-- The bank groups that hold a byte of the walk. -/
def Walk.inGroup (w : Walk) (g : Nat) : Bool :=
  (List.range w.count).any fun n =>
    let a := (w.elem n).toNat
    bankGroup a ≤ g && g ≤ bankGroup (a + w.esize - 1)

/-- OPERAND-CONFLICT (R149). -/
def operandConflict (a b : Walk) : Bool :=
  ([0, 1, 2, 3].any fun g => a.inGroup g && b.inGroup g) || a.beatConflict || b.beatConflict

/-- The cause with which a walk of a matrix command fails by R145, with its own element size. The spec does not rank the causes
of one walk: an ESIZE that does not match its format comes before a tag or an address outside local SRAM (assumption 101). -/
def matWalkCause (w : Walk) (res zero : Bool) (esize : Nat) : Option Nat :=
  if w.formatBad res false (· == esize) then some causeWalk
  else if w.tag != 0 then some causeSpace
  else if !zero && !w.within sramSize then some causeSpace
  else none

/-- Element size of an MST destination (R154). -/
def mstSize (code : Nat) : Nat := (fmtOf code).bytes

/-- The result of the checks that a matrix command makes on its walks. -/
inductive MatCheck where
  | fails (cause : Nat)
  | zero
  | go

/-- A 64-byte header of local SRAM. -/
def Core.record (k : Core) (a : Word) : List Byte := k.sram.bytes a.toNat 64

/-- Record `i` of a command, as its pieces read it (R147). -/
def MatCmd.record (c : MatCmd) (i : Nat) : List Byte := readCells c.data (64 * i) 64

/-- The checks of a command on its walks as read (R383 step 3): A's walk, then B's. -/
def State.matCheck (s : State) (core : Nat) (c : MatCmd) : MatCheck :=
  let l1 := c.record 0
  let l2 := c.record 1
  let w1 := decodeWalk l1
  let w2 := decodeWalk l2
  let mma : MatCheck :=
    if c.poisoned then .fails causePoison
    else
      let zero := w1.isZero || w2.isZero
      match matWalkCause w1 (walkReserved l1) zero (operandSize c.fa) with
      | some x => .fails x
      | none =>
        match matWalkCause w2 (walkReserved l2) zero (operandSize c.fb) with
        | some x => .fails x
        | none =>
          if zero then .zero
          else if 64 < w1.ext0 || 64 < w2.ext0 || kOf c.fa w1 != kOf c.fb w2 then .fails causeWalk
          else if operandConflict w1 w2 then .fails causeConflict
          else .go
  let plane (esize : Nat) (writes : Bool) : MatCheck :=
    if c.poisoned then .fails causePoison
    else
      match matWalkCause w1 (walkReserved l1) w1.isZero esize with
      | some x => .fails x
      | none =>
        if w1.isZero then .zero
        else if 64 < w1.ext0 || 64 * w1.ext0 < w1.count then .fails causeWalk
        else if writes && ((s.walkHitsText core w1 false) || (c.s2 != 0#64 && s.meetsText core c.s2.toNat 64)) then .fails causeSpace
        else .go
  match c.op with
  | .mzero => .go
  | .mld => plane 4 false
  | .mst => plane (mstSize c.fb) true
  | .mstSat => plane (mstSize c.fb) true
  | _ => mma

/-! ## MLD and MST -/

/-- The plane element of walk element `n` (R154). -/
def planeIndex (w : Walk) (n : Nat) : Nat := 64 * (n / w.ext0) + n % w.ext0

/-- The walk element of plane element `x`, if the walk has it. -/
def walkIndex (w : Walk) (x : Nat) : Option Nat :=
  let n := x / 64 * w.ext0 + x % 64
  if x % 64 < w.ext0 && n < w.count then some n else none

/-- Elements of the beat at `next`: the first, and how many. -/
def MatCmd.beat (c : MatCmd) : Nat × Nat :=
  let b := beatElems (c.walk 0).esize
  (b * c.next, min b ((c.walk 0).count - b * c.next))

/-- The bytes that MST writes for plane element `x` (R155). -/
def MatCmd.mstBytes (c : MatCmd) (k : Core) (x : Nat) : List Byte :=
  let tag := (k.planes.get c.plane).tag
  let v := decodeVal (tagFmt tag) (k.planeBits c.plane tag x)
  let sat := c.op == .mstSat
  let f := fmtOf c.fb
  let bits := match f, tag.toNat with
    | .int s w, 1 => intBits w (intNarrow s w (valInt v) sat).1
    | f, _ => (encodeVal f v .rne sat).1
  natBytes f.bytes bits

/-- The write pieces of the beat at `next` (R182). -/
def MatCmd.beatParts (c : MatCmd) (k : Core) : List (List Host.Cell) :=
  (List.range c.beat.2).flatMap fun i =>
    let n := c.beat.1 + i
    splitWords (cellsAt ((c.walk 0).elem n).toNat (c.mstBytes k (planeIndex (c.walk 0) n)))

/-- All the bytes that MST writes, in walk order (R156). -/
def MatCmd.mstAll (c : MatCmd) (k : Core) : List Byte :=
  (List.range (c.walk 0).count).flatMap fun n => c.mstBytes k (planeIndex (c.walk 0) n)

/-- The pieces of the beat of an MLD. -/
def MatCmd.mldPieces (c : MatCmd) : List ReadPiece := piecesOf 0 ((c.walk 0).bytesFrom c.beat.1 c.beat.2)

/-- The beat of an MLD whose bytes have been read enters the plane (R151, R384). -/
def MatCmd.mldResult (c : MatCmd) (k : Core) : Core :=
  let v := k.planes.get c.plane
  let w := c.walk 0
  let last := c.beat.1 + c.beat.2 = w.count
  let p := v.update fun x =>
    match walkIndex w x with
    | some n => if c.beat.1 ≤ n && n < c.beat.1 + c.beat.2 then some (leNat (readCells c.data (4 * (n - c.beat.1)) 4)) else none
    | none => none
  let mark := if c.poisoned then true else if last && w.count = 4096 then false else v.poisoned
  { k with planes := k.planes.set c.plane { p with poisoned := mark } }

/-! ## Steps of the engine -/

/-- Commands at the front of the queue that an outstanding read of their strand keeps from the engine (R368). -/
def Core.unseen (k : Core) : Nat := (k.mq.takeWhile fun c => !(k.strand c.strand).visible c.rd).length
/-- The command that the engine performs. -/
def Core.mqHead? (k : Core) : Option MatCmd := k.mq[k.unseen]?
/-- That command replaced. -/
def Core.setHead (k : Core) (c : MatCmd) : Core := { k with mq := k.mq.set k.unseen c }
/-- That command leaves the queue (R157). -/
def Core.dropHead (k : Core) : Core := { k with mq := k.mq.eraseIdx k.unseen }

/-- The next unit of a started command is prepared: the reads of a k-block or MLD beat, or the writes of an MST beat; a
command that has done its last unit leaves the queue, but for an MST, which MST_COMPLETE ends. -/
def Core.prepare (k : Core) (c : MatCmd) : Core :=
  match c.op with
  | .mzero => k.dropHead
  | .mld =>
    if c.next < (c.walk 0).beats then k.setHead { c with left := c.mldPieces, data := [] } else k.dropHead
  | .mst => k.setHead { c with out := if c.next < (c.walk 0).beats then c.beatParts k else [] }
  | .mstSat => k.setHead { c with out := if c.next < (c.walk 0).beats then c.beatParts k else [] }
  | _ =>
    if c.next < kOf c.fa (c.walk 0) then k.setHead { c with left := c.blockPieces, data := [], poisoned := false }
    else k.dropHead

/-- MZERO (R151, R389). -/
def Core.zeroPlane (k : Core) (p : Fin 4) : Core :=
  { k with planes := k.planes.set p { k.planes.get p with bits := 0#131072, poisoned := false } }

/-- The head command starts (R383): its walks, which have been read once, are checked. -/
def State.startMatrix (s : State) (core : Nat) (c : MatCmd) : State :=
  let k := s.core core
  match s.matCheck core c with
  | .fails cause =>
    (s.setCore core k.dropHead).raiseAsync core c.strand c.task cause true c.tok c.count
  | .zero =>
    (s.setCore core k.dropHead).writeToken core c.strand c.task c.tok (tokenWord 0 false 0 0)
  | .go =>
    let walks := match c.op with
      | .mzero => []
      | .mld => [decodeWalk (c.record 0)]
      | .mst => [decodeWalk (c.record 0)]
      | .mstSat => [decodeWalk (c.record 0)]
      | _ => [decodeWalk (c.record 0), decodeWalk (c.record 1)]
    let tag := (k.planes.get c.plane).tag
    let pois := (c.op == .mst || c.op == .mstSat) && k.planePoisoned c.plane tag
    let c := { c with started := true, walks := walks, poisoned := pois, data := [] }
    let k := if c.op == .mzero then k.zeroPlane c.plane else k
    s.setCore core (k.prepare c)

/-- One piece of an MST beat is written, poisoned when the plane is (R155). -/
def State.matrixWrite (s : State) (core : Nat) (c : MatCmd) (i : Nat) : State :=
  let k := s.core core
  if !partReady c.out i then s.res .stutter
  else
    let p := c.out.getD i []
    let m := if c.poisoned then k.sram.writePoisoned ((p.head?.map (·.1)).getD 0) (p.map (·.2)) else k.sram.store p
    let k := { k with sram := m }
    let c := { c with out := c.out.eraseIdx i }
    if c.out.isEmpty then s.setCore core (k.prepare { c with next := c.next + 1 })
    else s.setCore core (k.setHead c)

/-- The pieces of a unit have been read: an MLD's beat or a k-block enters the plane. A k-block that ends within a block record
(R126) leaves the bytes read to the next one, since its walk visits the record once (R159). -/
def State.unitRead (s : State) (core : Nat) (c : MatCmd) : State :=
  let k := s.core core
  let k := if c.op == .mld then c.mldResult k else c.blockResult k
  if c.op != .mld && c.blockEnd % perElement c.fa != 0 then s.setCore core (k.setHead { c with next := c.blockEnd })
  else s.setCore core (k.prepare { c with next := if c.op == .mld then c.next + 1 else c.blockEnd, data := [] })

/-- One piece of a started command's unit: `i` chooses it. -/
def State.matrixPiece (s : State) (core : Nat) (c : MatCmd) (i : Nat) : State :=
  let k := s.core core
  match c.op with
  | .mst => s.matrixWrite core c i
  | .mstSat => s.matrixWrite core c i
  | _ =>
    match c.left[i]? with
    | none => if c.left.isEmpty then s.unitRead core c else s.res .stutter
    | some p =>
      let c := { c with
        left := c.left.eraseIdx i
        data := writeCells c.data p.off (k.sram.bytes p.addr p.len)
        poisoned := c.poisoned || k.sram.poisoned p.addr p.len }
      if c.left.isEmpty then s.unitRead core c else s.setCore core (k.setHead c)

/-- Piece `i` of the walk records of a command that has not started is read; with the last one it starts (R147). -/
def State.matrixRecord (s : State) (core : Nat) (c : MatCmd) (i : Nat) : State :=
  let k := s.core core
  match c.left[i]? with
  | none => if c.left.isEmpty then s.startMatrix core c else s.res .stutter
  | some p =>
    let c := { c with
      left := c.left.eraseIdx i
      data := writeCells c.data p.off (k.sram.bytes p.addr p.len)
      poisoned := c.poisoned || k.sram.poisoned p.addr p.len }
    let s := s.setCore core (k.setHead c)
    if c.left.isEmpty then s.startMatrix core c else s

/-- MATRIX_COMMAND_PERFORM (R157 to R159): the command at the head reads piece `k` of its records and starts, or performs
its piece `k`. Its issue is a release of its strand's older stores (R190). -/
def execMatrixCommandPerform (core k : Nat) (s : State) : Host.Outcome State Fault Refusal :=
  match (s.core core).mqHead? with
  | none => .next (s.res .stutter)
  | some c =>
    if c.started then .next (s.matrixPiece core c k)
    else if (s.strand core c.strand).drained c.mark then .next (s.matrixRecord core c k)
    else .next (s.res .stutter)

/-- The record of an MST of a poisoned plane (R156, R221). -/
def State.mstRecord (s : State) (core : Nat) (c : MatCmd) : State :=
  let h := (s.core core).record c.s2
  let id : Nat × Nat := if c.s2 = 0#64 then (0, 0) else (field h 0 8, field h 0x20 8)
  s.report (s.regidOf c.task)
    (recordWords (BitVec.ofNat 64 id.1) (eventSeq 1 c.strand.val core c.count) 0 4 0 (s.hopCore core) 0#64 0#64 0#64 0#64
      (BitVec.ofNat 64 id.2))

/-- MST_COMPLETE (R156, R388): after the last beat, the header's pair and the token; the spec does not say whether the two words
of the pair are two pieces, and here they and the token are written in one event (assumption 96). The record of a poisoned
plane is sent in an event before it, so that the two may arrive in either order (R222). -/
def execMstComplete (core : Nat) (s : State) : Host.Outcome State Fault Refusal :=
  match (s.core core).mqHead? with
  | none => .next (s.res .stutter)
  | some c =>
    if !(c.started && (c.op == .mst || c.op == .mstSat) && c.out.isEmpty && (c.walk 0).beats ≤ c.next) then .next (s.res .stutter)
    else
      let k := s.core core
      let pair := csumPair (c.mstAll k)
      if c.poisoned && !c.told then
        .next ((s.mstRecord core c).modCore core fun k => k.setHead { c with told := true })
      else
      let s := if c.poisoned || c.s2 = 0#64 then s
        else s.modCore core fun k =>
          { k with sram := (k.sram.write (c.s2.toNat + 0x28) (bytes8 pair.1)).write (c.s2.toNat + 0x30) (bytes8 pair.2) }
      let s := s.modCore core Core.dropHead
      .next (s.writeToken core c.strand c.task c.tok (tokenWord 0 c.poisoned 0 ((c.walk 0).count * (c.walk 0).esize)))

end Sys2Proof.Machine
end

