-- ==== Sys2Proof/Machine/Cards.lean ====
section
/-! DEFINITION. Sys2Proof/Machine/Cards.lean: the cards of stream commands, the checks that a command makes at its start, its
pieces and its outputs (spec/07_matrix_and_stream_engines.md R162 to R177, spec/15_reference_a_to_f.md R345 to R350, R363). -/

namespace Sys2Proof.Machine

/-! ## Fields of cards -/

/-- A walk record's local address in a card (R143, R162). -/
def walkAddrOk (a : Nat) : Bool := a % 64 == 0 && a + 64 ≤ sramSize

/-- CTRL of a copy card (R164). -/
def StrCmd.ctrl (c : StrCmd) : Nat :=
  match c.kind with
  | .copy => field c.card 8 4
  | .dcmp => field c.card 12 4
  | .fill => field c.card 16 4
  | .csum => field c.card 8 4
  | _ => 0

def StrCmd.chk (c : StrCmd) : Nat := if c.kind == .copy then c.ctrl / 16 % 4 else 0
def StrCmd.ndst (c : StrCmd) : Nat := if c.kind == .copy then c.ctrl % 16 else 1
def StrCmd.follow (c : StrCmd) : Bool := c.kind == .copy && c.ctrl.testBit 8

/-- SEMEN, SEMBYTES and SEM (R164, R173, R176). -/
def StrCmd.semEn (c : StrCmd) : Bool := (c.kind == .copy || c.kind == .dcmp || c.kind == .fill) && c.ctrl.testBit 6
def StrCmd.semBytes (c : StrCmd) : Bool := c.ctrl.testBit 7
def StrCmd.sem (c : StrCmd) : Nat := if c.kind == .copy then c.ctrl / 2 ^ 9 % 64 else c.ctrl % 64

/-- SEMAMT (R163, R173, R176). -/
def StrCmd.semAmt (c : StrCmd) : Nat := if c.kind == .copy then field c.card 16 8 else field c.card 24 8

def StrCmd.fword (c : StrCmd) : BitVec 32 := BitVec.ofNat 32 (field c.card 0x18 4)
def StrCmd.fopa (c : StrCmd) : Nat := field c.card 0x20 8
def StrCmd.fopb (c : StrCmd) : Nat := field c.card 0x28 8

/-- Destination entry `n` of a copy card (R165). -/
def StrCmd.dstEntry (c : StrCmd) (n : Nat) : Nat := field c.card (0x40 + 8 * n) 8
def entryCore (e : Nat) : BitVec 12 := BitVec.ofNat 12 (e / 2 ^ 32)
def entryWalk (e : Nat) : Nat := e % 2 ^ 22
def entryBad (e : Nat) : Bool := e / 2 ^ 44 != 0 || e / 2 ^ 22 % 2 ^ 10 != 0 || !walkAddrOk (entryWalk e)

/-- FWORD, FOPA and FOPB (R172). -/
def StrCmd.followBad (c : StrCmd) : Bool :=
  let w := c.fword
  let major := (w.extractLsb' 25 6).toNat
  !w.getLsbD 31 || w.extractLsb' 0 3 != 3#3 || major < 0x15 || 0x19 < major || w.extractLsb' 10 10 != 0#10 ||
    (major != 0x18 && !walkAddrOk c.fopa) || (major < 0x18 && !walkAddrOk c.fopb) || c.ndst != 1

/-- CARD-FORMAT of step 1 of R345, without the walks. -/
def StrCmd.copyCardBad (c : StrCmd) : Bool :=
  let l := c.card
  !walkAddrOk (field l 0 8) || 2 ^ 15 ≤ c.ctrl || c.ndst == 0 || 8 < c.ndst || c.chk == 3 || !zeros l 0xC 4 || !zeros l 0x1C 4 ||
    !zeros l 0x30 16 || 2 ^ 56 ≤ c.semAmt || (List.range c.ndst).any (fun n => entryBad (c.dstEntry n)) ||
    !zeros l (0x40 + 8 * c.ndst) (8 * (8 - c.ndst)) || (if c.follow then c.followBad else c.fword != 0#32)

/-- CARD-FORMAT of a job card or a fill card but for its addresses (R173, R176). -/
def StrCmd.smallCtrlBad (c : StrCmd) : Bool := 2 ^ 8 ≤ c.ctrl || 2 ^ 56 ≤ c.semAmt || !zeros c.card 0x20 32

/-- The record of 64 bytes that a command has read from local address `a` (R147). -/
def StrCmd.record (c : StrCmd) (a : Nat) : List Byte := readCells c.recs a 64

/-- The local addresses of the records of a command's walks, the source first. -/
def StrCmd.walkAddrs (c : StrCmd) : List Nat :=
  match c.kind with
  | .copy => field c.card 0 8 :: (List.range c.ndst).map fun n => entryWalk (c.dstEntry n)
  | .dcmp => [field c.card 16 8]
  | .fill => [field c.card 0 8]
  | .csum => [field c.card 0 8]
  | _ => []

/-- The source of a DCMP as a walk of bytes (R173). -/
def StrCmd.stream (c : StrCmd) : Walk :=
  ⟨BitVec.ofNat 64 (field c.card 0 8), [field c.card 8 4, 1, 1, 1], [1, 0, 0, 0], 1, 0#8⟩

def StrCmd.source (c : StrCmd) : Walk := c.walks.headD default
def StrCmd.dest (c : StrCmd) (n : Nat) : Walk := c.walks.getD (n + 1) default

/-! ## Checks of walks (R145, R146, R166 to R169) -/

/-- R145 for one walk of a command: `zero` some walk has a zero extent; `top` the highest tag admitted; `hdr` the command
writes the walk's header; `dst` the core of a tag-0 destination. -/
def State.walkCause (s : State) (sp : Space) (w : Walk) (res zero replayOk : Bool) (top : Nat) (write hdr : Bool) (dst : Option Nat) :
    Option Nat :=
  if w.formatBad res replayOk (fun _ => true) then some causeWalk
  else if top < w.tag then some causeSpace
  else if zero then none
  else if s.walkOutside sp w write then some causeSpace
  else
    match dst with
    | some d => if write && w.tag == 0 && s.walkHitsText d w hdr then some causeSpace else none
    | none => none

/-- The route to some byte of the walk crosses a die that failed hard (R304). -/
def State.walkDead (s : State) (sp : Space) (c : Nat) (w : Walk) : Bool :=
  s.anyFailed && (List.range w.count).any fun n =>
    match s.reachNow sp c w.tag (w.elem n).toNat with
    | some l => s.routeDead (dieOf sp.core) l.die
    | none => false

/-- The bytes of a walk that a command touches, with its header when `hdr` (R144, R167). The spec does not say whether a
header belongs to the ranges compared for OVERLAP: all 64 bytes do here while CHK is not 00, and none otherwise (assumption
84). -/
def Walk.touched (w : Walk) (hdr : Bool) : List Nat := (if hdr then (List.range 64).map (· + w.hdr) else []) ++ w.addrs

/-- Two walks share a byte of one memory (R167); `ca` and `cb` are the logical cores that stand under tag 0. -/
def walksOverlap (a b : Walk) (ca cb : Target) (ha hb : Bool) : Bool :=
  a.tag == b.tag && (a.tag != 0 || ca == cb) &&
    (a.low < b.high && b.low < a.high) && (a.touched ha).any fun x => (b.touched hb).contains x

/-- What a read record gives the command that named it: it fails, or goes on. -/
inductive Started where
  | fails (cause : Nat)
  | go (c : StrCmd)

/-- The first cause of a list of checks. -/
def firstCause (l : List (Option Nat)) : Option Nat := l.findSome? id

def failIf (b : Bool) (cause : Nat) : Option Nat := if b then some cause else none

/-- The physical core that stands for a target: its own, or the one its image was saved from. -/
def State.targetCore (s : State) (t : Target) : Nat :=
  match t with
  | .live k => k
  | .saved key => ((s.task? key).map (·.slotCore)).getD 0

/-- A destination walk at a target meets a protected text range (R135). No task runs on a saved logical core, so its image
protects none. -/
def State.targetText (s : State) (t : Target) (w : Walk) (hdr : Bool) : Bool :=
  match t with
  | .live k => s.walkHitsText k w hdr
  | .saved _ => false

/-- CARD-FORMAT in the card that a command has read, but for what its walks decide (R162, R345, R349, R350, R363). -/
def StrCmd.cardBad (c : StrCmd) : Bool :=
  let l := c.card
  match c.kind with
  | .copy => c.copyCardBad
  | .dcmp => c.smallCtrlBad || !walkAddrOk (field l 16 8) || 4 ≤ field l 7 1 / 16
  | .fill => c.smallCtrlBad || !walkAddrOk (field l 0 8) || !zeros l 0x14 4
  | .csum => !walkAddrOk (field l 0 8) || 2 ≤ c.ctrl || !zeros l 0xC 52
  | _ => false

/-- The checks of COPY on its walk records as read (R345, R166 to R169, R172). -/
def State.copyStart (s : State) (core : Nat) (c : StrCmd) : Started :=
  let sp := s.spaceOf core c.task
  let recs := c.walkAddrs
  let ws := recs.map fun a => decodeWalk (c.record a)
  let zero := ws.any Walk.isZero
  let src := ws.headD default
  let dsts := ws.drop 1
  let ns := List.range c.ndst
  let here : Target := .live core
  let w (n : Nat) : Walk := dsts.getD n default
  let dt (n : Nat) : Option Target := if (w n).tag == 0 then s.target sp.regid (entryCore (c.dstEntry n)) else some here
  let resAt (i : Nat) : Bool := walkReserved (c.record (recs.getD i 0))
  let hd := c.chk == 1
  let hw := c.chk != 0
  let ts := ns.map fun n => (dt n).getD here
  let tg (n : Nat) : Target := ts.getD n here
  match firstCause (
      [failIf c.recPois causePoison,
       failIf (ns.any fun n => (w n).tag != 0 && entryCore (c.dstEntry n) != 0#12) causeCard,
       s.walkCause sp src (resAt 0) zero false 5 false false none] ++
      (ns.map fun n => s.walkCause sp (w n) (resAt (n + 1)) zero true 5 true hw none) ++
      (ns.map fun n => failIf ((dt n).isNone) causeSpace) ++
      (ns.map fun n => failIf (!zero && (w n).tag == 0 && s.targetText (tg n) (w n) hw) causeSpace) ++
      [failIf (!zero && (s.walkDead sp core src || ns.any fun n => s.walkDead sp (s.targetCore (tg n)) (w n))) causeSpace,
       failIf (!zero && ns.any fun n => (w n).size != src.size) causeWalk,
       failIf (ns.any fun n => (w n).replay && !(c.ndst == 1 && (w n).tag == 0 && tg n == here)) causeWalk,
       failIf ((hd && !src.csumc) || (hw && ns.any fun n => !(w n).csumc)) causeCard,
       failIf (c.follow && !((w 0).tag == 0 && dt 0 == some here)) causeCard,
       failIf (!zero && ns.any fun n => ns.any fun m => n < m && walksOverlap (w n) (w m) (tg n) (tg m) hw hw) causeOverlap,
       failIf (!zero && ns.any fun n => walksOverlap src (w n) here (tg n) hd hw && !(w n).replay &&
          !(src.linear && (w n).linear)) causeOverlap]) with
  | some x => .fails x
  | none => .go { c with walks := ws, cores := ts.map s.targetCore }

/-- The checks of DCMP on its output walk as read (R350, R173, R174). -/
def State.dcmpStart (s : State) (core : Nat) (c : StrCmd) : Started :=
  let sp := s.spaceOf core c.task
  let l := c.record (field c.card 16 8)
  let out := decodeWalk l
  let src := c.stream
  let zero := src.isZero || out.isZero
  match firstCause [
      failIf (!zero && s.walkOutside sp src false) causeSpace,
      failIf c.recPois causePoison,
      s.walkCause sp out (walkReserved l) zero true 3 true false (some core),
      failIf (!zero && (s.walkDead sp core src || s.walkDead sp core out)) causeSpace,
      failIf (!zero && walksOverlap src out (.live core) (.live core) false false) causeOverlap] with
  | some x => .fails x
  | none => .go { c with walks := [src, out], cores := [core] }

/-- The checks of FILL on its walk as read (R363). -/
def State.fillStart (s : State) (core : Nat) (c : StrCmd) : Started :=
  let sp := s.spaceOf core c.task
  let l := c.record (field c.card 0 8)
  let w := decodeWalk l
  match firstCause [
      failIf c.recPois causePoison,
      s.walkCause sp w (walkReserved l) w.isZero false 5 true true (some core),
      failIf (!w.isZero && s.walkDead sp core w) causeSpace] with
  | some x => .fails x
  | none => .go { c with walks := [default, w], cores := [core] }

/-- The checks of CSUM on its walk as read (R349, R177), but for the header, which is read as its first pieces. -/
def State.csumStart (s : State) (core : Nat) (c : StrCmd) : Started :=
  let sp := s.spaceOf core c.task
  let l := c.record (field c.card 0 8)
  let w := decodeWalk l
  match firstCause [
      failIf c.recPois causePoison,
      s.walkCause sp w (walkReserved l) w.isZero false 5 false false none,
      failIf (c.ctrl == 0 && w.csumc && !w.isZero && w.tag == 0 && s.meetsText core w.hdr 64) causeSpace,
      failIf (!w.isZero && s.walkDead sp core w) causeSpace,
      failIf (!w.csumc || 3 < w.tag) causeCard] with
  | some x => .fails x
  | none => .go { c with walks := [w, w], cores := [core] }

/-- The checks of a command of one of the four kinds on the walk records that it has read. -/
def State.walksStart (s : State) (core : Nat) (c : StrCmd) : Started :=
  match c.kind with
  | .copy => s.copyStart core c
  | .dcmp => s.dcmpStart core c
  | .fill => s.fillStart core c
  | _ => s.csumStart core c

/-! ## Pieces and outputs -/

/-- Some walk of the command has a zero extent (R146). -/
def StrCmd.isZero (c : StrCmd) : Bool :=
  match c.kind with
  | .fill => (c.dest 0).isZero
  | _ => c.walks.any Walk.isZero

/-- Bytes of a header that lead the command's string: of a checking copy (R169) and of a CSUM verify (R177). -/
def StrCmd.lead (c : StrCmd) : Nat := if c.chk == 1 || (c.kind == .csum && c.ctrl == 1) then 64 else 0

/-- Payload bytes. -/
def StrCmd.payload (c : StrCmd) : Nat :=
  match c.kind with
  | .fill => (c.dest 0).size
  | _ => c.source.size

/-- The command writes a computed pair: a copy with CHK = 10, CSUM compute, and FILL with CSUMC = 1 (R169, R176, R177). -/
def StrCmd.writesPair (c : StrCmd) : Bool :=
  match c.kind with
  | .copy => c.chk == 2
  | .csum => c.ctrl == 0
  | .fill => (c.dest 0).csumc
  | _ => false

/-- One piece a byte (R168, R182). -/
def singles (o : Nat) : List Nat → List ReadPiece
  | [] => []
  | a :: l => ⟨o, a, 1⟩ :: singles (o + 1) l

/-- The command moves byte by byte (R168). -/
def StrCmd.serial (c : StrCmd) : Bool := (c.dest 0).replay

/-- The pieces of a header of a walk. -/
def Walk.headPieces (w : Walk) : List ReadPiece := readPieces 0 w.hdr 64

/-- The read pieces of a command, from its recorded progress: byte `off` of the string at offset `addr` of the source. -/
def StrCmd.srcPieces (c : StrCmd) : List ReadPiece :=
  if c.isZero then []
  else
    let w := c.source
    match c.kind with
    | .copy =>
      let l := w.bytesFrom c.srcFrom (w.count - c.srcFrom)
      let o := c.lead + c.srcFrom * w.esize
      (if c.lead = 0 then [] else w.headPieces) ++ (if c.serial then singles o l else piecesOf o l)
    | .dcmp => piecesOf c.pos (w.bytesFrom c.pos (w.count - c.pos))
    | .csum => (if c.lead = 0 then [] else w.headPieces) ++
        piecesOf (c.lead + c.srcFrom * w.esize) (w.bytesFrom c.srcFrom (w.count - c.srcFrom))
    | _ => []

/-- Contribution of the bytes of a string from byte `o` on to the two sums of R218, byte by byte. -/
def byteSums : Nat → List Byte → Nat × Nat
  | _, [] => (0, 0)
  | o, b :: l =>
    let r := byteSums (o + 1) l
    let v := b.toNat * 256 ^ (o % 8)
    (r.1 + v, r.2 + (o / 8 + 1) * v)

/-- The pair of the payload as read: the saved partial sums and the bytes since (R218, R301). -/
def StrCmd.readPair (c : StrCmd) : Word × Word :=
  let o := c.srcFrom * c.source.esize
  let r := byteSums o (readCells c.data (c.lead + o) (c.payload - o))
  (BitVec.ofNat 64 ((c.sums.1.toNat + r.1) % csumM), BitVec.ofNat 64 ((c.sums.2.toNat + r.2) % csumM))

/-! ### Decompression (R174, R175) -/

/-- A byte with its poison. -/
abbrev PByte := Byte × Bool

/-- The bytes of a match of `n` bytes at distance `d` over the history, newest first (R174). -/
def matchBytes (d : Nat) (pz : Bool) : Nat → List PByte → List PByte
  | 0, _ => []
  | n + 1, h =>
    let b : PByte := match h[d - 1]? with
      | some x => (x.1, x.2 || pz)
      | none => (0#8, true)
    b :: matchBytes d pz n (b :: h)

/-- One element: the bytes it takes of the stream and its output; none when it is malformed (R175). `out` bytes were output
before it and `limit` is the size of the walk. -/
def dcmpElement (limit out : Nat) (hist l : List PByte) : Option (Nat × List PByte) :=
  match l with
  | [] => none
  | (b, pz) :: l =>
    let n := b.toNat
    if n < 0x80 then
      let bs := l.take (n + 1)
      if bs.length < n + 1 || limit < out + n + 1 then none
      else some (n + 2, bs.map fun x => (x.1, x.2 || pz))
    else if n < 0xC0 then
      match l with
      | (d0, p0) :: (d1, p1) :: _ =>
        let d := d0.toNat + 256 * d1.toNat
        let len := n - 0x80 + 3
        if d = 0 || out < d || limit < out + len then none
        else some (3, matchBytes d (pz || p0 || p1) len hist)
      | _ => none
    else none

/-- The elements of a stream, each as its length and its output, and whether the stream is well formed: `fuel` is the
length of the stream. The history keeps 65,535 bytes. -/
def dcmpElements (limit : Nat) : Nat → Nat → List PByte → List PByte → List (Nat × List PByte) × Bool
  | 0, _, _, l => ([], l.isEmpty)
  | fuel + 1, out, hist, l =>
    if l.isEmpty then ([], true)
    else
      match dcmpElement limit out hist l with
      | none => ([], false)
      | some (n, bs) =>
        let r := dcmpElements limit fuel (out + bs.length) ((bs.reverse ++ hist).take 65535) (l.drop n)
        ((n, bs) :: r.1, r.2)

/-- The stream bytes from the recorded position on, as read. -/
def StrCmd.streamBytes (c : StrCmd) : List PByte :=
  (List.range (c.payload - c.pos)).map fun i => (readCell c.data (c.pos + i), c.pois.contains (c.pos + i))

/-- The elements that the command has still to output. -/
def StrCmd.elements (c : StrCmd) : List (Nat × List PByte) × Bool :=
  let l := c.streamBytes
  dcmpElements (c.dest 0).size l.length c.out (c.hist.map fun b => (b, false)) l

/-- Their output. -/
def StrCmd.output (c : StrCmd) : List PByte := c.elements.1.flatMap (·.2)

/-- Whether every piece of the source has been read. -/
def StrCmd.allRead (c : StrCmd) : Bool := c.srcDone.length == c.srcPieces.length

/-- The addresses of the bytes of a walk from byte `o` on, `n` of them. -/
def Walk.addrsAt (w : Walk) (o n : Nat) : List Nat :=
  if w.esize = 0 then []
  else ((w.bytesFrom (o / w.esize) ((o + n + w.esize - 1) / w.esize - o / w.esize)).drop (o % w.esize)).take n

/-- The pieces that write a pair into a header: bytes `o` on of the string (R169, R176, R177). -/
def Walk.pairPieces (w : Walk) (o : Nat) : List ReadPiece := [⟨o, w.hdr + 0x28, 8⟩, ⟨o + 8, w.hdr + 0x30, 8⟩]

/-- The first element of destination `n` that the recorded progress does not cover: it counts elements of the first
destination (R209). -/
def StrCmd.dstElem (c : StrCmd) (n : Nat) : Nat := c.dstFrom * (c.dest 0).esize / (c.dest n).esize

/-- The write pieces of destination `n` (R182). -/
def StrCmd.dstPieces (c : StrCmd) (n : Nat) : List ReadPiece :=
  if c.isZero then []
  else
    let w := c.dest n
    let cut (o : Nat) (l : List Nat) := if w.replay then singles o l else piecesOf o l
    match c.kind with
    | .copy =>
      (if c.lead = 0 then [] else w.headPieces) ++
        cut (c.lead + c.dstElem n * w.esize) (w.bytesFrom (c.dstElem n) (w.count - c.dstElem n)) ++
        (if c.writesPair then w.pairPieces c.payload else [])
    | .dcmp => cut c.out (w.addrsAt c.out c.output.length)
    | .fill => cut (c.dstFrom * w.esize) (w.bytesFrom c.dstFrom (w.count - c.dstFrom)) ++
        (if c.writesPair then w.pairPieces c.payload else [])
    | .csum => if c.writesPair then w.pairPieces c.payload else []
    | _ => []

/-- Byte `o` of the string that the command writes. -/
def StrCmd.outByte (c : StrCmd) (o : Nat) : PByte :=
  match c.kind with
  | .dcmp => (c.output[o - c.out]?).getD (0#8, false)
  | .fill =>
    if o < c.payload then (BitVec.ofNat 8 (field c.card (8 + o % 8) 1), false)
    else
      let p := csumPair ((List.range c.payload).map fun i => BitVec.ofNat 8 (field c.card (8 + i % 8) 1))
      (((bytes8 p.1 ++ bytes8 p.2)[o - c.payload]?).getD 0#8, false)
  | _ =>
    if c.writesPair && c.payload ≤ o then
      let p := c.readPair
      (((bytes8 p.1 ++ bytes8 p.2)[o - c.payload]?).getD 0#8, false)
    else (readCell c.data o, c.pois.contains o)

/-- The pieces of destination `n` that have been written. -/
def StrCmd.written (c : StrCmd) (n : Nat) : List Nat := (c.dstDone.filter fun p => p.1 == n).map (·.2)

/-- Every byte of destination `n` has landed. -/
def StrCmd.landed (c : StrCmd) (n : Nat) : Bool := c.allRead && (c.written n).length == (c.dstPieces n).length

/-- Every byte of the command has landed. -/
def StrCmd.allLanded (c : StrCmd) : Bool := (List.range c.ndst).all c.landed

/-- Bytes that the command writes at each destination (R171). A computed pair is not counted, neither that of a copy with
CHK = 10 nor that of a fill with CSUMC = 1 (assumption 32). -/
def StrCmd.bytes (c : StrCmd) : Nat :=
  if c.isZero then 0
  else
    match c.kind with
    | .copy => c.lead + c.payload
    | .dcmp => c.out + c.output.length
    | _ => c.payload

end Sys2Proof.Machine
end

