-- ==== Sys2Proof/Machine/Deliver.lean ====
section
/-! DEFINITION. Sys2Proof/Machine/Deliver.lean: deliveries to cores: messages, copy completions, increments, records and
notices; handler tasks; the end of a task (spec/02_execution_model.md R53 to R55, spec/07 R170, R179,
spec/10_chunks_residency_placement.md R222, spec/16_reference_g_to_s.md R401). -/

namespace Sys2Proof.Machine

/-! ## Save slots (R296) -/

/-- The save slot of a core (R296). -/
def slotBase (c : Nat) : Nat :=
  let d := dieOf c
  let s := 2 * (d / 4) + d % 4 / 2
  s * (48 * 2 ^ 30) + d % 2 * (24 * 2 ^ 30) + 23 * 2 ^ 30 + c % 256 * (4 * 2 ^ 20)

/-- Bytes of a slot. -/
def slotSize : Nat := 4 * 2 ^ 20

/-- Offset of strand section `n` in a slot (R296). -/
def strandSection (n : Nat) : Nat := 0x322000 + n * 0x23000

/-- Bytes of the image of a saved task (R296). -/
def State.imageBytes (s : State) (t : Task) (off n : Nat) : List Byte :=
  match t.stash with
  | some m => m.bytes off n
  | none => s.hbm.bytes (slotBase t.slotCore + off) n

/-- The image of a saved task, changed; an ended task has none (R289). -/
def State.modImage (s : State) (key : Nat) (f : Nat → Ram → Ram) : State :=
  match s.task? key with
  | none => s
  | some t =>
    if t.st != .saved then s
    else
      match t.stash with
      | some m => s.modTask key fun t => { t with stash := some (f 0 m) }
      | none => { s with hbm := f (slotBase t.slotCore) s.hbm }

/-- The strands of a mask, in order. -/
def maskStrands (m : BitVec 4) : List (Fin 4) := strandNums.filter fun n => m.getLsbD n.val

/-- A saved task of which only handlers are left takes no delivery (R55, R294). -/
def Task.drained (t : Task) : Bool := (maskStrands t.savedMask).all fun n => t.hands.getLsbD n.val

/-- Mailbox registration `m` of an image (R297), with the task that bound it. -/
def State.imageMailbox (s : State) (t : Task) (m : Nat) : Mailbox :=
  let l := s.imageBytes t (0x240 + 16 * m) 16
  let owner := t.owners.getD m t.key
  ⟨field l 12 4 % 2 == 1, BitVec.ofNat 32 (field l 0 4), BitVec.ofNat 32 (field l 4 4), BitVec.ofNat 32 (field l 8 4), owner,
    (s.task? owner).any fun v => v.st == .saved && !v.drained⟩

/-! ## Mailboxes -/

/-- A byte of the list lies in the bound range. -/
def Mailbox.hit (m : Mailbox) (l : List Nat) : Bool :=
  m.valid && m.len != 0#32 && l.any fun a => m.base.toNat ≤ a && a < m.base.toNat + m.len.toNat

/-- Mailboxes 1 to 15. -/
def mailboxNums : List (Fin 16) := [1, 2, 3, 4, 5, 6, 7, 8, 9, 10, 11, 12, 13, 14, 15]

/-- A delivery goes to a logical core. -/
def State.sendTo (s : State) (t : Target) (d : Delivery) : State :=
  match t with
  | .live c => s.modCore c fun k => { k with ingress := k.ingress ++ [d] }
  | .saved key => s.hold key (.message d)

/-- A handler task is queued by the binding `b` of mailbox `m` (R53). -/
def Mailbox.handlerTask (owner : Nat) (entry : BitVec 22) (m : Fin 16) (d : Delivery) : Pending :=
  ⟨owner, d.regs ++ [BitVec.ofNat 64 m.val], d.regid, entry⟩

/-- A copy that has become visible in a range bound at core `c` queues its handler with the binding as it stands (R53, R382):
in the pending list, or at the ingress while 16 are pending; for a saved core its save unit holds it so. A binding that takes
no delivery now leaves it as for an unbound mailbox (R55, R294). -/
def State.queueCopy (s : State) (c : Nat) (d : Delivery) : State :=
  let k := s.core c
  let b := k.mailboxes.get d.mailbox
  if !(b.accepting && (s.task? b.owner).any fun t => t.st == .running) then s.sendTo (.live c) d
  else if k.pending.length < 16 && k.ingress.all fun e => e.bound.isNone then
    s.setCore c { k with pending := k.pending ++ [Mailbox.handlerTask b.owner (b.handler.truncate 22) d.mailbox d] }
  else s.sendTo (.live c) { d with bound := some (b.owner, b.handler.truncate 22) }

/-- The deliveries that the completion of a copy queues at a destination: one for each bound range that its bytes meet
(R53, R54). -/
def State.queueHandlers (s : State) (t : Target) (issuer : Nat) (start bytes : Nat) (addrs : List Nat) : State :=
  let from_ := BitVec.ofNat 64 (s.core issuer).lcore.toNat
  let regs : List Word := [BitVec.ofNat 64 start, BitVec.ofNat 64 bytes, from_, 0, 0, 0, 0, 0, 1]
  mailboxNums.foldl (fun s m =>
    let box := match t with
      | .live c => some ((s.core c).mailboxes.get m, s.regidOf ((s.core c).mailboxes.get m).owner)
      | .saved key => (s.task? key).map fun k => (s.imageMailbox k m.val, k.regid)
    match box with
    | some (b, regid) =>
      if !b.hit addrs then s
      else
        match t with
        | .live c => s.queueCopy c ⟨m, regid, regs, (4096, 0), none, 0, none⟩
        | .saved _ => s.sendTo t ⟨m, regid, regs, (4096, 0), none, 0, if b.accepting then some (b.owner, b.handler.truncate 22) else none⟩
    | none => s) s

/-! ## Increments (R170, R179) -/

def State.increment (s : State) (t : Target) (i : Increment) : State :=
  match t with
  | .live c => s.modCore c fun k => { k with incs := k.incs ++ [i] }
  | .saved key => s.hold key (.incr i)

/-- The command that a reference names. -/
def State.cmd? (s : State) (r : CmdRef) : Option StrCmd :=
  (s.core r.core).sq.find? fun c => c.slot == r.slot && c.seq == r.seq

def State.modCmd (s : State) (core slot : Nat) (f : StrCmd → StrCmd) : State :=
  s.modCore core fun k => { k with sq := k.sq.map fun c => if c.slot == slot then f c else c }

/-- A command leaves the stream queue. -/
def State.dropCmd (s : State) (core slot : Nat) : State :=
  s.modCore core fun k => { k with sq := k.sq.filter fun c => c.slot != slot }

/-- The increment of a command or packet has been applied. -/
def State.incDone (s : State) (i : Increment) : State :=
  let s := match i.ref with
    | some r =>
      match s.cmd? r with
      | some _ => s.modCmd r.core r.slot fun c => { c with incs := c.incs - 1 }
      | none => s
    | none => s
  match i.pkt with
  | some (p, q, id) =>
    s.modQueue (Fin.ofNat 2 p) (Fin.ofNat 16 q) fun v =>
      { v with issued := v.issued.map fun k => if k.id == id then { k with done := 2 } else k }
  | none => s

/-- SEM_INCREMENT_ARRIVAL (R179): increment `k` on its way to a core is summed into its semaphore. -/
def execSemIncrementArrival (core k : Nat) (s : State) : Host.Outcome State Fault Refusal :=
  match (s.core core).incs[k]? with
  | none => .next (s.res .stutter)
  | some i =>
    let s := s.modCore core fun c =>
      { c with sems := c.sems.set i.sem (semAdd (c.sems.get i.sem) i.amount), incs := c.incs.eraseIdx k }
    .next (s.incDone i)

/-! ## Acceptance (R53, R55, R401) -/

/-- The task and the entry word with which a delivery enters the pending list, when it may (R53, R401): those of its
binding at visibility, or of the mailbox now, if it takes deliveries for a task of the region. -/
def State.accepts (s : State) (c : Nat) (d : Delivery) : Option (Nat × BitVec 22) :=
  let b := (s.core c).mailboxes.get d.mailbox
  if 16 ≤ (s.core c).pending.length then none
  else
    match d.bound with
    | some x => some x
    | none =>
      if b.valid && b.accepting && s.regidOf b.owner == d.regid && (s.task? b.owner).any (fun t => t.st == .running) then
        some (b.owner, b.handler.truncate 22)
      else none

/-- The token of a SEND whose message was accepted (R401). -/
def State.sendDone (s : State) (d : Delivery) : State :=
  match d.token with
  | none => s
  | some r =>
    match s.cmd? r with
    | none => s
    | some c => (s.writeToken r.core c.strand c.task c.tok (tokenWord 0 false 0 d.len)).dropCmd r.core r.slot

/-- No older SEND of the strand to the same mailbox of the same core is left (R401): messages of one strand to one mailbox are
accepted in issue order, whichever arrives first. -/
def State.sendTurn (s : State) (d : Delivery) : Bool :=
  match d.token with
  | none => true
  | some r =>
    match s.cmd? r with
    | none => true
    | some c => (s.core r.core).sq.all fun x =>
        !(x.kind == .send && x.strand == c.strand && x.task == c.task && x.s2 == c.s2 && decide (x.seq.toNat < c.seq.toNat))

/-- Delivery `k` of an ingress may be accepted: messages in issue order (R401), and copies that a binding queued in the order of
their arrival (R53). -/
def State.inOrder (s : State) (l : List Delivery) (k : Nat) (d : Delivery) : Bool :=
  s.sendTurn d && (d.bound.isNone || (l.take k).all fun e => e.bound.isNone)

/-- SEND_ACCEPT (R401, R53): delivery `k` at a core's ingress enters the pending handler list. -/
def execSendAccept (core k : Nat) (s : State) : Host.Outcome State Fault Refusal :=
  let v := s.core core
  match v.ingress[k]? with
  | none => .next (s.res .stutter)
  | some d =>
    match s.accepts core d with
    | none => .next (s.res .stutter)
    | some b =>
      if !s.inOrder v.ingress k d then .next (s.res .stutter)
      else
        let p := Mailbox.handlerTask b.1 b.2 d.mailbox d
        let s := s.modCore core fun v => { v with pending := v.pending ++ [p], ingress := v.ingress.eraseIdx k }
        .next (s.sendDone d)

/-! ## Starting strands (R27, R54) -/

/-- STRAND (R30). -/
def strandWord (cnt phys idx : Nat) : Word := BitVec.ofNat 64 (idx + phys * 4 + cnt * 16)

/-- The state of a strand that starts (R27): everything zero or empty but for what the table of R27 names. What an earlier
strand left to drain is kept. -/
def Strand.start (t : Strand) (k : Task) (handler : Bool) (strand : Word) (entry : BitVec 22) : Strand :=
  { Strand.reset with
    sbuf := t.sbuf, sbNext := t.sbNext, rdNext := t.rdNext, semops := t.semops, resops := t.resops
    slipw := BitVec.ofNat 64 k.slip, numver := BitVec.ofNat 64 k.nv, strandCsr := strand, taskid := k.tid
    pcA := entry, pcX := entry, task := k.key, handler := handler }

/-- HANDLER_START (R54): the oldest pending handler task starts on a free strand. -/
def execHandlerStart (core : Nat) (strand : Fin 4) (s : State) : Host.Outcome State Fault Refusal :=
  let k := s.core core
  match k.pending with
  | [] => .next (s.res .stutter)
  | p :: l =>
    match s.task? p.owner with
    | none => .next (s.res .stutter)
    | some t =>
      if (k.strand strand).task != 0 || !(t.st == .running || t.st == .draining) then .next (s.res .stutter)
      else
        let v := (k.strand strand).start t true (strandWord 0 strand.val 0) p.entry
        let v := { v with areg := Vector.ofFn fun i : Fin 32 =>
          if 1 ≤ i.val && i.val ≤ 10 then p.regs.getD (i.val - 1) 0#64 else 0#64 }
        .next (s.setCore core { k.setStrand strand v with pending := l })

/-- FIRING_ARRIVAL (R410): the firing of task `k` reaches a core. -/
def execFiringArrival (core k : Nat) (s : State) : Host.Outcome State Fault Refusal :=
  if coreCount ≤ core then .fault .noSuchAgent
  else
  match s.task? k with
  | none => .next (s.res .stutter)
  | some t =>
    if !t.fired || (s.core core).firings.contains k then .next (s.res .stutter)
    else .next (s.modCore core fun c => { c with firings := k :: c.firings })

/-- ASYNC_CAUSE_DELIVERY (R287, R284): the oldest pending async cause of a strand is delivered while ACTIVE = 0
and no read of the access counter may move it back (R368), after the test of R284 is made again. -/
def execAsyncCauseDelivery (core : Nat) (strand : Fin 4) (s : State) : Host.Outcome State Fault Refusal :=
  let t := s.strand core strand
  match t.async with
  | [] => .next (s.res .stutter)
  | c :: l =>
    if t.task = 0 || t.stopped || t.trapvec.getLsbD 1 || !t.reads.isEmpty then .next (s.res .stutter)
    else .next ((s.setStrand core strand { t with async := l }).deliverAsync core strand c)

/-! ## Records and notices (R222, R290, R312) -/

/-- A notice goes to a port's ring (R312); without a ring it is counted only, and no vector is sent. It is lost with its port
(R25). -/
def State.notice (s : State) (p : Fin 2) (ws : List Word) : State :=
  if !s.portUp p then s
  else s.modPort p fun v =>
    let n := v.ntail.toNat
    let v := { v with ntail := v.ntail + 1#64 }
    if v.nbase = 0#64 then v
    else { v with host := writeCells v.host (v.nbase.toNat + 64 * (n % 64)) (ws.flatMap bytes8) }.signal 0#6

/-- The fault-domain mailbox that takes a record of region `r` (R222): its region, target and mailbox, sought up the chain. -/
def State.faultDomain (s : State) : Nat → Region → Option (Word × Target × Fin 16)
  | 0, _ => none
  | fuel + 1, r =>
    let h := s.inherit 10 r
    let m := h.fdom.toNat / 2 ^ 12
    let up := match s.regionAt? h.parent with
      | some p => if h.parent = 0 then none else s.faultDomain fuel p
      | none => none
    if m = 0 then up
    else
      match s.resolve h.regid (h.fdom.truncate 12), s.target h.regid (h.fdom.truncate 12) with
      | some _, some t => some (h.regid, t, Fin.ofNat 16 m)
      | _, _ => up

/-- ERROR_RECORD (R222): record `k` reaches its fault-domain mailbox as a message of 64 bytes, or the notice ring. -/
def execErrorRecord (k : Nat) (s : State) : Host.Outcome State Fault Refusal :=
  match s.records[k]? with
  | none => .next (s.res .stutter)
  | some r =>
    let s := { s with records := s.records.eraseIdx k }
    let dest := if r.toHost then none else (s.heir 8 r.regid).1.bind (s.faultDomain 8)
    match dest with
    | some (regid, t, m) => .next (s.sendTo t ⟨m, regid, r.words ++ [0#64], (4097, 0), none, 64, none⟩)
    | none => if r.port < 2 then .next (s.notice (Fin.ofNat 2 r.port) r.words) else .next (s.res .issued)

/-! ## Residency (R226 to R230) -/

/-- The location word of R227 is admitted for RESIDE. -/
def State.locationOk (s : State) (c : Nat) (t : Task) (loc : Word) : Bool :=
  let bytes := (loc.extractLsb' 25 21).toNat
  let core : BitVec 12 := loc.extractLsb' 46 12
  let addr := (loc.extractLsb' 0 25).toNat
  loc.extractLsb' 58 5 == 0#5 && bytes != 0 && bytes ≤ 0x100000 &&
    (if loc.getLsbD 63 then core == 0#12 && addr + bytes ≤ t.cwin.2
     else addr < sramSize && ((s.resolve t.regid core).any fun x => clusterOf x == clusterOf c))

/-- R229: the result, and the table afterwards. -/
def residencyOp (tab : List ResEntry) (ctx : Word) (o : ResOp) (locOk : Bool) : Word × List ResEntry :=
  let mine (e : ResEntry) : Bool := e.context == ctx && e.id == o.id
  match o.kind with
  | .reside =>
    if o.id = 0#64 then (5#64, tab)
    else if !locOk then (3#64, tab)
    else if tab.any mine then (1#64, tab.map fun e => if mine e then { e with loc := o.loc } else e)
    else if 8192 ≤ tab.length then (2#64, tab)
    else (0#64, tab ++ [⟨ctx, o.id, o.loc⟩])
  | .evict =>
    if o.id = 0#64 then (5#64, tab)
    else if tab.any mine then (0#64, tab.filter fun e => !mine e)
    else (4#64, tab)
  | .rquery => (if o.id = 0#64 then 0#64 else ((tab.find? mine).map (·.loc)).getD 0#64, tab)

/-- RESIDENCY_OP_PERFORM (R229, R230): the oldest operation of the strand is performed for the task that issued it, and D
becomes available while that task runs there. One behind an outstanding read waits (R368). -/
def execResidencyOpPerform (core : Nat) (strand : Fin 4) (s : State) : Host.Outcome State Fault Refusal :=
  let t := s.strand core strand
  match t.resops with
  | [] => .next (s.res .stutter)
  | o :: l =>
    if !t.visible o.rd then .next (s.res .stutter)
    else
      match s.task? o.task with
      | none => .next (s.setStrand core strand { t with resops := l })
      | some k =>
        if (s.region? k.regid).isNone then .next (s.setStrand core strand { t with resops := l })
        else
        let r := residencyOp (s.cluster (clusterOf core)).resid (s.contextOf k.regid) o (s.locationOk core k o.loc)
        let s := s.modCluster (clusterOf core) fun v => { v with resid := r.2 }
        let t := { t with resops := l }
        .next (s.setStrand core strand (if t.task == o.task then t.arrive o.d (some r.1) else t))

end Sys2Proof.Machine
end

