-- ==== Sys2Proof/Machine/Stream.lean ====
section
/-! DEFINITION. Sys2Proof/Machine/Stream.lean: the stream engine's commands that move bytes: COPY, DCMP, FILL and CSUM
(spec/07_matrix_and_stream_engines.md R163 to R177), held commands (spec/09_address_spaces_translation.md R209 to R213), records
of failed checks (spec/10_chunks_residency_placement.md R219 to R225), and their events. -/

namespace Sys2Proof.Machine

/-! ## INJECT (R225) -/

/-- The corruption is made, or the chosen command ends without it: ARM clears. -/
def Core.disarm (k : Core) : Core := { k with inject := k.inject &&& ~~~0x100000000#64, chosen := false }

def State.disarmFor (s : State) (core : Nat) (c : StrCmd) : State :=
  if c.inject && !c.hit then s.modCore core Core.disarm else s

/-- A command fails with an async cause (R332): it leaves the queue with no further effect. -/
def State.failCmd (s : State) (core : Nat) (c : StrCmd) (cause : Nat) : State :=
  ((s.disarmFor core c).dropCmd core c.slot).raiseAsync core c.strand c.task cause false c.tok c.seq

/-- The command in a slot of a core. -/
def Core.cmdAt (k : Core) (slot : Nat) : Option StrCmd := k.sq.find? fun c => c.slot == slot

/-! ## Read pieces -/

/-- Pieces of the header that leads the string, at the front of the read pieces and of a copy's write pieces. -/
def StrCmd.headCount (c : StrCmd) : Nat := c.lead / 8

/-- Header pieces that must be read, and checked, before the payload's. -/
def StrCmd.headRead (c : StrCmd) : Bool := (List.range c.headCount).all c.srcDone.contains

/-- Payload bytes that a byte by byte copy has written since it started or resumed (R168); its computed pair is none. -/
def StrCmd.replayed (c : StrCmd) : Nat :=
  ((c.written 0).filter fun k => decide (c.headCount ≤ k) && decide (k < c.srcPieces.length)).length

/-- Read piece `k` may be performed now: the header's first (R217), and byte by byte under replay (R168). -/
def StrCmd.mayRead (c : StrCmd) (k : Nat) : Bool :=
  c.phase == .flight && k < c.srcPieces.length && !c.srcDone.contains k &&
    (k < c.headCount || (c.headRead && (!c.serial || c.kind != .copy || c.headCount + c.replayed == k)))

/-- Read piece `k` has been performed. -/
def StrCmd.took (c : StrCmd) (k : Nat) (p : ReadPiece) (v : List Byte) (pz : Bool) : StrCmd :=
  { c with
    data := writeCells c.data p.off v
    pois := if pz then (List.range p.len).map (· + p.off) ++ c.pois else c.pois
    srcDone := k :: c.srcDone }

/-- A poisoned byte was read among `n` from `o` on. -/
def StrCmd.poisIn (c : StrCmd) (o n : Nat) : Bool := c.pois.any fun x => o ≤ x && x < o + n

/-- HEADER-FORMAT of a header that has been read whole (R217). The spec does not say whether a header that holds a poisoned
word is still checked: here it is not, the bytes move and the record is the poison's (assumption 85). -/
def StrCmd.headerFails (c : StrCmd) : Bool :=
  c.lead != 0 && !c.poisIn 0 64 && headerBad (readCells c.data 0 64) c.payload

/-- The bytes of read piece `p`, if it can be performed: a piece over a link waits while the link is not up, and a handle
that is gone answers as a failed read (R202). -/
def State.fetchPiece (s : State) (core : Nat) (c : StrCmd) (p : ReadPiece) : Option (State × List Byte × Bool) :=
  match s.reach (s.spaceOf core c.task) core c.source.tag p.addr false with
  | (s, .loc l) =>
    match l.place with
    | .peer n => if (s.link n).st == 2#2 then some (s.readLoc l p.len) else none
    | _ => some (s.readLoc l p.len)
  | (_, .fault _ _ _) => none
  | (s, .gone) => some ({ s with free := s.free + p.len }, freeBytes s.free p.len, true)

/-- Read piece `k` lands in the engine: `r` is the state and bytes after its access. -/
def State.landRead (s : State) (core : Nat) (c : StrCmd) (k : Nat) (p : ReadPiece) (v : List Byte) (pz : Bool) : State :=
  let c := c.took k p v pz
  if c.headRead && k < c.headCount && c.headerFails then s.failCmd core c causeHeader
  else s.modCmd core c.slot fun _ => c

/-- Read piece `k` of a command is performed. -/
def State.readStep (s : State) (core : Nat) (c : StrCmd) (k : Nat) : State :=
  match c.srcPieces[k]? with
  | none => s.res .stutter
  | some p =>
    if !c.mayRead k then s.res .stutter
    else
      match s.fetchPiece core c p with
      | none => s.res .stutter
      | some (s, v, pz) => s.landRead core c k p v pz

/-! ## Write pieces -/

/-- Write piece `k` of destination `n` may be performed now: every read comes before every write (R191), but that a byte by
byte copy writes byte n before it reads byte n + 1 (R168). Its header goes as soon as it is read and checked, a computed pair
after the last byte is read, and a replayed walk is written in order. -/
def StrCmd.mayWrite (c : StrCmd) (n k : Nat) : Bool :=
  c.phase == .flight && n < c.ndst && k < (c.dstPieces n).length && !(c.dstDone.contains (n, k)) &&
    (if c.serial && c.kind == .copy then
      (if k < c.headCount then c.headRead
       else if k < c.srcPieces.length then c.headCount + c.replayed == k && c.srcDone.contains k
       else c.allRead)
     else c.allRead && (!c.serial || c.dstDone.length == k))

/-- The byte of the string that INJECT corrupts (R225): of the first destination of a checking copy. A write of INJECT takes
the choice back. -/
def StrCmd.target (c : StrCmd) (inj : Word) : Option Nat :=
  let w := (inj.extractLsb' 0 32).toNat
  let o := 8 * w + (inj.extractLsb' 41 3).toNat
  if inj.getLsbD 32 && c.inject && !c.hit && c.kind == .copy && 8 * w < c.payload then some (c.lead + o) else none

/-- The bytes of write piece `p` of destination `n`, whether they are poisoned, and whether the corruption is made in it. -/
def StrCmd.pieceBytes (c : StrCmd) (inj : Word) (n : Nat) (p : ReadPiece) : List Byte × Bool × Bool :=
  let bs := (List.range p.len).map fun i => c.outByte (p.off + i)
  let v := bs.map (·.1)
  let pz := bs.any (·.2)
  match c.target inj with
  | some o =>
    if n = 0 && p.off ≤ o && o < p.off + p.len then
      (v.modify (o - p.off) (· ^^^ inj.extractLsb' 33 8), pz, true)
    else (v, pz, false)
  | none => (v, pz, false)

/-- The target of a tag-0 destination: the logical core of the card, or the core that held it at the start. -/
def State.destTarget (s : State) (core : Nat) (c : StrCmd) (n : Nat) : Target :=
  if c.kind == .copy then
    (s.target (s.regidOf c.task) (entryCore (c.dstEntry n))).getD (.live (c.cores.getD n core))
  else .live core

/-- Bytes land at a place that an offset of destination `n` reaches; none while they cannot. The Bool says that their word is
poisoned afterwards. A handle is looked up for each piece: a command that runs across a BIND of its handle goes on through the
new binding, not checked again, and what it writes through a cleared one is lost (assumption 86). -/
def State.landBytes (s : State) (core : Nat) (c : StrCmd) (n addr : Nat) (v : List Byte) (pz : Bool) : Option (State × Bool) :=
  let w := c.dest n
  if w.tag = 0 then
    match s.destTarget core c n with
    | .live k => some (s.writeLoc ⟨.sram k, addr⟩ v pz, s.landsPoisoned ⟨.sram k, addr⟩ v.length pz)
    | .saved key => some (s.hold key (.bytes addr (cellsAt addr v) pz), pz)
  else
    match s.reach (s.spaceOf core c.task) core w.tag addr true with
    | (s, .loc l) =>
      match l.place with
      | .peer n => if (s.link n).st == 2#2 then some (s, pz) else none
      | _ => some (s.writeLoc l v pz, s.landsPoisoned l v.length pz)
    | (_, .fault _ _ _) => none
    | (s, .gone) => some (s, pz)

/-! ## Follow-ons (R172) -/

/-- The matrix command of a follow-on (R172, R281, R387), its walk records to be read. -/
def StrCmd.followCmd (c : StrCmd) (count : Word) : MatCmd :=
  let a := BitVec.ofNat 64 c.fopa
  let b := BitVec.ofNat 64 c.fopb
  let n := (matOp c.fword).walks
  { word := c.fword, tok := 0#5, strand := c.strand, task := c.task, idx := c.idx, numver := c.numver, follow := true,
    started := false, scl := c.scl, s1 := a, s2 := b, next := 0, count := count, walks := [], mark := 0, rd := 0,
    poisoned := false, left := recordPieces n a b, data := [], out := [], told := false }

/-- The encoding fault of a follow-on's word, or its refusal by version 1 (R72, R124). -/
def StrCmd.followCause (c : StrCmd) : Option Nat :=
  match decode (bytesOfWord c.fword) with
  | .error _ => some causeIllegal
  | .ok (.mma f _ _ k _ _, _) => if c.numver = 1#2 && (v1Refused f.toNat || v1Refused k.toNat) then some causeNumver else none
  | .ok (.mmaSat f _ _ k _ _, _) => if c.numver = 1#2 && (v1Refused f.toNat || v1Refused k.toNat) then some causeNumver else none
  | .ok (.mmas _ _ _ _ _ _, _) => if c.numver = 1#2 then some causeNumver else none
  | .ok _ => none

/-- A follow-on whose copy has landed and that has not entered. -/
def StrCmd.followReady (c : StrCmd) : Bool := c.follow && !c.followed && c.phase == .flight && c.allLanded

/-- It fails at once, or the matrix queue has a place for it. -/
def StrCmd.followRoom (c : StrCmd) (k : Core) : Bool := c.followCause.isSome || k.mq.length < 16

/-- The strand's count of matrix commands goes up, also in what a POISON would bring back (R281, R368). -/
def Strand.countMatrix (t : Strand) : Strand :=
  { t with
    matrixCount := t.matrixCount + 1
    reads := t.reads.map fun o => { o with snap := { o.snap with matrixCount := o.snap.matrixCount + 1 } } }

/-- The follow-on of a copy enters the matrix queue as the copy's last byte becomes visible (R172), or waits for room. -/
def State.tryFollow (s : State) (core slot : Nat) : State :=
  match (s.core core).cmdAt slot with
  | none => s
  | some c =>
    if !c.followReady || !c.followRoom (s.core core) then s
    else
      let s := s.modCmd core slot fun c => { c with followed := true }
      match c.followCause with
      | some cause => s.raiseAsync core c.strand c.task cause true 0#5 0#64
      | none =>
        let t := s.strand core c.strand
        if t.task = c.task then
          s.modCore core fun k =>
            { k.setStrand c.strand t.countMatrix with mq := k.mq ++ [c.followCmd (t.matrixCount + 1)] }
        else s.modCore core fun k => { k with mq := k.mq ++ [c.followCmd 0#64] }

/-- A copy's last byte becomes visible: the handlers of its destinations are queued, with the bindings as they are
(R53, R382). -/
def State.copyVisible (s : State) (core slot : Nat) : State :=
  match (s.core core).cmdAt slot with
  | none => s
  | some c =>
    if c.kind != .copy || c.isZero || c.queued || c.phase != .flight || !c.allLanded then s
    else
      (List.range c.ndst).foldl (fun s n =>
        let w := c.dest n
        if w.tag = 0 then s.queueHandlers (s.destTarget core c n) core w.off c.bytes (w.touched (c.lead != 0)) else s)
        (s.modCmd core slot fun c => { c with queued := true })

/-- Write piece `k` of destination `n` is performed. -/
def State.writeStep (s : State) (core : Nat) (c : StrCmd) (n k : Nat) : State :=
  match (c.dstPieces n)[k]? with
  | none => s.res .stutter
  | some p =>
    if !c.mayWrite n k then s.res .stutter
    else
      let b := c.pieceBytes (s.core core).inject n p
      match s.landBytes core c n p.addr b.1 b.2.1 with
      | none => s.res .stutter
      | some (s, bad) =>
        let inj := (s.core core).inject
        let s := if b.2.2 then s.modCore core Core.disarm else s
        let s := s.modCmd core c.slot fun c =>
          { c with
            dstDone := (n, k) :: c.dstDone
            hit := c.hit || b.2.2
            hitWith := if b.2.2 then inj else c.hitWith
            badDst := if bad && !b.2.1 then n :: c.badDst else c.badDst }
        (s.copyVisible core c.slot).tryFollow core c.slot

/-- A piece of a command is performed. -/
def State.pieceStep (s : State) (core : Nat) (c : StrCmd) (p : CopyPiece) : State :=
  match p with
  | .src k => s.readStep core c k
  | .dst n k => s.writeStep core c n k

/-- COPY_LAND (R166, R182): one piece of a copy or decompression is read, or lands. -/
def execCopyLand (core slot : Nat) (p : CopyPiece) (s : State) : Host.Outcome State Fault Refusal :=
  match (s.core core).cmdAt slot with
  | none => .next (s.res .stutter)
  | some c => if c.kind == .copy || c.kind == .dcmp then .next (s.pieceStep core c p) else .next (s.res .stutter)

/-- COMPLETION_TIMEOUT (R202): a read of host memory fails, and its bytes are poisoned. -/
def execCompletionTimeout (core slot : Nat) (p : CopyPiece) (s : State) : Host.Outcome State Fault Refusal :=
  match (s.core core).cmdAt slot, p with
  | some c, .src k =>
    match c.srcPieces[k]? with
    | some q =>
      if c.mayRead k && c.source.tag = 5 then
        let s := match s.handle? (s.spaceOf core c.task).context (q.addr / 2 ^ 48) with
          | some h => s.portError (Fin.ofNat 2 h.port) errTimeout
          | none => s
        .next (({ s with free := s.free + q.len }).landRead core c k q (freeBytes s.free q.len) true)
      else .next (s.res .stutter)
    | none => .next (s.res .stutter)
  | _, _ => .next (s.res .stutter)

/-! ## Records of failed checks (R219 to R221) -/

/-- KIND of a record with the mark of INJECT. -/
def kindOf (kind : Nat) (inj : Bool) : Nat := kind + if inj then 0x80 else 0

/-- A record about a command's chunk. -/
def State.cmdRecord (s : State) (core : Nat) (c : StrCmd) (h : List Byte) (kind : Nat) (hop : Nat × Nat)
    (e f : Word × Word) : State :=
  s.report (s.regidOf c.task)
    (recordWords (BitVec.ofNat 64 (field h 0 8)) (eventSeq 0 c.strand.val core c.seq) 0 kind hop.1 hop.2 e.1 e.2 f.1 f.2
      (BitVec.ofNat 64 (field h 0x20 8)))

/-- The hop of the memory that holds byte `a` of a walk of a command. -/
def State.walkHop (s : State) (core : Nat) (c : StrCmd) (k : Nat) (w : Walk) (a : Nat) : Nat × Nat :=
  match s.reachNow (s.spaceOf core c.task) k w.tag a with
  | some l => s.hopOf l
  | none => (0, s.hopCore core)

/-- The source offset at which the lowest poisoned byte of the string was read. -/
def StrCmd.poisAddr (c : StrCmd) : Nat :=
  match c.taint, c.srcPieces.find? fun p => c.poisIn p.off p.len with
  | some a, _ => a
  | none, some p => p.addr
  | none, none => c.source.hdr

/-- A source word that was poisoned has been read (R141). -/
def StrCmd.poisoned (c : StrCmd) : Bool := !c.pois.isEmpty || c.taint.isSome

/-- The pair that lands at the first destination once INJECT has changed byte `o` of its payload by `mask` (R218, R225). -/
def StrCmd.changedPair (c : StrCmd) (inj : Word) : Word × Word :=
  let o := 8 * (inj.extractLsb' 0 32).toNat + (inj.extractLsb' 41 3).toNat
  let old := readCell c.data (c.lead + o)
  let new := old ^^^ inj.extractLsb' 33 8
  let p := c.readPair
  let v := 256 ^ (o % 8)
  let i := o / 8 + 1
  let shift (x : Word) (k : Nat) : Word :=
    BitVec.ofNat 64 ((x.toNat + new.toNat * v * k + csumM * 2 ^ 64 * 2 ^ 64 - old.toNat * v * k) % csumM)
  if o < c.payload then (shift p.1 1, shift p.2 i) else p

/-- The records of a checking copy, and whether every check matched (R169, R220). Where the header and the payload of the
source lie in different half-stacks the spec does not say which memory a failed source check names: here the header's, and
that of the first payload byte for a CSUM verify (assumption 103). -/
def State.copyChecks (s : State) (core : Nat) (c : StrCmd) : State × Bool :=
  let h := readCells c.data 0 64
  let want := headerPair h
  let found := c.readPair
  if c.poisoned then (s.cmdRecord core c h 4 (s.walkHop core c core c.source c.poisAddr) want (0#64, 0#64), false)
  else if found != want then
    (s.cmdRecord core c h 3 (s.walkHop core c core c.source c.source.hdr) want found, false)
  else
    (List.range c.ndst).foldl (fun acc n =>
      let w := c.dest n
      let k := c.cores.getD n core
      let here := (acc.1.reachNow (acc.1.spaceOf core c.task) k w.tag w.hdr).getD ⟨.sram k, w.hdr⟩
      if c.badDst.contains n then (acc.1.cmdRecord core c h 4 (acc.1.hopOf here) want (0#64, 0#64), false)
      else if n = 0 && c.hit && c.changedPair c.hitWith != found then
        (acc.1.cmdRecord core c h (kindOf 1 true) (acc.1.firstHop (dieOf core) here) want (c.changedPair c.hitWith), false)
      else acc) (s, true)

/-! ## Completion (R170 to R172) -/

/-- The increment that destination `n` receives (R170, R146). -/
def StrCmd.incAmount (c : StrCmd) : Nat := if c.semBytes then c.bytes else c.semAmt

/-- The increments leave, each behind the bytes of its destination (R170). -/
def State.sendIncs (s : State) (core : Nat) (c : StrCmd) : State :=
  let ns := List.range c.ndst
  let ref : CmdRef := ⟨core, c.slot, c.seq⟩
  let inc : Increment := ⟨Fin.ofNat 64 c.sem, BitVec.ofNat 64 c.incAmount, some ref, none⟩
  let s := s.modCmd core c.slot fun c => { c with incSent := true, incs := if c.semEn then c.ndst else 0 }
  if !c.semEn then s else ns.foldl (fun s n =>
    if (c.dest n).tag = 0 then s.increment (s.destTarget core c n) inc else s.increment (.live core) inc) s

/-- Nothing that the token waits for is left: increments (R171) and the follow-on (R345). -/
def StrCmd.settled (c : StrCmd) : Bool := c.incSent && c.incs = 0 && (!c.follow || c.followed)

/-- The token is written and the entry is free. -/
def State.finishCmd (s : State) (core : Nat) (c : StrCmd) (tok : Word) : State :=
  ((s.disarmFor core c).writeToken core c.strand c.task c.tok tok).dropCmd core c.slot

/-- A command whose bytes have landed sends its increments; once it is settled, `f` ends it. -/
def State.completeStep (s : State) (core : Nat) (c : StrCmd) (f : State → StrCmd → State) : State :=
  if c.phase != .flight || !c.allLanded then s.res .stutter
  else
    let s := if c.incSent then s else s.sendIncs core c
    match (s.core core).cmdAt c.slot with
    | none => s
    | some c' => if c'.settled then f s c' else if c.incSent then s.res .stutter else s

/-- A command sends its records; the event that follows writes its token, so that the record may arrive first (R222). -/
def State.recordsSent (s : State) (core : Nat) (c : StrCmd) (tok : Word) : State :=
  s.modCmd core c.slot fun c => { c with verdict := some tok }

/-- The end of a copy: records, and the token (R169, R171). -/
def State.copyEnd (s : State) (core : Nat) (c : StrCmd) : State :=
  match c.verdict with
  | some w => s.finishCmd core c w
  | none =>
    if c.isZero then s.finishCmd core c (tokenWord 0 false 0 0)
    else
      let pois := c.poisoned
      if c.chk == 1 then
        let r := s.copyChecks core c
        if r.2 then s.finishCmd core c (tokenWord 0 pois 1 (c.bytes * c.ndst))
        else r.1.recordsSent core c (tokenWord 2 pois 2 (c.bytes * c.ndst))
      else s.finishCmd core c (tokenWord 0 pois 0 (c.bytes * c.ndst))

/-- COPY_COMPLETE (R170, R171). -/
def execCopyComplete (core slot : Nat) (s : State) : Host.Outcome State Fault Refusal :=
  match (s.core core).cmdAt slot with
  | none => .next (s.res .stutter)
  | some c =>
    if c.kind != .copy then .next (s.res .stutter)
    else .next (s.completeStep core c fun s c => s.copyEnd core c)

/-- FOLLOW_ON_ENTRY (R172, R345): a follow-on that found the matrix queue full enters it once there is room. -/
def execFollowOnEntry (core slot : Nat) (s : State) : Host.Outcome State Fault Refusal :=
  match (s.core core).cmdAt slot with
  | none => .next (s.res .stutter)
  | some c => if c.followReady && c.followRoom (s.core core) then .next (s.tryFollow core slot) else .next (s.res .stutter)

/-- DCMP_COMPLETE (R175): the output has landed; a malformed stream ends with STREAM-FORMAT. -/
def execDcmpComplete (core slot : Nat) (s : State) : Host.Outcome State Fault Refusal :=
  match (s.core core).cmdAt slot with
  | none => .next (s.res .stutter)
  | some c =>
    if c.kind != .dcmp || c.phase != .flight || !c.allLanded then .next (s.res .stutter)
    else if !c.isZero && !c.elements.2 then .next (s.failCmd core c causeStream)
    else .next (s.completeStep core c fun s c =>
      s.finishCmd core c (tokenWord 0 (c.output.any (·.2) || c.taint.isSome) 0 c.bytes))

/-- FILL_COMPLETE (R176, R363): write piece `k`, or after the last the increment and the token. -/
def execFillComplete (core slot k : Nat) (s : State) : Host.Outcome State Fault Refusal :=
  match (s.core core).cmdAt slot with
  | none => .next (s.res .stutter)
  | some c =>
    if c.kind != .fill then .next (s.res .stutter)
    else if !c.allLanded then .next (s.writeStep core c 0 k)
    else .next (s.completeStep core c fun s c => s.finishCmd core c (tokenWord 0 false 0 c.bytes))

/-- The end of a CSUM (R177, R220). A failed verify names the memory of the first payload byte (assumption 103). -/
def State.csumEnd (s : State) (core : Nat) (c : StrCmd) : State :=
  match c.verdict with
  | some w => s.finishCmd core c w
  | none =>
    if c.isZero || c.ctrl == 0 then s.finishCmd core c (tokenWord 0 false 0 c.bytes)
    else
      let h := readCells c.data 0 64
      let want := headerPair h
      let found := c.readPair
      if c.poisoned then
        (s.cmdRecord core c h 4 (s.walkHop core c core c.source c.poisAddr) want (0#64, 0#64)).recordsSent core c
          (tokenWord 2 false 2 c.bytes)
      else if found != want then
        (s.cmdRecord core c h 3 (s.walkHop core c core c.source c.source.off) want found).recordsSent core c
          (tokenWord 2 false 2 c.bytes)
      else s.finishCmd core c (tokenWord 0 false 1 c.bytes)

/-- CSUM_COMPLETE (R177, R349): piece `k` of the reads, then of the header's writes, then the token. -/
def execCsumComplete (core slot k : Nat) (s : State) : Host.Outcome State Fault Refusal :=
  match (s.core core).cmdAt slot with
  | none => .next (s.res .stutter)
  | some c =>
    if c.kind != .csum then .next (s.res .stutter)
    else if !c.allRead then .next (s.readStep core c k)
    else if !c.allLanded then .next (s.writeStep core c 0 k)
    else .next (s.completeStep core c fun s c => s.csumEnd core c)

/-! ## Commands that hold (R209 to R213) -/

/-- The fault record of R210. -/
def faultRecord (core : Nat) (c : StrCmd) (f : XlatFault) : BitVec 256 :=
  entry32 [(f.addr.toNat, 0), (core, 8), (c.strand.val, 10), (f.kind, 11), (if f.write then 1 else 0, 12), (c.slot, 13),
    (f.level, 14), (f.entry.toNat, 16)]

/-- The record enters the fault queue of 64 while there is room (R210). -/
def State.reportFault (s : State) (core slot : Nat) : State :=
  match (s.core core).cmdAt slot with
  | some c =>
    match c.fault with
    | some f =>
      if f.reported || 64 ≤ ((s.cluster (clusterOf core)).rings.get 1).length then s
      else (s.pushRing (clusterOf core) 1 (faultRecord core c f)).modCmd core slot fun c =>
        { c with fault := some { f with reported := true } }
    | none => s
  | none => s

/-- A command holds with a fault. -/
def State.holdCmd (s : State) (core slot : Nat) (f : XlatFault) : State :=
  (s.modCmd core slot fun c => { c with phase := .held, fault := some f }).reportFault core slot

/-- The piece of a command, its walk and whether it is written, when it may be performed now. -/
def StrCmd.pending (c : StrCmd) (p : CopyPiece) : Option (Walk × Nat × Bool) :=
  match p with
  | .src k => if c.mayRead k then (c.srcPieces[k]?).map fun q => (c.source, q.addr, false) else none
  | .dst n k => if c.mayWrite n k then ((c.dstPieces n)[k]?).map fun q => (c.dest n, q.addr, true) else none

/-- The fault that a tag-3 or tag-4 piece meets: a fresh walk's, or the peer's refusal over a link that is up or has failed
(R206, R213, R314). -/
def State.pieceFault (s : State) (core : Nat) (c : StrCmd) (w : Walk) (addr : Nat) (write : Bool) : Option XlatFault :=
  let ptr := BitVec.ofNat 64 (w.tag * 2 ^ 60 + addr)
  if w.tag = 3 then
    match s.walkVa (s.spaceOf core c.task).context addr write with
    | .fault kind lvl e => some ⟨ptr, kind, write, lvl, e, false, false⟩
    | .page _ _ _ _ => none
  else if w.tag = 4 && 2 ≤ (s.link (Fin.ofNat 16 (addr / 2 ^ 56))).st.toNat then
    some ⟨ptr, 5, write, 0, 0#64, (s.link (Fin.ofNat 16 (addr / 2 ^ 56))).st == 3#2, false⟩
  else none

/-- TRANSLATION_FAULT (R209, R210): a piece faults and its command holds; or a held command's record enters the fault queue,
which was full. -/
def execTranslationFault (core slot : Nat) (p : CopyPiece) (s : State) : Host.Outcome State Fault Refusal :=
  match (s.core core).cmdAt slot with
  | none => .next (s.res .stutter)
  | some c =>
    if c.phase == .held then .next (s.reportFault core slot)
    else
      match c.pending p with
      | none => .next (s.res .stutter)
      | some (w, addr, write) =>
        match s.pieceFault core c w addr write with
        | none => .next (s.res .stutter)
        | some f => .next (s.holdCmd core slot f)

/-- A resolve word that is in error (R211, R269). -/
def State.resolveError (s : State) (cl : Nat) (word : Word) : State :=
  s.modCluster cl fun k => { k with events := k.events ||| 0x20#8, resolveErr := word }

/-- The supervisor writes its translation resolve register (R211). -/
def State.writeResolve (s : State) (cl : Nat) (word : Word) : State := s.modCluster cl fun k => { k with resolve := word }

/-- The held command that a resolve word names (R211). A command of a core outside the supervisor's cluster is none: its
fault was recorded at another supervisor (assumption 87). -/
def State.resolveWord (s : State) (cl : Nat) (word : Word) : Option (Nat × StrCmd) :=
  let core := (word.extractLsb' 0 12).toNat
  if word.extractLsb' 18 46 != 0#46 || clusterOf core != cl then none
  else
    match (s.core core).cmdAt (word.extractLsb' 12 5).toNat with
    | some c => if c.phase == .held then some (core, c) else none
    | none => none

/-- The command goes on, or its granule faults again with a new record (R211). -/
def State.retryCmd (s : State) (core : Nat) (c : StrCmd) : State :=
  match c.fault with
  | none => s.modCmd core c.slot fun c => { c with phase := .flight }
  | some f =>
    let tag := (f.addr.extractLsb' 60 4).toNat
    let again := if tag = 3 then
        (match s.walkVa (s.spaceOf core c.task).context (f.addr.toNat % 2 ^ 60) f.write with
          | .fault kind lvl e => some (⟨f.addr, kind, f.write, lvl, e, false, false⟩ : XlatFault)
          | .page _ _ _ _ => none)
      else if tag = 4 && (s.link (Fin.ofNat 16 (f.addr.toNat / 2 ^ 56))).st == 3#2 then
        some { f with lost := true, reported := false }
      else none
    match again with
    | some f => s.holdCmd core c.slot f
    | none => s.modCmd core c.slot fun c => { c with phase := .flight, fault := none }

/-- TRANSLATION_RETRY (R211): the supervisor of a cluster writes a resolve word with ACT = 0. -/
def execTranslationRetry (cluster : Nat) (word : BitVec 64) (s : State) : Host.Outcome State Fault Refusal :=
  if 64 ≤ cluster then .fault .noSuchAgent
  else if word.getLsbD 17 || !s.supervised cluster then .next (s.res .stutter)
  else
    let s := s.writeResolve cluster word
    match s.resolveWord cluster word with
    | none => .next (s.resolveError cluster word)
    | some (core, c) => .next (s.retryCmd core c)

end Sys2Proof.Machine
end

