-- ==== Sys2Proof/Machine/Ending.lean ====
section
/-! DEFINITION. Sys2Proof/Machine/Ending.lean: freeing and clearing a core (spec/12_scheduling.md R261, R264) and the end of a
region (spec/13_traps_preemption.md R292), with the event TRANSLATION_KILL. -/

namespace Sys2Proof.Machine

def State.mapCores (s : State) (f : Core → Core) : State := { s with cores := s.cores.map fun (e : Nat × Core) => (e.1, f e.2) }
def State.mapClusters (s : State) (f : Cluster → Cluster) : State :=
  { s with clusters := s.clusters.map fun (e : Nat × Cluster) => (e.1, f e.2) }
def State.mapTasks (s : State) (f : Task → Task) : State := { s with tasks := s.tasks.map f }

/-- A core is cleared before it is mapped to another context (R261): local SRAM, planes, semaphores, mailbox registrations,
CONFLICTS; completions that it keeps for collectives go (R242). -/
def Core.cleared (k : Core) : Core :=
  { k with
    sram := Ram.empty, planes := Vector.replicate 4 Plane.reset, sems := Vector.replicate 64 0#64,
    mailboxes := Vector.replicate 16 Mailbox.none, conflicts := 0#64, loaded := none,
    arming := k.arming.filter (·.armed) }

/-- The slot of a core becomes free (R264). -/
def Core.freed (k : Core) : Core := { k with slot := .free, regid := 0#64, lcore := 0#12 }

/-- A strand's use by one of the tasks given ends. -/
def Core.stopTasks (k : Core) (keys : List Nat) : Core :=
  { k with
    strands := k.strands.map fun t => if t.task != 0 && keys.contains t.task then t.ended else t
    mailboxes := k.mailboxes.map fun m => if m.valid && keys.contains m.owner then Mailbox.none else m
    pending := k.pending.filter fun p => !keys.contains p.owner
    sq := k.sq.filter fun c => !keys.contains c.task
    mq := k.mq.filter fun c => !keys.contains c.task }

/-- What a core loses when regions end (R292): tasks, handlers, commands, arming entries, deliveries, and its mapping. -/
def Core.endRegions (k : Core) (keys : List Nat) (regids : List Word) : Core :=
  let k := k.stopTasks keys
  let k := { k with
    arming := k.arming.filter fun a => if a.armed then !(keys.contains a.task) else !(regids.contains a.regid)
    jobs := (k.jobs.filter fun j => j.boot || !keys.contains j.key).map fun j =>
      if regids.contains j.msg.regid then { j with phase := .done, status := 3, left := [], out := [] } else j
    ingress := k.ingress.filter fun d => !regids.contains d.regid }
  if k.slot != .free && regids.contains k.regid then k.freed else k

/-- A notice of the end of a region: to the parent's fault domain, or for a root to its host (R292). -/
def State.regionNotice (s : State) (r : Region) (event cause : Nat) (arg : Word) : State :=
  let ws := noticeWords 0#64 r.regid 0 event (BitVec.ofNat 64 cause) 0#64 arg
  match s.regionAt? r.parent with
  | some p =>
    if r.parent = 0 then { s with records := s.records ++ [⟨r.regid, r.port, ws, true⟩] }
    else s.report p.regid ws
  | none => { s with records := s.records ++ [⟨r.regid, r.port, ws, true⟩] }

/-- The end of a region and its subtree (R292), with the event and cause of the notice. What its ended tasks left in the
engines goes with it. -/
def State.endRegion (s : State) (regid : Word) (event cause : Nat) (arg : Word) : State :=
  match s.region? regid with
  | none => s
  | some r =>
    let regids := (s.subtree r).map (·.regid)
    let all := s.tasks.filter fun t => regids.contains t.regid
    let keys := (all.filter fun t => t.st != .ended).map (·.key)
    let s := s.mapCores fun k => k.endRegions (all.map (·.key)) regids
    let s := s.mapClusters fun k => { k with spawn := k.spawn.filter fun h => !keys.contains h.1 }
    let s := s.mapTasks fun t =>
      if keys.contains t.key then { t with st := .ended, fired := t.fired || t.started, held := [], stash := none, cmds := [], arms := [], loading := false } else t
    let s := { s with
      gangs := s.gangs.filter fun g => !regids.contains g.regid
      packets := s.packets.filter fun p => !(s.colls.any fun c => c.key == p.coll && regids.contains c.regid)
      colls := s.colls.filter fun c => !regids.contains c.regid
      collDones := s.collDones.filter fun d => !regids.contains d.regid }
    s.regionNotice r event cause arg

/-- TRANSLATION_KILL (R211, R292): ACT = 1. The held command is discarded and its region ends. -/
def execTranslationKill (cluster : Nat) (word : BitVec 64) (s : State) : Host.Outcome State Fault Refusal :=
  if 64 ≤ cluster then .fault .noSuchAgent
  else if !word.getLsbD 17 || !s.supervised cluster then .next (s.res .stutter)
  else
    let s := s.writeResolve cluster word
    match s.resolveWord cluster word with
    | none => .next (s.resolveError cluster word)
    | some (core, c) => .next ((s.dropCmd core c.slot).endRegion (s.regidOf c.task) 3 causeRegionEnd 0#64)

end Sys2Proof.Machine
end

