-- ==== Sys2Proof/Machine/Coll.lean ====
section
/-! DEFINITION. Sys2Proof/Machine/Coll.lean: collectives (spec/11_collectives.md R232 to R246, R464, spec/15_reference_a_to_f.md
R343): the checks of a COLL, the hops of its packets, landing, and completion, with the events COLL_HOP and
COLL_COMPLETION. -/

namespace Sys2Proof.Machine

/-! ## The notation (R233, R234) -/

/-- A hop entry. -/
structure Hop where
  op : Nat
  sem : Nat
  next : Nat
  walk : Nat
  deriving DecidableEq, Repr, Inhabited

/-- Hop entry `e` of the bytes of a notation. -/
def hopAt (img : List Byte) (e : Nat) : Hop :=
  let o := 0x40 + 16 * e
  ⟨field img o 1, field img (o + 1) 1, field img (o + 4) 4, field img (o + 8) 4⟩

def Hop.isEnd (h : Hop) : Bool := h.next.testBit 31
def Hop.isLink (h : Hop) : Bool := h.next.testBit 16
def Hop.lcore (h : Hop) : BitVec 12 := BitVec.ofNat 12 h.next
def Hop.link (h : Hop) : Fin 16 := Fin.ofNat 16 h.next
def Hop.append (h : Hop) : Bool := h.walk.testBit 31
def Hop.addr (h : Hop) : Nat := h.walk % 2 ^ 22

def collId (img : List Byte) : Word := BitVec.ofNat 64 (field img 0 8)
def collLen (img : List Byte) : Nat := field img 0x10 4
def collFmt (img : List Byte) : Nat := field img 0x14 1
def collCount (img : List Byte) : Nat := field img 0x15 1
def collSat (img : List Byte) : Bool := (field img 0x16 1).testBit 0
def collChk (img : List Byte) : Bool := (field img 0x16 1).testBit 1
def collOrigin (img : List Byte) : BitVec 12 := BitVec.ofNat 12 (field img 0x18 2)
def collDev (img : List Byte) : Nat := field img 0x1A 2

/-- Element bytes of a format of R233. -/
def collElem (fmt : Nat) : Nat := if fmt = 31 then 1 else (fmtOf fmt).bytes

/-- The header of R233 breaks its table. -/
def notationHeadBad (h : List Byte) : Bool :=
  let fmt := collFmt h
  field h 0 8 == 0 || 2 ^ 63 ≤ field h 0 8 || collLen h == 0 || 0x100000 < collLen h ||
    !([0, 1, 2, 3, 13, 14, 17, 18, 31].contains fmt) || collLen h % collElem fmt != 0 || collCount h < 2 || 32 < collCount h ||
    4 ≤ field h 0x16 1 || 2 ^ 12 ≤ field h 0x18 2 || 2 ^ 12 ≤ field h 0x1A 2 || !zeros h 0x17 1 || !zeros h 0x1C 36

/-- A reserved bit or an unadmitted value of an entry (R234, R235). -/
def hopBad (img : List Byte) (e : Nat) : Bool :=
  let h := hopAt img e
  let o := 0x40 + 16 * e
  5 < h.op || !zeros img (o + 2) 2 || !zeros img (o + 12) 4 || h.next / 2 ^ 17 % 2 ^ 14 != 0 || h.next / 2 ^ 12 % 16 != 0 ||
    (h.isLink && h.next / 16 % 2 ^ 8 != 0) || h.walk / 2 ^ 22 % 2 ^ 9 != 0 || (h.append && h.op != 5) || h.walk % 64 != 0 ||
    (h.op == 0 && (h.walk != 0 || h.sem.testBit 7))

/-! ## Where entries act (R235) -/

/-- Where an entry acts: a logical core of a context of this device, a link port of it, or another device, on which the core
or port is not told apart by this device but by its number. -/
inductive ActsAt where
  | here (l : BitVec 12) (ctx : Word)
  | port (m : Fin 16)
  | there (dev : Option Nat) (l : Option (BitVec 12))
  deriving DecidableEq, Repr, Inhabited

/-- DEVNUM.NUM (R313). -/
def State.deviceNum (s : State) : Nat := s.devnum.toNat % 4096

/-- The link of this device that link `n` of device `dev` leads to, as it last trained. -/
def State.backLink (s : State) (dev : Option Nat) (n : Fin 16) : Option (Fin 16) :=
  (List.finRange 16).find? fun m =>
    (s.link m).known && dev == some (s.link m).peerDev.toNat && (s.link m).peerLink.toNat == n.val

/-- The device that a link between two others leads to, which this device is not told: a free value (assumption 17). -/
def wireDev (dev : Nat) (n : Fin 16) : Nat := (Config.freeWord (2 ^ 66 + 16 * dev + n.val)).toNat % 4096

/-- The context that a packet coming in by link `m` enters (R235, R315): `ctx` stands while none is bound. -/
def State.linkContext (s : State) (m : Fin 16) (ctx : Word) : Word :=
  if (s.link m).ctx = 0#64 then ctx else (s.link m).ctx

/-- Where the entry after `h` acts, of a packet in context `ctx` on device `dev`; its device, and its context. -/
def State.follows (s : State) (dev : Option Nat) (ctx : Word) (h : Hop) : ActsAt × Option Nat × Word :=
  let here : Bool := dev == some s.deviceNum
  if !h.isLink then ((if here then .here h.lcore ctx else .there dev (some h.lcore)), dev, ctx)
  else if here then
    let d := if (s.link h.link).known then some (s.link h.link).peerDev.toNat else none
    (.there d none, d, ctx)
  else
    match s.backLink dev h.link with
    | some m => (.port m, some s.deviceNum, s.linkContext m ctx)
    | none =>
      let d := (dev.map fun d => wireDev d h.link).filter (· != s.deviceNum)
      (.there d none, d, ctx)

def State.placesFrom (s : State) : Option Nat → Word → List Hop → List ActsAt
  | _, _, [] => []
  | dev, ctx, h :: l =>
    let n := s.follows dev ctx h
    n.1 :: s.placesFrom n.2.1 n.2.2 l

/-- Where each entry of a notation acts, for a collective of context `ctx`. -/
def State.places (s : State) (ctx : Word) (img : List Byte) : List ActsAt :=
  let dev := some (collDev img)
  let hops := (List.range (collCount img)).map (hopAt img)
  (if dev == some s.deviceNum then .here (collOrigin img) ctx else .there dev (some (collOrigin img))) ::
    s.placesFrom dev ctx hops.dropLast

/-- Where entry `e` acts. -/
def State.placeAt (s : State) (ctx : Word) (img : List Byte) (e : Nat) : Option ActsAt := (s.places ctx img)[e]?

/-- Entries other than forward that act on logical core `l` of context `ctx` of this device. -/
def State.ownEntries (s : State) (ctx : Word) (img : List Byte) (l : BitVec 12) : List Nat :=
  (List.range (collCount img)).filter fun e => (hopAt img e).op != 0 && s.placeAt ctx img e == some (.here l ctx)

/-- Two entries act on one core. -/
def sameCore : ActsAt → ActsAt → Bool
  | .here a x, .here b y => a == b && x == y
  | .there d (some a), .there e (some b) => d == e && a == b
  | _, _ => false

/-- Two neighbours of a list are one core. -/
def sameTwice : List ActsAt → Bool
  | a :: b :: l => sameCore a b || sameTwice (b :: l)
  | _ => false

/-- The conditions of R235 on all entries. -/
def State.notationBad (s : State) (ctx : Word) (img : List Byte) : Bool :=
  let n := collCount img
  let hops := (List.range n).map (hopAt img)
  (List.range n).any (hopBad img) || (hops.headD default).op != 4 ||
    (List.range n).any (fun e => (hopAt img e).isEnd != (e + 1 == n)) || (hopAt img (n - 1)).op != 5 ||
    (List.range (n - 1)).any (fun e => (hopAt img e).isLink && ((hopAt img (e + 1)).op != 0 || (hopAt img (e + 1)).isLink)) ||
    sameTwice (s.places ctx img) || (collFmt img == 31 && hops.any fun h => 1 ≤ h.op && h.op ≤ 3)

/-- The walk of an entry of this participant, from its record, fails (R235, R240). -/
def State.hopWalkBad (s : State) (core key : Nat) (img l : List Byte) (e : Nat) : Bool :=
  let w := decodeWalk l
  let land : Bool := (hopAt img e).op == 5
  (s.walkCause (s.spaceOf core key) w (walkReserved l) w.isZero false 0 land land (some core)).isSome ||
    w.size != collLen img || 17 ≤ w.esize

/-! ## The checks of COLL (R343) -/

/-- The own entries of a COLL that use a walk. -/
def State.walkEntries (s : State) (core : Nat) (c : StrCmd) (img : List Byte) : List Nat :=
  (s.ownEntries (s.spaceOf core c.task).context img (s.core core).lcore).filter fun e => !(hopAt img e).append

/-- The tasks saved, without the core section, from a core. -/
def State.sharersOf (s : State) (core : Nat) : List Task :=
  s.tasks.filter fun t => t.st == .saved && !t.slotCoreSec && t.slotCore == core

/-- A COLL of the core with the same ID still lacks its token, also one of a task saved from it. -/
def State.collBusy (s : State) (core : Nat) (c : StrCmd) (id : Word) : Bool :=
  let k := s.core core
  let started (x : StrCmd) : Bool := x.kind == .coll && x.phase != .waiting && BitVec.ofNat 64 (field x.card 0 8) == id
  (k.sq.any fun x => x.slot != c.slot && started x) || (k.arming.any fun a => a.armed && a.collid == id) ||
    (s.sharersOf core).any fun t => t.cmds.any started

/-- A link trains for the first time, and the notation names one: which entries act on this device is not yet known. -/
def State.linksSettling (s : State) (img : List Byte) : Bool :=
  (s.links.toList.any fun l => l.st == 1#2 && !l.known) && (List.range (collCount img)).any fun e => (hopAt img e).isLink

/-- The header of the notation has been read: checks 1 and 2 of R343, and the entries are to be read. -/
def StrCmd.collHeader (c : StrCmd) : Started :=
  let a := c.s1.toNat
  let h := c.record a
  if c.recPois then .fails causePoison
  else if notationHeadBad h then .fails causeNotation
  else if sramSize < a + 64 + 16 * collCount h then .fails causeSpace
  else .go { c with stage := 1, need := readPieces (a + 64) (a + 64) (16 * collCount h) }

/-- The entries have been read: check 3 of R343 but for the walks, whose records are to be read. While a link trains for the
first time the checks wait, in a piece of no bytes (assumption 17). -/
def State.collEntries (s : State) (core : Nat) (c : StrCmd) : Started :=
  let a := c.s1.toNat
  let img := readCells c.recs a (64 + 16 * collCount (c.record a))
  let own := s.walkEntries core c img
  if c.recPois then .fails causePoison
  else if s.linksSettling img then .go { c with need := [⟨0, a, 0⟩] }
  else if s.notationBad (s.spaceOf core c.task).context img || own.any (fun e => sramSize < (hopAt img e).addr + 64) then
    .fails causeNotation
  else .go { c with
    card := img, stage := 2, recs := [],
    need := (own.map fun e => (hopAt img e).addr).dedup.flatMap fun r => readPieces r r 64 }

/-- The walk records have been read: the rest of R343. -/
def State.collWalks (s : State) (core : Nat) (c : StrCmd) : Started :=
  let img := c.card
  if c.recPois then .fails causePoison
  else if (s.walkEntries core c img).any (fun e => s.hopWalkBad core c.task img (c.record (hopAt img e).addr) e) ||
      (s.ownEntries (s.spaceOf core c.task).context img (s.core core).lcore).isEmpty ||
      s.collBusy core c (collId img) then .fails causeNotation
  else .go c

/-- This core is the origin (R232). -/
def State.isOrigin (s : State) (core : Nat) (img : List Byte) : Bool :=
  collOrigin img == (s.core core).lcore && collDev img == s.deviceNum

/-! ## Packets (R237) -/

/-- Packets of a collective. -/
def packetCount (len : Nat) : Nat := (len + 4095) / 4096
/-- Payload bytes of packet `no`. -/
def packetLen (len no : Nat) : Nat := min 4096 (len - 4096 * no)

/-- A packet that stands before entry `entry` and carries nothing. -/
def emptyPacket (coll no entry : Nat) (at_ : PacketAt) (ctx : Word) : CollPacket :=
  { coll := coll, no := no, entry := entry, data := [], pois := [], stamp := (0#64, 0#64), failed := false, at_ := at_,
    ctx := ctx, work := false, left := [], buf := [], marks := [], upset := none }

/-- A new collective. -/
def newColl (key : Nat) (ctx regid : Word) (task origin : Nat) (numver : BitVec 2) (pair : Word × Word) (img : List Byte) : Coll :=
  { key := key, collid := collId img, context := ctx, regid := regid, task := task, origin := origin, numver := numver,
    pair := pair, image := img, injected := false, landed := [], sums := [], headers := [], granted := [], capacity := false,
    failed := false, poisoned := false, recorded := false }

/-- The origin's COLL starts: its first packet stands at entry 0. -/
def State.originate (s : State) (core : Nat) (c : StrCmd) : State :=
  let sp := s.spaceOf core c.task
  let img := c.card
  let v := newColl s.nextColl sp.context sp.regid c.task core c.numver (csumPair img) img
  let s := s.modCmd core c.slot fun _ => { c with phase := .flight, pos := 0 }
  { s with
    colls := s.colls ++ [v], nextColl := s.nextColl + 1
    packets := s.packets ++ [emptyPacket v.key 0 0 (.core (collOrigin img)) sp.context] }

/-- The entry from `e` on at which a packet comes back to this device, and its link. -/
def State.returnAt (s : State) (ctx : Word) (img : List Byte) (e : Nat) : Option (Nat × Fin 16) :=
  ((List.range (collCount img - e)).map (· + e)).findSome? fun i =>
    match s.placeAt ctx img i with
    | some (.port m) => some (i, m)
    | _ => none

/-- The packets of a collective whose origin is another device are on their way to link `n` (R237, R239): whether a core of this
device has armed it or not. Its entries lead to that link first, and its ID is not in use in the context bound to it. -/
def State.foreignTurn (s : State) (n : Fin 16) (img : List Byte) (pair : Word × Word) (ver : BitVec 2) : State :=
  let ctx := (s.link n).ctx
  let first : Bool := (s.returnAt ctx img 0).any fun r => r.2 == n
  if (s.link n).st != 2#2 || ctx = 0#64 || img.length != 64 + 16 * collCount img || notationHeadBad img || s.notationBad ctx img ||
      collDev img == s.deviceNum || ver = 0#2 || !first || (s.colls.any fun v => v.collid == collId img && v.context == ctx) then
    s.res .stutter
  else
    let v := newColl s.nextColl ctx ctx 0 4096 ver pair img
    { s with
      colls := s.colls ++ [v], nextColl := s.nextColl + 1
      packets := s.packets ++ (List.range (packetCount (collLen img))).map fun i => emptyPacket v.key i 0 .away ctx }

/-- An arming COLL takes an arming entry, or at once the completion that is kept for it (R232, R242); while all 16 entries are
in use it waits. -/
def State.armColl (s : State) (core : Nat) (c : StrCmd) : State :=
  let k := s.core core
  let sp := s.spaceOf core c.task
  let img := c.card
  match k.arming.find? fun a => !a.armed && a.collid == collId img && a.context == sp.context with
  | some a =>
    let s := s.modCore core fun k => { k with arming := k.arming.filter fun b => b != a }
    (s.writeToken core c.strand c.task c.tok (a.kept.getD 0#64)).dropCmd core c.slot
  | none =>
    if 16 ≤ k.arming.length then s.modCmd core c.slot fun _ => { c with phase := .arming }
    else
      let a : Arming :=
        { collid := collId img, context := sp.context, nota := c.s1, strand := c.strand, task := c.task, idx := c.idx,
          tok := c.tok, seq := c.seq, pair := csumPair img, kept := none, regid := sp.regid,
          walks := (s.walkEntries core c img).map fun e => (e, decodeWalk (c.record (hopAt img e).addr)), armed := true }
      (s.modCore core fun k => { k with arming := k.arming ++ [a] }).dropCmd core c.slot

/-- A COLL that has passed its checks becomes the origin or arms (R232). -/
def State.startColl (s : State) (core : Nat) (c : StrCmd) : State :=
  if s.isOrigin core c.card then s.originate core c else s.armColl core c

/-! ## Hops (R238) -/

/-- Comb of R238 on the bits of an element: `v` arriving, `u` local, RNE under every version (R132). -/
def combBits (fmt : Nat) (sat : Bool) (op v u : Nat) : Nat :=
  let f := fmtOf fmt
  let x := decodeVal f v
  let y := decodeVal f u
  match op with
  | 1 => codeOf f (comb f 0 .rne sat x y).1
  | 2 => codeOf f (valMax x y)
  | _ => codeOf f (valMin x y)

/-- The elements of two strings of bytes combined. -/
def combBytes (fmt : Nat) (sat : Bool) (op : Nat) (v u : List Byte) : List Byte :=
  let n := collElem fmt
  (List.range (v.length / n)).flatMap fun i => natBytes n (combBits fmt sat op (field v (n * i) n) (field u (n * i) n))

/-- Words of 8 bytes of a packet that hold a poisoned byte, as byte offsets. -/
def spreadPoison (n : Nat) (l : List Nat) : List Nat := (List.range n).filter fun i => l.any fun x => x / 8 == i / 8

/-- The pair of a packet's bytes at their payload word numbers (R244). -/
def packetPair (no : Nat) (v : List Byte) : Word × Word := pairFrom (512 * no) (csumWords v)

def Coll.bytesAt (c : Coll) (e : Nat) : Nat := lookupD 0 c.landed e
def Coll.sumsAt (c : Coll) (e : Nat) : Nat × Nat := lookupD (0, 0) c.sums e

/-- Entry `e` has treated bytes `v` of packet `no`. -/
def Coll.note (c : Coll) (e no : Nat) (v : List Byte) : Coll :=
  let r := byteSums (4096 * no) v
  let p := c.sumsAt e
  { c with
    landed := insertD c.landed e (c.bytesAt e + v.length)
    sums := insertD c.sums e ((p.1 + r.1) % csumM, (p.2 + r.2) % csumM) }

def Coll.pairAt (c : Coll) (e : Nat) : Word × Word := (BitVec.ofNat 64 (c.sumsAt e).1, BitVec.ofNat 64 (c.sumsAt e).2)

def State.coll? (s : State) (key : Nat) : Option Coll := s.colls.find? fun c => c.key == key
def State.modColl (s : State) (key : Nat) (f : Coll → Coll) : State :=
  { s with colls := s.colls.map fun c => if c.key == key then f c else c }

/-- A record of a collective (R221, R244): at most one is sent, and none without CHK. -/
def State.collRecord (s : State) (c : Coll) (e kind : Nat) (hop : Nat × Nat) (chunk gen : Nat) (want found : Word × Word) : State :=
  if !collChk c.image then s
  else if c.recorded then s.modColl c.key fun c => { c with failed := true }
  else
    (s.report c.regid (recordWords (BitVec.ofNat 64 chunk) ((collId c.image) ||| 0x8000000000000000#64) e kind hop.1 hop.2
      want.1 want.2 found.1 found.2 (BitVec.ofNat 64 gen))).modColl c.key fun c => { c with failed := true, recorded := true }

def collChunk (img : List Byte) : Nat := field img 8 8

/-- A semaphore of a core gains the amount of an entry (R241, R234). -/
def Core.hopSem (k : Core) (h : Hop) (len : Nat) : Core :=
  if !h.sem.testBit 7 then k
  else
    let n : Fin 64 := Fin.ofNat 64 h.sem
    { k with sems := k.sems.set n (semAdd (k.sems.get n) (BitVec.ofNat 64 (if h.sem.testBit 6 then 1 else len))) }

/-- The status word of a completion (R242). -/
def Coll.status (c : Coll) : Word :=
  tokenWord (if c.capacity then 1 else if c.failed then 2 else 0) c.poisoned
    (if !collChk c.image then 0 else if c.failed then 2 else 1) (if c.capacity then 0 else collLen c.image)

/-- Logical cores of this device, each with its context, that take part: the origin and every core of an entry other than
forward (R232). -/
def State.participants (s : State) (c : Coll) : List (BitVec 12 × Word) :=
  ((List.range (collCount c.image)).filterMap (fun e =>
    match s.placeAt c.context c.image e with
    | some (ActsAt.here l ctx) => if (hopAt c.image e).op != 0 then some (l, ctx) else none
    | _ => none)).dedup

/-- The collective completes: flits leave for its participants, and it is no more (R242). -/
def State.collComplete (s : State) (c : Coll) : State :=
  { s with
    collDones := s.collDones ++ (s.participants c).map fun l => ⟨c.regid, l.1, c.collid, l.2, c.status⟩
    colls := s.colls.filter fun v => v.key != c.key
    packets := s.packets.filter fun p => p.coll != c.key }

/-- The core under a logical CORE of a context. Where several regions of the context hold that number the spec does not say
which one an entry means: here the region given, then the first other (assumption 106). -/
def State.ctxTarget (s : State) (regid ctx : Word) (l : BitVec 12) : Option Target :=
  match (if s.contextOf regid == ctx then s.target regid l else none) with
  | some t => some t
  | none => (s.regions.filter fun r => s.contextOf r.regid == ctx).findSome? fun r => s.target r.regid l

/-- The arming entry of a collective at a core, for a packet in context `ctx`. -/
def Core.armed? (k : Core) (c : Coll) (ctx : Word) : Option Arming :=
  k.arming.find? fun a => a.armed && a.collid == c.collid && a.context == ctx

/-- A COLL of the core that originated a collective and is in flight. -/
def StrCmd.originates (x : StrCmd) (id : Word) : Bool :=
  x.kind == .coll && x.phase == .flight && BitVec.ofNat 64 (field x.card 0 8) == id

/-- The walk of entry `e` at a core, as the origin or the armed participant has read it (R147). -/
def Core.hopWalk (k : Core) (core : Nat) (c : Coll) (ctx : Word) (e : Nat) : Option Walk :=
  if core = c.origin then
    (k.sq.find? fun x => x.originates c.collid).map fun x => decodeWalk (x.record (hopAt c.image e).addr)
  else (k.armed? c ctx).bind fun a => (a.walks.find? fun w => w.1 == e).map (·.2)

/-- The packet goes on to the entry after `e`; `k` is its place among the packets. -/
def State.movePacket (s : State) (k : Nat) (c : Coll) (p : CollPacket) (e : Nat) : State :=
  let h := hopAt c.image e
  let at_ : PacketAt := if h.isLink then .link h.link else .core h.lcore
  let q : CollPacket := { p with entry := e + 1, at_ := at_, work := false, left := [], buf := [], marks := [], upset := none }
  { s with packets := s.packets.set k q }

/-- The origin's COLL has sent packet `no`. -/
def Core.sent (k : Core) (id : Word) (no : Nat) (more : Bool) : Core :=
  { k with sq := k.sq.map fun x => if x.originates id then { x with pos := no + 1, incSent := !more } else x }

/-- The origin has sent packet `no`: the next one stands at entry 0, or the COLL leaves its place in flight (R232). -/
def State.nextPacket (s : State) (core : Nat) (c : Coll) (no : Nat) : State :=
  let more : Bool := decide (no + 1 < packetCount (collLen c.image))
  let s := s.modCore core fun k => k.sent c.collid no more
  if more then
    { s with packets := s.packets ++ [emptyPacket c.key (no + 1) 0 (.core (collOrigin c.image)) c.context] }
  else s.modColl c.key fun c => { c with injected := true }

/-- The bit of INJECT's WORD and BYTE in a packet, as a byte offset (R225). -/
def injectAt (inj : Word) : Nat := 8 * (inj.extractLsb' 0 32).toNat + (inj.extractLsb' 41 3).toNat

/-- INJECT corrupts packet `no` of `n` bytes: the first to leave its chosen COLL, if it has the word (R225, R246). -/
def Core.injectsColl (k : Core) (c : Coll) (no n : Nat) : Bool :=
  k.inject.getLsbD 32 && k.inject.getLsbD 44 && no == 0 && decide (injectAt k.inject < n) &&
    k.sq.any fun x => x.originates c.collid && x.inject && !x.hit

/-- The corruption is made in a COLL of the core. -/
def Core.collHit (k : Core) (c : Coll) : Core :=
  { k.disarm with sq := k.sq.map fun x => if x.originates c.collid then { x with hit := true, hitWith := k.inject } else x }

/-! ### Checks on a packet (R244) -/

/-- The die of the core or port where an entry acts. -/
def State.placeDie (s : State) (c : Coll) (a : ActsAt) : Option Nat :=
  match a with
  | .here l ctx => (s.ctxTarget c.regid ctx l).map fun t => dieOf (s.targetCore t)
  | .port m => some m.val
  | .there _ _ => none

/-- The die that a packet comes from: that of the entry before, if it acted on this device. -/
def State.fromDie (s : State) (c : Coll) (p : CollPacket) : Option Nat :=
  if p.entry = 0 then none else (s.placeAt c.context c.image (p.entry - 1)).bind (s.placeDie c)

/-- A die that has failed hard on the route of a packet to a byte (R304). -/
def State.packetDead (s : State) (c : Coll) (p : CollPacket) (l : Loc) : Option Nat :=
  if s.anyFailed then (s.fromDie c p).bind fun d => (route d l.die).find? fun x => (s.die x).health == .failed else none

/-- The checks on a packet that arrives at `l` (R244): its pair against the stamp, at the die edges of its route, at a link
and at its hop, whatever the entry does. The fabric of this device changes no flit, so only INJECT makes them differ, here or, as
`inj` says, at a peer; and the first check on the route finds it. -/
def State.arrivalCheck (s : State) (c : Coll) (p : CollPacket) (l : Loc) (inj : Bool) : State × Bool :=
  if !collChk c.image || p.failed || p.entry = 0 then (s, p.failed)
  else if packetPair p.no p.data != p.stamp then
    (s.collRecord c p.entry (kindOf 1 inj) (s.firstHop ((s.fromDie c p).getD l.die) l) (collChunk c.image) 0 p.stamp
      (packetPair p.no p.data), true)
  else (s, false)

/-- A piece of a packet's work is taken out: any of those left (R182). -/
def State.takePiece (s : State) (p : CollPacket) : State × Option (ReadPiece × CollPacket) :=
  let j := (Config.freeWord s.free).toNat % p.left.length
  ({ s with free := s.free + 1 }, (p.left[j]?).map fun q => (q, { p with left := p.left.eraseIdx j }))

def State.setPacket (s : State) (k : Nat) (p : CollPacket) : State := { s with packets := s.packets.set k p }

/-- Offsets of a piece. -/
def ReadPiece.offs (q : ReadPiece) : List Nat := (List.range q.len).map (· + q.off)

/-! ### The local operand (R238, R240, R246) -/

/-- The pieces that read the operand of a packet, and with packet 0 of a checked collective the operand's header, as bytes
4,096 on. -/
def operandPieces (c : Coll) (w : Walk) (no : Nat) : List ReadPiece :=
  piecesOf 0 (w.addrsAt (4096 * no) (packetLen (collLen c.image) no)) ++
    if no = 0 && w.csumc && collChk c.image then readPieces 4096 w.hdr 64 else []

/-- The checks on the operand that an entry has read: a poisoned word, and after the last byte its header's pair (R244). -/
def State.operandCheck (s : State) (core : Nat) (c : Coll) (e : Nat) (failed pois : Bool) : State × Bool :=
  let h := (c.headers.find? fun h => h.1 == e).elim ([], false) (·.2)
  let last : Bool := c.bytesAt e == collLen c.image
  if !collChk c.image || failed then (s, failed)
  else if pois || (last && h.2) then
    (s.collRecord c e 4 (0, s.hopCore core) (collChunk c.image) 0 (0#64, 0#64) (0#64, 0#64), true)
  else if last && !h.1.isEmpty && headerPair h.1 != c.pairAt e then
    (s.collRecord c e 3 (0, s.hopCore core) (field h.1 0 8) (field h.1 0x20 8) (headerPair h.1) (c.pairAt e), true)
  else (s, false)

/-- The residue modulo 7 of a significand (R245). -/
def residue7 (n : Int) : Nat := (n % 7).toNat

/-- The significand of a value at exponent `e`; 0 for one that has none. -/
def sigAt (e : Int) (v : Val) : Int :=
  match v with
  | .fin n m x => (if n then -1 else 1) * ((m <<< (x - e).toNat : Nat) : Int)
  | _ => 0

/-- The exponent of a finite value. -/
def sigExp (v : Val) : Option Int :=
  match v with
  | .fin _ _ e => some e
  | _ => none

/-- The residue that an add, max or min element is recomputed to have: that of its significands aligned to their lower
exponent (R245, assumption 88). -/
def combResidue (fmt op v u : Nat) : Nat :=
  let f := fmtOf fmt
  let x := decodeVal f v
  let y := decodeVal f u
  let e := match sigExp x, sigExp y with
    | some a, some b => min a b
    | some a, none => a
    | none, some b => b
    | none, none => 0
  match op with
  | 1 => residue7 (sigAt e x + sigAt e y)
  | 2 => residue7 (sigAt e (valMax x y))
  | _ => residue7 (sigAt e (valMin x y))

/-- What the residue check makes of an element in which the combiner has erred (R245): the residue that it recomputes and
the combiner's. -/
def State.residueCheck (s : State) (core : Nat) (c : Coll) (p : CollPacket) (failed : Bool) (u : List Byte) : State × Bool :=
  match p.upset with
  | none => (s, failed)
  | some (i, d) =>
    let h := hopAt c.image p.entry
    let n := collElem (collFmt c.image)
    let want := combResidue (collFmt c.image) h.op (field p.data (n * i) n) (field u (n * i) n)
    if !collChk c.image || failed || d % 7 = 0 then (s, failed)
    else
      (s.collRecord c p.entry 2 (0, s.hopCore core) (collChunk c.image) 0
        (BitVec.ofNat 64 want, BitVec.ofNat 64 (4096 * p.no + n * i)) (BitVec.ofNat 64 ((want + d) % 7), 0#64), true)

/-- The bytes that an entry sends on (R238): an element in which the combiner erred has any bits. -/
def State.combined (s : State) (c : Coll) (p : CollPacket) (u : List Byte) : List Byte :=
  let h := hopAt c.image p.entry
  let n := collElem (collFmt c.image)
  if h.op = 4 then u
  else
    let v := combBytes (collFmt c.image) (collSat c.image) h.op p.data u
    match p.upset with
    | none => v
    | some (i, _) => if n * i + n ≤ v.length then patch v (n * i) (freeBytes s.free n) else v

/-- The last piece of an entry's operand has been read: the packet goes on (R238, R244, R246). -/
def State.readDone (s : State) (core k : Nat) (c : Coll) (p : CollPacket) : State :=
  let h := hopAt c.image p.entry
  let len := collLen c.image
  let n := packetLen len p.no
  let u := readCells p.buf 0 n
  let bad := p.marks.filter fun x => decide (x < n)
  let v := s.combined c p u
  let pois := spreadPoison n (bad ++ if h.op = 4 then [] else p.pois)
  let c := c.note p.entry p.no u
  let c := { c with
    poisoned := c.poisoned || !pois.isEmpty
    headers := if p.marks.any (fun x => decide (4096 ≤ x)) || p.buf.any (fun x => decide (4096 ≤ x.1)) then
        (p.entry, readCells p.buf 4096 64, p.marks.any fun x => decide (4096 ≤ x)) :: c.headers
      else c.headers }
  let s := { s.modColl c.key (fun _ => c) with free := s.free + 8 }
  let r := s.operandCheck core c p.entry p.failed (!bad.isEmpty)
  let r := r.1.residueCheck core ((r.1.coll? c.key).getD c) p r.2 u
  let s := r.1
  let s := if c.bytesAt p.entry = len then s.modCore core fun k => k.hopSem h len else s
  let kc := s.core core
  let hit := p.entry = 0 && kc.injectsColl c p.no n
  let sent := if hit then v.modify (injectAt kc.inject) (· ^^^ kc.inject.extractLsb' 33 8) else v
  let s := if hit then s.modCore core fun k => k.collHit c else s
  let q : CollPacket := { p with data := sent, pois := pois, stamp := packetPair p.no v, failed := r.2 }
  let s := s.movePacket k c q p.entry
  if p.entry = 0 then s.nextPacket core c p.no else s

/-- A piece of the operand is read: each gives old or new contents of its word (R240). -/
def State.readWork (s : State) (core k : Nat) (c : Coll) (p : CollPacket) : State :=
  match s.takePiece p with
  | (s, none) => s.readDone core k c p
  | (s, some (q, p)) =>
    let m := (s.core core).sram
    let p := { p with
      buf := writeCells p.buf q.off (m.bytes q.addr q.len)
      marks := if m.poisoned q.addr q.len then q.offs ++ p.marks else p.marks }
    if p.left.isEmpty then s.readDone core k c p else s.setPacket k p

/-! ### Landing (R241, R243) -/

/-- Rows that a chunk needs (R243). -/
def chunkRows (len : Nat) : Nat := (64 + len + 4095) / 4096

/-- The claim of rows at a landing area header `a`: the address of the first row granted, or none; and the core afterwards. The
spec does not say what a header with a poisoned word does: here it fails the claim (assumption 105). -/
def Core.claim (k : Core) (a len : Nat) : Core × Option Nat :=
  let rows := k.sram.readLE a 4
  let fill := k.sram.readLE (a + 4) 4
  let n := chunkRows len
  if sramSize < a + 64 || !zeros (k.sram.bytes (a + 8) 56) 0 56 || rows = 0 || 767 < rows || rows < fill ||
      sramSize < a + 64 + 4096 * rows || k.sram.poisoned a 64 || rows < fill + n then (k, none)
  else ({ k with sram := k.sram.write (a + 4) (natBytes 4 (fill + n)) }, some (a + 64 + 4096 * fill))

/-- The walk over the rows granted: the payload after the header of the first (R243). -/
def rowWalk (row len : Nat) : Walk := ⟨BitVec.ofNat 64 row, [len, 1, 1, 1], [1, 0, 0, 0], 1, 4#8⟩

/-- The walk that a landing uses: over the rows granted to it, or its own. -/
def Core.landWalk (k : Core) (core : Nat) (c : Coll) (p : CollPacket) : Option Walk :=
  if (hopAt c.image p.entry).append then
    (c.granted.find? fun g => g.1 == p.entry).map fun g => rowWalk g.2 (collLen c.image)
  else k.hopWalk core c p.ctx p.entry

/-- The header that a completed landing writes (R241). -/
def Core.landHeader (k : Core) (c : Coll) (w : Walk) (pair : Word × Word) : Core :=
  if !w.csumc then k
  else
    let img := c.image
    let m := k.sram
    let m := m.write w.hdr (natBytes 8 (collChunk img))
    let m := m.write (w.hdr + 8) (natBytes 4 (collLen img) ++ [BitVec.ofNat 8 (collFmt img), BitVec.ofNat 8 c.numver.toNat])
    let m := m.write (w.hdr + 0x28) (bytes8 pair.1)
    { k with sram := m.write (w.hdr + 0x30) (bytes8 pair.2) }

/-- The last piece of a packet has landed: a record of a word that stays poisoned, and after the last packet the header and the
increment (R241, R244). -/
def State.landDone (s : State) (core k : Nat) (c : Coll) (p : CollPacket) (w : Walk) : State :=
  let h := hopAt c.image p.entry
  let len := collLen c.image
  let c := { c.note p.entry p.no p.data with failed := c.failed || p.failed }
  let s := s.modColl c.key fun _ => c
  let s := if !p.marks.isEmpty && !p.failed then
      s.collRecord c p.entry 4 (0, s.hopCore core) (collChunk c.image) 0 (0#64, 0#64) (0#64, 0#64)
    else s
  let c := (s.coll? c.key).getD c
  let p := { p with failed := p.failed || (collChk c.image && !p.marks.isEmpty) }
  let all : Bool := c.bytesAt p.entry == len
  let s := if all then s.modCore core fun v => (v.landHeader c w (c.pairAt p.entry)).hopSem h len else s
  if h.isEnd then
    let s := { s with packets := s.packets.eraseIdx k }
    if all then s.collComplete c else s
  else s.movePacket k c p p.entry

/-- A refused packet is discarded at its hop (R243). -/
def State.landRefused (s : State) (k : Nat) (c : Coll) (p : CollPacket) : State :=
  let c := { c.note p.entry p.no p.data with capacity := true, failed := c.failed || p.failed }
  let s := s.modColl c.key fun _ => c
  let s := { s with packets := s.packets.eraseIdx k }
  if c.bytesAt p.entry = collLen c.image then s.collComplete c else s

/-- A write piece of a packet lands (R241, R182); a word with a poisoned byte lands poisoned. -/
def State.landWork (s : State) (core k : Nat) (c : Coll) (p : CollPacket) (w : Walk) : State :=
  match s.takePiece p with
  | (s, none) => s.landDone core k c p w
  | (s, some (q, p)) =>
    let v := (p.data.drop q.off).take q.len
    let pois := p.pois.any fun x => q.off ≤ x && x < q.off + q.len
    let l : Loc := ⟨.sram core, q.addr⟩
    let p := { p with marks := if s.landsPoisoned l q.len pois && !pois then q.offs ++ p.marks else p.marks }
    let s := s.writeLoc l v pois
    if p.left.isEmpty then s.landDone core k c p w else s.setPacket k p

/-- The first packet to arrive at an APPEND claims its rows (R243): the grant, with row 0 for a refusal. -/
def State.claimRows (s : State) (core : Nat) (c : Coll) (p : CollPacket) : State × Coll :=
  let h := hopAt c.image p.entry
  if !h.append || (c.granted.any fun g => g.1 == p.entry) then (s, c)
  else
    let r := (s.core core).claim h.addr (collLen c.image)
    let c := { c with granted := insertD c.granted p.entry (r.2.getD 0) }
    ((s.setCore core r.1).modColl c.key fun _ => c, c)

/-- The claim of this APPEND entry was refused. -/
def Coll.refused (c : Coll) (e : Nat) : Bool := c.granted.any fun g => g.1 == e && g.2 == 0

/-! ### Packets at cores, links and peers -/

/-- An entry begins to treat a packet that has come to its core. -/
def State.hopBegin (s : State) (core k : Nat) (c : Coll) (p : CollPacket) : State :=
  let l : Loc := ⟨.sram core, 0⟩
  let h := hopAt c.image p.entry
  match s.packetDead c p l with
  | some d => s.endRegion c.regid 5 causeDieFailed (BitVec.ofNat 64 d)
  | none =>
    let r := s.arrivalCheck c p l true
    let s := r.1
    let c := (s.coll? c.key).getD c
    let p := { p with failed := r.2 }
    if h.op = 0 then s.movePacket k c p p.entry
    else if h.op = 5 then
      let r := s.claimRows core c p
      if r.2.refused p.entry then r.1.landRefused k r.2 p
      else
        match (r.1.core core).landWalk core r.2 p with
        | none => r.1.res .stutter
        | some w => r.1.setPacket k
            { p with work := true, left := piecesOf 0 (w.addrsAt (4096 * p.no) (packetLen (collLen c.image) p.no)) }
    else
      match (s.core core).hopWalk core c p.ctx p.entry with
      | none => s.res .stutter
      | some w => s.setPacket k { p with work := true, left := operandPieces c w p.no }

/-- An entry that has begun goes on with a packet. -/
def State.hopWork (s : State) (core k : Nat) (c : Coll) (p : CollPacket) : State :=
  if (hopAt c.image p.entry).op = 5 then
    match (s.core core).landWalk core c p with
    | none => s.res .stutter
    | some w => s.landWork core k c p w
  else s.readWork core k c p

/-- A collective goes no further (R236). -/
def State.dropColl (s : State) (key : Nat) : State :=
  { s with colls := s.colls.filter fun c => c.key != key, packets := s.packets.filter fun p => p.coll != key }

/-- A packet at a core (R236, R239): it goes on with what has begun; at a participant whose pair differs the collective ends, and
the participant's region with it; it waits where its entry needs an armed COLL; or its entry begins. -/
def State.hopAtCore (s : State) (core k : Nat) (c : Coll) (p : CollPacket) : State :=
  let h := hopAt c.image p.entry
  if p.work then s.hopWork core k c p
  else
    match (s.core core).armed? c p.ctx with
    | some a => if a.pair != c.pair then (s.dropColl c.key).endRegion a.regid 3 causeNotation 0#64 else s.hopBegin core k c p
    | none => if h.op = 0 || h.append || core = c.origin then s.hopBegin core k c p else s.res .stutter

/-- A packet at link `n` (R464, R304): it waits, ends its region, or leaves. Only the die edges on its way to the link are
checked here: the link's ingress is the peer's (R219, R244). -/
def State.hopLink (s : State) (k : Nat) (c : Coll) (p : CollPacket) (n : Fin 16) : State :=
  let l : Loc := ⟨.peer n, 0⟩
  if (s.link n).st == 3#2 then s.endRegion c.regid 3 causeLinkFailed 0#64
  else
    match s.packetDead c p l with
    | some d => s.endRegion c.regid 5 causeDieFailed (BitVec.ofNat 64 d)
    | none =>
      if (s.link n).st != 2#2 then s.res .stutter
      else
        let r := if (s.fromDie c p).any (· != n.val) then s.arrivalCheck c p l true else (s, p.failed)
        r.1.setPacket k { p with at_ := .away, failed := r.2 }

/-- What a peer made of a packet (R237, R246, assumption 17): its bytes, its stamp, its marks, which stay unless an entry of the
peer read its operand in their place, and under CHK its FAILED bit, set where the pair already differs on the way there. -/
def State.peerPacket (s : State) (c : Coll) (p : CollPacket) (e : Nat) : CollPacket :=
  let n := packetLen (collLen c.image) p.no
  let v := freeBytes s.free n
  let fresh : Bool := ((List.range (e - p.entry)).map (· + p.entry)).any fun i => (hopAt c.image i).op == 4
  let marks := (List.range n).filter fun i => (!fresh && p.pois.contains i) || Config.freeBool (s.free + n + 1 + i / 8)
  { p with
    entry := e, data := v, pois := spreadPoison n marks
    stamp := if Config.freeBool (s.free + 2 * n + 1) then packetPair p.no v
      else (Config.freeWord (s.free + 2 * n + 2), Config.freeWord (s.free + 2 * n + 3))
    failed := collChk c.image && (p.failed || !marks.isEmpty || (!p.data.isEmpty && packetPair p.no p.data != p.stamp) ||
      Config.freeBool (s.free + n)) }

/-- A packet at the peer's side: it comes back once its link is up and has a context (R464, R315), and is checked at the link's
ingress (R219, R244); or its collective ends there (assumption 17). A peer whose check has failed has sent the collective's
record. While a link trains for the first time it is not known which device it leads to, and the packet stays. -/
def State.hopAway (s : State) (k : Nat) (c : Coll) (p : CollPacket) : State :=
  let n := packetLen (collLen c.image) p.no
  let s' := { s with free := s.free + 2 * n + 5 }
  match s.returnAt c.context c.image p.entry with
  | some (e, m) =>
    if (s.link m).st != 2#2 || (s.link m).ctx = 0#64 then s.res .stutter
    else
      let q := { s.peerPacket c p e with ctx := (s.link m).ctx }
      let s := s'.modColl c.key fun c =>
        { c with poisoned := c.poisoned || !q.pois.isEmpty, recorded := c.recorded || q.failed, failed := c.failed || q.failed }
      let r := s.arrivalCheck ((s.coll? c.key).getD c) q ⟨.peer m, 0⟩ (Config.freeBool (s.free - 1))
      r.1.movePacket k c { q with failed := r.2 } e
  | none =>
    if s.links.toList.any fun l => l.st == 1#2 && !l.known then s.res .stutter
    else
    let c := c.note 32 p.no (List.replicate n 0#8)
    let s := s.modColl c.key fun _ => c
    let s := { s with packets := s.packets.eraseIdx k }
    if c.bytesAt 32 = collLen c.image then
      { s with free := s.free + 3 }.collComplete { c with
        capacity := Config.freeBool s.free
        failed := collChk c.image && (c.failed || p.failed || Config.freeBool (s.free + 1))
        poisoned := c.poisoned || Config.freeBool (s.free + 2) }
    else s

/-- COLL_HOP (R238, R239, R464): packet `k` is treated, piece by piece, by the entry that acts on it, waits, leaves over its
link, or comes back from a peer. -/
def execCollHop (k : Nat) (s : State) : Host.Outcome State Fault Refusal :=
  match s.packets[k]? with
  | none => .next (s.res .stutter)
  | some p =>
    match s.coll? p.coll with
    | none => .next { s with packets := s.packets.eraseIdx k }
    | some c =>
      match p.at_ with
      | .link n => .next (s.hopLink k c p n)
      | .away => .next (s.hopAway k c p)
      | .core l =>
        match s.ctxTarget c.regid p.ctx l with
        | some (.live core) => .next (s.hopAtCore core k c p)
        | _ => .next (s.res .stutter)

/-- A combiner errs in element `e` of packet `k`, one that it has, by `d` in its residue (R245). -/
def State.upsetTurn (s : State) (k e d : Nat) : State :=
  match s.packets[k]? with
  | none => s.res .stutter
  | some p =>
    let op := ((s.coll? p.coll).map fun c => (hopAt c.image p.entry).op).getD 0
    let size := ((s.coll? p.coll).map fun c => collElem (collFmt c.image)).getD 0
    if p.work && 1 ≤ op && op ≤ 3 && size * (e + 1) ≤ p.data.length then (s.setPacket k { p with upset := some (e, d) }).res .issued else s.res .stutter

/-! ## Completion (R242) -/

/-- The origin's COLL, its packets sent, that waits for its token. -/
def Core.originCmd (k : Core) (d : CollDone) : Option StrCmd :=
  k.sq.find? fun x => x.originates d.collid

/-- A token of a saved strand is written in its image, and its bit of the bitmap cleared (R295): strand section `n`. -/
def State.imageToken (s : State) (key n : Nat) (tok : BitVec 5) (v : Word) : State :=
  if tok = 0#5 then s
  else
    s.modImage key fun b m =>
      let o := b + strandSection n
      let bits := m.readLE (o + 0x2A8) 8
      (m.writeAll (o + 8 * tok.toNat) (bytes8 v)).writeAll (o + 0x2A8) (natBytes 8 (bits - bits / 2 ^ tok.toNat % 2 * 2 ^ tok.toNat))

/-- Entry `i` of the stream commands of strand section `n` of an image is cleared. -/
def State.imageDrop (s : State) (key n i : Nat) : State :=
  s.modImage key fun b m => m.writeAll (b + strandSection n + 0x21000 + 1024 * i) (List.replicate 1024 0#8)

/-- ARM is cleared where the INJECT of a saved task's logical core stands: in the image of its core section, or on the core
that serves it (R225). -/
def State.disarmSaved (s : State) (t : Task) : State :=
  match s.savedAt t.regid (t.lcore.truncate 12) with
  | some h =>
    (s.modImage h.key fun b m => m.writeAll (b + 0x20) (bytes8 (BitVec.ofNat 64 (m.readLE (b + 0x20) 8) &&& ~~~0x100000000#64))).modTask
      h.key fun h => { h with chosen := false }
  | none =>
    match s.resolve t.regid (t.lcore.truncate 12) with
    | some c => s.modCore c Core.disarm
    | none => s

/-- The COLL of a saved origin takes its completion: its token is written in the image, and its entry is cleared there. One that
INJECT chose and that lacked the word leaves ARM clear (R225). -/
def State.completeSaved (s : State) (t : Task) (collid status : Word) : Option State :=
  (t.cmds.find? fun c => c.originates collid).map fun c =>
    let s := if c.inject && !c.hit then s.disarmSaved t else s
    let s := s.imageToken t.key c.strand.val c.tok status
    let s := s.imageDrop t.key c.strand.val c.slot
    s.modTask t.key fun t => { t with cmds := t.cmds.filter fun x => x != c }

/-- The token of an armed participant (R242): of the strand that runs its task, or of its image. -/
def State.armedToken (s : State) (core : Nat) (a : Arming) (v : Word) : State :=
  if (s.sharersOf core).any fun t => t.key == a.task then s.imageToken a.task a.strand.val a.tok v
  else s.writeToken core a.strand a.task a.tok v

/-- The completion flit writes the token of the origin or of an armed participant, or is kept in an arming entry. -/
def State.collDone (s : State) (core : Nat) (d : CollDone) : Option State :=
  let k := s.core core
  match k.originCmd d with
  | some c => some (s.finishCmd core c d.status)
  | none =>
    match k.arming.find? fun a => a.armed && a.collid == d.collid && a.context == d.context with
    | some a =>
      some ((s.modCore core fun k => { k with arming := k.arming.filter fun b => b != a }).armedToken core a d.status)
    | none =>
      match (s.sharersOf core).findSome? fun t => s.completeSaved t d.collid d.status with
      | some s => some s
      | none =>
        if 16 ≤ k.arming.length then none
        else
          some (s.modCore core fun v => { v with arming := v.arming ++
            [{ collid := d.collid, context := d.context, nota := 0#64, strand := 0, task := 0, idx := 0#2, tok := 0#5,
               seq := 0#64, pair := (0#64, 0#64), kept := some d.status, regid := k.regid, walks := [], armed := false }] })

/-- COLL_COMPLETION (R242): completion flit `k` arrives at a core, or joins what is held for its saved image. -/
def execCollCompletion (core k : Nat) (s : State) : Host.Outcome State Fault Refusal :=
  match s.collDones[k]? with
  | none => .next (s.res .stutter)
  | some d =>
    let s' := { s with collDones := s.collDones.eraseIdx k }
    match s.ctxTarget d.regid d.context d.lcore with
    | some (.live c) =>
      if c != core then .next (s.res .stutter)
      else
        match s'.collDone core d with
        | some t => .next t
        | none => .next (s.res .stutter)
    | some (.saved key) =>
      if ((s.task? key).any fun t => t.slotCore == core) then
        .next (s'.hold key (.completion d.collid d.context d.status))
      else .next (s.res .stutter)
    | none => .next s'

end Sys2Proof.Machine
end

