-- ==== Sys2Proof/Machine/Engine.lean ====
section
/-! DEFINITION. Sys2Proof/Machine/Engine.lean: task headers (spec/12_scheduling.md R255), the start of stream commands
(spec/07_matrix_and_stream_engines.md R161), SEND and SPAWN in the engine (spec/16_reference_g_to_s.md R400, R404, R405), with
the events STREAM_COMMAND_START, SPAWN_STORE and SPAWN_RING_ENTRY. -/

namespace Sys2Proof.Machine

/-! ## Task headers (R255) -/

def hdrTid (h : List Byte) : Word := BitVec.ofNat 64 (field h 0 8)
def hdrCode (h : List Byte) : Word := BitVec.ofNat 64 (field h 8 8)
def hdrArg (h : List Byte) : Word := BitVec.ofNat 64 (field h 0x10 8)
def hdrTextBase (h : List Byte) : Nat := field h 0x18 4
def hdrTextEnd (h : List Byte) : Nat := field h 0x1C 4
def hdrDataBase (h : List Byte) : Nat := field h 0x20 4
def hdrTaskIdx (h : List Byte) : Nat := field h 0x24 2
def hdrStrands (h : List Byte) : Nat := field h 0x26 1
def hdrNumver (h : List Byte) : Nat := field h 0x27 1
def hdrPrio (h : List Byte) : Nat := field h 0x28 1
def hdrEarly (h : List Byte) : Bool := (field h 0x29 1).testBit 0
def hdrLcore (h : List Byte) : BitVec 16 := BitVec.ofNat 16 (field h 0x2A 2)

/-- The producers named in a header. -/
def hdrProds (h : List Byte) : List Word :=
  ((List.range 8).map fun i => BitVec.ofNat 64 (field h (0x30 + 8 * i) 8)).filter (· != 0#64)

/-- Chunk IDs with their weights: an ID counts at its first appearance only (R231). -/
def hdrChunks (h : List Byte) : List (Word × Nat) :=
  (List.range 8).foldl (fun acc i =>
    let id := BitVec.ofNat 64 (field h (0x70 + 8 * i) 8)
    if id = 0#64 || acc.any (fun x => x.1 == id) then acc else acc ++ [(id, field h (0xB0 + 4 * i) 4)]) []

/-- The fields of a header break R255, but for what concerns other tasks and the code object. -/
def headerFieldsBad (h : List Byte) : Bool :=
  hdrTid h == 0#64 || field h 15 1 / 16 != 3 || hdrTextBase h % 64 != 0 || hdrDataBase h % 64 != 0 || 0x300000 < hdrTextEnd h ||
    hdrTextEnd h < hdrTextBase h || hdrStrands h == 0 || 4 < hdrStrands h || 3 < hdrNumver h || 16 ≤ hdrPrio h ||
    2 ≤ field h 0x29 1 || (hdrLcore h != 0xFFFF#16 && 0x1000#16 ≤ hdrLcore h) || !zeros h 0x2C 4 || !zeros h 0xD0 48

/-- A task of the context that has not ended carries the TASKID. -/
def State.tidLive (s : State) (ctx tid : Word) : Bool :=
  s.tasks.any fun t => t.tid == tid && t.st != .ended && s.contextOf t.regid == ctx

/-- The base priority of a task (R255): the header's, or under INHERIT the region's. -/
def State.basePrio (s : State) (regid : Word) (h : List Byte) : Nat :=
  if hdrPrio h / 8 % 2 = 1 then ((s.region? regid).map fun r => (s.inherit 0 r).prio).getD 0 else hdrPrio h % 8

/-- A task that enters by LAUNCH (source 0) or SPAWN (1), from its header at physical address `pa`. -/
def State.newTask (s : State) (regid gang : Word) (h : List Byte) (pa cluster source : Nat) : Task :=
  let p := s.basePrio regid h
  { key := s.nextTask, tid := hdrTid h, regid := regid, gang := gang, hdr := pa, st := .dependent, core := 0,
    lcore := hdrLcore h, strands := 0#4, nstrands := hdrStrands h, textBase := hdrTextBase h, textEnd := hdrTextEnd h,
    dataBase := hdrDataBase h,
    code := hdrCode h, prods := hdrProds h, early := hdrEarly h, base := p, e := p, waited := 0, since := 0, ran := 0,
    boundDue := false, forTask := 0, started := false, fired := false, yielding := false, cluster := cluster, source := source,
    slotCore := 0, slotCoreSec := false, why := 0, counts := [], cwin := (0, 0), dwin := (0, 0), nv := 0, slip := 256,
    held := [], savedMask := 0#4, hands := 0#4, owners := [],
    cmds := [], arms := [], chosen := false, stash := none, loading := false }

def State.addTask (s : State) (t : Task) : State := { s with tasks := s.tasks ++ [t], nextTask := s.nextTask + 1 }

/-! ## Headers of code objects (R91) -/

/-- A section: offset and bytes. -/
structure Section' where
  off : Nat
  size : Nat
  deriving DecidableEq, Repr, Inhabited

/-- The sections that a header names (R91): text, data, walk table, relocations, task table, mailbox table, portable section. -/
def objSections (h : List Byte) : List Section' :=
  [⟨field h 0x08 4, field h 0x0C 4⟩, ⟨field h 0x10 4, field h 0x14 4⟩, ⟨field h 0x18 4, 64 * field h 0x1C 4⟩,
   ⟨field h 0x20 4, 16 * field h 0x24 4⟩, ⟨field h 0x28 4, 16 * field h 0x2C 4⟩, ⟨field h 0x30 4, 16 * field h 0x34 4⟩,
   ⟨field h 0x38 4, field h 0x3C 4⟩]

def sectionAt (h : List Byte) (n : Nat) : Section' := (objSections h).getD n default

/-- The place of a section breaks R91. -/
def Section'.bad (s : Section') : Bool := if s.size = 0 then s.off != 0 else s.off < 64 || s.off % 64 != 0

def Section'.overlap (a b : Section') : Bool := a.size != 0 && b.size != 0 && a.off < b.off + b.size && b.off < a.off + a.size

/-- Two of the list overlap. -/
def overlapAny : List Section' → Bool
  | [] => false
  | a :: l => l.any a.overlap || overlapAny l

/-- The header of R91 is refused (R96). -/
def objHeadBad (h : List Byte) : Bool :=
  field h 0 4 != 0x4E415652 || field h 4 2 != 1 || field h 6 2 != 3 || field h 0xC 4 % 4 != 0 || field h 0x2C 4 == 0 ||
    (objSections h).any Section'.bad || overlapAny (objSections h)

/-- TEXTBASE + TEXTSIZE passes TEXTEND (R255), `o` being the header of the object that CODE names. Of an object that cannot be
read, or whose header R96 refuses, TEXTSIZE is not known; the loader refuses it (assumption 34). -/
def textPasses (h o : List Byte) : Bool := !objHeadBad o && hdrTextEnd h < hdrTextBase h + (sectionAt o 0).size

/-! ## SEND and SPAWN (R400, R404) -/

/-- The message bytes of a SEND have been read (R400): the message leaves for its core. -/
def State.startSend (s : State) (core : Nat) (c : StrCmd) : State :=
  let n := (c.word.extractLsb' 3 6).toNat + 1
  let regid := s.regidOf c.task
  if c.recPois then s.failCmd core c causePoison
  else
    match s.target regid (c.s2.truncate 12) with
    | none => s.failCmd core c causeSpace
    | some t =>
      let l := readCells c.recs c.s1.toNat n
      let regs := (List.range 8).map fun i => BitVec.ofNat 64 (field l (8 * i) 8)
      let d : Delivery :=
        { mailbox := (c.s2.extractLsb' 12 4).toFin, regid := regid, regs := regs ++ [0#64], src := (core, c.strand.val),
          token := some ⟨core, c.slot, c.seq⟩, len := n, bound := none }
      (s.modCmd core c.slot fun _ => { c with phase := .flight }).sendTo t d

/-- The checks of SPAWN (R404) on the header alone. -/
def State.spawnBad (s : State) (core : Nat) (t : Task) (h : List Byte) : Bool :=
  headerFieldsBad h || s.tidLive (s.contextOf t.regid) (hdrTid h) ||
    (hdrLcore h != 0xFFFF#16 &&
      !((s.resolve t.regid ((hdrLcore h).truncate 12)).any fun c => clusterOf c == clusterOf core)) ||
    (!hdrEarly h && (hdrProds h).contains (hdrTid h))

/-- The header of a SPAWN has been read, and is checked (R404); the header of its object is read next, through the translation
unit of the core (R207), for the last point of R255. -/
def StrCmd.spawnHeader (c : StrCmd) : Started :=
  let h := readCells c.recs c.s1.toNat 256
  if c.recPois then .fails causePoison
  else if headerFieldsBad h then .fails causeCard
  else
    let off := (hdrCode h).toNat % 2 ^ 60
    .go { c with stage := 1, card := h, need := if off + 64 ≤ 2 ^ 52 then readPieces 0 off 64 else [] }

/-- What a SPAWN has read is complete, and its checks end. -/
def State.startSpawn (s : State) (core : Nat) (c : StrCmd) : State :=
  match s.task? c.task with
  | none => s.dropCmd core c.slot
  | some t =>
    if s.spawnBad core t c.card || (!c.recPois && textPasses c.card (readCells c.data 0 64)) then s.failCmd core c causeCard
    else s.modCmd core c.slot fun _ => { c with phase := .flight, data := [], recPois := false }

/-- Where entry `k` of a cluster's spawn area lies in HBM is its firmware's choice (assumption 14). -/
def spawnAt (cluster k : Nat) : Nat := (Config.freeWord (2 ^ 64 + cluster)).toNat % 2 ^ 38 / 2 ^ 16 * 2 ^ 16 + 256 * k

/-- The first entry of a cluster's spawn area that holds the header of no task that has not ended: ring 0 names a task by its
header each time it enters it (R266), so the entry is the task's until it ends (assumption 14). -/
def State.spawnEntry (s : State) (cluster : Nat) : Option Nat :=
  ((List.range 256).map (spawnAt cluster)).find? fun pa => s.tasks.all fun t => t.st == .ended || t.hdr != pa

/-- SPAWN_STORE (R404): the header enters the spawn area while it has room, and the token is written. -/
def execSpawnStore (core slot : Nat) (s : State) : Host.Outcome State Fault Refusal :=
  match (s.core core).cmdAt slot with
  | none => .next (s.res .stutter)
  | some c =>
    let cl := clusterOf core
    match c.kind == .spawn && c.phase == .flight, s.spawnEntry cl with
    | true, some pa =>
      let key := s.nextTask
      let t := s.newTask (s.regidOf c.task) 0#64 c.card pa cl 1
      let s := s.addTask t
      let s := { s with hbm := s.hbm.write pa c.card }
      let s := s.modCluster cl fun k => { k with spawn := k.spawn ++ [(key, c.card)] }
      .next (s.finishCmd core c (tokenWord 0 false 0 256))
    | _, _ => .next (s.res .stutter)

/-- Every producer of a task has fired (R277, R278). -/
def State.prodsFired (s : State) (t : Task) : Bool :=
  t.prods.all fun p => s.tasks.any fun x => x.tid == p && x.fired && s.contextOf x.regid == s.contextOf t.regid

/-- The ring 0 entry of a task (R266). -/
def ring0Entry (t : Task) : BitVec 256 := entry32 [(t.hdr, 0), (t.regid.toNat, 8), (t.gang.toNat, 16), (t.source, 24)]

/-- A task enters ring 0 of its cluster and waits (R273, R278). -/
def State.enterRing0 (s : State) (t : Task) : State :=
  (s.pushRing t.cluster 0 (ring0Entry t)).modTask t.key fun t => { t with st := .waiting, since := (s.cluster t.cluster).boundary }

/-- SPAWN_RING_ENTRY (R405, R278): a task with EARLY = 1, or whose producers have all fired, enters ring 0. -/
def execSpawnRingEntry (task : Nat) (s : State) : Host.Outcome State Fault Refusal :=
  match s.task? task with
  | none => .next (s.res .stutter)
  | some t =>
    if t.st == .dependent && (t.early || s.prodsFired t) then .next (s.enterRing0 t) else .next (s.res .stutter)

/-! ## The start of stream commands (R161) -/

/-- A command that holds one of the 8 places in flight. -/
def StrCmd.inFlight (c : StrCmd) : Bool :=
  (c.phase == .reading || c.phase == .flight || c.phase == .held) && !(c.kind == .coll && c.incSent)

/-- The oldest command of a strand that has not started. -/
def Core.oldest (k : Core) (n : Fin 4) : Option StrCmd :=
  k.sq.find? fun c => c.strand == n && (c.phase == .waiting || c.phase == .arming)

/-- That command may start: its issue as a release is done, with the older stores drained and the older loads performed (R190,
R368), at most one DCMP is in flight, and an arming COLL finds an entry (R232). -/
def Core.startable (k : Core) (c : StrCmd) : Bool :=
  let t := k.strand c.strand
  t.drained c.mark && t.visible c.rd && !(t.stopped && t.task == c.task) &&
    !(c.kind == .dcmp && k.sq.any fun x => x.kind == .dcmp && x.inFlight) && !(c.phase == .arming && 16 ≤ k.arming.length)

/-- The command that the engine takes next: the strands in turn after the one served last. -/
def Core.nextStart (k : Core) : Option StrCmd :=
  if (k.sq.any fun c => c.phase == .held) || 8 ≤ (k.sq.filter StrCmd.inFlight).length then none
  else
    [1, 2, 3, 4].findSome? fun i =>
      match k.oldest (fin4 (k.served.val + i)) with
      | some c => if k.startable c then some c else none
      | none => none

/-- Bytes of the card, notation header, message or task header that a command reads first. -/
def StrCmd.cardLen (c : StrCmd) : Nat :=
  match c.kind with
  | .copy => 128
  | .send => (c.word.extractLsb' 3 6).toNat + 1
  | .spawn => 256
  | _ => 64

/-- A command starts: the engine begins to read what S1 names, piece by piece (R162, R182); a COLL that waited for an arming
entry takes it. -/
def State.startCmd (s : State) (core : Nat) (c : StrCmd) : State :=
  let s := s.modCore core fun k => { k with served := c.strand }
  if c.phase == .arming then s.armColl core c
  else s.modCmd core c.slot fun c =>
    { c with phase := .reading, stage := 0, recs := [], recPois := false, need := readPieces c.s1.toNat c.s1.toNat c.cardLen }

/-- STREAM_COMMAND_START (R161). -/
def execStreamCommandStart (core : Nat) (s : State) : Host.Outcome State Fault Refusal :=
  match (s.core core).nextStart with
  | none => .next (s.res .stutter)
  | some c => .next (s.startCmd core c)

/-! ## The records that a command reads (R147, R162) -/

/-- A card has been read: its own check, and the walk records that it names are to be read. -/
def StrCmd.cardRead (c : StrCmd) : Started :=
  let c := { c with card := readCells c.recs c.s1.toNat c.cardLen }
  if c.recPois then .fails causePoison
  else if c.cardBad then .fails causeCard
  else .go { c with stage := 1, recs := [], need := c.walkAddrs.dedup.flatMap fun a => readPieces a a 64 }

/-- What a command has read so far is complete: it fails, reads on (pieces are left), or starts. -/
def State.stageDone (s : State) (core : Nat) (c : StrCmd) : Started :=
  match c.kind with
  | .send => .go c
  | .spawn => if c.stage = 0 then c.spawnHeader else .go c
  | .coll => if c.stage = 0 then c.collHeader else if c.stage = 1 then s.collEntries core c else s.collWalks core c
  | _ => if c.stage = 0 then c.cardRead else s.walksStart core c

/-- A command whose records are read and pass their checks takes its effect. -/
def State.recordsDone (s : State) (core : Nat) (c : StrCmd) : State :=
  match c.kind with
  | .send => s.startSend core c
  | .spawn => s.startSpawn core c
  | .coll => s.startColl core c
  | _ => (s.modCmd core c.slot fun _ => { c with phase := .flight }).tryFollow core c.slot

/-- The stages that follow the last piece read: one without pieces of its own passes at once (`fuel` stages at most). -/
def State.recordStages (s : State) (core : Nat) : Nat → StrCmd → State
  | 0, c => s.recordsDone core c
  | fuel + 1, c =>
    let last : Bool := match c.kind with
      | .send => true
      | .coll => c.stage == 2
      | _ => c.stage == 1
    match s.stageDone core c with
    | .fails x => s.failCmd core c x
    | .go c =>
      if last then s.recordsDone core c
      else if c.need.isEmpty then s.recordStages core fuel c
      else s.modCmd core c.slot fun _ => c

/-- A SPAWN reads piece `p` of its object's header, `c` being without it: one that cannot be read leaves TEXTSIZE unknown. -/
def State.objectTurn (s : State) (core : Nat) (c : StrCmd) (p : ReadPiece) : State :=
  match s.reach (s.spaceOf core c.task) core 3 p.addr false with
  | (s, .loc l) =>
    let x := s.readLoc l p.len
    let c := { c with data := writeCells c.data p.off x.2.1, recPois := c.recPois || x.2.2 }
    if c.need.isEmpty then x.1.startSpawn core c else x.1.modCmd core c.slot fun _ => c
  | (s, _) => s.startSpawn core { c with need := [], recPois := true }

/-- Piece `k` of the records that the command in a slot reads is performed: old or new contents of its word (R147, R182). -/
def State.recordTurn (s : State) (core slot k : Nat) : State :=
  match (s.core core).cmdAt slot with
  | none => s.res .stutter
  | some c =>
    match c.phase == .reading, c.need[k]? with
    | true, some p =>
      if c.kind == .spawn && c.stage != 0 then s.objectTurn core { c with need := c.need.eraseIdx k } p
      else
      let m := (s.core core).sram
      let c := { c with
        need := c.need.eraseIdx k, recs := writeCells c.recs p.off (m.bytes p.addr p.len)
        recPois := c.recPois || m.poisoned p.addr p.len }
      if c.need.isEmpty then s.recordStages core 3 c else s.modCmd core slot fun _ => c
    | _, _ => s.res .stutter

end Sys2Proof.Machine
end

