-- ==== Sys2Proof/Machine/Loader.lean ====
section
/-! DEFINITION. Sys2Proof/Machine/Loader.lean: code objects (spec/03_instruction_encoding.md R91 to R96), the overlay loader
(spec/14_host_links_boot_power.md R320 to R323) and the start of a task (spec/02_execution_model.md R27), with the event
LOADER_MESSAGE. -/

namespace Sys2Proof.Machine

/-! ## Code objects -/

/-- The extent of an object (R96). -/
def objExtent (h : List Byte) : Nat := (objSections h).foldl (fun n s => if s.size = 0 then n else max n (s.off + s.size)) 64

/-- The bytes of a section. -/
def objPart (o : List Byte) (n : Nat) : List Byte := (o.drop (sectionAt o n).off).take (sectionAt o n).size

/-- An entry of 16 bytes of a table section. -/
def objEntry (o : List Byte) (sec i : Nat) : List Byte := ((objPart o sec).drop (16 * i)).take 16
def objCount (o : List Byte) (sec : Nat) : Nat := (sectionAt o sec).size / 16

/-- A task table entry breaks R92. MBFIRST has no range of its own: here MBFIRST + MBCOUNT must not pass the binding table,
also where MBCOUNT is 0 (assumption 83). -/
def taskEntryBad (o e : List Byte) : Bool :=
  field e 0 4 % 4 != 0 || (sectionAt o 0).size ≤ field e 0 4 || field e 4 1 == 0 || 4 < field e 4 1 || 3 < field e 5 1 ||
    field e 6 2 < 16 || 1024 < field e 6 2 || 15 < field e 10 2 || objCount o 5 < field e 8 2 + field e 10 2 || !zeros e 12 4

/-- A mailbox entry breaks R93. -/
def boxEntryBad (o e : List Byte) : Bool :=
  field e 0 1 == 0 || 15 < field e 0 1 || !zeros e 1 3 || field e 4 4 % 4 != 0 || (sectionAt o 0).size ≤ field e 4 4 ||
    field e 12 4 == 0 || (sectionAt o 1).size < field e 8 4 + field e 12 4

/-- The immediate field of an extendable target, low bit and width (R66), with the tag of its word and its E. -/
def immField : Instr → Option ((Nat × Nat) × Tag × BitVec 1)
  | .addi _ _ _ g e => some ((3, 12), g, e)
  | .andi _ _ _ g e => some ((3, 12), g, e)
  | .ori _ _ _ g e => some ((3, 12), g, e)
  | .xori _ _ _ g e => some ((3, 12), g, e)
  | .lui _ _ g e => some ((3, 17), g, e)
  | .vmovi _ _ e => some ((3, 17), .exe, e)
  | .ld _ _ _ _ e => some ((6, 9), .acc, e)
  | .ldAcq _ _ _ _ e => some ((6, 9), .acc, e)
  | .st _ _ _ _ e => some ((6, 9), .acc, e)
  | .stRel _ _ _ _ e => some ((6, 9), .acc, e)
  | _ => none

/-- The immediate field of the target that a KIND 2 relocation fills, if its words are a LIMM and its target: a word that the
LIMM's counter owns and that carries E = 1 (R65). -/
def limmPair (l : List Byte) : Option (Nat × Nat) :=
  match decode (l.take 4), decode ((l.drop 4).take 4) with
  | .ok (.limm _ g, _), .ok (i, _) =>
    match immField i with
    | some (f, t, e) => if (t == g || t == .both) && e == 1#1 then some f else none
    | none => none
  | _, _ => none

/-- A word of a major in format I (R73, R77); under G = 11 a word has no opcode space (R60). -/
def isFormatI (l : List Byte) : Bool :=
  let w := field l 0 4
  let major := w / 2 ^ 25 % 64
  if w / 2 ^ 31 = 0 then w / 2 % 4 != 3 && ((2 ≤ major && major ≤ 11) || major == 14 || major == 15)
  else major == 0x22 && w / 2 % 4 == 1

/-- Where sections are loaded: text, data, walk table (R94). -/
structure Bases where
  text : Nat
  data : Nat
  walks : Nat
  deriving DecidableEq, Repr, Inhabited

def roundUp64 (n : Nat) : Nat := (n + 63) / 64 * 64

def Bases.at (b : Bases) (n : Nat) : Nat :=
  match n with
  | 0 => b.text
  | 1 => b.data
  | _ => b.walks

/-- The value of a relocation (R94). -/
def relocValue (b : Bases) (e : List Byte) : Int := b.at (field e 6 1) + intOf true 64 (field e 8 8)

/-- A field of a section overwritten: bits [lo, lo + w) of the word at `o`. -/
def setBits (l : List Byte) (o lo w v : Nat) : List Byte :=
  let x := field l o 4
  patch l o (natBytes 4 (x - x / 2 ^ lo % 2 ^ w * 2 ^ lo + v % 2 ^ w * 2 ^ lo))

/-- One relocation applied to the bytes of its section; none when it is refused (R94, R96). -/
def relocate (b : Bases) (e l : List Byte) : Option (List Byte) :=
  let o := field e 0 4
  let v := relocValue b e
  let fits (n : Nat) : Bool := o + n ≤ l.length
  match field e 5 1 with
  | 1 => if fits 8 then some (patch l o (natBytes 8 (v % 2 ^ 64).toNat)) else none
  | 2 =>
    match limmPair (l.drop o) with
    | some (lo, w) =>
      if fits 8 && -(2 ^ (21 + w) : Int) ≤ v && v < 2 ^ (21 + w) then
        let x := (v % 2 ^ (22 + w)).toNat
        some (setBits (setBits l o 3 22 (x / 2 ^ w)) (o + 4) lo w (x % 2 ^ w))
      else none
    | none => none
  | 3 => if fits 4 && -(2 ^ 31 : Int) ≤ v && v < 2 ^ 32 then some (patch l o (natBytes 4 (v % 2 ^ 32).toNat)) else none
  | 4 =>
    if fits 4 && isFormatI (l.drop o) && -(2048 : Int) ≤ v && v < 2048 then some (setBits l o 3 12 (v % 4096).toNat) else none
  | 5 => some l
  | _ => none

/-- The fields of a relocation entry break R94 or R96. -/
def relocBad (o e : List Byte) : Bool :=
  let k := field e 5 1
  let wh := field e 4 1
  let dat := objPart o 1
  k == 0 || 5 < k || 2 < wh || 2 < field e 6 1 || !zeros e 7 1 || ((k == 2 || k == 4) && (wh != 0 || field e 0 4 % 4 != 0)) ||
    (k == 5 && (wh != 1 || field e 6 1 != 0 || field e 8 8 != 0 || dat.length < field e 0 4 + 64 ||
      dat.length < field e 0 4 + 64 + field dat (field e 0 4 + 8) 4))

/-- The pair of a chunk header of the data recomputed (R94, KIND 5). -/
def fillPair (l : List Byte) (o : Nat) : List Byte :=
  let p := csumPair ((l.drop (o + 64)).take (field l (o + 8) 4))
  patch l (o + 0x28) (bytes8 p.1 ++ bytes8 p.2)

/-- The sections as loaded. -/
structure Loaded where
  text : List Byte
  data : List Byte
  walks : List Byte
  deriving DecidableEq, Repr, Inhabited

def Loaded.part (s : Loaded) (n : Nat) : List Byte :=
  match n with
  | 0 => s.text
  | 1 => s.data
  | _ => s.walks

def Loaded.setPart (s : Loaded) (n : Nat) (l : List Byte) : Loaded :=
  match n with
  | 0 => { s with text := l }
  | 1 => { s with data := l }
  | _ => { s with walks := l }

/-- The relocations of an object applied, those of KIND 5 last; none when the object is refused (R94, R96). -/
def objLoaded (o : List Byte) (b : Bases) : Option Loaded :=
  let es := (List.range (objCount o 3)).map (objEntry o 3)
  let start : Loaded := ⟨objPart o 0, objPart o 1, objPart o 2⟩
  let r := es.foldl (fun acc e =>
    match acc with
    | none => none
    | some s => (relocate b e (s.part (field e 4 1))).map fun l => s.setPart (field e 4 1) l) (some start)
  r.map fun s => { s with data := es.foldl (fun l e => if field e 5 1 = 5 then fillPair l (field e 0 4) else l) s.data }

/-- R96 for an object that has been read whole. -/
def objBad (o : List Byte) : Bool :=
  objHeadBad o || ((List.range (objCount o 4)).any fun i => taskEntryBad o (objEntry o 4 i)) ||
    ((List.range (objCount o 5)).any fun i => boxEntryBad o (objEntry o 5 i)) ||
    ((List.range (objCount o 3)).any fun i => relocBad o (objEntry o 3 i))

/-- Bytes of the field of a relocation. -/
def relocLen (e : List Byte) : Nat := if field e 5 1 ≤ 2 then 8 else 4

/-- The relocations of a text that is in place: each field takes its loaded address again (R94, R322 step 5). -/
def Ram.relocText (m : Ram) (o : List Byte) (b : Bases) : Ram :=
  let es := ((List.range (objCount o 3)).map (objEntry o 3)).filter fun e => field e 4 1 == 0
  es.foldl (fun m e =>
    let l := m.bytes b.text (sectionAt o 0).size
    match relocate b e l with
    | some l => m.writeAll (b.text + field e 0 4) ((l.drop (field e 0 4)).take (relocLen e))
    | none => m) m

/-! ## The loader message (R321) -/

def ptrTag (p : Word) : Nat := (p.extractLsb' 60 4).toNat
def ptrOff (p : Word) : Nat := p.toNat % 2 ^ 60

/-- The message of a1 to a8 (R321). Bits 63:24 of a3 and 63:32 of a8 have no meaning in the spec, and are not looked at; a
NUMVER of 4 to 15 has no stated outcome, and names a version that `startVersion` leaves open (assumption 82). -/
def loadMsg (r : List Word) : LoadMsg :=
  let a (n : Nat) : Word := r.getD (n - 1) 0#64
  ⟨a 1, a 2, (a 3).toNat % 2 ^ 16, (a 3).extractLsb' 16 4, (a 3).toNat / 2 ^ 20 % 16, (a 4).toNat % 2 ^ 32, (a 4).toNat / 2 ^ 32,
   a 5, a 6, a 7, (a 8).toNat % 2 ^ 32⟩

/-- The bases of an object under a message (R94). -/
def LoadMsg.bases (m : LoadMsg) (o : List Byte) : Bases := ⟨m.textBase, m.dataBase, roundUp64 (m.dataBase + (sectionAt o 1).size)⟩

/-- The mailbox bindings of a task entry. -/
def taskBoxes (o e : List Byte) : List (List Byte) := (List.range (field e 10 2)).map fun i => objEntry o 5 (field e 8 2 + i)

/-- Two ranges share a byte. -/
def rangesMeet (a b : Nat × Nat) : Bool := max a.1 b.1 < min a.2 b.2

/-- A mailbox is bound on a core by another task that runs there. -/
def State.boxTaken (s : State) (core key m : Nat) : Bool :=
  let b := (s.core core).mailboxes.get (Fin.ofNat 16 m)
  b.valid && b.owner != key && (s.task? b.owner).any Task.live

/-- Status 2 of R322: the request does not fit the object or the core. -/
def State.misfit (s : State) (core key : Nat) (m : LoadMsg) (o : List Byte) : Bool :=
  if objCount o 4 ≤ m.taskIdx then true
  else
    let e := objEntry o 4 m.taskIdx
    let b := m.bases o
    let t := (b.text, b.text + (sectionAt o 0).size)
    let d := (b.data, b.data + (sectionAt o 1).size)
    let w := (b.walks, b.walks + (sectionAt o 2).size)
    let k := s.core core
    (maskStrands m.mask).length != field e 4 1 || rangesMeet t d || rangesMeet t w || rangesMeet d w || m.textEnd < t.2 ||
      sramSize < max t.2 (max d.2 w.2) || sramSize < m.textEnd || m.textBase % 64 != 0 || m.dataBase % 64 != 0 ||
      ([t, d, w].any fun r => (s.textRanges core).any (rangesMeet r)) ||
      ((maskStrands m.mask).any fun n => (k.strand n).task != 0 && (k.strand n).task != key) ||
      ((taskBoxes o e).any fun x => s.boxTaken core key (field x 0 1))

/-- The text is in place: the core last loaded the same context, code pointer and TEXTBASE (R322). -/
def State.textInPlace (s : State) (core : Nat) (ctx code : Word) (base : Nat) : Bool :=
  (s.core core).loaded == some (ctx, code, base)

/-- A mailbox binding of a table entry (R93). -/
def boxOf (b : Bases) (key : Nat) (e : List Byte) : Mailbox :=
  ⟨true, BitVec.ofNat 32 (b.data + field e 8 4), BitVec.ofNat 32 (field e 12 4), BitVec.ofNat 32 (b.text + field e 4 4), key, true⟩

/-- The version of a task (R121): the message's, the entry's, or the region's default. A message that names none of the three
versions gives one that is left open (assumption 82). -/
def State.startVersion (s : State) (m : LoadMsg) (e : List Byte) : Nat :=
  if 3 < m.numver then 1 + (Config.freeWord (2 ^ 65 + m.numver)).toNat % 3
  else if m.numver != 0 then m.numver
  else if field e 5 1 != 0 then field e 5 1
  else ((s.region? m.regid).map fun r => (s.inherit 1 r).numver).getD 3

/-- The pool windows that a region has for a core (R200). -/
def Region.windows (r : Region) (core : Nat) : (Nat × Nat) × (Nat × Nat) :=
  (((r.cwin.find? fun w => w.1 == clusterOf core).map (·.2)).getD (0, 0),
   ((r.dwin.find? fun w => w.1 == dieOf core).map (·.2)).getD (0, 0))

/-- The strands of a started task (R27, R30): the `i`-th of them takes index `i`. -/
def Core.startStrands (k : Core) (t : Task) (arg : Word) (entry : BitVec 22) (ns : List (Fin 4)) : Core :=
  (ns.zipIdx).foldl (fun k p =>
    let v := (k.strand p.1).start t false (strandWord (ns.length - 1) p.1.val p.2) entry
    k.setStrand p.1 (v.setA 1#5 arg)) k

/-- The core belongs to the region of the message (R322 step 3). -/
def State.loadKnown (s : State) (core : Nat) (regid : Word) : Bool :=
  (s.region? regid).isSome && (s.core core).slot != .free && (s.core core).regid == regid

/-! ## The loader at work (R320, R322), piece by piece (R182) -/

/-- What the loader reaches for a message on a core: the spaces of its region through the translation unit of the core (R207). -/
def State.loadSpace (s : State) (core : Nat) (regid : Word) : Space :=
  let win := ((s.region? regid).map fun r => r.windows core).getD ((0, 0), (0, 0))
  ⟨core, s.contextOf regid, core, regid, win.1, win.2⟩

/-- The pieces of bytes [o, o + n) of the object at a pointer; none where its tag is not 3 or 5 or it passes its limits. -/
def State.objectPieces (s : State) (sp : Space) (p : Word) (o n : Nat) : Option (List ReadPiece) :=
  let lim := match s.limits sp (ptrTag p) (ptrOff p) false with
    | some (lo, hi) => lo ≤ ptrOff p && ptrOff p + o + n ≤ hi
    | none => false
  if (ptrTag p == 3 || ptrTag p == 5) && lim then some (readPieces o (ptrOff p + o) n) else none

/-- The loader stops with a status, and nothing has changed. -/
def LoadJob.fail (j : LoadJob) (n : Nat) : LoadJob := { j with phase := .done, status := n, left := [], out := [] }

/-- The object as read. -/
def LoadJob.object (j : LoadJob) : List Byte := readCells j.data 0 (objExtent (readCells j.data 0 64))

/-- Steps 3 and 1 of R322 begin: the header of the object is to be read. -/
def State.jobBegin (s : State) (core : Nat) (j : LoadJob) : LoadJob :=
  if !s.loadKnown core j.msg.regid then j.fail 3
  else
    match s.objectPieces (s.loadSpace core j.msg.regid) j.msg.code 0 64 with
    | some l => { j with phase := .head, left := l }
    | none => j.fail 1

/-- The header has been read: TEXTBASE + TEXTSIZE of a task header that starts must not pass its TEXTEND (R255), and the rest up
to the extent is to be read. -/
def State.jobHead (s : State) (core : Nat) (j : LoadJob) : LoadJob :=
  let h := readCells j.data 0 64
  if objHeadBad h then j.fail 1
  else if !j.boot && j.resume.isNone && j.msg.textEnd < j.msg.textBase + (sectionAt h 0).size then j.fail 5
  else
    match s.objectPieces (s.loadSpace core j.msg.regid) j.msg.code 64 (objExtent h - 64) with
    | some l => { j with phase := .body, left := l }
    | none => j.fail 1

/-- Pieces that write bytes at an address. -/
def writePieces (a : Nat) (l : List Byte) : List (List Host.Cell) := splitWords (cellsAt a l)

/-- The pieces that give a text in place its relocations again (R94, R322 step 5). -/
def Ram.relocPieces (m : Ram) (o : List Byte) (b : Bases) : List (List Host.Cell) :=
  let m' := m.relocText o b
  let l := m'.bytes b.text (sectionAt o 0).size
  (((List.range (objCount o 3)).map (objEntry o 3)).filter fun e => field e 4 1 == 0 && (relocate b e l).isSome).flatMap fun e =>
    writePieces (b.text + field e 0 4) (m'.bytes (b.text + field e 0 4) (relocLen e))

/-- What steps 4 and 5 of R322 write: the text unless it is in place, the data and the walk table; for a task that resumes its
text alone (R302). -/
def State.jobPieces (s : State) (core : Nat) (j : LoadJob) (o : List Byte) (v : Loaded) : List (List Host.Cell) :=
  let b := j.msg.bases o
  let here := s.textInPlace core (s.contextOf j.msg.regid) j.msg.code j.msg.textBase
  match j.resume with
  | some _ =>
    if here && !(s.task? j.key).any (·.slotCoreSec) then [] else writePieces b.text v.text
  | none =>
    (if here then (s.core core).sram.relocPieces o b else writePieces b.text v.text) ++ writePieces b.data v.data ++
      writePieces b.walks v.walks

/-- Step 2 of R322 for a task that starts; for one that resumes, its text must meet no text range in use. -/
def State.jobMisfit (s : State) (core : Nat) (j : LoadJob) (o : List Byte) : Bool :=
  match j.resume with
  | some _ => (s.textRanges core).any (rangesMeet (j.msg.textBase, j.msg.textEnd))
  | none => s.misfit core j.key j.msg o

/-- Strands of a core are taken for a task that the loader is to start there. -/
def Core.reserve (k : Core) (key : Nat) (ns : List (Fin 4)) : Core :=
  ns.foldl (fun k n => k.setStrand n { (k.strand n).ended with task := key, stopped := true }) k

/-- The first loader of a core goes on. -/
def State.setJob (s : State) (core : Nat) (j : LoadJob) : State := s.modCore core fun k => { k with jobs := j :: k.jobs.drop 1 }

/-- A task that a loader message starts. -/
def State.bootTask (s : State) (core : Nat) (m : LoadMsg) : Task :=
  { key := s.nextTask, tid := m.tid, regid := m.regid, gang := 0#64, hdr := 0, st := .waiting, core := core, lcore := 0#16,
    strands := m.mask, nstrands := 0, textBase := m.textBase, textEnd := m.textEnd, dataBase := m.dataBase, code := m.code, prods := [], early := true,
    base := ((s.region? m.regid).map fun r => (s.inherit 0 r).prio).getD 0, e := 0, waited := 0, since := 0, ran := 0,
    boundDue := false, forTask := 0, started := false, fired := false, yielding := false, cluster := clusterOf core, source := 0, slotCore := 0,
    slotCoreSec := false, why := 0, counts := [], cwin := (0, 0), dwin := (0, 0), nv := 0, slip := 256, held := [],
    savedMask := 0#4, hands := 0#4, owners := [],
    cmds := [], arms := [], chosen := false, stash := none, loading := true }

/-- The object has been read whole and its checks pass (R96, R322): its sections are to be written. The task of a message to
mailbox 0 is made, and its strands are taken. -/
def State.jobBody (s : State) (core : Nat) (j : LoadJob) : State :=
  let o := j.object
  match objBad o, objLoaded o (j.msg.bases o) with
  | false, some v =>
    if s.jobMisfit core j o then s.setJob core (j.fail 2)
    else
      let out := s.jobPieces core j o v
      let j := { j with phase := if out.isEmpty then .done else .write, out := out }
      let s := s.modCore core fun k => { k with loaded := none }
      if j.boot then
        ((s.addTask (s.bootTask core j.msg)).modCore core fun k => k.reserve s.nextTask (maskStrands j.msg.mask)).setJob core
          { j with key := s.nextTask }
      else s.setJob core j
  | _, _ => s.setJob core (j.fail 1)

/-- What follows the last piece read. -/
def State.jobRead (s : State) (core : Nat) (j : LoadJob) : State :=
  if !j.left.isEmpty then s.setJob core j
  else if j.phase == .head then
    let j := s.jobHead core j
    if j.phase == .body && j.left.isEmpty then s.jobBody core j else s.setJob core j
  else s.jobBody core j

/-- The loader reads piece `p` of an object, `j` being without it; a read that fails ends its work. -/
def State.jobPiece (s : State) (core : Nat) (j : LoadJob) (p : ReadPiece) : State :=
  match s.reach (s.loadSpace core j.msg.regid) core (ptrTag j.msg.code) p.addr false with
  | (s, .loc l) =>
    let x := s.readLoc l p.len
    if x.2.2 then x.1.setJob core (j.fail 1) else x.1.jobRead core { j with data := writeCells j.data p.off x.2.1 }
  | (s, _) => s.setJob core (j.fail 1)

/-- A command of the core holds: the stream engine, and the loader with it, starts nothing (R209, R320). -/
def Core.holds (k : Core) : Bool := k.sq.any fun c => c.phase == .held

/-- The loader of a core moves: the first one begins, or its piece `k` is read or written. -/
def State.loadTurn (s : State) (core k : Nat) : State :=
  let v := s.core core
  match v.jobs, v.loader with
  | [], (r, _, _) :: _ =>
    s.modCore core fun c => { c with jobs := [⟨0, true, loadMsg r, none, .asked, [], [], [], 0⟩] }
  | [], [] => s.res .stutter
  | j :: _, _ =>
    match j.phase, j.left[k]?, j.out[k]? with
    | .asked, _, _ => if v.holds then s.res .stutter else s.setJob core (s.jobBegin core j)
    | .write, _, some p =>
      let out := j.out.eraseIdx k
      (s.modCore core fun c => { c with sram := c.sram.store p }).setJob core
        { j with out := out, phase := if out.isEmpty then .done else .write }
    | .head, some p, _ => s.jobPiece core { j with left := j.left.eraseIdx k } p
    | .body, some p, _ => s.jobPiece core { j with left := j.left.eraseIdx k } p
    | _, _, _ => s.res .stutter

/-- The first loader of a core is done, and leaves. -/
def State.dropJob (s : State) (core : Nat) : State := s.modCore core fun k => { k with jobs := k.jobs.drop 1 }

/-- Steps 5 and 6 of R322: bindings and strands, for the task of a loader that is done. -/
def State.startLoaded (s : State) (core : Nat) (j : LoadJob) : State :=
  let m := j.msg
  let o := j.object
  let b := m.bases o
  let e := objEntry o 4 m.taskIdx
  let win := ((s.region? m.regid).map fun r => r.windows core).getD ((0, 0), (0, 0))
  let alone := !((s.core core).strands.toList.any fun x => x.task != 0 && x.task != j.key)
  match s.task? j.key with
  | none => s
  | some t =>
    let t : Task :=
      { t with
        st := .running, core := core, lcore := (s.core core).lcore.zeroExtend 16, strands := m.mask,
        nstrands := (maskStrands m.mask).length, textBase := m.textBase, textEnd := m.textEnd, dataBase := m.dataBase, code := m.code, started := true,
        nv := s.startVersion m e, slip := field e 6 2, cwin := win.1, dwin := win.2, ran := 0, waited := 0, yielding := false,
        loading := false }
    let s := s.modCore core fun k =>
      let k := { k with
        loaded := some (s.contextOf m.regid, m.code, m.textBase)
        conflicts := if alone then 0#64 else k.conflicts
        mailboxes := (taskBoxes o e).foldl (fun l x => l.set (Fin.ofNat 16 (field x 0 1)) (boxOf b t.key x)) k.mailboxes }
      k.startStrands t m.arg (BitVec.ofNat 22 (b.text + field e 0 4)) (maskStrands m.mask)
    s.modTask t.key fun _ => t

/-! ## LOADER_MESSAGE (R320 to R323) -/

/-- A reply of 8 bytes at a pointer (R322); a reply that cannot be written is lost. -/
def State.loadReply (s : State) (core : Nat) (m : LoadMsg) (status : Nat) : State :=
  let tag := ptrTag m.reply
  if m.reply = 0#64 || !(tag == 3 || tag == 5) then s
  else
    let sp := s.loadSpace core m.regid
    match s.limits sp tag (ptrOff m.reply) true with
    | none => s
    | some (lo, hi) =>
      if ptrOff m.reply < lo || hi < ptrOff m.reply + 8 then s
      else
        match s.reach sp core tag (ptrOff m.reply) true with
        | (s, .loc l) => s.writeLoc l (natBytes 8 status) false
        | _ => s

/-- BOOTSTATUS with its status and BUSY clear (R323). -/
def bootWord (status : Nat) (busy : Bool) : Word := BitVec.ofNat 64 (status * 16 + if busy then 1 else 0)

/-- The status that a loader reports: the task may have ended with its region since, and the core may have left it. -/
def State.jobStatus (s : State) (core : Nat) (j : LoadJob) : Nat :=
  if j.status = 0 && (!s.loadKnown core j.msg.regid || (s.task? j.key).all fun t => t.st == .ended) then 3 else j.status

/-- LOADER_MESSAGE (R322, R323): the oldest message of mailbox 0 of a core, whose loader has read, checked and copied, starts its
task, and its status is reported. -/
def execLoaderMessage (core : Nat) (s : State) : Host.Outcome State Fault Refusal :=
  match (s.core core).loader, (s.core core).jobs with
  | (_, port, _) :: l, j :: _ =>
    if !(j.boot && j.phase == .done) then .next (s.res .stutter)
    else
      let n := s.jobStatus core j
      let s := (s.dropJob core).modCore core fun k => { k with loader := l }
      let s := if n = 0 then s.startLoaded core j else s
      let s := s.loadReply core j.msg n
      .next (if port < 2 then s.modPort (Fin.ofNat 2 port) fun p => { p with bootstatus := bootWord n false } else s)
  | _, _ => .next (s.res .stutter)

end Sys2Proof.Machine
end

