-- ==== Sys2Proof/Machine/Save.lean ====
section
/-! DEFINITION. Sys2Proof/Machine/Save.lean: stopping, saving and resuming a task, and what a saved core holds
(spec/13_traps_preemption.md R293 to R302), with the event SAVE_UNIT_APPLY. -/

namespace Sys2Proof.Machine

/-! ## Parts of a memory -/

/-- Bytes of `src` from 0 to `n` put at `a`. -/
def Ram.splice (m : Ram) (a n : Nat) (src : Ram) : Ram :=
  { cells := (m.cells.filter fun c => c.1 < a) ++ ((src.cells.filter fun c => c.1 < n).map fun c => (c.1 + a, c.2)) ++
      m.cells.filter fun c => a + n ≤ c.1
    poison := (m.poison.filter fun w => 8 * w < a || a + n ≤ 8 * w) ++ (src.poison.filter fun w => 8 * w < n).map (· + a / 8) }

/-- Bytes [a, a + n) as a memory of its own. -/
def Ram.slice (m : Ram) (a n : Nat) : Ram :=
  { cells := (m.cells.filter fun c => a ≤ c.1 && c.1 < a + n).map fun c => (c.1 - a, c.2)
    poison := (m.poison.filter fun w => a ≤ 8 * w && 8 * w < a + n).map (· - a / 8) }

/-- Strings of bytes at their offsets. -/
def Ram.put (m : Ram) (base : Nat) (l : List (Nat × List Byte)) : Ram := l.foldl (fun m x => m.writeAll (base + x.1) x.2) m

/-! ## Stopping points of stream commands (R293, R209) -/

/-- Payload bytes that have landed at destination `n`, up to the first that has not. -/
def StrCmd.landedTo (c : StrCmd) (n : Nat) : Nat :=
  ((c.dstPieces n).zipIdx.filter fun p => !(c.written n).contains p.2 && c.lead ≤ p.1.off && p.1.off < c.lead + c.payload).foldl
    (fun m p => min m (p.1.off - c.lead)) c.payload

/-- Payload bytes that have been read, up to the first that has not. -/
def StrCmd.readTo (c : StrCmd) : Nat :=
  (c.srcPieces.zipIdx.filter fun p => !c.srcDone.contains p.2 && c.lead ≤ p.1.off).foldl (fun m p => min m (p.1.off - c.lead)) c.payload

/-- A copy of which a destination may overlap the source: its bytes must be read before they are written over. -/
def StrCmd.overlaps (c : StrCmd) : Bool :=
  c.kind == .copy && (List.range c.ndst).any fun n =>
    (c.dest n).tag == c.source.tag && c.source.low < (c.dest n).high && (c.dest n).low < c.source.high

/-- What a command keeps when it stops: the header that leads its string, which is not read again (R217, R301). -/
def StrCmd.bare (c : StrCmd) : StrCmd :=
  { c with
    data := c.data.filter fun x => decide (x.1 < c.lead)
    pois := c.pois.filter fun x => decide (x < c.lead)
    srcDone := c.srcDone.filter fun x => decide (x < c.headCount)
    dstDone := c.dstDone.filter fun x => decide (x.2 < c.headCount)
    fault := none
    phase := if c.phase == .waiting || c.phase == .arming then c.phase else .flight }

/-- The source address of a poisoned word among the first `n` bytes of the payload, which move no more (R141). -/
def StrCmd.taintTo (c : StrCmd) (n : Nat) : Option Nat :=
  match c.taint with
  | some a => some a
  | none => if c.pois.any fun x => c.lead ≤ x && x < c.lead + n then some c.poisAddr else none

/-- Leading elements of a DCMP whose output has landed: their bytes of stream and output. -/
def leadElements : Nat → List (Nat × List PByte) → Nat × List PByte
  | _, [] => (0, [])
  | n, e :: l =>
    if e.2.length ≤ n then
      let r := leadElements (n - e.2.length) l
      (e.1 + r.1, e.2 ++ r.2)
    else (0, [])

/-- The sums of the payload bytes of the source up to element `e` (R301). -/
def StrCmd.sumsTo (c : StrCmd) (e : Nat) : Word × Word :=
  let o := c.srcFrom * c.source.esize
  let r := byteSums o (readCells c.data (c.lead + o) ((e - c.srcFrom) * c.source.esize))
  (BitVec.ofNat 64 ((c.sums.1.toNat + r.1) % csumM), BitVec.ofNat 64 ((c.sums.2.toNat + r.2) % csumM))

/-- The command at its stopping point, with its progress: the elements and bytes known to be complete (R209, R301). -/
def StrCmd.progress (c : StrCmd) : StrCmd :=
  if c.phase == .waiting || c.phase == .arming || c.isZero then c.bare
  else
    match c.kind with
    | .dcmp =>
      let done := ((c.dstPieces 0).zipIdx.filter fun p => !(c.written 0).contains p.2).foldl (fun m p => min m p.1.off)
        (c.out + c.output.length) - c.out
      let r := if c.allRead then leadElements done c.elements.1 else (0, [])
      { c.bare with
        pos := c.pos + r.1, out := c.out + r.2.length, hist := ((r.2.map (·.1)).reverse ++ c.hist).take 65535
        taint := if r.2.any (·.2) then c.taintTo c.payload else c.taint }
    | .csum =>
      let e := c.readTo / c.source.esize
      { c.bare with srcFrom := e, sums := c.sumsTo e, taint := c.taintTo (e * c.source.esize) }
    | .copy =>
      let landed := (List.range c.ndst).foldl (fun m n => min m (c.landedTo n)) c.payload
      let c' := { c.bare with dstFrom := landed / (c.dest 0).esize }
      let b := (List.range c.ndst).foldl (fun m n => min m (c'.dstElem n * (c.dest n).esize)) landed
      let e := b / c.source.esize
      { c' with srcFrom := e, sums := c.sumsTo e, taint := c.taintTo (e * c.source.esize) }
    | .fill => { c.bare with dstFrom := c.landedTo 0 / (c.dest 0).esize }
    | _ => c.bare

/-- What a stopped command goes on from. The image holds its progress; a copy that may overlap its source keeps what it has
read and written, since its source may be written over (assumption 21). -/
def StrCmd.checkpoint (c : StrCmd) : StrCmd :=
  if c.overlaps && !(c.phase == .waiting || c.phase == .arming) then { c with fault := none, phase := .flight } else c.progress

/-- A DCMP stands at the end of an element (R293): the pieces written are those that begin before it. -/
def StrCmd.atElement (c : StrCmd) : Bool :=
  let ends := c.elements.1.foldl (fun (r : Nat × List Nat) e => (r.1 + e.2.length, (r.1 + e.2.length) :: r.2)) (c.out, [c.out])
  !c.allRead || ends.2.any fun b => (c.dstPieces 0).zipIdx.all fun p => (c.written 0).contains p.2 == decide (p.1.off < b)

/-- The command is at a stopping point (R293): between pieces, a DCMP between elements. Reading records, SEND and SPAWN complete first, and so does a
command whose last byte is visible or whose increments or follow-on are on their way. -/
def StrCmd.stopped (c : StrCmd) : Bool :=
  match c.phase with
  | .waiting => true
  | .arming => true
  | .held => true
  | .reading => false
  | .flight =>
    match c.kind with
    | .send => false
    | .spawn => false
    | .coll => true
    | .dcmp => !c.incSent && c.atElement
    | _ => !c.incSent && !c.followed && !c.queued

/-- A matrix command is at a stopping point: no record half read, no beat of an MST half written. -/
def MatCmd.stopped (c : MatCmd) (k : Core) : Bool :=
  if !c.started then c.left.length == (recordPieces c.op.walks c.s1 c.s2).length
  else
    match c.op with
    | .mst => !c.told && (c.out.isEmpty || c.out.length == (c.beatParts k).length)
    | .mstSat => !c.told && (c.out.isEmpty || c.out.length == (c.beatParts k).length)
    | _ => true

/-! ## Whether a task may be saved (R293, R294) -/

/-- A strand of a stopping task is quiet: reads and rows arrived, results and their flags too. -/
def Strand.quiet (t : Strand) : Bool :=
  t.reads.isEmpty && t.fpPend.isEmpty && t.orgA.isNone && t.orgX.isNone &&
    t.qax.toList.all fun q => q.entries.all fun e => match e with
      | .reserved _ => false
      | .pending _ _ => false
      | _ => true

/-- No store, semaphore operation or residency operation of a task is left at a core, nor at a strand that it has left
(R197, R293). -/
def Core.done (k : Core) (key : Nat) : Bool :=
  k.strands.toList.all fun t =>
    (t.sbuf.all fun e => e.task != key) && (t.semops.all fun e => e.task != key) && t.resops.all fun e => e.task != key

/-- An entry of a collective has begun on a packet at a core (R293, R295). -/
def State.hopBusy (s : State) (core : Nat) : Bool :=
  s.packets.any fun p => p.work &&
    match p.at_, s.coll? p.coll with
    | .core l, some c => s.ctxTarget c.regid p.ctx l == some (.live core)
    | _, _ => false

/-- Strands that run a task. -/
def Core.strandsOf (k : Core) (key : Nat) : List (Fin 4) := strandNums.filter fun n => (k.strand n).task == key

/-- The task is the last one running on its core (R294): no strand runs or is to run another, and no task drains there whose
handlers have yet to start. -/
def State.lastTask (s : State) (core key : Nat) : Bool :=
  ((s.core core).strands.toList.all fun t => t.task == 0 || t.task == key) &&
    !s.tasks.any fun t => t.key != key && t.live && t.core == core

/-- The save of a task may be made. -/
def State.maySave (s : State) (t : Task) : Bool :=
  let k := s.core t.core
  let ns := k.strandsOf t.key
  t.st == .stopping && ns.all (fun n => (k.strand n).quiet) && k.done t.key && !s.hopBusy t.core &&
    ((k.sq.filter fun c => c.task == t.key).all StrCmd.stopped) &&
    (if s.lastTask t.core t.key then (k.sq.all fun c => c.task == t.key) && (k.mq.all fun c => c.task == t.key && c.stopped k)
     else !(k.mq.any fun c => c.task == t.key))

/-! ## The image (R297 to R301) -/

def walkBytes (w : Walk) : List Byte :=
  bytes8 w.base ++ (w.ext.flatMap (natBytes 4)) ++ (w.stride.flatMap fun d => natBytes 4 (d % 2 ^ 32).toNat) ++
    natBytes 1 w.esize ++ [w.flags] ++ List.replicate 22 0#8

/-- A stream command entry (R301), of the command with its progress. -/
def streamEntry (c : StrCmd) : List (Nat × List Byte) :=
  let dcmp : Bool := c.kind == .dcmp
  let to_ := if dcmp then c.out / (c.dest 0).esize else c.dstFrom
  [(0, natBytes 4 c.word.toNat), (4, [c.tok.zeroExtend 8, c.numver.zeroExtend 8]), (8, bytes8 c.seq), (0x10, natBytes 8 c.srcFrom),
   (0x18, natBytes 8 to_), (0x20, bytes8 c.sums.1 ++ bytes8 c.sums.2), (0x30, natBytes 8 c.pos), (0x40, c.card.take 128),
   (0xC0, (c.walks.zipIdx).flatMap fun w =>
     if 9 ≤ w.2 then [] else if (c.kind == .fill && w.2 = 0) || (c.kind == .csum && w.2 = 1) then List.replicate 64 0#8 else walkBytes w.1),
   (0x300, (List.range c.ndst).flatMap fun n =>
     natBytes 8 (if c.walks.isEmpty then 0 else if dcmp then c.out else c.dstElem n * (c.dest n).esize))]

/-- A matrix queue entry (R298). -/
def matrixEntry (c : MatCmd) : List (Nat × List Byte) :=
  let flags := (if c.follow then 1 else 0) + (if c.started then 2 else 0) + (if c.op == .mmas then c.scl.toNat * 4 else 0)
  [(0, natBytes 4 c.word.toNat), (4, natBytes 1 c.strand.val), (5, natBytes 1 c.numver.toNat), (6, natBytes 2 flags),
   (8, bytes8 c.s1 ++ bytes8 c.s2), (0x18, natBytes 8 c.next), (0x20, bytes8 c.count), (0x40, c.walks.flatMap walkBytes)]

def levelBytes (l : Level) : List Byte :=
  natBytes 4 l.rem.toNat ++ natBytes 4 l.start.toNat ++ natBytes 4 l.stop.toNat ++
    natBytes 4 ((if l.active then 1 else 0) + if l.held then 2 else 0)

/-- A queue control word (R300). -/
def queueWord (q : Queue) : Word :=
  BitVec.ofNat 64 (q.head.toNat + q.entries.length * 32 + (q.entries.zipIdx).foldl (fun n e =>
    match e.1 with
    | .scalar _ => n
    | _ => n + 2 ^ (16 + (q.head.toNat + e.2) % 32)) 0)

/-- The slots of queue `q` (R299). -/
def queueSlots (q : Queue) (n : Nat) : List (Nat × List Byte) :=
  (q.entries.zipIdx).map fun e =>
    (0x11000 + 8192 * n + 256 * ((q.head.toNat + e.2) % 32), match e.1 with
      | .scalar v => bytes8 v
      | .row r => rowBytes r
      | .reserved r => rowBytes r
      | .early r => rowBytes r
      | .pending _ _ => rowBytes 0#2048)

/-- The strand CSRs in the order of R299. -/
def Strand.csrs (t : Strand) : List Word :=
  [t.slipw, t.rotbase, t.fmtidx, t.fpstat, t.numver, t.strandCsr, t.taskid, t.trapcause, t.trappc, t.trapvec]

/-- A strand section (R299). -/
def strandImage (t : Strand) (cs : List StrCmd) : List (Nat × List Byte) :=
  [(0, t.areg.toList.flatMap bytes8), (0x100, t.xreg.toList.flatMap bytes8), (0x200, t.fmt.toList.flatMap fun f => natBytes 4 f.toNat),
   (0x240, t.csrs.flatMap bytes8), (0x290, bytes8 (pcPair (t.resume .a) (t.resume .x))), (0x298, bytes8 t.passedA ++ bytes8 t.passedX),
   (0x2A8, natBytes 8 t.busy.toNat), (0x2B0, (t.loopsA.toList ++ t.loopsX.toList).flatMap levelBytes),
   (0x310, (t.qax.toList ++ t.qxa.toList).flatMap fun q => bytes8 (queueWord q)), (0x350, t.async.flatMap bytes8),
   (0x410, bytes8 t.streamCount ++ bytes8 t.matrixCount)] ++
  ((t.panels.toList.zipIdx).map fun p => (0x1000 + 4096 * p.2, natBytes 4096 p.1.toNat)) ++
  (((t.qax.toList ++ t.qxa.toList).zipIdx).flatMap fun q => queueSlots q.1 q.2) ++
  ((cs.zipIdx).flatMap fun c => (streamEntry c.1.progress).map fun x => (0x21000 + 1024 * c.2 + x.1, x.2))


def boxBytes (m : Mailbox) : List Byte :=
  natBytes 4 m.base.toNat ++ natBytes 4 m.len.toNat ++ natBytes 4 m.handler.toNat ++ natBytes 4 (if m.valid then 1 else 0)

def pendingBytes (p : Pending) : List Byte := (p.regs.flatMap bytes8) ++ bytes8 p.regid ++ natBytes 4 p.entry.toNat ++ List.replicate 36 0#8

def armingBytes (a : Arming) : List Byte :=
  bytes8 a.collid ++ natBytes 4 a.nota.toNat ++ natBytes 1 (if a.armed then a.strand.val else 0xFF) ++ natBytes 1 a.tok.toNat ++
    [0#8, 0#8] ++ bytes8 a.pair.1 ++ bytes8 a.pair.2 ++ bytes8 (a.kept.getD 0#64) ++ List.replicate 24 0#8

/-- The history of a DCMP in flight, oldest first, the newest byte last (R297). -/
def Core.history (k : Core) : List Byte :=
  match k.sq.find? fun c => c.kind == .dcmp && c.phase != .waiting with
  | some c =>
    let h := c.progress.hist
    List.replicate (65535 - h.length) 0#8 ++ h.reverse
  | none => List.replicate 65535 0#8

/-- The core section but for local SRAM, and without SAVED (R297). -/
def coreImage (k : Core) (core : Nat) : List (Nat × List Byte) :=
  let tags := (k.planes.toList.zipIdx).foldl (fun n p => n + p.1.tag.toNat * 4 ^ p.2 + if p.1.poisoned then 2 ^ (8 + p.2) else 0) 0
  [(0, [0x53#8, 0x41#8, 0x56#8, 0x45#8]), (4, natBytes 2 1), (8, bytes8 k.regid), (0x10, natBytes 2 k.lcore.toNat),
   (0x12, natBytes 2 core), (0x18, bytes8 k.conflicts ++ bytes8 k.inject), (0x28, natBytes 8 tags),
   (0x40, k.sems.toList.flatMap bytes8), (0x240, k.mailboxes.toList.flatMap boxBytes), (0x340, natBytes 8 k.pending.length),
   (0x400, k.pending.flatMap pendingBytes), (0xC00, k.arming.flatMap armingBytes)] ++
  ((k.mq.zipIdx).flatMap fun c => (matrixEntry c.1).map fun x => (0x1000 + 256 * c.2 + x.1, x.2)) ++
  ((k.planes.toList.zipIdx).map fun p => (0x2000 + 16384 * p.2, natBytes 16384 p.1.bits.toNat)) ++ [(0x12001, k.history)]

/-- Local SRAM as a slot holds it: the text ranges keep what the slot held. -/
def State.savedSram (s : State) (core base : Nat) : Ram :=
  (s.textRanges core).foldl (fun m r => m.splice r.1 (r.2 - r.1) (s.hbm.slice (base + 0x22000 + r.1) (r.2 - r.1))) (s.core core).sram

/-- The slot of a core with its parts written but for SAVED: the core section when `sec`, and the strands given. -/
def State.writeSlot (s : State) (core key : Nat) (sec : Bool) (ns : List (Fin 4)) : State :=
  let k := s.core core
  let b := slotBase core
  let m := s.hbm
  let m := if sec then ((m.clear b (b + 0x22000)).put b (coreImage k core)).splice (b + 0x22000) 0x300000 (s.savedSram core b) else m
  let m := ns.foldl (fun m n =>
    let o := b + strandSection n.val
    let cs := k.sq.filter fun c => c.strand == n && c.task == key
    ((m.clear o (o + 0x11000)).clear (o + 0x21000) (o + 0x23000)).put o (strandImage (k.strand n) cs)) m
  { s with hbm := m }

/-- SAVED of a core's slot (R297): the sections of the tasks whose image the slot holds. -/
def State.markSlot (s : State) (core : Nat) : State :=
  let l := s.tasks.filter fun t => t.st == .saved && t.slotCore == core && t.stash.isNone
  let mask := l.foldl (fun x t => x ||| t.savedMask) 0#4
  let v := mask.toNat + if l.any (·.slotCoreSec) then 16 else 0
  { s with hbm := s.hbm.writeAll (slotBase core + 6) [BitVec.ofNat 8 v, 0#8] }

/-- The supervisor moves the image of an earlier save out of the slot of a core, where the new save would meet it (R296). -/
def State.moveImages (s : State) (core : Nat) (sec : Bool) (mask : BitVec 4) : State :=
  let img := s.hbm.slice (slotBase core) slotSize
  s.mapTasks fun t =>
    if t.st == .saved && t.slotCore == core && t.stash.isNone && ((sec && t.slotCoreSec) || t.savedMask &&& mask != 0#4) then
      { t with stash := some img }
    else t

def maskOf (ns : List (Fin 4)) : BitVec 4 := ns.foldl (fun m n => m ||| (1#4 <<< n.val)) 0#4

/-- What a core keeps after a save: the task's strands and commands are gone, and with the core section everything that the
image holds. -/
def Core.afterSave (k : Core) (key : Nat) (sec : Bool) : Core :=
  let k := { k with
    strands := k.strands.map fun t => if t.task == key then t.ended else t
    sq := k.sq.filter fun c => c.task != key, mq := k.mq.filter fun c => c.task != key }
  if sec then
    { k with mailboxes := Vector.replicate 16 Mailbox.none, pending := [], arming := [], incs := [], ingress := [] }
  else k

/-- The save of a task (R293 to R301): its image, its place in ring 0 and ring 2, and what had not been delivered. -/
def State.saveTask (s : State) (t : Task) : State :=
  let k := s.core t.core
  let ns := k.strandsOf t.key
  let sec := s.lastTask t.core t.key
  let mask := maskOf ns
  let hands := maskOf (ns.filter fun n => (k.strand n).handler)
  let counts := ns.map fun n => ((k.strand n).loopsA.toList ++ (k.strand n).loopsX.toList).map (·.count)
  let heldNow := if sec then (k.incs.map .incr) ++ k.ingress.map .message else []
  let cmds := ns.flatMap fun n =>
    ((k.sq.filter fun c => c.strand == n && c.task == t.key).zipIdx).map fun c => { c.1.checkpoint with slot := c.2 }
  let s := (s.moveImages t.core sec mask).writeSlot t.core t.key sec ns
  let s := s.modCore t.core fun k => k.afterSave t.key sec
  let s := s.modTask t.key fun t =>
    { t with
      st := .saved, cluster := clusterOf t.core, slotCore := t.core, slotCoreSec := sec, lcore := k.lcore.zeroExtend 16, savedMask := mask, hands := hands,
      owners := k.mailboxes.toList.map (·.owner), counts := counts, held := heldNow, cmds := cmds,
      arms := if sec then k.arming else [], chosen := k.chosen, stash := none, yielding := false, e := t.base,
      waited := 0, since := (s.cluster (clusterOf t.core)).boundary, boundDue := false }
  ((s.markSlot t.core).completion t 2 0).pushRing (clusterOf t.core) 0 (ring0Entry t)

/-- A task stops (R293): each of its counters stops between groups. -/
def State.stopTask (s : State) (key why : Nat) : State :=
  match s.task? key with
  | none => s
  | some t =>
    let s := s.modCore t.core fun k =>
      { k with strands := k.strands.map fun v => if v.task == key then { v with stopped := true } else v }
    s.modTask key fun t => { t with st := .stopping, why := why }

/-! ## Deliveries to a saved core (R295) -/

/-- Words of 8 bytes of an image. -/
def word8 (l : List Byte) (o : Nat) : Word := BitVec.ofNat 64 (field l o 8)

/-- An increment on a semaphore image. -/
def Ram.semInc (m : Ram) (a : Nat) (v : Word) : Ram :=
  m.writeAll a (bytes8 (semAdd (BitVec.ofNat 64 (m.readLE a 8)) v))

/-- Offset of arming entry `i` of the core section. -/
def armingAt (i : Nat) : Nat := 0xC00 + 64 * i

/-- The first arming entry of an image that `f` admits. -/
def State.imageArming (s : State) (t : Task) (f : List Byte → Bool) : Option Nat :=
  (List.range 16).find? fun i => f (s.imageBytes t (armingAt i) 64)

/-- A completion at a saved logical core (R242, R295, R297): the token of its origin's COLL or of an armed participant, of this
task or of one saved before it from the core, or a free arming entry that keeps it. -/
def State.completeImage (s : State) (t : Task) (collid ctx status : Word) : Option State :=
  match (t :: s.sharersOf t.slotCore).findSome? fun x => s.completeSaved x collid status with
  | some s => some s
  | none =>
    match t.arms.find? fun a => a.armed && a.collid == collid && a.context == ctx with
    | some a =>
      let s := s.imageToken a.task a.strand.val a.tok status
      let s := match s.imageArming t fun e => word8 e 0 == collid && field e 12 1 != 0xFF with
        | some i => s.modImage t.key fun b m => m.writeAll (b + armingAt i) (List.replicate 64 0#8)
        | none => s
      some (s.modTask t.key fun t => { t with arms := t.arms.filter fun b => b != a })
    | none =>
      (s.imageArming t fun e => word8 e 0 == 0#64).map fun i =>
        let a : Arming :=
          { collid := collid, context := ctx, nota := 0#64, strand := 0, task := 0, idx := 0#2, tok := 0#5, seq := 0#64,
            pair := (0#64, 0#64), kept := some status, regid := t.regid, walks := [], armed := false }
        (s.modImage t.key fun b m => m.writeAll (b + armingAt i) (armingBytes a)).modTask t.key fun t =>
          { t with arms := t.arms ++ [a] }

/-- A held delivery joins the image, if it finds room there. -/
def State.applyHeld (s : State) (t : Task) (h : HeldDelivery) : Option State :=
  match h with
  | .bytes addr cells pois => some (s.modImage t.key fun b m =>
      let v := cells.map (·.2)
      if pois then m.writePoisoned (b + 0x22000 + addr) v else m.write (b + 0x22000 + addr) v)
  | .incr i => some ((s.modImage t.key fun b m => m.semInc (b + 0x40 + 8 * i.sem.val) i.amount).incDone i)
  | .message d =>
    let n := field (s.imageBytes t 0x340 8) 0 8
    let box := s.imageMailbox t d.mailbox.val
    if 16 ≤ n || !((box.valid && box.accepting) || d.bound.isSome) || !s.sendTurn d then none
    else
      let p := Mailbox.handlerTask 0 ((d.bound.map (·.2)).getD (box.handler.truncate 22)) d.mailbox d
      some ((s.modImage t.key fun b m =>
        (m.writeAll (b + 0x400 + 128 * n) (pendingBytes p)).writeAll (b + 0x340) (natBytes 8 (n + 1))).sendDone d)
  | .completion collid ctx status => s.completeImage t collid ctx status

/-- SAVE_UNIT_APPLY (R295): held delivery `k` of the logical core saved in a core's slot. They are applied in order (R183, R190):
one is passed over only while the image has no room for it. -/
def execSaveUnitApply (core k : Nat) (s : State) : Host.Outcome State Fault Refusal :=
  match s.tasks.find? fun t => t.st == .saved && t.slotCoreSec && t.slotCore == core && k < t.held.length with
  | none => .next (s.res .stutter)
  | some t =>
    match t.held[k]? with
    | none => .next (s.res .stutter)
    | some h =>
      match (t.held.take k).all fun e => (s.applyHeld t e).isNone, s.applyHeld t h with
      | true, some s => .next (s.modTask t.key fun t => { t with held := t.held.eraseIdx k })
      | _, _ => .next (s.res .stutter)

/-! ## Resume (R302) -/

/-- A walk of an image. -/
def imageWalk (l : List Byte) : Walk := decodeWalk l

/-- A stream command goes on from its image (R301, R302), on strand `n` in slot `slot`: `c` is what it keeps beside the image
(assumption 21). -/
def imageCmd (l : List Byte) (slot : Nat) (n : Fin 4) (v : Strand) (c : StrCmd) : StrCmd :=
  let begun : Bool := c.phase == .flight
  let part : Bool := begun && !c.overlaps
  { c with
    slot := slot, strand := n, idx := v.strandCsr.extractLsb' 0 2, word := BitVec.ofNat 32 (field l 0 4),
    tok := BitVec.ofNat 5 (field l 4 1), numver := BitVec.ofNat 2 (field l 5 1), seq := word8 l 8, mark := 0, rd := 0,
    walks := (c.walks.zipIdx).map fun w =>
      let k := if c.kind == .csum then 0 else w.2
      if w.2 < 9 && !(c.kind == .fill && w.2 = 0) then imageWalk ((l.drop (0xC0 + 64 * k)).take 64) else w.1
    srcFrom := if part then field l 0x10 8 else c.srcFrom
    dstFrom := if part && c.kind != .dcmp then field l 0x18 8 else c.dstFrom
    sums := if part then (word8 l 0x20, word8 l 0x28) else c.sums
    pos := if begun then field l 0x30 8 else c.pos
    out := if begun && c.kind == .dcmp then field l 0x300 8 else c.out }

def imageLevel (l : List Byte) (count : BitVec 32) : Level :=
  ⟨(field l 12 4).testBit 0, (field l 12 4).testBit 1, BitVec.ofNat 32 (field l 0 4), count, BitVec.ofNat 22 (field l 4 4),
   BitVec.ofNat 22 (field l 8 4)⟩

/-- Queue `q` of a strand section (R299, R300). -/
def imageQueue (l : List Byte) (q : Nat) : Queue :=
  let w := field l (0x310 + 8 * q) 8
  let head := w % 32
  ⟨BitVec.ofNat 5 head, (List.range (w / 32 % 64)).map fun i =>
    let e := (head + i) % 32
    let o := 0x11000 + 8192 * q + 256 * e
    if w.testBit (16 + e) then .row (rowOf (field l o 256)) else .scalar (word8 l o)⟩

/-- A strand of an image (R299, R302) on physical strand `n`, which keeps what an earlier strand left to drain in `v`. -/
def imageStrand (l : List Byte) (n : Fin 4) (t : Task) (handler : Bool) (counts : List (BitVec 32)) (v : Strand) : Strand :=
  let lev (i : Nat) : Level := imageLevel ((l.drop (0x2B0 + 16 * i)).take 16) (counts.getD i 0#32)
  let csr (i : Nat) : Word := word8 l (0x240 + 8 * i)
  { v.ended with
    areg := Vector.ofFn fun i : Fin 32 => word8 l (8 * i.val), xreg := Vector.ofFn fun i : Fin 32 => word8 l (0x100 + 8 * i.val),
    fmt := Vector.ofFn fun i : Fin 16 => BitVec.ofNat 32 (field l (0x200 + 4 * i.val) 4),
    panels := Vector.ofFn fun i : Fin 16 => BitVec.ofNat 32768 (field l (0x1000 + 4096 * i.val) 4096),
    qax := Vector.ofFn fun i : Fin 4 => imageQueue l i.val, qxa := Vector.ofFn fun i : Fin 4 => imageQueue l (4 + i.val),
    loopsA := Vector.ofFn fun i : Fin 3 => lev i.val, loopsX := Vector.ofFn fun i : Fin 3 => lev (3 + i.val),
    slipw := csr 0, rotbase := csr 1, fmtidx := csr 2, fpstat := csr 3, numver := csr 4,
    strandCsr := (csr 5 &&& ~~~12#64) ||| BitVec.ofNat 64 (4 * n.val), taskid := csr 6, trapcause := csr 7, trappc := csr 8,
    trapvec := csr 9, pcA := BitVec.ofNat 22 (field l 0x290 4), pcX := BitVec.ofNat 22 (field l 0x294 4),
    passedA := word8 l 0x298, passedX := word8 l 0x2A0, busy := BitVec.ofNat 32 (field l 0x2A8 4),
    async := ((List.range 24).map fun i => word8 l (0x350 + 8 * i)).filter (· != 0#64), streamCount := word8 l 0x410,
    matrixCount := word8 l 0x418, task := t.key, handler := handler, fence := 0 }

/-- The strands that a resume takes: those named, and for handlers beyond them the lowest idle ones. -/
def Core.resumeStrands (k : Core) (mask : BitVec 4) (n : Nat) : Option (List (Fin 4)) :=
  let named := maskStrands mask
  let more := strandNums.filter fun i => !mask.getLsbD i.val && (k.strand i).task = 0
  if n ≤ (named ++ more).length then some ((named ++ more).take n) else none

/-- A matrix command of an image (R298): `f` gives the new place of a physical strand. -/
def imageMat (l : List Byte) (t : Task) (f : Nat → Fin 4) (k : Core) : MatCmd :=
  let w := BitVec.ofNat 32 (field l 0 4)
  let flags := field l 6 2
  let op := matOp w
  let st := flags.testBit 1
  let plane := (w.extractLsb' 3 2).toFin
  let c : MatCmd :=
    { word := w, tok := if op == .mst || op == .mstSat then w.extractLsb' 20 5 else 0#5, strand := f (field l 4 1), task := t.key,
      idx := 0#2, numver := BitVec.ofNat 2 (field l 5 1), follow := flags.testBit 0, started := st,
      scl := BitVec.ofNat 2 (flags / 4), s1 := word8 l 8, s2 := word8 l 0x10, next := field l 0x18 8, count := word8 l 0x20,
      walks := if st then (List.range op.walks).map fun i => imageWalk ((l.drop (0x40 + 64 * i)).take 64) else [], mark := 0, rd := 0,
      poisoned := st && (k.planePoisoned plane (k.planes.get plane).tag) && (op == .mst || op == .mstSat || (op == .mld && field l 0x18 8 != 0)),
      left := if st then [] else recordPieces op.walks (word8 l 8) (word8 l 0x10), data := [], out := [], told := false }
  c

/-- A started head command prepares its unit again. -/
def Core.prepareHead (k : Core) : Core :=
  match k.mq with
  | c :: _ => if c.started then k.prepare c else k
  | [] => k

/-- An arming entry of an image (R297): `f` gives the new place of a physical strand of the task. -/
def imageArm (l : List Byte) (t : Task) (f : Nat → Fin 4) : Option Arming :=
  let armed : Bool := field l 12 1 != 0xFF
  if word8 l 0 = 0#64 then none
  else
    (t.arms.find? fun a => a.collid == word8 l 0 && a.armed == armed).map fun a =>
      { a with
        nota := BitVec.ofNat 64 (field l 8 4), tok := BitVec.ofNat 5 (field l 13 1), pair := (word8 l 16, word8 l 24)
        strand := if armed && a.task == t.key then f (field l 12 1) else a.strand
        kept := if armed then none else some (word8 l 32) }

/-- The core section of an image restored (R302), which keeps the text that the loader has refilled. -/
def Core.restoreSection (k : Core) (t : Task) (l : List Byte) (sram : Ram) (f : Nat → Fin 4) (ctx : Word) (live : Bool) : Core :=
  let tags := field l 0x28 8
  let n := t.textEnd - t.textBase
  let old : List Arming := k.arming.filter fun a => a.armed
  let k := { k with
    sram := sram.splice t.textBase n (k.sram.slice t.textBase n), conflicts := word8 l 0x18, inject := word8 l 0x20, chosen := t.chosen,
    loaded := some (ctx, t.code, t.textBase),
    planes := Vector.ofFn fun i : Fin 4 =>
      ⟨BitVec.ofNat 131072 (field l (0x2000 + 16384 * i.val) 16384), BitVec.ofNat 2 (tags / 4 ^ i.val), tags.testBit (8 + i.val)⟩
    sems := Vector.ofFn fun i : Fin 64 => word8 l (0x40 + 8 * i.val)
    mailboxes := Vector.ofFn fun i : Fin 16 =>
      let o := 0x240 + 16 * i.val
      if (field l (o + 12) 4).testBit 0 then
        ⟨true, BitVec.ofNat 32 (field l o 4), BitVec.ofNat 32 (field l (o + 4) 4), BitVec.ofNat 32 (field l (o + 8) 4),
          t.owners.getD i.val t.key, live⟩
      else Mailbox.none
    pending := (List.range (field l 0x340 8)).map fun i =>
      let o := 0x400 + 128 * i
      ⟨t.owners.getD (field l (o + 72) 8) t.key, (List.range 10).map fun j => word8 l (o + 8 * j), word8 l (o + 80),
        BitVec.ofNat 22 (field l (o + 88) 4)⟩
    arming := old ++ (List.range 16).filterMap fun i => imageArm (l.drop (armingAt i)) t f }
  { k with mq := k.mq ++ ((List.range 16).map fun i => (l.drop (0x1000 + 256 * i)).take 256).filterMap fun e =>
      if field e 0 4 = 0 then none else some (imageMat e t f k) }

/-- Held deliveries land on the core that resumes (R302). -/
def State.releaseHeld (s : State) (core : Nat) (regid : Word) (l : List HeldDelivery) : State :=
  l.foldl (fun s h =>
    match h with
    | .bytes addr cells pois => s.writeLoc ⟨.sram core, addr⟩ (cells.map (·.2)) pois
    | .incr i => s.increment (.live core) i
    | .message d => s.sendTo (.live core) d
    | .completion collid ctx status =>
      { s with collDones := s.collDones ++ [⟨regid, (s.core core).lcore, collid, ctx, status⟩] }) s

/-- Free stream queue entries of strand `n` (R161). -/
def Core.freeSlots (k : Core) (n : Fin 4) : List Nat :=
  ((List.range 8).map (8 * n.val + ·)).filter fun i => !k.sq.any fun c => c.slot == i

/-- The stream commands of strand section `j`, requeued in saved order on strand `n` (R302), in the entries that an ended task's
commands leave free. -/
def sectionCmds (l : List Byte) (j n : Fin 4) (t : Task) (v : Strand) (free : List Nat) : List StrCmd :=
  let cs := (List.range 8).filterMap fun i =>
    let e := (l.drop (0x21000 + 1024 * i)).take 1024
    if field e 0 4 = 0 then none else (t.cmds.find? fun c => c.strand == j && c.slot == i).map fun c => (e, c)
  (cs.zip free).map fun x => imageCmd x.1.1 x.2 n v x.1.2

/-- The history of the image's DCMP, newest first: as many bytes as it had output (R297). -/
def imageHist (l : List Byte) (out : Nat) : List Byte := (((l.drop 0x12001).take 65535).reverse).take out

/-- A resume finds room on its core for what it brings (R302) beside what ended tasks have left there (R289): stream queue
entries, and for a core section no engine command and no store to drain, and arming entries. -/
def State.resumeRoom (s : State) (core : Nat) (t : Task) (ns : List (Fin 4)) : Bool :=
  let k := s.core core
  (((maskStrands t.savedMask).zip ns).all fun p => (t.cmds.filter fun c => c.strand == p.1).length ≤ (k.freeSlots p.2).length) &&
    (!t.slotCoreSec || (k.sq.isEmpty && k.mq.isEmpty && (k.strands.toList.all fun v => v.sbuf.isEmpty && v.semops.isEmpty) &&
      (k.arming.filter (·.armed)).length + t.arms.length ≤ 16))

/-- The supervisor moves the slot's contents to the slot of the core on which a task resumes (R296, R447): what that slot holds
of other saved tasks goes out of it first. -/
def State.moveSlot (s : State) (core : Nat) (t : Task) : State :=
  if t.slotCore = core && t.stash.isNone then s
  else
    let img := match t.stash with
      | some m => m
      | none => s.hbm.slice (slotBase t.slotCore) slotSize
    let s := s.moveImages core true 0xF#4
    let s := { s with hbm := s.hbm.splice (slotBase core) slotSize img }
    let s := s.modTask t.key fun t => { t with slotCore := core, stash := none }
    (s.markSlot t.slotCore).markSlot core

/-- A saved task resumes on core `core` and the strands given (R302), its text being loaded. -/
def State.restore (s : State) (core : Nat) (t : Task) (mask : BitVec 4) (ns : List (Fin 4)) : State :=
  let img := match t.stash with
    | some m => m
    | none => s.hbm.slice (slotBase t.slotCore) slotSize
  let saved := maskStrands t.savedMask
  let f (n : Nat) : Fin 4 := ((saved.zip ns).find? fun p => p.1.val == n).elim 0 (·.2)
  let ctx := s.contextOf t.regid
  let drained := t.drained
  let cs := img.bytes 0 0x22000
  let s := if t.slotCoreSec then
      s.modCore core fun k => k.restoreSection t cs (img.slice 0x22000 0x300000) f ctx (!drained)
    else s.modCore core fun k =>
      { k with
        loaded := some (ctx, t.code, t.textBase)
        arming := k.arming.map fun a => if a.armed && a.task == t.key then { a with strand := f a.strand.val } else a }
  let s := ((saved.zip ns).zipIdx).foldl (fun s p =>
    let l := img.bytes (strandSection p.1.1.val) 0x23000
    let n := p.1.2
    let v := imageStrand l n t (t.hands.getLsbD p.1.1.val) (t.counts.getD p.2 []) (s.strand core n)
    let cmds := (sectionCmds l p.1.1 n t v ((s.core core).freeSlots n)).map fun c =>
      if c.kind == .dcmp && t.slotCoreSec then { c with hist := imageHist cs c.out } else c
    s.modCore core fun k => { k.setStrand n v with sq := k.sq ++ cmds.map fun c => { c with
      cores := (List.range c.ndst).map fun i => s.targetCore (s.destTarget core c i) } }) s
  let s := s.modCore core Core.prepareHead
  let win := ((s.region? t.regid).map fun r => r.windows core).getD ((0, 0), (0, 0))
  let s := { s with colls := s.colls.map fun (v : Coll) => if v.task == t.key && v.origin == t.slotCore then { v with origin := core } else v }
  let s := s.modTask t.key fun t =>
    { t with
      st := if drained then .draining else .running, core := core, strands := mask ||| maskOf ns, cwin := win.1, dwin := win.2,
      slotCoreSec := false, savedMask := 0#4, held := [], cmds := [], arms := [], stash := none, ran := 0, waited := 0, loading := false, why := 0 }
  (s.markSlot t.slotCore).releaseHeld core t.regid t.held

end Sys2Proof.Machine
end

