-- ==== Sys2Proof/Machine/Waits.lean ====
section
/-! DEFINITION. Sys2Proof/Machine/Waits.lean: what a counter waits on, for stalemate (spec/02_execution_model.md R56, R57;
spec/12_scheduling.md R276). -/

namespace Sys2Proof.Machine

/-- Rows that a panel operand pops when it names a queue (R63). -/
def sourceNeed (a : BitVec 5) (rows : Nat) : List (Fin 4 × Nat) := if a.toNat < 16 then [] else [(fin4 (a.toNat - 16), rows)]

/-- The rows of the two sources of an arithmetic panel word (R413). -/
def arithNeed (t : Strand) (a b ty : BitVec 5) (m : BitVec 2) : List (Fin 4 × Nat) :=
  let p := t.form ty m
  sourceNeed a (rowsFor p.fa p.n) ++ sourceNeed b (rowsFor p.fb p.n)

/-- The rows of the source of a conversion (R424). -/
def convertNeed (a sc ty : BitVec 5) : List (Fin 4 × Nat) :=
  let src := fmtOf sc.toNat
  sourceNeed a (rowsFor src (4096 / max src.bytes (fmtOf ty.toNat).bytes))

/-- Entries that a word pops from the A→X queues. -/
def popsAX (t : Strand) : Instr → List (Fin 4 × Nat)
  | .xrcv _ q _ => [(q.toFin, 1)]
  | .vadd _ a b m ty _ => arithNeed t a b ty m
  | .vsub _ a b m ty _ => arithNeed t a b ty m
  | .vmul _ a b m ty _ => arithNeed t a b ty m
  | .vfma _ a b m ty _ => arithNeed t a b ty m
  | .vmin _ a b ty _ => arithNeed t a b ty 0#2
  | .vmax _ a b ty _ => arithNeed t a b ty 0#2
  | .vabs _ a _ _ => sourceNeed a 16
  | .vneg _ a _ _ => sourceNeed a 16
  | .vand _ a b _ _ => sourceNeed a 16 ++ sourceNeed b 16
  | .vor _ a b _ _ => sourceNeed a 16 ++ sourceNeed b 16
  | .vxor _ a b _ _ => sourceNeed a 16 ++ sourceNeed b 16
  | .vnot _ a _ _ => sourceNeed a 16
  | .vshl _ a b _ _ => sourceNeed a 16 ++ sourceNeed b 16
  | .vshr _ a b _ _ => sourceNeed a 16 ++ sourceNeed b 16
  | .vsra _ a b _ _ => sourceNeed a 16 ++ sourceNeed b 16
  | .vcmp _ a b _ _ _ => sourceNeed a 16 ++ sourceNeed b 16
  | .vsel _ a b _ _ => sourceNeed a 16 ++ sourceNeed b 16
  | .vcvt _ a sc _ ty _ => convertNeed a sc ty
  | .vcvtSat _ a sc _ ty _ => convertNeed a sc ty
  | .vrshr _ a b _ _ => sourceNeed a 16 ++ sourceNeed b 16
  | .vexp2 _ a _ _ _ => sourceNeed a 16
  | .vlog2 _ a _ _ _ => sourceNeed a 16
  | .vrcp _ a _ _ _ => sourceNeed a 16
  | .vrsq _ a _ _ _ => sourceNeed a 16
  | .vredr _ a _ _ _ _ => sourceNeed a 16
  | .vredc _ a _ _ _ _ => sourceNeed a 16
  | .vbcr _ a _ _ _ => sourceNeed a 16
  | .vbcc _ a _ _ _ => sourceNeed a 16
  | .vrotr _ a _ _ _ => sourceNeed a 16
  | .vrotc _ a _ _ _ => sourceNeed a 16
  | .vscan _ a _ _ _ _ => sourceNeed a 16
  | .vperm _ a b _ _ => sourceNeed a 16 ++ sourceNeed b 16
  | .part _ a _ _ _ => sourceNeed a 16
  | .vtopk _ a _ _ _ => sourceNeed a 16
  | .vmov _ a _ => sourceNeed a 16
  | _ => []

/-- Entries that a word pops from the X→A queues. -/
def popsXA : Instr → List (Fin 4 × Nat)
  | .pst q _ r _ => [(q.toFin, r.toNat + 1)]
  | .gath _ _ j r _ _ => [(j.toFin, r.toNat + 1)]
  | .scat q _ j r sz _ => [(j.toFin, r.toNat + 1), (q.toFin, dataRows (r.toNat + 1) (gathSize sz))]
  | .qrcv _ q _ => [(q.toFin, 1)]
  | _ => []

/-- Entries that a word pushes onto the A→X queues. -/
def pushesAX : Instr → List (Fin 4 × Nat)
  | .pld q _ r _ => [(q.toFin, r.toNat + 1)]
  | .gath q _ _ r sz _ => [(q.toFin, dataRows (r.toNat + 1) (gathSize sz))]
  | .qsnd q _ _ => [(q.toFin, 1)]
  | _ => []

/-- Entries that a word pushes onto the X→A queues. -/
def pushesXA : Instr → List (Fin 4 × Nat)
  | .xsndScalar q _ _ => [(q.toFin, 1)]
  | .xsndPanel q _ r _ _ => [(q.toFin, r.toNat + 1)]
  | _ => []

/-- The number asked of queue `q` in all. -/
def askedOf (q : Fin 4) (l : List (Fin 4 × Nat)) : Nat := l.foldl (fun n e => if e.1 = q then n + e.2 else n) 0

/-- The words of a group wait on a queue (R39, R41). -/
def Strand.queueShort (t : Strand) (g : List Instr) : Bool :=
  strandNums.any fun q =>
    (t.qax.get q).poppable < askedOf q (g.flatMap (popsAX t)) || (t.qxa.get q).poppable < askedOf q (g.flatMap popsXA) ||
      (t.qax.get q).free < askedOf q (g.flatMap pushesAX) || (t.qxa.get q).free < askedOf q (g.flatMap pushesXA)

/-- A load or a residency operation that has issued makes register `n` available. -/
def Strand.arriving (t : Strand) (n : BitVec 5) : Bool :=
  (t.resops.any fun o => o.d == n) || t.reads.any fun o => match o.kind with
    | .reg d _ => d == n
    | _ => false

/-- A word of the access counter waits on a token: it names a register that only an engine command makes available. -/
def Strand.tokenShort (t : Strand) (i : Instr) : Bool :=
  (readsOf t i ++ writesOf t i).any fun r => match r with
    | .reg n => t.isBusy n && !t.arriving n
    | _ => false

/-- EXIT waits on a token of its strand (R32, R57): of a command under way, of one that failed and whose cause waits behind an
active handler, so that its register stays unavailable. Its store buffer, loads and residency operations are no waits, nor is
a matrix command without a token. -/
def Core.exitToken (k : Core) (n : Fin 4) : Bool :=
  let t := k.strand n
  (k.sq.any fun c => c.strand == n && c.task == t.task) ||
    (k.mq.any fun c => c.tok != 0#5 && c.strand == n && c.task == t.task) ||
    (k.arming.any fun c => c.armed && c.strand == n && c.task == t.task) || (t.trapvec.getLsbD 1 && !t.async.isEmpty)

/-- What a counter waits on: nothing, an event of R276, DWAIT, or its partner (R57). -/
inductive WaitsOn where
  | nothing
  | event
  | dwait
  | partner
  deriving DecidableEq, Repr, Inhabited

/-- What a group of counter `k` waits on. -/
def State.groupWaits (s : State) (core : Nat) (n : Fin 4) (k : Ctr) (g : List Instr) : WaitsOn :=
  let t := s.strand core n
  if t.queueShort g || (k == .a && g.any t.tokenShort) then .event
  else
    g.foldl (fun w i =>
      match w, i with
      | .nothing, .semwait a m _ =>
        let x := (s.core core).sems.get m.toFin
        if !semOvf x && (t.a a).toNat ≤ 2 ^ 56 - 1 && semCount x < (t.a a).toNat then .event else .nothing
      | .nothing, .dwait =>
        match s.task? t.task with
        | some v => if t.handler || s.prodsFired v then .nothing else .dwait
        | none => .nothing
      | .nothing, .exit => if (s.core core).exitToken n then .event else if t.xstop != .exit then .partner else .nothing
      | .nothing, .eret => if t.trapvec.getLsbD 1 && t.xstop != .eret then .partner else .nothing
      | w, _ => w) .nothing

/-- What counter `k` of a strand waits on (R57). -/
def State.waitsOn (s : State) (core : Nat) (n : Fin 4) (k : Ctr) : WaitsOn :=
  let t := s.strand core n
  let bytes := (s.core core).sram.bytes (t.pc k).toNat 4
  if k == .x && t.xstop != .no then .partner
  else if !t.slipOk k 1 then .partner
  else if !inRange (s.textOf t) (t.pc k).toNat then .nothing
  else
    match decode bytes with
    | .error _ => .nothing
    | .ok (i, _) =>
      let own := match k, ((encode i).getD 0#32).extractLsb' 1 2 with
        | .a, 2#2 => false
        | .x, 1#2 => false
        | _, _ => true
      if !own then .nothing
      else
        match t.held k with
        | none => if endsGroup i then s.groupWaits core n k [i] else .nothing
        | some (_, j) => if !t.slipOk k 2 then .partner else s.groupWaits core n k [j, i]

/-- A strand waits as R276 asks: both counters wait, and one of them on more than its partner. -/
def State.strandWaits (s : State) (core : Nat) (n : Fin 4) : Bool :=
  let a := s.waitsOn core n .a
  let x := s.waitsOn core n .x
  a != .nothing && x != .nothing && !(a == .partner && x == .partner)

/-! ## Stalemate (R276) -/

/-- The strands of a gang's tasks: core and strand. -/
def State.gangStrands (s : State) (g : Gang) : List (Nat × Fin 4) :=
  g.tasks.flatMap fun key =>
    match s.task? key with
    | some t => ((s.core t.core).strandsOf key).map fun n => (t.core, n)
    | none => []

/-- The packet waits at a core of this device that has not armed (R239). -/
def State.unarmed (s : State) (c : Coll) (p : CollPacket) : Bool :=
  let h := hopAt c.image p.entry
  !p.work && h.op != 0 && !h.append &&
    match p.at_ with
    | .core l =>
      match s.ctxTarget c.regid p.ctx l with
      | some (.live core) => core != c.origin && ((s.core core).armed? c p.ctx).isNone
      | _ => false
    | _ => false

/-- Every packet of a collective waits at a core that has not armed: it is then not in flight for stalemate (R242). -/
def State.collRests (s : State) (c : Coll) : Bool :=
  let l := s.packets.filter fun p => p.coll == c.key
  !l.isEmpty && l.all (s.unarmed c)

/-- A collective that the stream command `x` of a core has originated, or that an arming entry waits for, is in flight. -/
def State.collFlies (s : State) (id ctx : Word) : Bool :=
  (s.colls.any fun c => c.collid == id && c.context == ctx && !s.collRests c) ||
    s.collDones.any fun d => d.collid == id && d.context == ctx

/-- A delivery at a core's ingress is one for a handler of the gang. -/
def Core.deliveryOf (k : Core) (g : Gang) (d : Delivery) : Bool :=
  match d.bound with
  | some b => g.tasks.contains b.1
  | none =>
    let b := k.mailboxes.get d.mailbox
    b.valid && d.regid == g.regid && g.tasks.contains b.owner

/-- A stream command keeps its gang busy: any but a COLL in flight whose collective is not. -/
def State.cmdBusy (s : State) (x : StrCmd) : Bool :=
  !(x.kind == .coll && x.phase == .flight) || s.collFlies (collId x.card) (s.contextOf (s.regidOf x.task))

/-- A logical core of a context serves the gang now: a task of it is bound there. -/
def State.servesGang (s : State) (g : Gang) (regid ctx : Word) (l : BitVec 12) : Bool :=
  match s.ctxTarget regid ctx l with
  | some (.live c) => (s.core c).strands.toList.any fun t => g.tasks.contains t.task
  | _ => false

/-- A copy, a collective or a handler of the gang is in flight or pending (R276, R242): a collective for every participant, armed
or not, until its tokens are written. -/
def State.gangBusy (s : State) (g : Gang) : Bool :=
  let cores := (g.tasks.filterMap fun key => (s.task? key).map (·.core)).dedup
  (cores.any fun c =>
    let k := s.core c
    (k.sq.any fun x => g.tasks.contains x.task && s.cmdBusy x) || (k.pending.any fun p => g.tasks.contains p.owner) ||
      (k.strands.toList.any fun t => t.handler && g.tasks.contains t.task) || (k.ingress.any fun d => k.deliveryOf g d) ||
      (k.arming.any fun a => a.armed && g.tasks.contains a.task && s.collFlies a.collid a.context)) ||
    (s.colls.any fun v => !s.collRests v &&
      (g.tasks.contains v.task || (s.participants v).any fun l => s.servesGang g v.regid l.2 l.1)) ||
    s.collDones.any fun d => s.servesGang g d.regid d.context d.lcore

/-- A producer of the task lies outside the gang and runs or waits. -/
def State.outsideOf (s : State) (g : Gang) (t : Task) : Bool :=
  t.prods.any fun id => s.tasks.any fun v =>
    v.tid == id && s.contextOf v.regid == s.contextOf t.regid && v.st != .ended && v.st != .dependent && !g.tasks.contains v.key

/-- A DWAIT of the gang, or a task of it that has not entered ring 0, waits on a producer outside it that runs or waits (R276; the
spec speaks of a DWAIT's producers, assumption 102). -/
def State.outsideProducer (s : State) (g : Gang) : Bool :=
  ((s.gangStrands g).any fun p =>
    (s.waitsOn p.1 p.2 .a == .dwait) &&
      match s.task? (s.strand p.1 p.2).task with
      | some t => s.outsideOf g t
      | none => false) ||
    (g.tasks.filterMap s.task?).any fun t => t.st == .dependent && s.outsideOf g t

/-- Every condition of R276 at one boundary but for the one about issue. -/
def State.gangStill (s : State) (g : Gang) : Bool :=
  let ts := g.tasks.filterMap s.task?
  ts.any (fun t => t.st != .ended) && ((s.gangStrands g).all fun p => s.strandWaits p.1 p.2) && !s.gangBusy g &&
    ts.all (fun t => t.st == .dependent || t.st == .running || t.st == .draining || t.st == .ended) && !s.outsideProducer g

/-- What the strands of a gang have passed. -/
def State.gangPassed (s : State) (g : Gang) : List (Word × Word) :=
  (s.gangStrands g).map fun p => ((s.strand p.1 p.2).passedA, (s.strand p.1 p.2).passedX)

/-- A gang at a boundary (R276, R291): found still at two consecutive boundaries with nothing issued in between, it is
stalemated, and a notice with event 2 goes out once. -/
def State.gangBoundary (s : State) (k : Nat) (g : Gang) : State :=
  let set (f : Gang → Gang) (s : State) : State := { s with gangs := s.gangs.modify k f }
  if !s.gangStill g then set (fun g => { g with st := 1, suspect := none }) s
  else
    let now := s.gangPassed g
    if g.suspect == some now then
      if g.st == 2 then s
      else
        (set (fun g => { g with st := 2 }) s).report g.regid
          (noticeWords 0#64 g.regid 0 2 (BitVec.ofNat 64 causeStalemate) 0#64 g.id)
    else set (fun g => { g with st := 1, suspect := some now }) s

/-- The cluster whose supervisor gathers a gang: that of its first part's first task. -/
def State.gangCluster (s : State) (g : Gang) : Option Nat := (g.tasks.head?.bind s.task?).map (·.cluster)

/-- The gangs of a cluster at its boundary. -/
def State.stalemates (s : State) (cluster : Nat) : State :=
  (s.gangs.zipIdx).foldl (fun s e => if e.1.st != 0 && s.gangCluster e.1 == some cluster then s.gangBoundary e.2 e.1 else s) s

end Sys2Proof.Machine
end

