-- ==== Sys2Proof/Machine/Sched.lean ====
section
/-! DEFINITION. Sys2Proof/Machine/Sched.lean: bind records and the dispatch hardware (spec/12_scheduling.md R262 to R264, R270,
R271), placement (spec/10_chunks_residency_placement.md R231), and the supervisor's acts at a tempo boundary (R272 to R276,
R443), with DISP and the events BIND_START,
BIND_PREEMPT, BIND_MAP, BIND_FREE and PREEMPT_SAVE. -/

namespace Sys2Proof.Machine

/-! ## The slot of a core (R262, R264) -/

/-- The core is one that a bind record may name: it exists and its die is neither retired nor failed. -/
def State.inService (s : State) (core : Nat) : Bool :=
  core < coreCount && (s.die (dieOf core)).health != .retired && (s.die (dieOf core)).health != .failed

/-- A core on which tasks are bound: it is in service, and no retirement of its die has begun (R303). -/
def State.takes (s : State) (core : Nat) : Bool := s.inService core && !s.retiring.any fun r => r.1 == dieOf core

/-- Every strand of a core is idle. -/
def Core.idle (k : Core) : Bool := k.strands.toList.all fun t => t.task == 0

/-- The slot is mapped; the core is cleared first when its context changes (R261, R264). -/
def State.mapSlot (s : State) (core : Nat) (lcore : BitVec 12) (regid : Word) : State :=
  let ctx := s.contextOf regid
  s.modCore core fun k =>
    let k := if ctx = k.lastCtx then k else k.cleared
    { k with slot := .mapped, regid := regid, lcore := lcore, lastCtx := ctx }

/-- A map record: none when the slot is mapped. -/
def State.bindMap (s : State) (core : Nat) (lcore : BitVec 12) (regid : Word) : Option State :=
  if (s.core core).slot == .mapped then none else some (s.mapSlot core lcore regid)

/-- A free record: none while a strand is not idle. -/
def State.bindFree (s : State) (core : Nat) : Option State :=
  if (s.core core).idle then some (s.modCore core Core.freed) else none

/-- A pre-empt record: none unless the named strands run one task. -/
def State.bindPreempt (s : State) (core : Nat) (strands : BitVec 4) : Option State :=
  match (maskStrands strands).map fun n => ((s.core core).strand n).task with
  | [] => none
  | key :: l => if key != 0 && l.all (· == key) && (s.task? key).any Task.live then some (s.stopTask key 0) else none

/-! ## Starting and resuming (R264, R271, R302) -/

/-- The task leaves the spawn area and ring 0. -/
def State.unlist (s : State) (t : Task) : State :=
  s.modCluster t.cluster fun k =>
    { k with
      spawn := k.spawn.filter fun h => h.1 != t.key
      rings := k.rings.set 0 ((k.rings.get 0).erase (ring0Entry t)) }

/-- A start is refused (R271): the task is ended, ring 2 receives event 3 with the status, and a notice goes out. -/
def State.refuseStart (s : State) (core : Nat) (strands : BitVec 4) (t : Task) (status : Nat) : State :=
  let s := s.modTask t.key fun t =>
    { t with st := .ended, fired := t.fired || t.started, held := [], stash := none, loading := false }
  let s := s.modCore core fun k => { k with strands := k.strands.map fun v => if v.task == t.key then v.ended else v }
  let s := s.pushRing (clusterOf core) 2
    (entry32 [(t.tid.toNat, 0), (core, 8), (strands.toNat, 10), (3, 11), (status, 12)])
  s.report t.regid (noticeWords t.tid t.regid (s.core core).lcore.toNat 6 (BitVec.ofNat 64 status) 0#64 0#64)

/-- The loader message that a start record builds from a header (R321). -/
def headerMsg (h : List Byte) (mask : BitVec 4) (regid : Word) : LoadMsg :=
  ⟨hdrCode h, hdrArg h, hdrTaskIdx h, mask, hdrNumver h, hdrTextBase h, hdrDataBase h, hdrTid h, regid, 0#64, hdrTextEnd h⟩

/-- A header as die `d` reads it; none of its bytes when it lies behind a die that failed hard (R25). -/
def State.headerAt (s : State) (d hdr : Nat) : List Byte := if s.lostFrom d ⟨.hbm, hdr⟩ then [] else s.hbm.bytes hdr 256

/-- The dispatch check of a header (R255), but for the two conditions on the task table, and for TEXTSIZE, which the loader
reads. -/
def State.headerBad (s : State) (key : Nat) (regid : Word) (hdr : Nat) (h : List Byte) : Bool :=
  let ctx := s.contextOf regid
  h.isEmpty || headerFieldsBad h || hdr % 64 != 0 || s.hbm.poisoned hdr 256 ||
    (s.tasks.any fun t => t.key != key && t.tid == hdrTid h && t.st != .ended && s.contextOf t.regid == ctx)

/-- The loader message for a task that resumes: what it was loaded with (R302). -/
def Task.resumeMsg (t : Task) (mask : BitVec 4) : LoadMsg :=
  ⟨t.code, 0#64, 0, mask, t.nv, t.textBase, t.dataBase, t.tid, t.regid, 0#64, t.textEnd⟩

/-- A task is bound on the strands given, and the loader of the core is to start or resume it (R264, R322). -/
def State.beginLoad (s : State) (core : Nat) (t : Task) (m : LoadMsg) (resume : Option (List (Fin 4))) : State :=
  let s := s.modCore core fun k =>
    { k.reserve t.key (resume.getD (maskStrands m.mask)) with jobs := k.jobs ++ [⟨t.key, false, m, resume, .asked, [], [], [], 0⟩] }
  s.modTask t.key fun t => { t with loading := true, core := core, strands := m.mask }

/-- A saved task may resume where its logical core is: with the core section no other task runs there, and without it the
core section of that logical core, if it was saved, has been restored (R294, R302). -/
def State.sectionOk (s : State) (core : Nat) (t : Task) : Bool :=
  if t.slotCoreSec then (s.core core).idle else (s.savedAt t.regid (t.lcore.truncate 12)).isNone

/-- The strands that a resume takes, while the core can take it. -/
def State.resumeOn (s : State) (core : Nat) (mask : BitVec 4) (t : Task) : Option (List (Fin 4)) :=
  let k := s.core core
  if k.lcore.zeroExtend 16 == t.lcore && s.sectionOk core t then k.resumeStrands mask (maskStrands t.savedMask).length
  else none

/-- A task of ring 0 is bound on a core, to start or to resume, or is refused for its header (R271); none where R264 forbids it. -/
def State.startTask (s : State) (core : Nat) (mask : BitVec 4) (t : Task) : Option State :=
  let s' := s.unlist t
  let h := s.headerAt (dieOf core) t.hdr
  if t.st == .saved then (s.resumeOn core mask t).map fun ns => s'.beginLoad core t (t.resumeMsg mask) (some ns)
  else if s'.headerBad t.key t.regid t.hdr h then some (s'.refuseStart core mask t 5)
  else some (s'.beginLoad core t (headerMsg h mask t.regid) none)

/-- A task that resumes finds room on its core. -/
def State.loadRoom (s : State) (core : Nat) (j : LoadJob) : Bool :=
  match j.resume, s.task? j.key with
  | some ns, some t => j.status != 0 || s.resumeRoom core t ns
  | _, _ => true

/-- The loader of a bound task is done: it starts, resumes, or is refused with the status found (R264, R271, R302). -/
def State.endLoad (s : State) (core : Nat) (j : LoadJob) : State :=
  let n := s.jobStatus core j
  let s := s.dropJob core
  match s.task? j.key with
  | none => s
  | some t =>
    if n != 0 then s.refuseStart core j.msg.mask t n
    else
      match j.resume with
      | none => s.startLoaded core j
      | some ns =>
        let s := s.moveSlot core t
        s.restore core ((s.task? t.key).getD t) j.msg.mask ns

/-- The task waits in ring 0. -/
def Task.waits (t : Task) : Bool := (t.st == .waiting || t.st == .saved) && !t.loading

/-- No task is about to resume on the core with its core section: nothing else is bound there before it (R294). -/
def State.coreOpen (s : State) (core : Nat) : Bool :=
  (s.core core).jobs.all fun j => j.resume.isNone || !(s.task? j.key).any (·.slotCoreSec)

/-- The task that a header names: one that waits or is saved. -/
def State.taskAt (s : State) (hdr : Nat) (regid : Word) : Option Task :=
  s.tasks.find? fun t => t.hdr == hdr && t.regid == regid && t.waits

/-- A header whose task has not entered ring 0: it is not bound (R278). -/
def State.dependsAt (s : State) (hdr : Nat) (regid : Word) : Bool :=
  s.tasks.any fun t => t.hdr == hdr && t.regid == regid && t.st == .dependent

/-- A start record (R264): none when its requirement does not hold. A header that no task waits with starts a task of its own. -/
def State.bindStart (s : State) (core : Nat) (strands : BitVec 4) (hdr : Nat) (regid : Word) : Option State :=
  let k := s.core core
  let h := s.headerAt (dieOf core) hdr
  let t? := s.taskAt hdr regid
  let want := match t? with
    | some t => if t.st == .saved || h.isEmpty then t.nstrands else hdrStrands h
    | none => hdrStrands h
  let idle := (maskStrands strands).all fun n => (k.strand n).task == 0
  if k.slot != .mapped || k.regid != regid || strands = 0#4 || !idle || !s.coreOpen core || (maskStrands strands).length != want || s.dependsAt hdr regid then none
  else
    match t? with
    | some t => s.startTask core strands t
    | none =>
      let t := s.newTask regid 0#64 h hdr (clusterOf core) 0
      (s.addTask t).startTask core strands t

/-! ## The records as events (R264) -/

/-- The outcome of a record handed over: nothing changes where its requirement does not hold. -/
def bound (s : State) (core : Nat) (r : Option State) : Host.Outcome State Fault Refusal :=
  if coreCount ≤ core then .fault .noSuchAgent
  else
    match r with
    | some s' => if s.inService core then .next s' else .next (s.res .stutter)
    | none => .next (s.res .stutter)

/-- BIND_PREEMPT (R264, R293). -/
def execBindPreempt (core : Nat) (strands : BitVec 4) (s : State) : Host.Outcome State Fault Refusal :=
  bound s core (s.bindPreempt core strands)

/-- BIND_MAP (R264, R261). -/
def execBindMap (core : Nat) (lcore : BitVec 12) (regid : BitVec 64) (s : State) : Host.Outcome State Fault Refusal :=
  bound s core (s.bindMap core lcore regid)

/-! ## DISP (R263, R270) -/

/-- A bind record sets a reserved byte or an unadmitted KIND, or names no strand (R263, R270). -/
def recordBad (l : List Byte) : Bool :=
  let kind := field l 0 1
  kind == 0 || 4 < kind || 16 ≤ field l 1 1 || (if kind = 3 then 0x1000 ≤ field l 2 2 else field l 2 2 != 0) || !zeros l 4 4 ||
    (kind != 1 && !zeros l 8 8) || (!(kind == 1 || kind == 3) && !zeros l 0x10 8) || !zeros l 0x18 8 ||
    ((kind == 1 || kind == 2) && field l 1 1 == 0)

/-- What a record does to a core; none when R264's requirement does not hold. -/
def State.bindRecord (s : State) (core : Nat) (l : List Byte) : Option State :=
  let strands := BitVec.ofNat 4 (field l 1 1)
  let regid := BitVec.ofNat 64 (field l 0x10 8)
  match field l 0 1 with
  | 1 => s.bindStart core strands (field l 8 8) regid
  | 2 => s.bindPreempt core strands
  | 3 => s.bindMap core (BitVec.ofNat 12 (field l 2 2)) regid
  | _ => s.bindFree core

/-- DISP (R270). -/
def execDisp (b a d : BitVec 5) (s : State) : Host.Outcome State Fault Refusal :=
  supWord (supBits 3 b a d) (fun s =>
    let u := s.sup
    let at_ := u.reg a
    let core := (u.reg b).toNat
    let l := readCells u.sram at_.toNat 32
    if !privateRecord at_ then .fault bindFault at_
    else if recordBad l then .fault bindFault at_
    else if !s.inService core || clusterOf core != s.cur.cluster then .fault bindFault (u.reg b)
    else
      match s.bindRecord core l with
      | some s' => .done d 0#64 s'
      | none => .done d 1#64 s) s

/-! ## Placement (R231) -/

/-- Strands of a core that are free. -/
def Core.freeStrands (k : Core) : List (Fin 4) := strandNums.filter fun n => (k.strand n).task == 0

/-- Strands that a task needs free. -/
def Task.needs (t : Task) : Nat := max t.nstrands (if t.st == .saved then (maskStrands t.savedMask).length else 0)

/-- Cores that a region holds in its own name. -/
def State.heldCores (s : State) (regid : Word) : Nat := (s.cores.filter fun e => e.2.slot != .free && e.2.regid == regid).length

/-- A core is not held for another region (R231, R257), nor for retirement (R252). -/
def Core.heldOk (k : Core) (regid : Word) : Bool :=
  k.spareFor.isEmpty && (k.heldFor.isEmpty || k.heldFor.getLast? == some regid)

/-- The region may map one more core of a cluster. -/
def State.mayMap (s : State) (cluster : Nat) (regid : Word) : Bool :=
  match s.region? regid with
  | none => false
  | some r => (s.inherit 3 r).clusters.getLsbD cluster && s.heldCores regid < (s.inherit 4 r).cores

/-- The logical CORE of a free core that is chosen (R231): its own number, or the lowest that the region does not hold. -/
def State.newLcore (s : State) (regid : Word) (core : Nat) : BitVec 12 :=
  if (s.resolve regid (BitVec.ofNat 12 core)).isNone then BitVec.ofNat 12 core
  else
    BitVec.ofNat 12 (((List.range 4096).find? fun i => (s.resolve regid (BitVec.ofNat 12 i)).isNone).getD core)

/-- The score of a logical core for the chunks of a header (R231). -/
def State.score (s : State) (cluster : Nat) (ctx : Word) (chunks : List (Word × Nat)) (lcore : BitVec 12) : Nat :=
  chunks.foldl (fun n c =>
    match (s.cluster cluster).resid.find? fun e => e.context == ctx && e.id == c.1 with
    | some e =>
      if !e.loc.getLsbD 63 && e.loc.extractLsb' 46 12 == lcore then
        n + if c.2 = 0 then (e.loc.extractLsb' 25 21).toNat else c.2
      else n
    | none => n) 0

/-- A place: a physical core, its logical CORE, and whether it has yet to be mapped. -/
structure Spot where
  core : Nat
  lcore : BitVec 12
  map : Bool
  deriving DecidableEq, Repr, Inhabited

/-- Strands of the core are being freed for a waiting task other than that of a key (R274, R275). -/
def State.promised (s : State) (core key : Nat) : Bool :=
  s.tasks.any fun v => v.st == .stopping && v.core == core && v.forTask != 0 && v.forTask != key

/-- Enough strands are free on the core for the task, and all of them for one saved with its core section. No other task waits
for them. -/
def State.fits (s : State) (t : Task) (core : Nat) : Bool :=
  let k := s.core core
  s.takes core && s.coreOpen core && !s.promised core t.key && t.needs ≤ k.freeStrands.length && (t.st != .saved || s.sectionOk core t)

/-- The eligible cores of a task without a logical CORE (R231). -/
def State.eligible (s : State) (cluster : Nat) (t : Task) : List Spot :=
  let more := s.mayMap cluster t.regid
  (clusterCores cluster).filterMap fun c =>
    let k := s.core c
    if !s.fits t c then none
    else if k.slot == .mapped && k.regid == t.regid then some ⟨c, k.lcore, false⟩
    else if k.slot == .free && more && k.heldOk t.regid then some ⟨c, s.newLcore t.regid c, true⟩
    else none

/-- The best of the eligible cores (R231): the highest score, or with every score 0 the fewest busy strands; ties to the lowest
logical CORE. -/
def State.choose (s : State) (cluster : Nat) (t : Task) (l : List Spot) : Option Spot :=
  let h := s.headerAt (cluster / 4) t.hdr
  let sc (x : Spot) : Nat := s.score cluster (s.contextOf t.regid) (hdrChunks h) x.lcore
  let any := l.any fun x => sc x != 0
  let rank (x : Spot) : Nat := if any then sc x else (s.core x.core).freeStrands.length
  l.foldl (fun best x =>
    match best with
    | none => some x
    | some b => if rank b < rank x || (rank b == rank x && x.lcore.toNat < b.lcore.toNat) then some x else some b) none

/-- The core of a task (R231, R274): its LCORE, or the one that placement chooses. A saved logical core that no core serves is
mapped again. -/
def State.place (s : State) (cluster : Nat) (t : Task) : Option Spot :=
  if t.lcore = 0xFFFF#16 then s.choose cluster t (s.eligible cluster t)
  else
    match s.resolve t.regid (t.lcore.truncate 12) with
    | some c => if clusterOf c == cluster && (s.core c).slot == .mapped && s.fits t c then some ⟨c, t.lcore.truncate 12, false⟩ else none
    | none =>
      if t.st == .saved && t.slotCoreSec then
        ((clusterCores cluster).find? fun c => s.fits t c && (s.core c).slot == .free && (s.core c).heldOk t.regid).map fun c =>
          ⟨c, t.lcore.truncate 12, true⟩
      else none

/-- The supervisor binds a task at a place (R264, R274), on the lowest free strands. -/
def State.bindAt (s : State) (t : Task) (p : Spot) (due : Bool) : State :=
  let s := if p.map then s.mapSlot p.core p.lcore t.regid else s
  match s.startTask p.core (maskOf ((s.core p.core).freeStrands.take t.nstrands)) t with
  | some s => s.modTask t.key fun t => { t with boundDue := due }
  | none => s

/-! ## Tempo boundaries (R272 to R275, R443) -/

/-- The task is due (R273). -/
def Task.due (t : Task) : Bool := t.e == 7 && 8 * (7 - t.base) + 8 ≤ t.waited

/-- Promotion at boundary `b` of the task's cluster (R273). -/
def Task.promote (t : Task) (b : Nat) : Task :=
  let w := b - t.since - 1
  { t with waited := w, e := min (t.base + w / 8) 7 }

/-- The order of R274: due first, then e, then earliest waiting, then TASKID. -/
def Task.before (a b : Task) : Bool :=
  if a.due != b.due then a.due
  else if a.e != b.e then b.e < a.e
  else if a.since != b.since then a.since < b.since
  else a.tid.toNat < b.tid.toNat

/-- A core that a waiting task could use (R231, R274), whatever runs there: none held for another region's RESERVED. -/
def State.usable (s : State) (cluster : Nat) (t : Task) (core : Nat) : Bool :=
  let k := s.core core
  s.takes core && k.heldOk t.regid &&
    if t.lcore = 0xFFFF#16 then (k.slot == .mapped && k.regid == t.regid) || s.mayMap cluster t.regid
    else k.slot != .free && k.regid == t.regid && k.lcore.zeroExtend 16 == t.lcore

/-- The core serves a gang that has not ended. -/
def State.gangCore (s : State) (core : Nat) : Bool :=
  s.gangs.any fun g => g.tasks.any fun key => (s.task? key).any fun t => t.core == core

/-- Tasks that may be pre-empted for `t` (R274, R443): with whether they yield. -/
def State.victims (s : State) (cluster : Nat) (t : Task) : List (Task × Bool) :=
  (s.tasks.filter fun v => v.st == .running && clusterOf v.core == cluster && s.usable cluster t v.core).filterMap fun v =>
    if v.yielding && v.base ≤ t.e then some (v, true)
    else if (if t.due then !v.boundDue else v.base < t.base && 1 ≤ v.ran) then some (v, false)
    else none

/-- Whether `a` is pre-empted rather than `b`. -/
def victimFirst (a b : Task × Bool) : Bool :=
  if a.2 != b.2 then a.2
  else if a.1.base != b.1.base then a.1.base < b.1.base
  else if a.1.ran != b.1.ran then b.1.ran < a.1.ran
  else b.1.core < a.1.core

/-- The best of a list. -/
def bestBy {α : Type} (f : α → α → Bool) (l : List α) : Option α :=
  l.foldl (fun b x =>
    match b with
    | none => some x
    | some y => if f x y then some x else some y) none

/-- A task is being pre-empted for the waiting task of a key. -/
def State.makesRoom (s : State) (key : Nat) : Bool := s.tasks.any fun v => v.st == .stopping && v.forTask == key

/-- Strands that must be free on a core before a task is bound there: all of them where the core has to be mapped anew, or
takes a core section back (R261, R302). -/
def State.wants (s : State) (core : Nat) (t : Task) : Nat :=
  if (s.core core).regid != t.regid || (t.st == .saved && t.slotCoreSec) then 4 else t.needs

/-- Strands of a core that are free, or are being freed for the task. -/
def State.roomAt (s : State) (core : Nat) (t : Task) : Nat :=
  ((s.core core).strands.toList.filter fun n =>
    n.task == 0 || (s.task? n.task).any fun v => v.st == .stopping && v.forTask == t.key).length

/-- One task is pre-empted for a waiting one (R274); for a due one as many more of the same core as it takes to give it room, since
R275 has it bound however many tasks run (assumption 9). `core` is the core of the first. -/
def State.preemptFor (s : State) (cluster : Nat) (t : Task) : Nat → Option Nat → State
  | 0, _ => s
  | n + 1, core =>
    match bestBy victimFirst ((s.victims cluster t).filter fun v => core.all (· == v.1.core)) with
    | none => s
    | some v =>
      let s := (s.stopTask v.1.key 0).modTask v.1.key fun v => { v with forTask := t.key }
      if t.due && s.roomAt v.1.core t < s.wants v.1.core t then s.preemptFor cluster t n (some v.1.core) else s

/-- A waiting task at a boundary (R274): bound where it finds a core, else one task is pre-empted for it. -/
def State.serve (s : State) (cluster key : Nat) : State :=
  match s.task? key with
  | none => s
  | some t =>
    match s.place cluster t with
    | some p => s.bindAt t p t.due
    | none =>
      if s.makesRoom key then s else s.preemptFor cluster t 4 none

/-- Insertion in an order. -/
def insertBy {α : Type} (f : α → α → Bool) (x : α) : List α → List α
  | [] => [x]
  | y :: l => if f x y then x :: y :: l else y :: insertBy f x l

/-- A list sorted by an order. -/
def sortBy {α : Type} (f : α → α → Bool) (l : List α) : List α := l.foldr (insertBy f) []

/-- The waiting tasks of a cluster in the order of R274. -/
def State.queueOf (s : State) (cluster : Nat) : List Nat :=
  (sortBy Task.before (s.tasks.filter fun t => t.waits && t.cluster == cluster)).map (·.key)

/-- The waiting tasks of a cluster that find a core are bound, in the order of R274, and nothing is pre-empted. -/
def State.bindWaiting (s : State) (cluster : Nat) : State :=
  (s.queueOf cluster).foldl (fun s key =>
    match s.task? key with
    | none => s
    | some t => (s.place cluster t).elim s fun p => s.bindAt t p t.due) s

/-- A waiting task for which no earlier one of the order of R274 finds a core, and whose own place is core `core`, mapped. -/
def State.isNext (s : State) (cluster core key : Nat) : Bool :=
  let l := s.queueOf cluster
  (l.takeWhile (· != key)).all (fun k => ((s.task? k).bind (s.place cluster)).isNone) &&
    ((s.task? key).bind (s.place cluster)).any fun p => p.core == core && !p.map

/-- A task is pre-empted for another (R274): the core on which nothing runs any more is free for a task that cannot use it as it
is mapped, and the task for which the strands were freed is bound there. -/
def State.giveRoom (s : State) (core key : Nat) : State :=
  match s.task? key with
  | none => s
  | some t =>
    if !t.waits then s
    else
      let cluster := clusterOf core
      let k := s.core core
      let s := if k.idle && k.slot == .mapped && k.regid != t.regid then s.modCore core Core.freed else s
      match s.place cluster t with
      | some p => s.bindAt t p t.due
      | none => s

/-- The loader at the front of a core is done with the task that a start record names. -/
def State.loaded? (s : State) (core : Nat) (strands : BitVec 4) (hdr : Nat) (regid : Word) : Option LoadJob :=
  match (s.core core).jobs with
  | j :: _ =>
    if !j.boot && j.phase == .done && j.msg.mask == strands && (s.task? j.key).any (fun t => t.hdr == hdr && t.regid == regid) then
      some j
    else none
  | [] => none

/-- BIND_START (R264, R271, R302): a waiting task is bound in its turn (R274), where placement puts it (R231), and the loader of
the core begins; once the loader has read, checked and copied its object, the event starts or resumes the task, or refuses it. -/
def execBindStart (core : Nat) (strands : BitVec 4) (hdr : Nat) (regid : BitVec 64) (s : State) : Host.Outcome State Fault Refusal :=
  bound s core (match s.loaded? core strands hdr regid with
    | some j => if s.loadRoom core j then some (s.endLoad core j) else none
    | none =>
      let turn := match s.taskAt hdr regid with
        | some t => s.isNext (clusterOf core) core t.key
        | none => true
      if turn && s.takes core then s.bindStart core strands hdr regid else none)

/-- PREEMPT_SAVE (R293, R274): the save of a stopping task, once everything has reached its stopping point; its strands go to
the task for which it was pre-empted, if there is one, and then to those that wait. -/
def execPreemptSave (task : Nat) (s : State) : Host.Outcome State Fault Refusal :=
  match s.task? task with
  | none => .next (s.res .stutter)
  | some t =>
    if !s.maySave t then .next (s.res .stutter)
    else
      let s := (s.saveTask t).modTask task fun t => { t with forTask := 0 }
      .next ((if t.forTask = 0 then s else s.giveRoom t.core t.forTask).bindWaiting (clusterOf t.core))

/-- BIND_FREE (R264, R274): the core goes to tasks that wait. The supervisor frees no core that its region holds for RESERVED,
which stays mapped to it (R254, R458). -/
def execBindFree (core : Nat) (s : State) : Host.Outcome State Fault Refusal :=
  bound s core (if (s.core core).heldFor.contains (s.core core).regid then none
    else (s.bindFree core).map fun s => s.bindWaiting (clusterOf core))

/-- TASK_END (R55, R261, R274, R277): a task whose strands have ended ends when its handlers have, and what they leave free goes to
tasks that wait. -/
def execTaskEnd (task : Nat) (s : State) : Host.Outcome State Fault Refusal :=
  match s.task? task with
  | none => .next (s.res .stutter)
  | some t =>
    let k := s.core t.core
    if t.st != .draining || (k.strands.toList.any fun v => v.task == task) || (k.pending.any fun p => p.owner == task) ||
        (k.ingress.any fun d => d.bound.any fun b => b.1 == task) then
      .next (s.res .stutter)
    else
      let s := s.modCore t.core fun k => k.unbindTask task
      let s := s.modTask task fun t => { t with st := .ended, fired := true }
      .next ((s.completion t 1 0).bindWaiting (clusterOf t.core))

/-- A save for a due task is still to be made in a cluster: its next boundary comes after it (R275, assumption 9). -/
def State.dueSave (s : State) (cluster : Nat) : Bool :=
  s.tasks.any fun v => v.st == .stopping && clusterOf v.core == cluster && v.forTask != 0 && (s.task? v.forTask).any fun t => t.waits && t.due

/-- A tempo boundary of a cluster (R272): signal 4; promotion; binding and pre-emption; yield marks cleared; stalemate. -/
def State.boundary (s : State) (cluster : Nat) : State :=
  let b := (s.cluster cluster).boundary + 1
  let s := s.modCluster cluster fun k => { k with events := k.events ||| 0x10#8, boundary := b }
  let here (t : Task) : Bool := t.live && clusterOf t.core == cluster
  let s := s.mapTasks fun t =>
    let t := if here t then { t with boundDue := false } else t
    if t.waits && t.cluster == cluster then t.promote b else t
  let s := (s.queueOf cluster).foldl (fun s key => s.serve cluster key) s
  let s := s.mapTasks fun t => if here t then { t with yielding := false, ran := t.ran + 1 } else t
  s.stalemates cluster

end Sys2Proof.Machine
end

