-- ==== Sys2Proof/Machine/Packets.lean ====
section
/-! DEFINITION. Sys2Proof/Machine/Packets.lean: the host packets that act on regions, page tables, handles, bytes and semaphores
(spec/12_scheduling.md R249, R252 to R254, spec/09_address_spaces_translation.md R202, R208, R214), with the events
REGION_CREATE, REGION_MODIFY, REGION_DESTROY, MAP, UNMAP, INVALIDATION, BIND, HCOPY, HSIGNAL, HWAIT and HWAIT_POLL. -/

namespace Sys2Proof.Machine

/-! ## Region control blocks (R252, R253) -/

/-- The block of an image at `pa`, created through port `p`. -/
def regionOf (l : List Byte) (pa : Nat) (p : Nat) : Region :=
  { regid := BitVec.ofNat 64 (field l 0 8), pa := pa, parent := field l 8 8, ovr := BitVec.ofNat 32 (field l 0x10 4),
    depth := field l 0x14 1, prio := field l 0x15 1, numver := field l 0x16 1, flags := BitVec.ofNat 8 (field l 0x17 1),
    clusters := BitVec.ofNat 64 (field l 0x18 8), cores := field l 0x20 4, reserved := field l 0x24 4, cpool := field l 0x28 4,
    dpool := field l 0x2C 4, hbm := field l 0x30 8, linkshare := field l 0x38 2, fdom := BitVec.ofNat 16 (field l 0x3A 2),
    spare := field l 0x3C 4, root := field l 0x40 8, heapBase := field l 0x48 8, heapLen := field l 0x50 8,
    tempoLog := field l 0x58 1, port := p, cwin := [], dwin := [], ending := false }

/-- Bit `n` of OVR: the block sets the field. -/
def Region.sets (r : Region) (n : Nat) : Bool := r.ovr.getLsbD n

/-- Effective fields (R253). -/
def State.effCores (s : State) (r : Region) : Nat := (s.inherit 4 r).cores
def State.effReserved (s : State) (r : Region) : Nat := (s.inherit 5 r).reserved
def State.effCpool (s : State) (r : Region) : Nat := (s.inherit 6 r).cpool
def State.effDpool (s : State) (r : Region) : Nat := (s.inherit 7 r).dpool
def State.effHbm (s : State) (r : Region) : Nat := (s.inherit 8 r).hbm
def State.effSpare (s : State) (r : Region) : Nat := (s.inherit 11 r).spare
def State.effClusters (s : State) (r : Region) : Word := (s.inherit 3 r).clusters

/-- Save windows (R296): the last GiB of each half-stack. -/
def inSaveWindow (a : Nat) : Bool := 23 * 2 ^ 30 ≤ a % (24 * 2 ^ 30)

/-- A block breaks R252 or R253 otherwise than by a limit. `img` is its image. -/
def State.blockBad (s : State) (r : Region) (img : List Byte) : Bool :=
  let parent := if r.parent = 0 then none else s.regionAt? r.parent
  r.regid == 0#64 || (r.parent != 0 && parent.isNone) || r.ovr.extractLsb' 12 20 != 0#20 || 7 < r.depth || 8 ≤ r.prio ||
    4 ≤ r.flags.toNat || (r.sets 1 && (r.numver == 0 || 3 < r.numver)) || !zeros img 0x59 39 || hbmTop < r.pa + 128 ||
    (if r.parent = 0 then r.ovr.extractLsb' 0 12 != 0xFFF#12 || !r.context || r.depth != 0
     else parent.any (fun p => r.depth != p.depth + 1) || r.tempoLog != 0) ||
    !(r.tempoLog == 0 || (14 ≤ r.tempoLog && r.tempoLog ≤ 20)) ||
    (if r.context then r.root % 8192 != 0 || hbmTop < r.root + 8192 else r.root != 0 || r.heapBase != 0 || r.heapLen != 0) ||
    s.effCpool r % 65536 != 0 || 0x2000000 < s.effCpool r || s.effDpool r % 65536 != 0 || 0x4000000 < s.effDpool r ||
    s.effCores r < s.effReserved r

/-- The limits that one block sets another within it (R253). -/
def State.fitsIn (s : State) (c p : Region) : Bool :=
  s.effClusters c &&& ~~~(s.effClusters p) == 0#64 && s.effCores c ≤ s.effCores p && s.effCpool c ≤ s.effCpool p &&
    s.effDpool c ≤ s.effDpool p && s.effHbm c ≤ s.effHbm p

/-- The children of a block. -/
def State.children (s : State) (p : Region) : List Region := s.regions.filter fun c => c.parent == p.pa && c.parent != 0

/-- RESERVED and SPARE of all children within the parent's (R253). -/
def State.sumsOk (s : State) (p : Region) : Bool :=
  ((s.children p).map s.effReserved).sum ≤ s.effReserved p && ((s.children p).map s.effSpare).sum ≤ s.effSpare p

/-- The limits that a block sets its children (R253). -/
def State.childrenOk (s : State) (p : Region) : Bool := s.sumsOk p && (s.children p).all fun c => s.fitsIn c p

/-- Every limit of R253 that concerns block `r`, which is among the regions of `s`, or a block that may inherit from it. -/
def State.limitsOk (s : State) (r : Region) : Bool :=
  (match s.regionAt? r.parent with
   | some p => r.parent == 0 || s.childrenOk p
   | none => true) && (s.subtree r).all s.childrenOk

/-! ## Pool windows and held cores (R254) -/

/-- The lowest free stretch of `n` bytes of a pool of `cap` bytes, `used` being taken: base and length. -/
def firstFit (cap n : Nat) (used : List (Nat × Nat)) : Option Nat :=
  ((0 :: used.map fun u => u.1 + u.2).filter fun b => b + n ≤ cap && used.all fun u => u.2 == 0 || b + n ≤ u.1 || u.1 + u.2 ≤ b).min?

/-- Windows of cluster pool `k` (or die pool) that other regions have or that bound tasks keep. -/
def State.usedC (s : State) (regid : Word) (k : Nat) : List (Nat × Nat) :=
  (s.regions.filter fun r => r.regid != regid).flatMap (fun r => (r.cwin.filter fun w => w.1 == k).map (·.2)) ++
    (s.tasks.filter fun t => t.live && clusterOf t.core == k).map (·.cwin)
def State.usedD (s : State) (regid : Word) (d : Nat) : List (Nat × Nat) :=
  (s.regions.filter fun r => r.regid != regid).flatMap (fun r => (r.dwin.filter fun w => w.1 == d).map (·.2)) ++
    (s.tasks.filter fun t => t.live && dieOf t.core == d).map (·.dwin)

def clustersOf (m : Word) : List Nat := (List.range 64).filter fun k => m.getLsbD k

/-- The windows of a region: where it has one of the right length it keeps it. None when a pool has no room. -/
def State.windowsFor (s : State) (r : Region) (old : Region) : Option (List (Nat × Nat × Nat) × List (Nat × Nat × Nat)) :=
  let cs := clustersOf (s.effClusters r)
  let nc := s.effCpool r
  let nd := s.effDpool r
  let pick (have_ : List (Nat × Nat × Nat)) (k n cap : Nat) (used : List (Nat × Nat)) : Option (Nat × Nat × Nat) :=
    match have_.find? fun w => w.1 == k && w.2.2 == n with
    | some w => some w
    | none => (firstFit cap n used).map fun b => (k, b, n)
  match cs.mapM (fun k => pick old.cwin k nc 0x2000000 (s.usedC r.regid k)),
    ((cs.map (· / 4)).dedup).mapM (fun d => pick old.dwin d nd 0x4000000 (s.usedD r.regid d)) with
  | some c, some d => some (c, d)
  | _, _ => none

/-- The regions that a core is held for: for their RESERVED, or with `sp` for their SPARE. -/
def Core.holds? (k : Core) (sp : Bool) : List Word := if sp then k.spareFor else k.heldFor
def Core.setHolds (k : Core) (sp : Bool) (l : List Word) : Core := if sp then { k with spareFor := l } else { k with heldFor := l }

/-- Cores held for a region and for none of its children. -/
def State.holding (s : State) (sp : Bool) (regid : Word) : List Nat :=
  (s.cores.filter fun e => (e.2.holds? sp).getLast? == some regid).map (·.1)

/-- Every core held for a region, its children's included. -/
def State.holdingAll (s : State) (sp : Bool) (regid : Word) : List Nat :=
  (s.cores.filter fun e => (e.2.holds? sp).contains regid).map (·.1)

/-- Cores that a region may hold besides those it has (R254): a root takes free ones, a child its parent's that run nothing. One
that serves a gang which has not ended is not taken, though it may be idle (assumption 107). -/
def State.holdable (s : State) (sp : Bool) (r : Region) : List Nat :=
  ((clustersOf (s.effClusters r)).flatMap clusterCores |> sortBy fun a b => a < b).filter fun c =>
    let k := s.core c
    let free : Bool := k.slot == .free && k.heldFor.isEmpty && k.spareFor.isEmpty
    s.takes c && k.idle && !s.gangCore c &&
      match s.regionAt? r.parent with
      | some p => if r.parent = 0 then free else (k.holds? sp).getLast? == some p.regid
      | none => free

/-- What a region holds beyond `want` goes back to its parent (R254). -/
def State.unhold (s : State) (sp : Bool) (r : Region) (want : Nat) : State :=
  let own := s.holding sp r.regid
  let extra := (s.holdingAll sp r.regid).length - want
  (own.drop (own.length - extra)).foldl (fun s c => s.modCore c fun k => k.setHolds sp (k.holds? sp).dropLast) s

/-- A region holds `want` cores, as far as there are any (R254). -/
def State.holdUp (s : State) (sp : Bool) (r : Region) (want : Nat) : State :=
  ((s.holdable sp r).take (want - (s.holdingAll sp r.regid).length)).foldl
    (fun s c => s.modCore c fun k => k.setHolds sp (k.holds? sp ++ [r.regid])) s

/-- The holdings of the regions of a subtree, the region itself first, brought to their RESERVED and SPARE: children give
back before their parents, and take after them. None when cores are wanting for a RESERVED (R254). Cores wanting for a SPARE
fail nothing (assumption 65). Cores held already stay held when CLUSTERS changes and no longer has theirs (assumption 107). -/
def State.holdCores (s : State) (l : List Region) : Option State :=
  let s := l.reverse.foldl (fun s r => (s.unhold false r (s.effReserved r)).unhold true r (s.effSpare r)) s
  let s := l.foldl (fun s r => s.holdUp false r (s.effReserved r)) s
  if l.all fun r => s.effReserved r ≤ (s.holdingAll false r.regid).length then
    some (l.foldl (fun s r => s.holdUp true r (s.effSpare r)) s)
  else none

/-! ## REGION (R254) -/

/-- A block replaced or added. -/
def State.putRegion (s : State) (r : Region) : State :=
  if s.regions.any fun x => x.regid == r.regid then { s with regions := s.regions.map fun x => if x.regid == r.regid then r else x }
  else { s with regions := s.regions ++ [r] }

/-- A region takes its windows; none when a pool has no room. -/
def State.putWindows (s : State) (r : Region) : Option State :=
  (s.windowsFor r r).map fun w => s.putRegion { r with cwin := w.1, dwin := w.2 }

/-- A region and what descends from it, a parent before its children. -/
def State.family (s : State) (r : Region) : List Region := sortBy (fun a b => a.depth < b.depth) (s.subtree r)

/-- A checked block comes into force: its windows and held cores, those of the blocks that may inherit from it, and its
bytes; status 3 where a limit forbids it. -/
def State.enforce (s : State) (r : Region) (img : List Byte) : Nat × State :=
  let s' := s.putRegion r
  if !s'.limitsOk r then (3, s)
  else
    match (s'.family r).foldlM State.putWindows s' with
    | none => (3, s)
    | some s' =>
      match s'.holdCores (s'.family r) with
      | none => (3, s)
      | some s' => (0, { s' with hbm := s'.hbm.write r.pa img })

/-- A REGID is used again: what is left of its destroyed region goes to that region's parent, and the tasks kept in its name to
their context. -/
def State.reuse (s : State) (regid : Word) : State :=
  match s.gone? regid with
  | none => s
  | some g =>
    { s with
      gone := (s.gone.filter fun x => x.regid != regid).map fun x =>
        if x.parent == regid then { x with parent := g.parent, context := x.context || g.context } else x
      records := s.records.map fun v => if v.regid != regid then v else if g.parent = 0#64 then { v with toHost := true } else { v with regid := g.parent }
      tasks := s.tasks.map fun t => if t.regid == regid then { t with regid := s.contextOf regid } else t }

/-- Create: status and state. -/
def State.createRegion (s : State) (p : Fin 2) (k : Packet) : Nat × State :=
  let img := (k.bytes.drop 0x20).take 128
  let r := regionOf img (k.num 0x10 8) p.val
  let port := if r.parent = 0 then p.val else ((s.regionAt? r.parent).map (·.port)).getD p.val
  let r := { r with port := port }
  if r.regid != k.regid || (s.region? r.regid).isSome || (s.regionAt? r.pa).isSome || s.blockBad r img then (2, s)
  else
    let e := (s.reuse r.regid).enforce r img
    if e.1 = 0 then e else (e.1, s)

/-- The block image of a packet for a region that exists: REGID, PARENT and DEPTH stay. -/
def Packet.imageOf (k : Packet) (old : Region) : List Byte :=
  patch (patch ((k.bytes.drop 0x20).take 128) 0 (natBytes 8 old.regid.toNat ++ natBytes 8 old.parent)) 0x14 (natBytes 1 old.depth)

/-- RESERVED is at most CORES in a block and in those that may inherit from it (R252). -/
def State.reservedOk (s : State) (r : Region) : Bool := (s.subtree r).all fun c => s.effReserved c ≤ s.effCores c

/-- Modify: every field but REGID, PARENT and DEPTH, and CONTEXT may not change. -/
def State.modifyRegion (s : State) (k : Packet) : Nat × State :=
  match s.region? k.regid with
  | none => (4, s)
  | some old =>
    if old.pa != k.num 0x10 8 then (4, s)
    else
      let img := k.imageOf old
      let r := { regionOf img old.pa old.port with ending := old.ending, cwin := old.cwin, dwin := old.dwin }
      if (s.putRegion r).blockBad r img || !(s.putRegion r).reservedOk r || r.context != old.context then (2, s) else s.enforce r img

/-- What a task issued is still under way somewhere (R289). -/
def State.working (s : State) (key : Nat) : Bool :=
  s.cores.any fun e =>
    (e.2.strands.toList.any fun t => (t.sbuf.any fun v => v.task == key) || t.semops.any fun v => v.task == key) ||
      (e.2.sq.any fun c => c.task == key) || (e.2.mq.any fun c => c.task == key) || e.2.arming.any fun a => a.armed && a.task == key

/-- A task of a region that goes is forgotten, but for one that has fired in a context that stays, since firing is permanent
(R277), and one of which something is still under way, whose records are not to be lost (R222). -/
def State.afterDestroy (s : State) (ids ctxs : List Word) (t : Task) : Option Task :=
  let gone : Bool := ctxs.contains (s.contextOf t.regid)
  if !(ids.contains t.regid || (t.st == .ended && gone)) then some t
  else if t.st == .ended && ((t.fired && !gone) || s.working t.key) then some { t with fired := t.fired && !gone }
  else none

/-- What stands for a region of a subtree that goes. -/
def State.goneOf (s : State) (r : Region) : Gone :=
  ⟨r.regid, if r.parent = 0 then 0#64 else ((s.regionAt? r.parent).map (·.regid)).getD 0#64, r.context, (s.rootOf r).port⟩

/-- The limits of R253 hold of a packet's block in the place of block `r`. -/
def State.packetLimits (s : State) (r x : Region) : Bool :=
  let x := { x with cwin := r.cwin, dwin := r.dwin }
  (s.putRegion x).limitsOk x

/-- Destroy: the packet is checked as a modify is, a BLOCKPA that is not the region's being status 4 (assumption 109), and nothing of the subtree is bound or runnable; then it goes, with what its
contexts own. -/
def State.destroyRegion (s : State) (k : Packet) : Nat × State :=
  match s.region? k.regid with
  | none => (4, s)
  | some r =>
    let sub := s.subtree r
    let ids := sub.map (·.regid)
    let ctxs := (sub.filter (·.context)).map (·.regid)
    if r.pa != k.num 0x10 8 then (4, s)
    else if s.blockBad (regionOf (k.imageOf r) r.pa r.port) (k.imageOf r) then (2, s)
    else if !s.packetLimits r (regionOf (k.imageOf r) r.pa r.port) || s.tasks.any fun t => ids.contains t.regid && !(t.st == .ended || t.st == .dependent) then (3, s)
    else
      let keys := (s.tasks.filter fun t => ids.contains t.regid).map (·.key)
      let tasks := s.tasks.filterMap (s.afterDestroy ids ctxs)
      let gone := s.gone ++ sub.map s.goneOf
      let s := s.mapCores fun c =>
        let c := if c.slot != .free && ids.contains c.regid then c.freed else c
        { c with heldFor := c.heldFor.filter (!ids.contains ·), spareFor := c.spareFor.filter (!ids.contains ·), tlb := c.tlb.filter fun e => !ctxs.contains e.context }
      let s := s.mapClusters fun c =>
        { c with resid := c.resid.filter fun e => !ctxs.contains e.context, spawn := c.spawn.filter fun h => !keys.contains h.1 }
      (0, { s with
        regions := s.regions.filter fun x => !ids.contains x.regid
        handles := s.handles.filter fun h => !ctxs.contains h.context
        tasks := tasks
        gone := gone
        ports := s.ports.map fun (v : Port) => { v with tlb := v.tlb.filter fun e => !ctxs.contains e.context }
        links := s.links.map fun (v : Link) => if ctxs.contains v.ctx then { v with ctx := 0#64 } else v })

/-- A REGION packet of an operation. -/
def regionPacket (port : Fin 2) (q : Fin 16) (k op : Nat) (f : State → Packet → Nat × State) (s : State) :
    Host.Outcome State Fault Refusal :=
  match s.packet? port q k 2 with
  | none => .next (s.res .stutter)
  | some x =>
    if x.num 0x18 1 != op then .next (s.res .stutter)
    else
      let r := f s x
      .next (r.2.completePacket port q x r.1 0)

/-- REGION_CREATE (R254). -/
def execRegionCreate (port : Fin 2) (q : Fin 16) (k : Nat) (s : State) : Host.Outcome State Fault Refusal :=
  regionPacket port q k 0 (fun s x => s.createRegion port x) s

/-- REGION_MODIFY (R254). -/
def execRegionModify (port : Fin 2) (q : Fin 16) (k : Nat) (s : State) : Host.Outcome State Fault Refusal :=
  regionPacket port q k 1 (fun s x => s.modifyRegion x) s

/-- REGION_DESTROY (R254). -/
def execRegionDestroy (port : Fin 2) (q : Fin 16) (k : Nat) (s : State) : Host.Outcome State Fault Refusal :=
  regionPacket port q k 2 (fun s x => s.destroyRegion x) s

/-! ## MAP, UNMAP, INVALIDATION (R208, R214) -/

/-- An entry that points into a save window (R296). -/
def entryInWindow (e : Nat) : Bool := e.testBit 0 && inSaveWindow (ptePa e)

/-- [a, a + n) lies in HBM and outside the save windows. -/
def tableRoom (a n : Nat) : Bool := a + n ≤ hbmTop && (n = 0 || (!inSaveWindow a && !inSaveWindow (a + n - 1)))

/-- MAP (R208, R296). -/
def execMap (port : Fin 2) (q : Fin 16) (k : Nat) (s : State) : Host.Outcome State Fault Refusal :=
  match s.packet? port q k 3 with
  | none => .next (s.res .stutter)
  | some x =>
    let n := x.num 0x18 4
    let pa := x.num 0x10 8
    if (s.region? x.regid).isNone then .next (s.completePacket port q x 4 0)
    else if !tableRoom pa (8 * n) || s.portLost port pa || s.portLost port (pa + 8 * n - 1) || ((List.range n).any fun i => entryInWindow (x.num (0x20 + 8 * i) 8)) then
      .next (s.completePacket port q x 5 0)
    else .next (({ s with hbm := s.hbm.writeAll pa ((x.bytes.drop 0x20).take (8 * n)) }).completePacket port q x 0 0)

/-- Translation units that an invalidation must hear from: those that hold an entry or have a command, and the two command
processors. Any other has nothing to drop and acknowledges at once, as do the cores of a retired die. -/
def State.unitsToAck (s : State) : List Nat :=
  ((s.cores.filter fun e => s.inService e.1 && !(e.2.tlb.isEmpty && e.2.sq.isEmpty)).map (·.1)) ++ [4096, 4097]

/-- UNMAP (R214): the entries are cleared, and the invalidation goes to every translation unit. -/
def execUnmap (port : Fin 2) (q : Fin 16) (k : Nat) (s : State) : Host.Outcome State Fault Refusal :=
  match s.packet? port q k 4 with
  | none => .next (s.res .stutter)
  | some x =>
    let n := x.num 0x28 4
    let pa := x.num 0x20 8
    if x.done != 0 then .next (s.res .stutter)
    else if (s.region? x.regid).isNone then .next (s.completePacket port q x 4 0)
    else if !tableRoom pa (8 * n) || (n != 0 && (s.portLost port pa || s.portLost port (pa + 8 * n - 1))) then .next (s.completePacket port q x 5 0)
    else
      let s := { s with hbm := s.hbm.writeAll pa (List.replicate (8 * n) 0#8) }
      let i : Inval :=
        { context := s.contextOf x.regid, lo := x.num 0x10 8, hi := x.num 0x10 8 + x.num 0x18 8, units := s.unitsToAck,
          pkt := some (port.val, q.val, x.id) }
      .next (({ s with invals := s.invals ++ [i] }).setDone port q x.id 1)

/-- Dies that have acknowledged, one bit each (R251): a failed die has no unit that could. -/
def State.ackDies (s : State) : Nat :=
  (List.range 16).foldl (fun n d => if (s.die d).health == .failed then n else n + 2 ^ d) 0

/-- INVALIDATION (R214): a unit drops the entries of invalidation `k`, and acknowledges; pieces of the model are performed as
they are translated, so none is left to wait for. The last acknowledgement completes the UNMAP. -/
def execInvalidation (unit k : Nat) (s : State) : Host.Outcome State Fault Refusal :=
  match s.invals[k]? with
  | none => .next (s.res .stutter)
  | some i =>
    if !i.units.contains unit then .next (s.res .stutter)
    else
      let s := s.setTlb unit ((s.unitTlb unit).filter fun e => !(e.context == i.context && e.va < i.hi && i.lo < e.va + e.size))
      let left := i.units.filter (· != unit)
      if !left.isEmpty then .next { s with invals := s.invals.modify k fun i => { i with units := left } }
      else
        let s := { s with invals := s.invals.eraseIdx k }
        match i.pkt with
        | none => .next s
        | some (p, q, id) =>
          match (s.queue (Fin.ofNat 2 p) (Fin.ofNat 16 q)).issued.find? fun x => x.id == id with
          | some x => .next (s.completePacket (Fin.ofNat 2 p) (Fin.ofNat 16 q) x 0 s.ackDies)
          | none => .next s

/-- A supervisor narrows or removes a leaf of a context (R214): the entry is written, and an invalidation goes to every
translation unit. -/
def State.changeLeaf (s : State) (pa : Nat) (e ctx : Word) (lo n : Nat) : State :=
  let i : Inval := { context := ctx, lo := lo, hi := lo + n, units := s.unitsToAck, pkt := none }
  { s with hbm := s.hbm.write pa (bytes8 e), invals := s.invals ++ [i] }

/-! ## BIND (R202) -/

/-- BIND (R202): the entry of the handle table of the region's context. -/
def execBind (port : Fin 2) (q : Fin 16) (k : Nat) (s : State) : Host.Outcome State Fault Refusal :=
  match s.packet? port q k 5 with
  | none => .next (s.res .stutter)
  | some x =>
    match s.region? x.regid with
    | none => .next (s.completePacket port q x 4 0)
    | some r =>
      if r.port != port.val then .next (s.completePacket port q x 4 0)
      else
        let ctx := s.contextOf x.regid
        let n := x.num 0x10 2
        let rest := s.handles.filter fun h => !(h.context == ctx && h.num == n)
        let h : Handle := ⟨ctx, n, x.num 0x18 8, x.num 0x20 8, port.val, (x.num 0x12 1).testBit 0⟩
        let s := { s with handles := if x.num 0x20 8 = 0 then rest else h :: rest }
        .next (s.completePacket port q x 0 0)

/-! ## HCOPY (R249) -/

/-- [off, off + n) lies within the space of a pointer. -/
def State.rangeOk (s : State) (sp : Space) (ptr n : Nat) (write : Bool) : Bool :=
  let off := ptr % 2 ^ 60
  match s.limits sp (ptr / 2 ^ 60) off write with
  | some (lo, hi) => lo ≤ off && off + n ≤ hi
  | none => false

/-- The byte that a pointer reaches from a command processor; none on a translation fault or a lost route. -/
def State.hostReach (s : State) (p : Fin 2) (sp : Space) (ptr : Nat) (write : Bool) : State × Option Loc :=
  match s.reach sp sp.core (ptr / 2 ^ 60) (ptr % 2 ^ 60) write with
  | (s, .loc l) => (s, if s.routeDead (portDie p) l.die then none else some l)
  | (s, _) => (s, none)

/-- `n` bytes read one after the other through a pointer; none where one cannot be reached. -/
def State.hostRead (s : State) (p : Fin 2) (sp : Space) (ptr : Nat) : Nat → State × Option (List Byte × Bool)
  | 0 => (s, some ([], false))
  | n + 1 =>
    match s.hostReach p sp ptr false with
    | (s, none) => (s, none)
    | (s, some l) =>
      let r := s.readLoc l 1
      match r.1.hostRead p sp (ptr + 1) n with
      | (s, some (bs, po)) => (s, some (r.2.1 ++ bs, r.2.2 || po))
      | (s, none) => (s, none)

/-- The next stretch of an HCOPY: offset and length of bytes within one aligned word of the destination. A copy onto a range
above its source runs from its end, so that its result is as if every source byte were read first (R167). -/
def hcopyStep (src dst n done : Nat) : Nat × Nat :=
  if src < dst && dst < src + n then
    let e := n - done
    let a := (dst + e - 1) / 8 * 8
    let o := if a ≤ dst then 0 else a - dst
    (o, e - o)
  else (done, min (n - done) (8 - (dst + done) % 8))

/-- HCOPY (R249, R207): one stretch is copied; a fault completes the packet and what has been performed stays. -/
def execHcopy (port : Fin 2) (q : Fin 16) (k : Nat) (s : State) : Host.Outcome State Fault Refusal :=
  match s.packet? port q k 6 with
  | none => .next (s.res .stutter)
  | some x =>
    let sp := s.packetSpace port x.regid
    let src := x.num 0x10 8
    let dst := x.num 0x18 8
    let n := x.num 0x20 8
    if (s.region? x.regid).isNone then .next (s.completePacket port q x 4 0)
    else if !s.rangeOk sp src n false || !s.rangeOk sp dst n true then .next (s.completePacket port q x 5 0)
    else if n ≤ x.done then .next (s.completePacket port q x 0 0)
    else
      let st := hcopyStep src dst n x.done
      match s.hostRead port sp (src + st.1) st.2 with
      | (s, none) => .next (s.completePacket port q x 5 0)
      | (s, some (bs, po)) =>
        match s.hostReach port sp (dst + st.1) true with
        | (s, none) => .next (s.completePacket port q x 5 0)
        | (s, some l) =>
          let s := s.writeLoc l bs po
          if x.done + st.2 = n then .next (s.completePacket port q x 0 0)
          else .next (s.setDone port q x.id (x.done + st.2))

/-! ## HSIGNAL, HWAIT (R249) -/

/-- HSIGNAL (R249): an increment sets out; the packet completes when it has been applied. -/
def execHsignal (port : Fin 2) (q : Fin 16) (k : Nat) (s : State) : Host.Outcome State Fault Refusal :=
  match s.packet? port q k 7 with
  | none => .next (s.res .stutter)
  | some x =>
    match x.done with
    | 0 =>
      match (if (s.region? x.regid).isSome then s.target x.regid (BitVec.ofNat 12 (x.num 0x10 2)) else none) with
      | none => .next (s.completePacket port q x 4 0)
      | some t =>
        let i : Increment :=
          ⟨Fin.ofNat 64 (x.num 0x12 1), BitVec.ofNat 64 (x.num 0x18 8), none, some (port.val, q.val, x.id)⟩
        .next ((s.setDone port q x.id 1).increment t i)
    | 1 => .next (s.res .stutter)
    | _ => .next (s.completePacket port q x 0 0)

/-- A read of the word that an HWAIT names (R249): a fault completes it, and so does a value that is large enough. -/
def State.pollWait (s : State) (port : Fin 2) (q : Fin 16) (x : Packet) : State :=
  let sp := s.packetSpace port x.regid
  let a := x.num 0x10 8
  if (s.region? x.regid).isNone then s.completePacket port q x 4 0
  else if !s.rangeOk sp a 8 false then s.completePacket port q x 5 0
  else
    match s.hostReach port sp a false with
    | (s, none) => s.completePacket port q x 5 0
    | (s, some l) =>
      let r := s.readLoc l 8
      if r.2.2 then r.1.completePacket port q x 5 0
      else if x.num 0x18 8 ≤ leNat r.2.1 then r.1.completePacket port q x 0 0
      else r.1.setDone port q x.id 1

/-- HWAIT (R249): the first read. -/
def execHwait (port : Fin 2) (q : Fin 16) (k : Nat) (s : State) : Host.Outcome State Fault Refusal :=
  match s.packet? port q k 8 with
  | none => .next (s.res .stutter)
  | some x => if x.done != 0 then .next (s.res .stutter) else .next (s.pollWait port q x)

/-- HWAIT_POLL (R249): the word is read again. -/
def execHwaitPoll (port : Fin 2) (q : Fin 16) (s : State) : Host.Outcome State Fault Refusal :=
  match (s.queue port q).issued.find? fun x => x.type == 8 && x.done != 0 with
  | none => .next (s.res .stutter)
  | some x => if s.portUp port then .next (s.pollWait port q x) else .next (s.res .stutter)

end Sys2Proof.Machine
end

