-- ==== Sys2Proof/Machine/Gangs.lean ====
section
/-! DEFINITION. Sys2Proof/Machine/Gangs.lean: gangs and their arbiter (spec/12_scheduling.md R256 to R260), with the events LAUNCH,
GANG_RETRY, GANG_END and TEMPO_BOUNDARY (R272). -/

namespace Sys2Proof.Machine

/-! ## Choosing cores (R257, R258) -/

/-- A core reserved by an attempt, with the header and the cluster of its task. -/
structure Grant where
  core : Nat
  pa : Nat
  header : List Byte
  deriving DecidableEq, Repr, Inhabited

/-- A core that is held for the region's RESERVED and stays mapped to it (R254, R458), serves no gang, and has no task saved from
it that must come back to it. -/
def State.keptFor (s : State) (regid : Word) (core : Nat) : Bool :=
  let k := s.core core
  k.slot == .mapped && k.regid == regid && k.heldFor.getLast? == some regid && !s.gangCore core &&
    !s.tasks.any fun t => t.st == .saved && t.slotCore == core && !t.slotCoreSec && t.regid == regid && t.lcore == k.lcore.zeroExtend 16

/-- A core that a gang of the region may take (R257): a free one, or one held for its RESERVED. -/
def State.available (s : State) (regid : Word) (taken : List Grant) (core : Nat) : Bool :=
  let k := s.core core
  s.takes core && (k.slot == .free || s.keptFor regid core) && k.idle && k.heldOk regid && !taken.any fun g => g.core == core

/-- Cores that grants add to those that the region holds. -/
def State.newCores (s : State) (l : List Grant) : Nat := (l.filter fun g => (s.core g.core).slot == .free).length

/-- Cores of the clusters that the region holds already and a gang may take. -/
def State.keptCores (s : State) (regid : Word) (clusters : List Nat) (taken : List Grant) : Nat :=
  ((clusters.flatMap clusterCores).filter fun c => (s.core c).slot == .mapped && s.available regid taken c).length

/-- The clusters of a part's unit that lie in the region's CLUSTERS (R257). -/
def State.unitClusters (s : State) (r : Region) (type unit : Nat) : List Nat :=
  (if type = 0 then [unit] else (List.range 4).map fun i => 4 * unit + i).filter fun k => (s.effClusters r).getLsbD k

/-- The core of a task (R258): the index that LCORE names in the clusters in order, else the lowest physical CORE. -/
def State.pickCore (s : State) (regid : Word) (clusters : List Nat) (lcore : Nat) (taken : List Grant) : Option Nat :=
  match (clusters.map fun k => (clusterCores k).getD (lcore % 64) coreCount).find? (s.available regid taken) with
  | some c => some c
  | none => ((clusters.flatMap clusterCores).filter (s.available regid taken)).min?

/-! ## An attempt (R257 to R259) -/

/-- How an attempt ends: granted, refused for want of cores, or completed with a status and the number of a part. -/
inductive Attempt where
  | granted (l : List Grant)
  | wait (part : Nat)
  | status (n part : Nat)
  deriving DecidableEq, Repr, Inhabited

/-- The physical address and bytes of the header at device-virtual `va`, through the command processor (R207). -/
def State.headerVa (s : State) (p : Fin 2) (sp : Space) (va : Nat) : State × Option (Nat × List Byte) :=
  if !s.rangeOk sp va 256 false then (s, none)
  else
    match s.hostReach p sp va false with
    | (s, none) => (s, none)
    | (s, some l) =>
      match s.hostReach p sp (va + 255) false with
      | (s, none) => (s, none)
      | (s, some _) => (s, some (l.addr, s.hbm.bytes l.addr 256))

/-- The tasks of a part from `i` on. The spec does not rank a task that finds no core before a later header of the part with
LCORE 0xFFFF: here the tasks are taken in header order, and the attempt waits (assumption 108). -/
def State.grantTasks (s : State) (p : Fin 2) (sp : Space) (regid : Word) (clusters : List Nat) (va part : Nat) :
    Nat → Nat → List Grant → State × Attempt
  | 0, _, taken => (s, .granted taken)
  | n + 1, i, taken =>
    match s.headerVa p sp (va + 256 * i) with
    | (s, none) => (s, .status 5 part)
    | (s, some (pa, h)) =>
      if hdrLcore h = 0xFFFF#16 then (s, .status 2 part)
      else
        match s.pickCore regid clusters ((hdrLcore h).toNat % 4096) taken with
        | none => (s, .wait part)
        | some c => s.grantTasks p sp regid clusters va part n (i + 1) (taken ++ [⟨c, pa, h⟩])

/-- The parts from number `part` on. -/
def State.grantParts (s : State) (p : Fin 2) (sp : Space) (r : Region) :
    List (Word × Nat × Nat × Nat × Nat) → Nat → List Grant → State × Attempt
  | [], _, taken => (s, .granted taken)
  | (hdr, type, unit, n, _) :: l, part, taken =>
    let clusters := s.unitClusters r type unit
    if clusters.isEmpty || s.effCores r + s.keptCores r.regid clusters taken < s.heldCores r.regid + s.newCores taken + n then
      (s, .status 3 part)
    else
      match s.grantTasks p sp r.regid clusters hdr.toNat part n 0 taken with
      | (s, .granted taken) =>
        if s.effCores r < s.heldCores r.regid + s.newCores taken then (s, .status 3 part)
        else s.grantParts p sp r l (part + 1) taken
      | x => x

/-- A ring 3 entry for the supervisors of each part's unit (R266): 0 reserve, 1 commit, 2 release. -/
def State.ring3 (s : State) (p : Fin 2) (sp : Space) (r : Region) (g : Gang) (op : Nat) : State :=
  g.parts.foldl (fun s x =>
    match s.headerVa p sp x.1.toNat with
    | (s, some (pa, _)) =>
      (s.unitClusters r x.2.1 x.2.2.1).foldl (fun s k =>
        s.pushRing k 3 (entry32 [(g.id.toNat, 0), (pa, 8), (x.2.2.2.1, 16), (x.2.2.2.2, 20), (op, 24)])) s
    | (s, none) => s) s

/-- A granted core is mapped to the LCORE of its task, its semaphores are cleared, and the task is known (R259). -/
def State.commitOne (s : State) (g : Gang) (x : Grant) : State :=
  let s := s.mapSlot x.core ((hdrLcore x.header).truncate 12) g.regid
  let s := s.modCore x.core fun k => { k with sems := Vector.replicate 64 0#64 }
  let t := { s.newTask g.regid g.id x.header x.pa (clusterOf x.core) 0 with core := x.core }
  let s := s.addTask t
  if t.early || s.prodsFired t then s.enterRing0 t else s

/-- The packet of a gang's LAUNCH completes. -/
def State.endLaunch (s : State) (g : Gang) (status detail : Nat) : State :=
  let p : Fin 2 := Fin.ofNat 2 g.port
  let q : Fin 16 := Fin.ofNat 16 g.pkt.1
  match (s.queue p q).issued.find? fun x => x.id == g.pkt.2 with
  | some x => s.completePacket p q x status detail
  | none => s

/-- The commit (R259): every core mapped, every task runnable, the packet completed. -/
def State.commitGang (s : State) (k : Nat) (g : Gang) (l : List Grant) : State :=
  let first := s.nextTask
  let s := l.foldl (fun s x => s.commitOne g x) s
  let s := { s with gangs := s.gangs.modify k fun g => { g with st := 1, tasks := (List.range l.length).map (first + ·) } }
  s.endLaunch g 0 0

/-- The arbiter takes attempts: its command processor stands, and neither a RESYNC nor a retirement holds it (R257, R279, R303). -/
def State.arbiterOpen (s : State) : Bool := s.resync == 0 && s.retiring.isEmpty && (s.portUp 0 || s.portUp 1)

/-- An attempt of gang `k` (R257 to R259). A refused attempt holds nothing, and is retried at boundaries. -/
def State.tryGang (s : State) (k : Nat) (g : Gang) : State :=
  let p : Fin 2 := Fin.ofNat 2 g.port
  let sp := s.packetSpace p g.regid
  let drop (s : State) : State := { s with gangs := s.gangs.eraseIdx k }
  match s.region? g.regid with
  | none => (drop s).endLaunch g 4 0
  | some r =>
    let s := s.ring3 p sp r g 0
    match s.grantParts p sp r g.parts 0 [] with
    | (s, .granted l) => (s.ring3 p sp r g 1).commitGang k g l
    | (s, .wait _) =>
      let s := s.ring3 p sp r g 2
      { s with gangs := s.gangs.modify k fun g => { g with fresh := false } }
    | (s, .status n part) => (drop (s.ring3 p sp r g 2)).endLaunch g n part

/-- The oldest LAUNCH that the arbiter has not attempted: it takes them in arrival order (R257). -/
def State.nextLaunch (s : State) : Option Nat := s.gangs.findIdx? fun g => g.st == 0 && g.fresh

/-- Every waiting gang is attempted once, in arrival order (R259): `l` lists their packets. -/
def State.retryGangs (s : State) : List (Nat × Nat × Nat) → State
  | [] => s
  | x :: l =>
    match s.gangs.findIdx? fun g => g.st == 0 && g.port == x.1 && g.pkt == x.2 with
    | some k => ((s.gangs[k]?).elim s (s.tryGang k)).retryGangs l
    | none => s.retryGangs l

/-- The die whose command processor holds the arbiter (R257). -/
def State.arbiterDie (s : State) : Nat := if s.portUp 0 then 0 else 15

/-- TEMPO_BOUNDARY (R272): a boundary of a cluster whose supervisor runs; at that of the arbiter's die, waiting gangs are tried
again (R259). -/
def execTempoBoundary (cluster : Nat) (s : State) : Host.Outcome State Fault Refusal :=
  if 64 ≤ cluster then .fault .noSuchAgent
  else if s.supervised cluster && s.dueSave cluster then .next (s.res .stutter)
  else
    let s := if cluster = 4 * s.arbiterDie && s.arbiterOpen then
        s.retryGangs ((s.gangs.filter fun g => g.st == 0).map fun g => (g.port, g.pkt))
      else s
    .next (if s.supervised cluster then s.boundary cluster else s.res .stutter)

/-! ## LAUNCH, GANG_RETRY -/

/-- The gang that a LAUNCH names. -/
def gangOf (p : Fin 2) (q : Fin 16) (x : Packet) : Gang :=
  { id := BitVec.ofNat 64 (x.num 0x10 8), regid := x.regid, donesig := BitVec.ofNat 64 (x.num 0x18 8), port := p.val,
    parts := (List.range (x.num 0x20 4)).map fun i =>
      let o := 0x28 + 16 * i
      (BitVec.ofNat 64 (x.num o 8), x.num (o + 8) 1, x.num (o + 9) 1, x.num (o + 10) 2, x.num (o + 12) 4),
    tasks := [], fresh := true, st := 0, pkt := (q.val, x.id), suspect := none }

/-- DONESIG is 0 or reaches a word (R207). -/
def State.donesigOk (s : State) (p : Fin 2) (sp : Space) (d : Word) : State × Bool :=
  if d = 0#64 then (s, true)
  else if !s.rangeOk sp d.toNat 8 true then (s, false)
  else
    match s.hostReach p sp d.toNat true with
    | (s, some _) => (s, true)
    | (s, none) => (s, false)

/-- LAUNCH (R256 to R259): the gang reaches the arbiter, which takes it at once unless it is closed or has an earlier one to take. -/
def execLaunch (port : Fin 2) (q : Fin 16) (k : Nat) (s : State) : Host.Outcome State Fault Refusal :=
  match s.packet? port q k 1 with
  | none => .next (s.res .stutter)
  | some x =>
    if x.done != 0 then .next (s.res .stutter)
    else if (s.region? x.regid).isNone then .next (s.completePacket port q x 4 0)
    else
      let g := gangOf port q x
      match s.donesigOk port (s.packetSpace port x.regid) g.donesig with
      | (s, false) => .next (s.completePacket port q x 5 0)
      | (s, true) =>
        let first := s.nextLaunch.isNone
        let s := { s.setDone port q x.id 1 with gangs := s.gangs ++ [g] }
        .next (if first && s.arbiterOpen then s.tryGang (s.gangs.length - 1) g else s)

/-- GANG_RETRY (R257, R259): the attempt of gang `k`, whose LAUNCH came while the arbiter took none, in its turn. Those refused
are tried again at each boundary. -/
def execGangRetry (k : Nat) (s : State) : Host.Outcome State Fault Refusal :=
  match s.gangs[k]? with
  | none => .next (s.res .stutter)
  | some g => if s.nextLaunch == some k && s.arbiterOpen then .next (s.tryGang k g) else .next (s.res .stutter)

/-! ## GANG_END (R260) -/

/-- Every task of a gang has ended. -/
def State.gangOver (s : State) (g : Gang) : Bool := g.tasks.all fun key => (s.task? key).all fun t => t.st == .ended

/-- The word at DONESIG goes up by 1, as one piece; a word that cannot be reached stays. -/
def State.signalDone (s : State) (g : Gang) : State :=
  let p : Fin 2 := Fin.ofNat 2 g.port
  let sp := s.packetSpace p g.regid
  if g.donesig = 0#64 then s
  else
    match s.hostReach p sp g.donesig.toNat true with
    | (s, none) => s
    | (s, some l) =>
      let r := s.readLoc l 8
      r.1.writeLoc l (natBytes 8 (leNat r.2.1 + 1)) r.2.2

/-- The reservation of a task's core is released where nothing else runs on it; one that is held for the region's RESERVED stays
mapped to it (R254, R458). -/
def State.releaseCore (s : State) (key : Nat) : State :=
  match s.task? key with
  | none => s
  | some t =>
    match s.resolve t.regid (t.lcore.truncate 12) with
    | some c => if (s.core c).idle && !(s.core c).heldFor.contains t.regid then s.modCore c Core.freed else s
    | none => s

/-- GANG_END (R260). -/
def execGangEnd (gang : Nat) (s : State) : Host.Outcome State Fault Refusal :=
  match s.gangs[gang]? with
  | none => .next (s.res .stutter)
  | some g =>
    if g.st = 0 || !s.gangOver g then .next (s.res .stutter)
    else
      let s := g.tasks.foldl State.releaseCore (s.signalDone g)
      .next { s with gangs := s.gangs.eraseIdx gang }

end Sys2Proof.Machine
end

