-- ==== Sys2Proof/Machine/Retire.lean ====
section
/-! DEFINITION. Sys2Proof/Machine/Retire.lean: die retirement and failure (spec/13_traps_preemption.md R303, R304), RESYNC
(spec/12_scheduling.md R279) and the events of a die: RETIRE, RETIREMENT_REQUEST, DIE_FAILURE, RESYNC, JUNCTION_LIMIT,
DIE_RESET and SCRUB. -/

namespace Sys2Proof.Machine

/-- The clusters and cores of a die. -/
def dieClusters (d : Nat) : List Nat := (List.range 4).map fun i => 4 * d + i
def dieCores (d : Nat) : List Nat := (List.range 256).map fun i => 256 * d + i

/-! ## Retirement (R303) -/

/-- A retirement begins: the arbiter takes no new attempt, and every task on the die stops. -/
def State.beginRetire (s : State) (d port q id : Nat) : State :=
  let s := { s with retiring := s.retiring ++ [(d, port, q, id)] }
  (s.tasks.filter fun t => t.live && dieOf t.core == d).foldl (fun s t => s.stopTask t.key 1) s

/-- No task of the die is bound any more, and no loader is at work there. -/
def State.retireReady (s : State) (d : Nat) : Bool :=
  (s.tasks.all fun t => !((t.live || t.loading) && dieOf t.core == d)) && s.cores.all fun e => dieOf e.1 != d || e.2.jobs.isEmpty

/-- The target of a region's logical core (R303 step 3): first a core held for its SPARE, then a free one of its clusters. -/
def State.retireTarget (s : State) (d : Nat) (regid : Word) : Option Nat :=
  match s.region? regid with
  | none => none
  | some r =>
    let l := (sortBy (fun a b => a < b) ((clustersOf (s.effClusters r)).flatMap clusterCores)).filter fun c =>
      let k := s.core c
      s.takes c && dieOf c != d && k.slot == .free && k.idle && (k.heldOk regid || k.spareFor.getLast? == some regid)
    match l.find? fun c => !(s.core c).spareFor.isEmpty with
    | some c => some c
    | none => l.head?

/-- A cluster for a task whose logical core found no target: the first of its region's that is in service. -/
def State.otherCluster (s : State) (d : Nat) (regid : Word) : Nat :=
  match s.region? regid with
  | none => 0
  | some r => ((clustersOf (s.effClusters r)).find? fun k => k / 4 != d && s.takes ((clusterCores k).getD 0 coreCount)).getD 0

/-- A task of the die goes to another cluster's ring 0. -/
def State.moveTask (s : State) (key cluster : Nat) : State :=
  match s.task? key with
  | none => s
  | some t =>
    let s := (s.unlist t).pushRing cluster 0 (ring0Entry t)
    s.modTask key fun t => { t with cluster := cluster, since := (s.cluster cluster).boundary, waited := 0 }

/-- A mapped core of the die on which nothing runs, and whose logical core tasks saved without its core section will resume on
(R294): the section is saved with the first of them. -/
def State.saveSection (s : State) (core : Nat) : State :=
  let k := s.core core
  match k.slot == .mapped, s.tasks.find? fun t =>
      t.st == .saved && t.slotCore == core && !t.slotCoreSec && t.regid == k.regid && t.lcore == k.lcore.zeroExtend 16 with
  | true, some t =>
    let s := (s.moveImages core true 0#4).writeSlot core t.key true []
    let s := s.modTask t.key fun t =>
      { t with
        slotCoreSec := true, owners := k.mailboxes.toList.map (·.owner), arms := k.arming, chosen := k.chosen
        held := (k.incs.map .incr) ++ k.ingress.map .message
        stash := t.stash.map fun m => m.splice 0 0x322000 (s.hbm.slice (slotBase core) 0x322000) }
    (s.modCore core fun k => k.afterSave t.key true).markSlot core
  | _, _ => s

/-- A logical core saved on the die, by the task saved with its core section, goes to its target, or waits without one, and so do
the tasks saved before it (R303 steps 3 and 6). -/
def State.moveCore (s : State) (d key : Nat) : State :=
  match s.task? key with
  | none => s
  | some t =>
    let keys := (s.tasks.filter fun v => v.st == .saved && v.regid == t.regid && v.lcore == t.lcore && dieOf v.slotCore == d).map (·.key)
    match s.resolve t.regid (t.lcore.truncate 12) with
    | some c => keys.foldl (fun s key => s.moveTask key (clusterOf c)) s
    | none =>
      match s.retireTarget d t.regid with
      | some c => keys.foldl (fun s key => s.moveTask key (clusterOf c)) (s.mapSlot c (t.lcore.truncate 12) t.regid)
      | none => keys.foldl (fun s key => s.moveTask key (s.otherCluster d t.regid)) s

/-- Where a residency entry of the die goes (R303 step 4): the cluster of the logical core that it names. The entry of a pool,
or of a logical core without a target, goes where the tasks of its context without a target wait (assumption 91). -/
def State.entryTarget (s : State) (d : Nat) (e : ResEntry) : Nat :=
  let named := if e.loc.getLsbD 63 then none else
    s.cores.find? fun c => c.2.slot != .free && c.2.lcore == e.loc.extractLsb' 46 12 && s.contextOf c.2.regid == e.context
  match named with
  | some c => clusterOf c.1
  | none => s.otherCluster d e.context

/-- The entries of a table move; the number that dropped (R226, R303). The spec does not say what becomes of an entry that meets one
of its context and chunk ID in the table it moves to: here it replaces that one, which the number leaves out (assumption
104). -/
def State.moveEntries (s : State) (d cluster : Nat) : State × Nat :=
  let l := (s.cluster cluster).resid
  let s := s.modCluster cluster fun k => { k with resid := [] }
  l.foldl (fun r e =>
    let k := r.1.entryTarget d e
    let t := (r.1.cluster k).resid.filter fun x => !(x.context == e.context && x.id == e.id)
    if 8192 ≤ t.length then (r.1, r.2 + 1) else (r.1.modCluster k fun v => { v with resid := t ++ [e] }, r.2)) (s, 0)

/-- Regions with a task on a die, bound or saved there. -/
def State.taskRegions (s : State) (d : Nat) : List Word :=
  (s.tasks.filter fun t => ((t.live || t.loading) && dieOf t.core == d) || (t.st == .saved && dieOf t.slotCore == d)).map (·.regid)

/-- Regions that a die's retirement concerns: those with a core or a task on it. -/
def State.dieRegions (s : State) (d : Nat) : List Word :=
  (((s.cores.filter fun e => dieOf e.1 == d && e.2.slot != .free).map (·.2.regid)) ++ s.taskRegions d).dedup

/-- A task that was moved resumes (R303 step 5); one that was saved without its core section does so after the section. -/
def State.resumeMoved (s : State) (key : Nat) : State :=
  match s.task? key with
  | none => s
  | some t =>
    match s.resolve t.regid (t.lcore.truncate 12) with
    | some c =>
      let s := if (s.core c).slot == .mapped && s.fits t c then s.bindAt t ⟨c, t.lcore.truncate 12, false⟩ false else s
      s.modTask key fun t => { t with why := if t.loading then 1 else 0 }
    | none => s.modTask key fun t => { t with why := 0 }

/-- A task that a retirement moved is still being resumed (R303). -/
def State.moving (s : State) : Bool := s.tasks.any fun t => t.st == .saved && t.loading && t.why == 1

/-- Steps 3 to 6 of R303, once every task of the die is saved. -/
def State.finishRetire (s : State) (d : Nat) : State :=
  let regids := s.dieRegions d
  let keys := (s.tasks.filter fun t => t.st == .saved && dieOf t.slotCore == d && t.why == 1).map (·.key)
  let waiting := (s.tasks.filter fun t => (t.st == .waiting || t.st == .dependent) && t.cluster / 4 == d).map (·.key)
  let s := s.modDie d fun v => { v with health := .retired }
  let s := (dieCores d).foldl (fun s c => (s.saveSection c).modCore c Core.freed) s
  let secs := (s.tasks.filter fun t => t.st == .saved && t.slotCoreSec && dieOf t.slotCore == d).map (·.key)
  let s := secs.foldl (fun s key => s.moveCore d key) s
  let s := waiting.foldl (fun s key => s.moveTask key (s.otherCluster d (s.regidOf key))) s
  let r := (dieClusters d).foldl (fun (r : State × Nat) k => let x := r.1.moveEntries d k; (x.1, r.2 + x.2)) (s, 0)
  let sec := keys.filter fun key => (s.task? key).any (·.slotCoreSec)
  let s := (sec ++ keys.filter (!sec.contains ·)).foldl (fun s key => s.resumeMoved key) r.1
  regids.foldl (fun s id =>
    s.report id (noticeWords 0#64 id 0 4 (BitVec.ofNat 64 (r.2 % 65536 * 2 ^ 48)) 0#64 (BitVec.ofNat 64 d))) s

/-- A retirement under way goes on: none until its tasks are saved. -/
def State.retireOn (s : State) (d : Nat) : Option State :=
  if s.retireReady d then
    let s := s.finishRetire d
    some { s with retiring := s.retiring.filter fun r => r.1 != d }
  else none

/-- Tasks of the die that still run stop (R303 step 2). -/
def State.stopDie (s : State) (d : Nat) : State :=
  (s.tasks.filter fun t => (t.st == .running || t.st == .draining) && dieOf t.core == d).foldl (fun s t => s.stopTask t.key 1) s

/-- RETIRE (R303): the retirement begins, and once its tasks are saved it is carried out; the packet completes when every task of
the die has resumed or waits. -/
def execRetire (port : Fin 2) (q : Fin 16) (k : Nat) (s : State) : Host.Outcome State Fault Refusal :=
  match s.packet? port q k 9 with
  | none => .next (s.res .stutter)
  | some x =>
    let d := x.num 0x10 1
    let h := (s.die d).health
    if x.done = 2 then (if s.moving then .next (s.res .stutter) else .next (s.completePacket port q x 0 0))
    else if h == .retired || h == .failed then .next (s.completePacket port q x 0 0)
    else if x.done = 0 then
      .next ((if s.retiring.any fun r => r.1 == d then s else s.beginRetire d port.val q.val x.id).setDone port q x.id 1)
    else
      match s.retireOn d with
      | none => .next ((s.stopDie d).res .stutter)
      | some s => .next (if s.moving then s.setDone port q x.id 2 else s.completePacket port q x 0 0)

/-- RETIREMENT_REQUEST (R303, R269): signal 7 to the die's supervisors, and the retirement; the event that finds its tasks saved
carries it out. -/
def execRetirementRequest (die : Fin 16) (s : State) : Host.Outcome State Fault Refusal :=
  let d := die.val
  let h := (s.die d).health
  if h == .retired || h == .failed then .next (s.res .stutter)
  else if s.retiring.any fun r => r.1 == d then
    match s.retireOn d with
    | none => .next ((s.stopDie d).res .stutter)
    | some s => .next s
  else
    let s := (dieClusters d).foldl (fun s k => s.modCluster k fun v => { v with events := v.events ||| 0x80#8 }) s
    let s := s.modDie d fun v => { v with health := .degraded }
    .next (s.beginRetire d 2 0 0)

/-! ## Failure (R304) -/

/-- The bytes that the pieces of an in-flight command reach lie behind a die, seen from its core. -/
def State.cmdCrosses (s : State) (core d : Nat) (c : StrCmd) : Bool :=
  let sp := s.spaceOf core c.task
  let hits (home : Nat) (w : Walk) (a : Nat) : Bool :=
    match s.reachNow sp home w.tag a with
    | some l => (route (dieOf core) l.die).contains d
    | none => false
  (c.phase == .flight || c.phase == .held) && (c.kind == .copy || c.kind == .dcmp || c.kind == .fill || c.kind == .csum) &&
    ((c.srcPieces.any fun p => hits core c.source p.addr) ||
      (List.range c.ndst).any fun n => (c.dstPieces n).any fun p => hits (c.cores.getD n core) (c.dest n) p.addr)

/-- Regions that depend on a die (R304): a task, a command, a parked packet, or traffic routed through it. -/
def State.dependRegions (s : State) (d : Nat) : List Word :=
  (s.taskRegions d ++
    (s.cores.flatMap fun e => (e.2.sq.filter fun c => dieOf e.1 == d || s.cmdCrosses e.1 d c).map fun c => s.regidOf c.task) ++
    (s.packets.filterMap fun p =>
      match s.coll? p.coll with
      | some c =>
        let here := match p.at_ with
          | .core l => match s.ctxTarget c.regid p.ctx l with
            | some (.live x) => dieOf x == d || (s.fromDie c p).any fun a => (route a (dieOf x)).contains d
            | some t => dieOf (s.targetCore t) == d
            | none => false
          | .link n => n.val == d || (s.fromDie c p).any fun a => (route a n.val).contains d
          | .away => false
        if here || (c.origin < coreCount && dieOf c.origin == d) then some c.regid else none
      | none => none)).dedup

/-- RESYNCs that gather at the ports that stand. -/
def State.gathering (s : State) : Nat :=
  (([0, 1] : List (Fin 2)).filter s.portUp).foldl (fun n p =>
    (s.port p).queues.toList.foldl (fun n q => n + (q.issued.filter fun x => x.type == 10 && x.done != 0).length) n) 0

/-- DIE_FAILURE (R304, R25). -/
def execDieFailure (die : Fin 16) (s : State) : Host.Outcome State Fault Refusal :=
  let d := die.val
  if (s.die d).health == .failed then .next (s.res .stutter)
  else
    let ids := s.dependRegions d
    let s := ids.foldl (fun s id => s.endRegion id 5 causeDieFailed (BitVec.ofNat 64 d)) s
    let s := s.modDie d fun v => { v with health := .failed }
    let s := s.modLink die fun v => { v with st := 3#2 }
    .next { s with retiring := s.retiring.filter (fun r => r.1 != d), resync := s.gathering }

/-! ## RESYNC (R279) -/

/-- An entry of the summary. -/
def summaryEntry (kind st id v1 v2 : Nat) : List Byte :=
  natBytes 1 kind ++ natBytes 1 st ++ List.replicate 6 0#8 ++ natBytes 8 id ++ natBytes 8 v1 ++ natBytes 8 v2

/-- Entries in ascending ID. -/
def byId (l : List (Nat × List Byte)) : List Byte := (sortBy (fun a b => a.1 < b.1) l).flatMap (·.2)

def Health.code : Health → Nat
  | .healthy => 0
  | .degraded => 1
  | .retired => 2
  | .failed => 3

def State.countTasks (s : State) (f : Task → Bool) : Nat := (s.tasks.filter f).length

/-- SEQ of the packet at the head of a queue, 0 when it is empty; one in a ring that the port has lost is a free value of its
queue (assumption 90). -/
def State.headSeq (s : State) (p : Fin 2) (q : Fin 16) : Nat :=
  let v := s.queue p q
  match v.fetched with
  | k :: _ => k.seq
  | [] =>
    if v.head = v.tail then 0
    else leNat (if v.qbase.getLsbD 63 then readCells (s.port p).host (ringAddr v.qbase + v.head + 4) 4
      else if s.portLost p (ringAddr v.qbase + v.head) then freeBytes (s.free + 64 * p.val + 4 * q.val) 4
      else s.hbm.bytes (ringAddr v.qbase + v.head + 4) 4)

/-- The faults that RESYNC reports: by region, with STATE, cause or kind, and place. A held command's, with its pointer, and
those of commands that have failed and whose causes are pending, with their core (assumption 68). -/
def State.summaryFaults (s : State) : List (Nat × List Byte) :=
  s.cores.flatMap fun e =>
    (e.2.sq.filterMap fun c =>
      match c.phase, c.fault with
      | .held, some f =>
        let id := (s.regidOf c.task).toNat
        some (id, summaryEntry 4 (if f.reported then 1 else 0) id f.kind f.addr.toNat)
      | _, _ => none) ++
    e.2.strands.toList.flatMap fun t => t.async.map fun v =>
      let id := (s.regidOf t.task).toNat
      (id, summaryEntry 4 0 id (v.toNat % 256) e.2.lcore.toNat)

/-- The entries of the summary: regions, gangs, queues, faults. -/
def State.summaryEntries (s : State) : List Byte :=
  byId (s.regions.map fun r => (r.regid.toNat, summaryEntry 1 (if r.ending then 1 else 0) r.regid.toNat (s.heldCores r.regid)
    (s.countTasks fun t => t.regid == r.regid && t.waits))) ++
  byId (s.gangs.map fun g => (g.id.toNat, summaryEntry 2 g.st g.id.toNat
    (s.countTasks fun t => g.tasks.contains t.key && t.live) (s.countTasks fun t => g.tasks.contains t.key && t.waits))) ++
  byId ((List.range 32).filterMap fun i =>
    let p : Fin 2 := Fin.ofNat 2 (i / 16)
    let q : Fin 16 := Fin.ofNat 16 i
    let v := s.queue p q
    let id := i / 16 * 256 + i % 16
    if v.en || v.halted then
      some (id, summaryEntry 3 (if v.halted then 1 else if v.waiting then 2 else 0) id v.head (s.headSeq p q))
    else none) ++
  byId s.summaryFaults

/-- The summary for LEN bytes. -/
def State.summary (s : State) (len : Nat) : List Byte :=
  let l := s.summaryEntries
  let room := (len - 64) / 32
  let n := min room (l.length / 32)
  let health := (List.range 16).foldl (fun m d => m + (s.die d).health.code * 16 ^ d) 0
  ((natBytes 4 n ++ natBytes 4 (if n < l.length / 32 then 1 else 0) ++ natBytes 8 health ++ List.replicate 48 0#8) ++
    l.take (32 * n)).take len

/-- Bytes written through a pointer by a command processor, in aligned words; false on a fault. -/
def State.hostWrite (s : State) (p : Fin 2) (sp : Space) : Nat → Nat → List Byte → State × Bool
  | 0, _, _ => (s, true)
  | fuel + 1, ptr, l =>
    if l.isEmpty then (s, true)
    else
      let n := 8 - ptr % 8
      match s.hostReach p sp ptr true with
      | (s, none) => (s, false)
      | (s, some loc) => (s.writeLoc loc (l.take n) false).hostWrite p sp fuel (ptr + n) (l.drop n)

/-- What a RESYNC has gathered is kept with its packet. -/
def State.keepSummary (s : State) (p : Fin 2) (q : Fin 16) (id : Nat) (l : List Byte) : State :=
  s.modQueue p q fun v => { v with issued := v.issued.map fun x => if x.id == id then { x with gathered := l } else x }

/-- The region through whose context a RESYNC reaches DEST: its REGID is 0 (R248), so the first root region of its port stands
in. -/
def State.resyncRegion (s : State) (p : Fin 2) : Word :=
  ((s.regions.find? fun r => r.parent == 0 && r.port == p.val).map (·.regid)).getD 0#64

/-- RESYNC (R279): the gather begins, with signal 6 to every supervisor and their state as it stands; the second event ends it
and writes the summary. -/
def execResync (port : Fin 2) (q : Fin 16) (k : Nat) (s : State) : Host.Outcome State Fault Refusal :=
  match s.packet? port q k 10 with
  | none => .next (s.res .stutter)
  | some x =>
    if x.done = 0 then
      let s := (List.range 64).foldl (fun s c => s.modCluster c fun v => { v with events := v.events ||| 0x40#8 }) s
      let s := s.modPort port fun v => { v with resyncst := v.resyncst ||| 1#64 }
      .next (({ s with resync := s.resync + 1, free := s.free + 128 }.setDone port q x.id 1).keepSummary port q x.id (s.summary (x.num 0x18 8)))
    else
      let sp : Space := s.packetSpace port (s.resyncRegion port)
      let dest := x.num 0x10 8
      let l := x.gathered
      let r := if s.rangeOk sp dest l.length true then s.hostWrite port sp (l.length + 1) dest l else (s, false)
      let s := { r.1 with resync := r.1.resync - 1 }
      let s := s.modPort port fun v => { v with resyncst := BitVec.ofNat 64 (x.seq * 2 ^ 32) }
      .next (s.completePacket port q x (if r.2 then 0 else 5) 0)

/-! ## Events of a die and of a core -/

/-- JUNCTION_LIMIT (R325): idle clocks between engine commands; no result changes. -/
def execJunctionLimit (die : Fin 16) (s : State) : Host.Outcome State Fault Refusal :=
  .next (s.modDie die.val fun v => { v with idle := true })

/-- DIE_RESET (R18, R139, R150, R178): the die leaves reset, with CYC, planes, semaphores and conflict counts clear. -/
def execDieReset (die : Fin 16) (s : State) : Host.Outcome State Fault Refusal :=
  if (s.die die.val).up then .next (s.res .stutter)
  else
    let s := s.modDie die.val fun v => { v with up := true, cyc := 0#64 }
    .next ((s.cores.filter fun e => dieOf e.1 == die.val).foldl (fun s e =>
      s.modCore e.1 fun k => { k with planes := Vector.replicate 4 Plane.reset, sems := Vector.replicate 64 0#64, conflicts := 0#64 }) s)

/-- Lines of a bank group (R137, R142). -/
def groupLines : Nat := 12288

/-- SCRUB (R142): the next line of a group is read and written back as it is. -/
def execScrub (core : Nat) (group : Fin 4) (s : State) : Host.Outcome State Fault Refusal :=
  if coreCount ≤ core then .fault .noSuchAgent
  else .next (s.modCore core fun k => { k with scrub := k.scrub.set group ((k.scrub.get group + 1) % groupLines) })

end Sys2Proof.Machine
end

