-- ==== Sys2Proof/Machine/Window.lean ====
section
/-! DEFINITION. Sys2Proof/Machine/Window.lean: the host window (spec/14_host_links_boot_power.md R305 to R313, R315, R319, R323,
R326), with the events DOORBELL, QCTL_ENABLE, QCTL_DISABLE, RESTART, CHEAD, DEVNUM, PWRLIM, LINKCTX, ATTCMD_REPORT,
ATTCMD_CHAIN, BOOTGO, HOST_REGISTER_WRITE and HOST_PORT_LINK_TRAINING. -/

namespace Sys2Proof.Machine

/-- STAGE of BOOTSTAT (R316). -/
def State.stage (s : State) : Nat := (s.bootstat.extractLsb' 0 4).toNat

/-! ## Queue registers (R308 to R311) -/

/-- QCTL as it reads (R308). -/
def HostQueue.ctl (v : HostQueue) : Word :=
  BitVec.ofNat 64 (v.vec.toNat * 2 ^ 10 + (if v.irq then 2 ^ 9 else 0) + (if v.cfgerr then 2 ^ 7 else 0) +
    (if v.fetcherr then 2 ^ 6 else 0) + (if v.dberr then 2 ^ 5 else 0) + (if v.halted then 2 ^ 4 else 0) +
    (if v.skip then 2 ^ 3 else 0) + if v.en then 1 else 0)

/-- A base that an enable admits for a ring of `n` bytes (R308, R309). -/
def baseOk (b : Word) (n : Nat) : Bool :=
  b.extractLsb' 52 11 == 0#11 && ringAddr b % n == 0 && (b.getLsbD 63 || tableRoom (ringAddr b) n)

/-- The configuration that an enable checks (R308, R309). -/
def HostQueue.configOk (v : HostQueue) : Bool :=
  let n := v.qsize.toNat % 32
  let m := v.qsize.toNat / 2 ^ 8 % 32
  v.qsize &&& ~~~0x1F1F#64 == 0#64 && 12 ≤ n && n ≤ 20 && 8 ≤ m && m ≤ 16 && baseOk v.qbase (2 ^ n) && baseOk v.cbase (2 ^ m)

/-- EN goes from 0 to 1 (R309). -/
def HostQueue.enable (v : HostQueue) : HostQueue :=
  if v.configOk then
    { v with
      en := true, head := 0, tail := 0, chead := 0, ctail := 0, cfgerr := false, dberr := false, fetcherr := false, fetchAt := 0,
      fetched := [] }
  else { v with en := false, cfgerr := true }

/-- A halted queue restarts (R311): SKIP passes over the packet at the head. The length of one in a ring that the port has lost
is that of free bytes (assumption 90). -/
def State.restartQueue (s : State) (p : Fin 2) (q : Fin 16) (skip : Bool) : State :=
  let v := s.queue p q
  if !v.halted then s
  else
    let lost : Bool := !v.qbase.getLsbD 63 && s.portLost p (ringAddr v.qbase + v.head)
    let h := if v.qbase.getLsbD 63 then readCells (s.port p).host (ringAddr v.qbase + v.head) 16
      else if lost then freeBytes s.free 16
      else s.hbm.bytes (ringAddr v.qbase + v.head) 16
    let head := if skip then (v.head + packetLength v.size v.head h) % v.size else v.head
    let s := if lost then { s with free := s.free + 16 } else s
    s.modQueue p q fun v => { v with halted := false, head := head, fetchAt := head, fetched := [] }

/-- A write of QCTL that sets no reserved bit (R308, R309, R311). -/
def State.writeQctl (s : State) (p : Fin 2) (q : Fin 16) (w : Word) : State :=
  if w.extractLsb' 16 48 != 0#48 || w.getLsbD 8 || w.getLsbD 1 then s
  else
    let s := s.modQueue p q fun v =>
      let was := v.en
      let v := { v with vec := w.extractLsb' 10 6, irq := w.getLsbD 9, skip := w.getLsbD 3, en := w.getLsbD 0 }
      if w.getLsbD 0 && !was then { v with en := false }.enable
      else if !w.getLsbD 0 && was then { v with fetched := [] }
      else v
    if w.getLsbD 2 then s.restartQueue p q (w.getLsbD 3) else s

/-- A write of a queue register at offset `o` of its 64 bytes (R309, R310). -/
def State.writeQueue (s : State) (p : Fin 2) (q : Fin 16) (o : Nat) (w : Word) : State :=
  match o with
  | 0x00 => s.modQueue p q fun v => if v.en then v else { v with qbase := w }
  | 0x08 => s.modQueue p q fun v => if v.en then v else { v with qsize := w }
  | 0x10 => s.modQueue p q fun v => if v.en then v else { v with cbase := w }
  | 0x18 => s.modQueue p q fun v =>
      if w.toNat % 16 = 0 && w.toNat < v.size then { v with tail := w.toNat } else { v with dberr := true }
  | 0x28 => s.modQueue p q fun v =>
      if w.toNat % 16 = 0 && w.toNat < v.recSize then { v with chead := w.toNat } else { v with dberr := true }
  | 0x38 => s.writeQctl p q w
  | _ => s

def State.readQueue (s : State) (p : Fin 2) (q : Fin 16) (o : Nat) : Word :=
  let v := s.queue p q
  match o with
  | 0x00 => v.qbase
  | 0x08 => v.qsize
  | 0x10 => v.cbase
  | 0x18 => BitVec.ofNat 64 v.tail
  | 0x20 => BitVec.ofNat 64 v.head
  | 0x28 => BitVec.ofNat 64 v.chead
  | 0x30 => BitVec.ofNat 64 v.ctail
  | 0x38 => v.ctl
  | _ => 0#64

/-! ## Shared registers (R306, R313, R314, R315, R326) -/

/-- DEVNUM (R313): the first write that sets no reserved bit stands. -/
def State.writeDevnum (s : State) (w : Word) : State :=
  if s.devnum.getLsbD 12 || w.extractLsb' 13 51 != 0#51 then s else { s with devnum := 0x1000#64 ||| (w &&& 0xFFF#64) }

/-- PWRLIM (R326). -/
def State.writePwrlim (s : State) (w : Word) : State :=
  if w.extractLsb' 12 52 != 0#52 then s else { s with pwrlim := BitVec.ofNat 64 (min (max w.toNat 1200) 2400) }

/-- A REGID of a block with CONTEXT = 1 whose root was created through a port (R315). -/
def State.ownContext (s : State) (p : Fin 2) (w : Word) : Bool :=
  match s.region? w with
  | some r => r.context && r.port == p.val
  | none => false

/-- LINKCTX (R315). -/
def State.writeLinkctx (s : State) (p : Fin 2) (n : Fin 16) (w : Word) : State :=
  let cur := (s.link n).ctx
  let ok := if cur = 0#64 then s.ownContext p w else s.ownContext p cur && (w == 0#64 || s.ownContext p w)
  if ok then s.modLink n fun v => { v with ctx := w } else s

/-- LINKSTAT (R314). -/
def Link.status (v : Link) : Word :=
  v.retries.zeroExtend 64 <<< 32 ||| v.peerLink.zeroExtend 64 <<< 16 ||| v.peerDev.zeroExtend 64 <<< 4 ||| v.st.zeroExtend 64

/-! ## Attestation (R319) -/

/-- The identity key of the device under a firmware digest (R318). -/
def identityKey (digest : List Byte) : List Byte := Config.identityKey Config.deviceSecret digest

/-- The certificate chain (R318): root, device, identity. -/
def certificateChain (digest : List Byte) : List Byte :=
  Config.rootCertificate ++ Config.deviceCertificate Config.deviceSecret ++
    Config.identityCertificate Config.deviceSecret (identityKey digest)

/-- 512 bytes of a signature. -/
def signature (digest msg : List Byte) : List Byte :=
  ((Config.pssSign (identityKey digest) msg) ++ List.replicate 512 0#8).take 512

/-- A digest of 64 bytes. -/
def digest64 (l : List Byte) : List Byte := (l ++ List.replicate 64 0#8).take 64

/-- The first 256 bytes of a report. -/
def State.reportHead (s : State) (p : Fin 2) : List Byte :=
  [0x41#8, 0x54#8, 0x54#8, 0x52#8] ++ natBytes 2 1 ++ natBytes 2 (s.devnum.toNat % 2 ^ 12) ++ bytes8 s.bootstat ++
    ((s.port p).attnonce.toList.flatMap bytes8) ++ digest64 Config.romDigest ++ digest64 s.firmware ++ List.replicate 48 0#8

/-- The report of 768 bytes. -/
def State.attReport (s : State) (p : Fin 2) : List Byte := s.reportHead p ++ signature s.firmware (s.reportHead p)

/-- ATTSTAT after output of `n` bytes, or after an error. -/
def attStatus (ok : Bool) (n : Nat) : Word := BitVec.ofNat 64 (if ok then 2 + n % 65536 * 2 ^ 32 else 6)

/-- The output of a port's attestation command (R319): written where ATTADDR points unless it exceeds MAXLEN, or the write fails,
which is free (assumption 17). -/
def State.attest (s : State) (p : Fin 2) : State :=
  let v := s.port p
  if !v.attstat.getLsbD 0 || !s.portUp p then s.res .stutter
  else
    let l := if v.attcmd.extractLsb' 0 2 = 1#2 then s.attReport p else certificateChain s.firmware
    let fits : Bool := l.length ≤ 64 * (v.attcmd.extractLsb' 16 16).toNat
    let s' := { s with free := s.free + 1 }
    if !fits || Config.freeBool s.free then s'.modPort p fun v => { v with attstat := attStatus false 0 }
    else s'.modPort p fun v => { v with host := writeCells v.host v.attaddr.toNat l, attstat := attStatus true l.length }

/-- ATTCMD (R319): a command that is admitted sets BUSY; its output follows. -/
def State.writeAttcmd (s : State) (p : Fin 2) (w : Word) : State :=
  let op := (w.extractLsb' 0 2).toNat
  if op = 0 || op = 3 || w &&& ~~~0xFFFF0003#64 != 0#64 || (s.port p).attstat.getLsbD 0 then s
  else
    s.modPort p fun v => { v with attcmd := w, attstat := 1#64 }

/-! ## BOOTGO (R323) -/

/-- BOOTGO: the message goes to mailbox 0 of the core named; a region of another port's root, or an unknown core, reads
status 3. The spec gives an effect to the value 1 only: a write of any other value is discarded here, also one with bit 0 set
and another bit beside it (assumption 93). -/
def State.writeBootgo (s : State) (p : Fin 2) (w : Word) : State :=
  let v := s.port p
  if w != 1#64 || v.bootstatus.getLsbD 0 then s
  else
    let core := match s.region? v.bootreg with
      | some r => if r.port == p.val then s.resolve v.bootreg (v.bootcore.truncate 12) else none
      | none => none
    match core with
    | none => s.modPort p fun v => { v with bootstatus := bootWord 3 false }
    | some c =>
      let s := s.modPort p fun v => { v with bootstatus := bootWord 0 true }
      s.modCore c fun k => { k with loader := k.loader ++ [((v.bootmsg.set 5 v.bootreg).toList, p.val, 0)] }

/-! ## The window (R306, R307) -/

/-- The register at an offset that is a multiple of 8, as it reads. -/
def State.readReg (s : State) (p : Fin 2) (o : Nat) : Word :=
  let v := s.port p
  if o = 0x0000 then s.bootstat
  else if o = 0x0008 then s.devnum
  else if o = 0x0010 then v.resyncst
  else if o = 0x0018 then s.pwrlim
  else if o = 0x0020 then v.nbase
  else if o = 0x0028 then v.ntail
  else if o = 0x0100 then v.attcmd
  else if o = 0x0108 then v.attaddr
  else if o = 0x0110 then v.attstat
  else if 0x0140 ≤ o && o < 0x0180 then v.attnonce.get (Fin.ofNat 8 ((o - 0x140) / 8))
  else if 0x0200 ≤ o && o < 0x0240 then v.bootmsg.get (Fin.ofNat 8 ((o - 0x200) / 8))
  else if o = 0x0240 then v.bootreg
  else if o = 0x0248 then v.bootcore
  else if o = 0x0258 then v.bootstatus
  else if 0x0400 ≤ o && o < 0x0500 then
    (if o % 16 = 0 then (s.link (Fin.ofNat 16 ((o - 0x400) / 16))).status else (s.link (Fin.ofNat 16 ((o - 0x400) / 16))).ctx)
  else if 0x1000 ≤ o && o < 0x1400 then s.readQueue p (Fin.ofNat 16 ((o - 0x1000) / 64)) (o % 64)
  else 0#64

/-- What a read of the window gives (R306): aligned 8 or 4 bytes; none for any other access, which is an Unsupported Request. A
read changes nothing. -/
def State.windowRead (s : State) (p : Fin 2) (off size : Nat) : Option Word :=
  if size = 8 && off % 8 = 0 then some (s.readReg p off)
  else if size = 4 && off % 8 = 0 then some (s.readReg p off &&& 0xFFFFFFFF#64)
  else if size = 4 && off % 8 = 4 then some (s.readReg p (off - 4) >>> 32)
  else none

/-- Registers that discard writes before STAGE 4: queue, boot and attestation (R316). -/
def lateReg (o : Nat) : Bool := (0x0100 ≤ o && o < 0x0180) || (0x0200 ≤ o && o < 0x0260) || (0x1000 ≤ o && o < 0x1400)

/-- A write of 8 bytes to the register at an offset that is a multiple of 8. -/
def State.writeReg (s : State) (p : Fin 2) (o : Nat) (w : Word) : State :=
  if !s.portUp p || (lateReg o && s.stage < 4) then s
  else if o = 0x0008 then s.writeDevnum w
  else if o = 0x0018 then s.writePwrlim w
  else if o = 0x0020 then (if w.toNat % 4096 = 0 then s.modPort p fun v => { v with nbase := w } else s)
  else if o = 0x0100 then s.writeAttcmd p w
  else if o = 0x0108 then (if w.toNat % 64 = 0 then s.modPort p fun v => { v with attaddr := w } else s)
  else if 0x0140 ≤ o && o < 0x0180 then
    s.modPort p fun v => { v with attnonce := v.attnonce.set (Fin.ofNat 8 ((o - 0x140) / 8)) w }
  else if 0x0200 ≤ o && o < 0x0240 then
    s.modPort p fun v => { v with bootmsg := v.bootmsg.set (Fin.ofNat 8 ((o - 0x200) / 8)) w }
  else if o = 0x0240 then s.modPort p fun v => { v with bootreg := w }
  else if o = 0x0248 then (if w.toNat < 4096 then s.modPort p fun v => { v with bootcore := w } else s)
  else if o = 0x0250 then s.writeBootgo p w
  else if 0x0400 ≤ o && o < 0x0500 then
    (if o % 16 = 8 then s.writeLinkctx p (Fin.ofNat 16 ((o - 0x400) / 16)) w else s)
  else if 0x1000 ≤ o && o < 0x1400 then s.writeQueue p (Fin.ofNat 16 ((o - 0x1000) / 64)) (o % 64) w
  else s

/-- The offset of a queue's register. -/
def queueReg (q : Fin 16) (o : Nat) : Nat := 0x1000 + 64 * q.val + o

/-- HOST_REGISTER_WRITE (R306): an aligned write of 8 bytes, or of 4, which changes its half; any other is
discarded as an unsupported request. -/
def execHostRegisterWrite (port : Fin 2) (off size : Nat) (v : BitVec 64) (s : State) : Host.Outcome State Fault Refusal :=
  if size = 8 && off % 8 = 0 then .next (s.writeReg port off v)
  else if size = 4 && off % 4 = 0 then
    let o := off / 8 * 8
    let old := s.readReg port o
    let w := if off % 8 = 0 then (old &&& 0xFFFFFFFF00000000#64) ||| (v &&& 0xFFFFFFFF#64)
      else (old &&& 0xFFFFFFFF#64) ||| (v <<< 32)
    .next (s.writeReg port o w)
  else .next (if s.portUp port then s.portError port errRequest else s)

/-- DOORBELL (R309). -/
def execDoorbell (port : Fin 2) (q : Fin 16) (v : BitVec 64) (s : State) : Host.Outcome State Fault Refusal :=
  .next (s.writeReg port (queueReg q 0x18) v)

/-- QCTL_ENABLE (R309): a write of QCTL that sets EN from 0 to 1. -/
def execQctlEnable (port : Fin 2) (q : Fin 16) (v : BitVec 64) (s : State) : Host.Outcome State Fault Refusal :=
  if v.getLsbD 0 && !(s.queue port q).en then .next (s.writeReg port (queueReg q 0x38) v) else .next (s.res .stutter)

/-- QCTL_DISABLE (R309): a write of QCTL that clears EN. -/
def execQctlDisable (port : Fin 2) (q : Fin 16) (v : BitVec 64) (s : State) : Host.Outcome State Fault Refusal :=
  if !v.getLsbD 0 && (s.queue port q).en then .next (s.writeReg port (queueReg q 0x38) v) else .next (s.res .stutter)

/-- RESTART (R311): a write of QCTL with RESTART = 1. -/
def execRestart (port : Fin 2) (q : Fin 16) (v : BitVec 64) (s : State) : Host.Outcome State Fault Refusal :=
  if v.getLsbD 2 then .next (s.writeReg port (queueReg q 0x38) v) else .next (s.res .stutter)

/-- CHEAD (R310). -/
def execChead (port : Fin 2) (q : Fin 16) (v : BitVec 64) (s : State) : Host.Outcome State Fault Refusal :=
  .next (s.writeReg port (queueReg q 0x28) v)

/-- DEVNUM (R313). -/
def execDevnum (port : Fin 2) (v : BitVec 64) (s : State) : Host.Outcome State Fault Refusal := .next (s.writeReg port 0x08 v)

/-- PWRLIM (R326). -/
def execPwrlim (port : Fin 2) (v : BitVec 64) (s : State) : Host.Outcome State Fault Refusal := .next (s.writeReg port 0x18 v)

/-- LINKCTX (R315). -/
def execLinkctx (port : Fin 2) (n : Fin 16) (v : BitVec 64) (s : State) : Host.Outcome State Fault Refusal :=
  .next (s.writeReg port (0x408 + 16 * n.val) v)

/-- ATTCMD_REPORT (R319). -/
def execAttcmdReport (port : Fin 2) (v : BitVec 64) (s : State) : Host.Outcome State Fault Refusal :=
  if v.extractLsb' 0 2 = 1#2 then .next (s.writeReg port 0x100 v) else .next (s.res .stutter)

/-- ATTCMD_CHAIN (R319). -/
def execAttcmdChain (port : Fin 2) (v : BitVec 64) (s : State) : Host.Outcome State Fault Refusal :=
  if v.extractLsb' 0 2 = 2#2 then .next (s.writeReg port 0x100 v) else .next (s.res .stutter)

/-- BOOTGO (R323). -/
def execBootgo (port : Fin 2) (v : BitVec 64) (s : State) : Host.Outcome State Fault Refusal := .next (s.writeReg port 0x250 v)

/-- HOST_PORT_LINK_TRAINING (R305): the widest link and the fastest rate, in tenths of GT/s, that the port supports and the other
end admits. -/
def execHostPortLinkTraining (port : Fin 2) (widths rates : List Nat) (s : State) : Host.Outcome State Fault Refusal :=
  match [16, 8, 4, 1].find? widths.contains, [640, 320, 160, 80, 50, 25].find? rates.contains with
  | some w, some r => .next (s.modPort port fun v => { v with width := w, rate := r })
  | _, _ => .next (s.res .stutter)

/-! ## The configuration of a port (R305) -/

/-- The ranges A to D of the completion timeout that Device Control 2 selects, and its default (assumption 92). -/
def timeoutRange (v : BitVec 4) : Bool := [0, 1, 2, 5, 6, 9, 10, 13, 14].contains v.toNat

/-- A write to a port's configuration (R305, assumption 92): lost with the port's die (R25). A request for an absent capability is
unsupported. -/
def State.writeConfig (s : State) (p : Fin 2) (w : ConfigWrite) : State :=
  if !s.portUp p then s
  else match w with
  | .bar v => s.modPort p fun k => { k with bar := (v &&& ~~~0xFFFF#64) ||| 4#64 }
  | .timeout v => if timeoutRange v then s.modPort p fun k => { k with timeout := v } else s
  | .clearErrors v => s.modPort p fun k => { k with errors := k.errors &&& ~~~v }
  | .vector n addr data masked => s.modPort p fun k =>
      let x := k.vecs.get n
      let send : Bool := x.pending && !masked
      let k := { k with vecs := k.vecs.set n ⟨addr, data, masked, x.pending && masked⟩ }
      if send then { k with host := writeCells k.host addr.toNat (natBytes 4 data.toNat) } else k
  | .absent => s.portError p errRequest

/-- A write of the window as a state (R306). -/
def State.windowWrite (s : State) (p : Fin 2) (off size : Nat) (v : Word) : State :=
  match execHostRegisterWrite p off size v s with
  | .next s => s
  | _ => s

end Sys2Proof.Machine
end

