-- ==== Sys2Proof/Machine/Boot.lean ====
section
/-! DEFINITION. Sys2Proof/Machine/Boot.lean: secure boot (spec/14_host_links_boot_power.md R316, R317) and device links (R314,
R315, R22), with the events BOOT, BOOT_FALLBACK, LINK_TRAINING, LINK_LOSS_OF_LOCK, LINK_LEVEL_RETRY and TAG4_PIECE_ARRIVAL. -/

namespace Sys2Proof.Machine

/-! ## Firmware images (R317) -/

/-- LENGTH of an image's body. -/
def imageLen (l : List Byte) : Nat := field l 8 8

/-- The header of an image is not well formed. -/
def imageHeadBad (l : List Byte) : Bool :=
  l.take 4 != [0x49#8, 0x46#8, 0x4B#8, 0x46#8] || field l 4 2 != 1 || 64 < field l 6 1 || !zeros l 7 1 || !zeros l 0x10 48 ||
    l.length < 0x440 + imageLen l

def imageBody (l : List Byte) : List Byte := (l.drop 0x440).take (imageLen l)

/-- The error of an image, 0 when it is accepted (R316, R317): 1 header, 2 key or signature, 3 SVN. -/
def imageError (l : List Byte) (svn : Nat) : Nat :=
  if imageHeadBad l then 1
  else if Config.sha512 ((l.drop 0x40).take 512) != Config.keyDigest ||
      !Config.pssVerifies ((l.drop 0x40).take 512) (l.take 0x240 ++ imageBody l) ((l.drop 0x240).take 512) then 2
  else if field l 6 1 < svn then 3
  else 0

/-! ## BOOTSTAT (R316) -/

def State.bootError (s : State) : Nat := (s.bootstat.extractLsb' 40 8).toNat
def State.bootSvn (s : State) : Nat := (s.bootstat.extractLsb' 32 8).toNat
def State.bootDies (s : State) : BitVec 16 := s.bootstat.extractLsb' 16 16

/-- BOOTSTAT from its fields. -/
def bootstatWord (error svn : Nat) (dies : BitVec 16) (stage : Nat) : Word :=
  BitVec.ofNat 64 (error % 256 * 2 ^ 40 + svn % 256 * 2 ^ 32 + dies.toNat * 2 ^ 16 + stage % 16)

def State.setBoot (s : State) (error svn : Nat) (dies : BitVec 16) (stage : Nat) : State :=
  { s with bootstat := bootstatWord error svn dies stage }

/-- Dies that did not come up are failed hard (R316, R304). -/
def State.failDies (s : State) (dies : BitVec 16) : State :=
  (List.range 16).foldl (fun s d => if dies.getLsbD d then s else s.modDie d fun v => { v with health := .failed }) s

/-- The ROM's stage (R317): image A, then B; the firmware's digest is kept. -/
def State.verifyFirmware (s : State) : State :=
  let a := Config.flashImage false
  let b := Config.flashImage true
  if imageError a s.bootSvn = 0 then
    { s.setBoot 0 s.bootSvn s.bootDies 1 with firmware := Config.sha512 (imageBody a), bootImageB := false }
  else if imageError b s.bootSvn = 0 then
    { s.setBoot 0 s.bootSvn s.bootDies 1 with firmware := Config.sha512 (imageBody b), bootImageB := true }
  else s.setBoot (imageError b s.bootSvn) s.bootSvn s.bootDies 0

/-- The supervisors' private SRAM takes the firmware that they run (R17, R316): the body of the accepted image from offset 0
(assumption 7). -/
def State.loadFirmware (s : State) : State :=
  let body := (imageBody (Config.flashImage s.bootImageB)).take privateSize
  (List.range 64).foldl (fun s k => s.modCluster k fun v => { v with sup := { v.sup with sram := writeCells v.sup.sram 0 body } }) s

/-- One stage of the boot that passes with the dies given (R316): HBM, then fabric, links and supervisors, then the queues, where
the fused SVN rises to the image's. -/
def State.bootOn (s : State) (dies : BitVec 16) : State :=
  match s.stage with
  | 1 => (s.setBoot 0 s.bootSvn dies 2).failDies dies
  | 2 => ((s.setBoot 0 s.bootSvn (s.bootDies &&& dies) 3).failDies (s.bootDies &&& dies)).loadFirmware
  | _ => s.setBoot 0 (max s.bootSvn (field (Config.flashImage s.bootImageB) 6 1)) s.bootDies 4

/-- BOOT (R316, R317): the next stage, on the die whose ROM boots. A non-zero ERROR stops the boot. -/
def execBoot (die : Fin 16) (r : BootResult) (s : State) : Host.Outcome State Fault Refusal :=
  if die != s.bootDie || s.bootError != 0 || 4 ≤ s.stage then .next (s.res .stutter)
  else if s.stage = 0 then .next s.verifyFirmware
  else
    match r with
    | .passes dies => .next (s.bootOn dies)
    | .error _ => if s.stage = 3 then .next (s.res .stutter) else .next (s.setBoot (s.stage + 3) s.bootSvn s.bootDies s.stage)

/-- BOOT_FALLBACK (R316): die 0's ROM has not reached stage 1, and die 15's takes its place. -/
def execBootFallback (s : State) : Host.Outcome State Fault Refusal :=
  if s.bootDie != 0 || s.stage != 0 then .next (s.res .stutter)
  else .next { s.setBoot 0 s.bootSvn s.bootDies 0 with bootDie := 15 }

/-! ## Device links (R314) -/

/-- A link has failed: the collectives whose packets wait at it end their regions (R464). -/
def State.failLink (s : State) (n : Fin 16) : State :=
  let s := s.modLink n fun v => { v with st := 3#2 }
  let ids := (s.packets.filterMap fun p => if p.at_ == .link n then (s.coll? p.coll).map (·.regid) else none).dedup
  ids.foldl (fun s id => s.endRegion id 3 causeLinkFailed 0#64) s

/-- A link is up again: the commands that held since it failed go on (R314). -/
def State.linkResumes (s : State) (n : Fin 16) : State :=
  let lost (c : StrCmd) : Bool := c.phase == .held && c.fault.any fun f =>
    f.lost && (f.addr.extractLsb' 60 4).toNat == 4 && Fin.ofNat 16 (f.addr.toNat / 2 ^ 56) == n
  (s.cores.flatMap fun e => (e.2.sq.filter lost).map fun c => (e.1, c)).foldl (fun s p => s.retryCmd p.1 p.2) s

/-- LINK_TRAINING (R314): training begins, brings the link up, or fails, the third failure in a row for good. -/
def execLinkTraining (n : Fin 16) (r : LinkResult) (s : State) : Host.Outcome State Fault Refusal :=
  let v := s.link n
  match r with
  | .begins =>
    if 3 ≤ s.stage && s.devnum.getLsbD 12 && (v.st = 0#2 || v.st = 3#2) && (s.die n.val).health != .failed then
      .next (s.modLink n fun v => { v with st := 1#2, fails := 0 })
    else .next (s.res .stutter)
  | .comesUp dev link =>
    if v.st != 1#2 then .next (s.res .stutter)
    else if dev = s.devnum.truncate 12 then .next (s.failLink n)
    else .next ((s.modLink n fun v => { v with st := 2#2, peerDev := dev, peerLink := link, fails := 0, known := true }).linkResumes n)
  | .attemptFails =>
    if v.st != 1#2 then .next (s.res .stutter)
    else if 3 ≤ v.fails + 1 then .next (s.failLink n)
    else .next (s.modLink n fun v => { v with fails := v.fails + 1 })

/-- LINK_LOSS_OF_LOCK (R314). -/
def execLinkLossOfLock (n : Fin 16) (s : State) : Host.Outcome State Fault Refusal :=
  if (s.link n).st = 2#2 then .next (s.modLink n fun v => { v with st := 1#2, fails := 0 }) else .next (s.res .stutter)

/-- LINK_LEVEL_RETRY (R22, R314): RETRIES counts, saturating. -/
def execLinkLevelRetry (n : Fin 16) (s : State) : Host.Outcome State Fault Refusal :=
  .next (s.modLink n fun v => { v with retries := if v.retries = 0xFFFFFFFF#32 then v.retries else v.retries + 1#32 })

/-- TAG4_PIECE_ARRIVAL (R182, R212, R213, R315): a piece from a peer is translated through the context bound to its link. The
bytes of a write lie within one aligned word, and land there, poisoned or not. A refusal changes nothing here. -/
def execTag4PieceArrival (n : Fin 16) (va : BitVec 52) (write : Bool) (data : PeerBytes) (s : State) :
    Host.Outcome State Fault Refusal :=
  let v := s.link n
  if v.st != 2#2 then .next (s.res .stutter)
  else if v.ctx = 0#64 then .next s
  else
    match s.walkVa v.ctx va.toNat write with
    | .fault _ _ _ => .next s
    | .page pa size _ _ =>
      let l : Loc := ⟨.hbm, pa + va.toNat % size⟩
      if !write || s.routeDead n.val l.die then .next s else .next (s.writeLoc l (data.bytes.take (8 - l.addr % 8)) data.poison)

end Sys2Proof.Machine
end

