-- ==== Sys2Proof/Machine/Scalar.lean ====
section
/-! DEFINITION. Sys2Proof/Machine/Scalar.lean: the shared map (spec/03_instruction_encoding.md R73, R74): integer
arithmetic, immediates, bit fields, CSRs, branches and loops, for the counter or counters that own the word. Integer results are taken modulo 2^64 and set no flag
(spec/15_reference_a_to_f.md R330). -/

namespace Sys2Proof.Machine

/-- A word of tag `g` that writes register `d` from the registers in `rs`, which it waits for (R49, R327). -/
def writeReg (i : Instr) (g : Tag) (e : BitVec 1) (d : BitVec 5) (rs : List (BitVec 5)) (f : Strand → Ctr → Word)
    (s : State) : Host.Outcome State Fault Refusal :=
  let k := tagCtr g s
  issueWord i e (fun s =>
    if s.me.waits k (d :: rs) then .wait else .done (s.modMe fun t => t.setReg k d (f t k))) (s.actAs k)

/-- An operation on two registers. -/
def alu (i : Instr) (g : Tag) (e : BitVec 1) (d a b : BitVec 5) (op : Word → Word → Word) (s : State) :
    Host.Outcome State Fault Refusal :=
  writeReg i g e d [a, b] (fun t k => op (t.reg k a) (t.reg k b)) s

/-- An operation on a register and an immediate that LIMM may widen (R62, R66). -/
def aluImm (i : Instr) (g : Tag) (e : BitVec 1) (d a : BitVec 5) (imm : BitVec 12) (op : Word → Word → Word) (s : State) :
    Host.Outcome State Fault Refusal :=
  writeReg i g e d [a] (fun t k => op (t.reg k a) (wordOf (s.imm imm))) s

def shlWord (x : Word) (k : Nat) : Word := if k < 64 then x <<< k else 0#64
def shrWord (x : Word) (k : Nat) : Word := if k < 64 then x >>> k else 0#64
def sraWord (x : Word) (k : Nat) : Word := x.sshiftRight (min k 63)

/-- The high half of a product of integers (R380). -/
def mulHigh (x y : Int) : Word := wordOf (x * y / 2 ^ 64)

/-- A field of `w` bits from bit `l` (R338). -/
def bitField (x : Word) (l w : Nat) : Nat := x.toNat / 2 ^ l % 2 ^ w

/-- NOP (R390). -/
def execNop (g : Tag) (e : BitVec 1) (s : State) : Host.Outcome State Fault Refusal :=
  issueWord (.nop g e) e .done (s.actAs (tagCtr g s))

/-- ADD (R333). -/
def execAdd (d a b : BitVec 5) (g : Tag) (e : BitVec 1) (s : State) : Host.Outcome State Fault Refusal :=
  alu (.add d a b g e) g e d a b (· + ·) s

/-- SUB (R406). -/
def execSub (d a b : BitVec 5) (g : Tag) (e : BitVec 1) (s : State) : Host.Outcome State Fault Refusal :=
  alu (.sub d a b g e) g e d a b (· - ·) s

/-- AND (R336). -/
def execAnd (d a b : BitVec 5) (g : Tag) (e : BitVec 1) (s : State) : Host.Outcome State Fault Refusal :=
  alu (.and d a b g e) g e d a b (· &&& ·) s

/-- OR (R391). -/
def execOr (d a b : BitVec 5) (g : Tag) (e : BitVec 1) (s : State) : Host.Outcome State Fault Refusal :=
  alu (.or d a b g e) g e d a b (· ||| ·) s

/-- XOR (R440). -/
def execXor (d a b : BitVec 5) (g : Tag) (e : BitVec 1) (s : State) : Host.Outcome State Fault Refusal :=
  alu (.xor d a b g e) g e d a b (· ^^^ ·) s

/-- SHL with a register count (R402). -/
def execShl (d a b : BitVec 5) (g : Tag) (e : BitVec 1) (s : State) : Host.Outcome State Fault Refusal :=
  alu (.shl d a b g e) g e d a b (fun x y => shlWord x y.toNat) s

/-- SHR with a register count (R402). -/
def execShr (d a b : BitVec 5) (g : Tag) (e : BitVec 1) (s : State) : Host.Outcome State Fault Refusal :=
  alu (.shr d a b g e) g e d a b (fun x y => shrWord x y.toNat) s

/-- SRA with a register count (R402). -/
def execSra (d a b : BitVec 5) (g : Tag) (e : BitVec 1) (s : State) : Host.Outcome State Fault Refusal :=
  alu (.sra d a b g e) g e d a b (fun x y => sraWord x y.toNat) s

/-- SLT (R403). -/
def execSlt (d a b : BitVec 5) (g : Tag) (e : BitVec 1) (s : State) : Host.Outcome State Fault Refusal :=
  alu (.slt d a b g e) g e d a b (fun x y => if x.toInt < y.toInt then 1#64 else 0#64) s

/-- SLTU (R403). -/
def execSltu (d a b : BitVec 5) (g : Tag) (e : BitVec 1) (s : State) : Host.Outcome State Fault Refusal :=
  alu (.sltu d a b g e) g e d a b (fun x y => if x.toNat < y.toNat then 1#64 else 0#64) s

/-- MIN.s64 (R380). -/
def execMinS64 (d a b : BitVec 5) (g : Tag) (e : BitVec 1) (s : State) : Host.Outcome State Fault Refusal :=
  alu (.minS64 d a b g e) g e d a b (fun x y => if y.toInt < x.toInt then y else x) s

/-- MIN.z64 (R380). -/
def execMinZ64 (d a b : BitVec 5) (g : Tag) (e : BitVec 1) (s : State) : Host.Outcome State Fault Refusal :=
  alu (.minZ64 d a b g e) g e d a b (fun x y => if y.toNat < x.toNat then y else x) s

/-- MAX.s64 (R380). -/
def execMaxS64 (d a b : BitVec 5) (g : Tag) (e : BitVec 1) (s : State) : Host.Outcome State Fault Refusal :=
  alu (.maxS64 d a b g e) g e d a b (fun x y => if x.toInt < y.toInt then y else x) s

/-- MAX.z64 (R380). -/
def execMaxZ64 (d a b : BitVec 5) (g : Tag) (e : BitVec 1) (s : State) : Host.Outcome State Fault Refusal :=
  alu (.maxZ64 d a b g e) g e d a b (fun x y => if x.toNat < y.toNat then y else x) s

/-- MUL (R380). -/
def execMul (d a b : BitVec 5) (g : Tag) (e : BitVec 1) (s : State) : Host.Outcome State Fault Refusal :=
  alu (.mul d a b g e) g e d a b (· * ·) s

/-- MULH.s64 (R380). -/
def execMulhS64 (d a b : BitVec 5) (g : Tag) (e : BitVec 1) (s : State) : Host.Outcome State Fault Refusal :=
  alu (.mulhS64 d a b g e) g e d a b (fun x y => mulHigh x.toInt y.toInt) s

/-- MULH.z64 (R380). -/
def execMulhZ64 (d a b : BitVec 5) (g : Tag) (e : BitVec 1) (s : State) : Host.Outcome State Fault Refusal :=
  alu (.mulhZ64 d a b g e) g e d a b (fun x y => mulHigh x.toNat y.toNat) s

/-- MADD (R380): D is read and written. -/
def execMadd (d a b : BitVec 5) (g : Tag) (e : BitVec 1) (s : State) : Host.Outcome State Fault Refusal :=
  writeReg (.madd d a b g e) g e d [a, b] (fun t k => t.reg k d + t.reg k a * t.reg k b) s

/-- ADDI (R333). -/
def execAddi (d a : BitVec 5) (i : BitVec 12) (g : Tag) (e : BitVec 1) (s : State) : Host.Outcome State Fault Refusal :=
  aluImm (.addi d a i g e) g e d a i (· + ·) s

/-- ANDI (R336). -/
def execAndi (d a : BitVec 5) (i : BitVec 12) (g : Tag) (e : BitVec 1) (s : State) : Host.Outcome State Fault Refusal :=
  aluImm (.andi d a i g e) g e d a i (· &&& ·) s

/-- ORI (R391). -/
def execOri (d a : BitVec 5) (i : BitVec 12) (g : Tag) (e : BitVec 1) (s : State) : Host.Outcome State Fault Refusal :=
  aluImm (.ori d a i g e) g e d a i (· ||| ·) s

/-- XORI (R440). -/
def execXori (d a : BitVec 5) (i : BitVec 12) (g : Tag) (e : BitVec 1) (s : State) : Host.Outcome State Fault Refusal :=
  aluImm (.xori d a i g e) g e d a i (· ^^^ ·) s

/-- SHL with an immediate count (R402). -/
def execShlImm (d a : BitVec 5) (c : BitVec 6) (g : Tag) (e : BitVec 1) (s : State) : Host.Outcome State Fault Refusal :=
  writeReg (.shlImm d a c g e) g e d [a] (fun t k => shlWord (t.reg k a) c.toNat) s

/-- SHR with an immediate count (R402). -/
def execShrImm (d a : BitVec 5) (c : BitVec 6) (g : Tag) (e : BitVec 1) (s : State) : Host.Outcome State Fault Refusal :=
  writeReg (.shrImm d a c g e) g e d [a] (fun t k => shrWord (t.reg k a) c.toNat) s

/-- SRA with an immediate count (R402). -/
def execSraImm (d a : BitVec 5) (c : BitVec 6) (g : Tag) (e : BitVec 1) (s : State) : Host.Outcome State Fault Refusal :=
  writeReg (.sraImm d a c g e) g e d [a] (fun t k => sraWord (t.reg k a) c.toNat) s

/-- BFX.z64 (R338); `w` holds the width minus 1. -/
def execBfxZ64 (d a : BitVec 5) (w l : BitVec 6) (g : Tag) (e : BitVec 1) (s : State) : Host.Outcome State Fault Refusal :=
  writeReg (.bfxZ64 d a w l g e) g e d [a]
    (fun t k => BitVec.ofNat 64 (bitField (t.reg k a) l.toNat (w.toNat + 1))) s

/-- BFX.s64 (R338). -/
def execBfxS64 (d a : BitVec 5) (w l : BitVec 6) (g : Tag) (e : BitVec 1) (s : State) : Host.Outcome State Fault Refusal :=
  writeReg (.bfxS64 d a w l g e) g e d [a]
    (fun t k => wordOf (intOf true (w.toNat + 1) (bitField (t.reg k a) l.toNat (w.toNat + 1)))) s

/-- BFI (R338): D is read and written. -/
def execBfi (d a : BitVec 5) (w l : BitVec 6) (g : Tag) (e : BitVec 1) (s : State) : Host.Outcome State Fault Refusal :=
  writeReg (.bfi d a w l g e) g e d [a]
    (fun t k => BitVec.ofNat 64 ((t.reg k d).toNat - bitField (t.reg k d) l.toNat (w.toNat + 1) * 2 ^ l.toNat
      + (t.reg k a).toNat % 2 ^ (w.toNat + 1) * 2 ^ l.toNat)) s

/-- LUI (R379). -/
def execLui (d : BitVec 5) (i : BitVec 17) (g : Tag) (e : BitVec 1) (s : State) : Host.Outcome State Fault Refusal :=
  writeReg (.lui d i g e) g e d [] (fun _ _ => wordOf (s.imm i * 4096)) s

/-- LIMM (R65, R66, R376): gathered as the first word of its group; with its target it gives the extension. -/
def execLimm (x : BitVec 22) (g : Tag) (s : State) : Host.Outcome State Fault Refusal :=
  issueWord (.limm x g) 0#1 (fun s => .done { s with cur := { s.cur with ext := some x } }) (s.actAs (tagCtr g s))

/-- CSRR (R347). The access counter reads what it has written itself, also where others do not see it yet (R368). -/
def execCsrr (d : BitVec 5) (c : BitVec 12) (g : Tag) (e : BitVec 1) (s : State) : Host.Outcome State Fault Refusal :=
  let k := tagCtr g s
  issueWord (.csrr d c g e) e (fun s =>
    if !csrListed c.toNat then .trap causeIllegal 0#16
    else if s.me.waits k [d] || s.awaitsFlags k c.toNat then .wait
    else .done (s.modMe fun t => t.setReg k d ((s.view k).readCsr c.toNat))) (s.actAs k)

/-- CSRW (R348). One by the access counter behind an outstanding read is seen when the read is done (R368). -/
def execCsrw (a : BitVec 5) (c : BitVec 12) (g : Tag) (e : BitVec 1) (s : State) : Host.Outcome State Fault Refusal :=
  let k := tagCtr g s
  issueWord (.csrw a c g e) e (fun s =>
    if !csrListed c.toNat || csrReadOnly c.toNat then .trap causeIllegal 0#16
    else if s.me.waits k [a] then .wait
    else
      match s.csrRefuses c.toNat (s.me.reg k a) with
      | some cause => .trap cause 0#16
      | none =>
        if s.awaitsFlags k c.toNat then .wait
        else .done (
          if k == .x || !s.hides then s.writeCsr c.toNat (s.me.reg k a)
          else s.effect (if c = 0x021#12 then .inject (s.me.reg k a) s.me.streamCount else .csr c.toNat (s.me.reg k a)))) (s.actAs k)

/-- The byte address that a word offset names (R62). -/
def branchTarget {w : Nat} (pc : BitVec 22) (o : BitVec w) : Int := (pc.toNat : Int) + 4 * o.toInt

/-- BR (R339). -/
def execBr (o : BitVec 22) (g : Tag) (e : BitVec 1) (s : State) : Host.Outcome State Fault Refusal :=
  issueWord (.br o g e) e (fun s => .jump s (branchTarget s.cur.pc o)) (s.actAs (tagCtr g s))

/-- CALL (R341). -/
def execCall (o : BitVec 22) (g : Tag) (e : BitVec 1) (s : State) : Host.Outcome State Fault Refusal :=
  let k := tagCtr g s
  issueWord (.call o g e) e (fun s =>
    if s.me.waits k [31#5] then .wait
    else .jump (s.modMe fun t => t.setReg k 31#5 (BitVec.ofNat 64 (s.cur.pc.toNat + 4))) (branchTarget s.cur.pc o)) (s.actAs k)

/-- RET (R398). -/
def execRet (g : Tag) (e : BitVec 1) (s : State) : Host.Outcome State Fault Refusal :=
  let k := tagCtr g s
  issueWord (.ret g e) e (fun s =>
    if s.me.waits k [31#5] then .wait
    else if (s.me.reg k 31#5).extractLsb' 0 2 != 0#2 then .trap causeAlign 0#16
    else .jump s (s.me.reg k 31#5).toNat) (s.actAs k)

/-- A conditional branch (R337). -/
def branchIf (i : Instr) (a b : BitVec 5) (o : BitVec 12) (g : Tag) (e : BitVec 1) (cond : Word → Word → Bool) (s : State) :
    Host.Outcome State Fault Refusal :=
  let k := tagCtr g s
  issueWord i e (fun s =>
    if s.me.waits k [a, b] then .wait
    else if cond (s.me.reg k a) (s.me.reg k b) then .jump s (branchTarget s.cur.pc o)
    else .done s) (s.actAs k)

/-- BEQ (R337). -/
def execBeq (a b : BitVec 5) (o : BitVec 12) (g : Tag) (e : BitVec 1) (s : State) : Host.Outcome State Fault Refusal :=
  branchIf (.beq a b o g e) a b o g e (fun x y => x == y) s

/-- BNE (R337). -/
def execBne (a b : BitVec 5) (o : BitVec 12) (g : Tag) (e : BitVec 1) (s : State) : Host.Outcome State Fault Refusal :=
  branchIf (.bne a b o g e) a b o g e (fun x y => x != y) s

/-- BLT (R337). -/
def execBlt (a b : BitVec 5) (o : BitVec 12) (g : Tag) (e : BitVec 1) (s : State) : Host.Outcome State Fault Refusal :=
  branchIf (.blt a b o g e) a b o g e (fun x y => x.toInt < y.toInt) s

/-- BGE (R337). -/
def execBge (a b : BitVec 5) (o : BitVec 12) (g : Tag) (e : BitVec 1) (s : State) : Host.Outcome State Fault Refusal :=
  branchIf (.bge a b o g e) a b o g e (fun x y => y.toInt ≤ x.toInt) s

/-- BLTU (R337). -/
def execBltu (a b : BitVec 5) (o : BitVec 12) (g : Tag) (e : BitVec 1) (s : State) : Host.Outcome State Fault Refusal :=
  branchIf (.bltu a b o g e) a b o g e (fun x y => x.toNat < y.toNat) s

/-- BGEU (R337). -/
def execBgeu (a b : BitVec 5) (o : BitVec 12) (g : Tag) (e : BitVec 1) (s : State) : Host.Outcome State Fault Refusal :=
  branchIf (.bgeu a b o g e) a b o g e (fun x y => y.toNat ≤ x.toNat) s

/-- A level number as an index. -/
def levelIdx (l : BitVec 2) : Fin 3 := Fin.ofNat 3 (l.toNat % 3)

/-- LOOP's count: the register, at most 2^32 − 1 (R377). -/
def loopCount (v : Word) : BitVec 32 := if 2 ^ 32 ≤ v.toNat then 0xFFFFFFFF#32 else v.extractLsb' 0 32

/-- LOOP (R43, R377, R378). -/
def execLoop (l : BitVec 2) (a : BitVec 5) (n : BitVec 12) (g : Tag) (e : BitVec 1) (s : State) :
    Host.Outcome State Fault Refusal :=
  let k := tagCtr g s
  issueWord (.loop l a n g e) e (fun s =>
    let t := s.me
    let stop := s.cur.pc.toNat + 4 * n.toNat
    if l = 3#2 || n = 0#12 then .trap causeIllegal 0#16
    else if !inRange (s.textOf t) stop then
      (if stop < 2 ^ 22 then .trapAt (BitVec.ofNat 22 stop) causeIllegal 0#16 else .trap causeIllegal 1#16)
    else if ((t.loops k).get (levelIdx l)).held then .trap causeIllegal 0#16
    else if t.waits k [a] then .wait
    else
      let c := loopCount (t.reg k a)
      if c = 0#32 then
        .jump (s.modMe fun t => t.setLoops k ((t.loops k).set (levelIdx l) { (t.loops k).get (levelIdx l) with active := false }))
          (stop + 4)
      else
        .done (s.modMe fun t => t.setLoops k ((t.loops k).set (levelIdx l)
          { active := true, held := false, rem := c, count := c, start := s.cur.pc + 4#22, stop := BitVec.ofNat 22 stop })))
    (s.actAs k)

/-- Levels 0 to `l` that are not held become inactive (R340). -/
def breakLevels (ls : Vector Level 3) (l : Nat) : Vector Level 3 :=
  ls.mapIdx fun i v => if i ≤ l && !v.held then { v with active := false } else v

/-- BRKL (R340). -/
def execBrkl (l : BitVec 2) (g : Tag) (e : BitVec 1) (s : State) : Host.Outcome State Fault Refusal :=
  let k := tagCtr g s
  issueWord (.brkl l g e) e (fun s =>
    let lv := (s.me.loops k).get (levelIdx l)
    if l = 3#2 || lv.held then .trap causeIllegal 0#16
    else if lv.active then
      .jump (s.modMe fun t => t.setLoops k (breakLevels (t.loops k) l.toNat)) (lv.stop.toNat + 4)
    else .done s) (s.actAs k)

end Sys2Proof.Machine
end

