-- ==== Sys2Proof/Machine/Dispatch.lean ====
section
/-! DEFINITION. Sys2Proof/Machine/Dispatch.lean: the meaning of each row of the opcode table. -/

namespace Sys2Proof.Machine

def exec (i : Instr) (s : State) : Host.Outcome State Fault Refusal :=
  match i with
  | .nop g e => Sys2Proof.Machine.execNop g e s
  | .add d a b g e => Sys2Proof.Machine.execAdd d a b g e s
  | .sub d a b g e => Sys2Proof.Machine.execSub d a b g e s
  | .and d a b g e => Sys2Proof.Machine.execAnd d a b g e s
  | .or d a b g e => Sys2Proof.Machine.execOr d a b g e s
  | .xor d a b g e => Sys2Proof.Machine.execXor d a b g e s
  | .shl d a b g e => Sys2Proof.Machine.execShl d a b g e s
  | .shr d a b g e => Sys2Proof.Machine.execShr d a b g e s
  | .sra d a b g e => Sys2Proof.Machine.execSra d a b g e s
  | .slt d a b g e => Sys2Proof.Machine.execSlt d a b g e s
  | .sltu d a b g e => Sys2Proof.Machine.execSltu d a b g e s
  | .minS64 d a b g e => Sys2Proof.Machine.execMinS64 d a b g e s
  | .minZ64 d a b g e => Sys2Proof.Machine.execMinZ64 d a b g e s
  | .maxS64 d a b g e => Sys2Proof.Machine.execMaxS64 d a b g e s
  | .maxZ64 d a b g e => Sys2Proof.Machine.execMaxZ64 d a b g e s
  | .mul d a b g e => Sys2Proof.Machine.execMul d a b g e s
  | .mulhS64 d a b g e => Sys2Proof.Machine.execMulhS64 d a b g e s
  | .mulhZ64 d a b g e => Sys2Proof.Machine.execMulhZ64 d a b g e s
  | .madd d a b g e => Sys2Proof.Machine.execMadd d a b g e s
  | .addi d a imm g e => Sys2Proof.Machine.execAddi d a imm g e s
  | .andi d a imm g e => Sys2Proof.Machine.execAndi d a imm g e s
  | .ori d a imm g e => Sys2Proof.Machine.execOri d a imm g e s
  | .xori d a imm g e => Sys2Proof.Machine.execXori d a imm g e s
  | .shlImm d a c g e => Sys2Proof.Machine.execShlImm d a c g e s
  | .shrImm d a c g e => Sys2Proof.Machine.execShrImm d a c g e s
  | .sraImm d a c g e => Sys2Proof.Machine.execSraImm d a c g e s
  | .bfxZ64 d a w l g e => Sys2Proof.Machine.execBfxZ64 d a w l g e s
  | .bfxS64 d a w l g e => Sys2Proof.Machine.execBfxS64 d a w l g e s
  | .bfi d a w l g e => Sys2Proof.Machine.execBfi d a w l g e s
  | .lui d imm g e => Sys2Proof.Machine.execLui d imm g e s
  | .limm x g => Sys2Proof.Machine.execLimm x g s
  | .csrr d c g e => Sys2Proof.Machine.execCsrr d c g e s
  | .csrw a c g e => Sys2Proof.Machine.execCsrw a c g e s
  | .br o g e => Sys2Proof.Machine.execBr o g e s
  | .call o g e => Sys2Proof.Machine.execCall o g e s
  | .ret g e => Sys2Proof.Machine.execRet g e s
  | .beq a b o g e => Sys2Proof.Machine.execBeq a b o g e s
  | .bne a b o g e => Sys2Proof.Machine.execBne a b o g e s
  | .blt a b o g e => Sys2Proof.Machine.execBlt a b o g e s
  | .bge a b o g e => Sys2Proof.Machine.execBge a b o g e s
  | .bltu a b o g e => Sys2Proof.Machine.execBltu a b o g e s
  | .bgeu a b o g e => Sys2Proof.Machine.execBgeu a b o g e s
  | .loop l a n g e => Sys2Proof.Machine.execLoop l a n g e s
  | .brkl l g e => Sys2Proof.Machine.execBrkl l g e s
  | .ld d a o t e => Sys2Proof.Machine.execLd d a o t e s
  | .ldAcq d a o t e => Sys2Proof.Machine.execLdAcq d a o t e s
  | .st d a o t e => Sys2Proof.Machine.execSt d a o t e s
  | .stRel d a o t e => Sys2Proof.Machine.execStRel d a o t e s
  | .amo d a b u z p e => Sys2Proof.Machine.execAmo d a b u z p e s
  | .cas d a b z e => Sys2Proof.Machine.execCas d a b z e s
  | .pld q a r e => Sys2Proof.Machine.execPld q a r e s
  | .pst q a r e => Sys2Proof.Machine.execPst q a r e s
  | .gath q a j r sc e => Sys2Proof.Machine.execGath q a j r sc e s
  | .scat q a j r sc e => Sys2Proof.Machine.execScat q a j r sc e s
  | .qsnd q a e => Sys2Proof.Machine.execQsnd q a e s
  | .qrcv d q e => Sys2Proof.Machine.execQrcv d q e s
  | .copy d a e => Sys2Proof.Machine.execCopy d a e s
  | .dcmp d a e => Sys2Proof.Machine.execDcmp d a e s
  | .fill d a e => Sys2Proof.Machine.execFill d a e s
  | .csum d a e => Sys2Proof.Machine.execCsum d a e s
  | .seminc a sc e => Sys2Proof.Machine.execSeminc a sc e s
  | .semset a sc e => Sys2Proof.Machine.execSemset a sc e s
  | .semwait a sc e => Sys2Proof.Machine.execSemwait a sc e s
  | .send d a b l e => Sys2Proof.Machine.execSend d a b l e s
  | .mbreg d a b m e => Sys2Proof.Machine.execMbreg d a b m e s
  | .mma f a b k p e => Sys2Proof.Machine.execMma f a b k p e s
  | .mmaSat f a b k p e => Sys2Proof.Machine.execMmaSat f a b k p e s
  | .mmas f a b k p e => Sys2Proof.Machine.execMmas f a b k p e s
  | .mzero p e => Sys2Proof.Machine.execMzero p e s
  | .mld a p e => Sys2Proof.Machine.execMld a p e s
  | .mst d a b k p e => Sys2Proof.Machine.execMst d a b k p e s
  | .mstSat d a b k p e => Sys2Proof.Machine.execMstSat d a b k p e s
  | .coll d a e => Sys2Proof.Machine.execColl d a e s
  | .reside d a b e => Sys2Proof.Machine.execReside d a b e s
  | .evict d a e => Sys2Proof.Machine.execEvict d a e s
  | .rquery d a e => Sys2Proof.Machine.execRquery d a e s
  | .spawn d a e => Sys2Proof.Machine.execSpawn d a e s
  | .fence => Sys2Proof.Machine.execFence s
  | .trig e => Sys2Proof.Machine.execTrig e s
  | .dwait => Sys2Proof.Machine.execDwait s
  | .exit => Sys2Proof.Machine.execExit s
  | .yield => Sys2Proof.Machine.execYield s
  | .eret => Sys2Proof.Machine.execEret s
  | .trap c => Sys2Proof.Machine.execTrap c s
  | .fadd d a b r t e => Sys2Proof.Machine.execFadd d a b r t e s
  | .fsub d a b r t e => Sys2Proof.Machine.execFsub d a b r t e s
  | .fmul d a b r t e => Sys2Proof.Machine.execFmul d a b r t e s
  | .fmin d a b t e => Sys2Proof.Machine.execFmin d a b t e s
  | .fmax d a b t e => Sys2Proof.Machine.execFmax d a b t e s
  | .fdiv d a b r t e => Sys2Proof.Machine.execFdiv d a b r t e s
  | .fsqrt d a r t e => Sys2Proof.Machine.execFsqrt d a r t e s
  | .fma d a b c n r t e => Sys2Proof.Machine.execFma d a b c n r t e s
  | .fcmp d a b c t e => Sys2Proof.Machine.execFcmp d a b c t e s
  | .fcvt d a sc u r k e => Sys2Proof.Machine.execFcvt d a sc u r k e s
  | .div d a b sc e => Sys2Proof.Machine.execDiv d a b sc e s
  | .divRem d a b sc e => Sys2Proof.Machine.execDivRem d a b sc e s
  | .xsndScalar q a e => Sys2Proof.Machine.execXsndScalar q a e s
  | .xsndPanel q p r f e => Sys2Proof.Machine.execXsndPanel q p r f e s
  | .xrcv d q e => Sys2Proof.Machine.execXrcv d q e s
  | .vadd d a b m t e => Sys2Proof.Machine.execVadd d a b m t e s
  | .vsub d a b m t e => Sys2Proof.Machine.execVsub d a b m t e s
  | .vmul d a b m t e => Sys2Proof.Machine.execVmul d a b m t e s
  | .vfma d a b m t e => Sys2Proof.Machine.execVfma d a b m t e s
  | .vmin d a b t e => Sys2Proof.Machine.execVmin d a b t e s
  | .vmax d a b t e => Sys2Proof.Machine.execVmax d a b t e s
  | .vabs d a t e => Sys2Proof.Machine.execVabs d a t e s
  | .vneg d a t e => Sys2Proof.Machine.execVneg d a t e s
  | .vand d a b t e => Sys2Proof.Machine.execVand d a b t e s
  | .vor d a b t e => Sys2Proof.Machine.execVor d a b t e s
  | .vxor d a b t e => Sys2Proof.Machine.execVxor d a b t e s
  | .vnot d a t e => Sys2Proof.Machine.execVnot d a t e s
  | .vshl d a b t e => Sys2Proof.Machine.execVshl d a b t e s
  | .vshr d a b t e => Sys2Proof.Machine.execVshr d a b t e s
  | .vsra d a b t e => Sys2Proof.Machine.execVsra d a b t e s
  | .vcmp d a b c t e => Sys2Proof.Machine.execVcmp d a b c t e s
  | .vsel d a b t e => Sys2Proof.Machine.execVsel d a b t e s
  | .vcvt d a sc m t e => Sys2Proof.Machine.execVcvt d a sc m t e s
  | .vcvtSat d a sc m t e => Sys2Proof.Machine.execVcvtSat d a sc m t e s
  | .vrshr d a b t e => Sys2Proof.Machine.execVrshr d a b t e s
  | .vexp2 d a m t e => Sys2Proof.Machine.execVexp2 d a m t e s
  | .vlog2 d a m t e => Sys2Proof.Machine.execVlog2 d a m t e s
  | .vrcp d a m t e => Sys2Proof.Machine.execVrcp d a m t e s
  | .vrsq d a m t e => Sys2Proof.Machine.execVrsq d a m t e s
  | .vredr d a o m t e => Sys2Proof.Machine.execVredr d a o m t e s
  | .vredc d a o m t e => Sys2Proof.Machine.execVredc d a o m t e s
  | .vbcr d a b t e => Sys2Proof.Machine.execVbcr d a b t e s
  | .vbcc d a b t e => Sys2Proof.Machine.execVbcc d a b t e s
  | .vrotr d a b t e => Sys2Proof.Machine.execVrotr d a b t e s
  | .vrotc d a b t e => Sys2Proof.Machine.execVrotc d a b t e s
  | .vscan d a o m t e => Sys2Proof.Machine.execVscan d a o m t e s
  | .vperm d a b t e => Sys2Proof.Machine.execVperm d a b t e s
  | .part d a b t e => Sys2Proof.Machine.execPart d a b t e s
  | .vtopk d a b t e => Sys2Proof.Machine.execVtopk d a b t e s
  | .vmov d a e => Sys2Proof.Machine.execVmov d a e s
  | .vmovi d imm e => Sys2Proof.Machine.execVmovi d imm e s
  | .vins d a b t e => Sys2Proof.Machine.execVins d a b t e s
  | .vext d a b t e => Sys2Proof.Machine.execVext d a b t e s
  | .wrot n b e => Sys2Proof.Machine.execWrot n b e s
  | .fmtset a k e => Sys2Proof.Machine.execFmtset a k e s
  | .fmtsel l n e => Sys2Proof.Machine.execFmtsel l n e s
  | .rfch b a d => Sys2Proof.Machine.execRfch b a d s
  | .xfld b a d => Sys2Proof.Machine.execXfld b a d s
  | .sgwt b a d => Sys2Proof.Machine.execSgwt b a d s
  | .disp b a d => Sys2Proof.Machine.execDisp b a d s
  | .bindStart core strands hdr regid => Sys2Proof.Machine.execBindStart core strands hdr regid s
  | .bindPreempt core strands => Sys2Proof.Machine.execBindPreempt core strands s
  | .bindMap core lcore regid => Sys2Proof.Machine.execBindMap core lcore regid s
  | .bindFree core => Sys2Proof.Machine.execBindFree core s
  | .translationRetry cluster word => Sys2Proof.Machine.execTranslationRetry cluster word s
  | .translationKill cluster word => Sys2Proof.Machine.execTranslationKill cluster word s
  | .pad port q k => Sys2Proof.Machine.execPad port q k s
  | .launch port q k => Sys2Proof.Machine.execLaunch port q k s
  | .regionCreate port q k => Sys2Proof.Machine.execRegionCreate port q k s
  | .regionModify port q k => Sys2Proof.Machine.execRegionModify port q k s
  | .regionDestroy port q k => Sys2Proof.Machine.execRegionDestroy port q k s
  | .map port q k => Sys2Proof.Machine.execMap port q k s
  | .unmap port q k => Sys2Proof.Machine.execUnmap port q k s
  | .bind port q k => Sys2Proof.Machine.execBind port q k s
  | .hcopy port q k => Sys2Proof.Machine.execHcopy port q k s
  | .hsignal port q k => Sys2Proof.Machine.execHsignal port q k s
  | .hwait port q k => Sys2Proof.Machine.execHwait port q k s
  | .retire port q k => Sys2Proof.Machine.execRetire port q k s
  | .resync port q k => Sys2Proof.Machine.execResync port q k s
  | .packetFetch port q => Sys2Proof.Machine.execPacketFetch port q s
  | .packetIssue port q => Sys2Proof.Machine.execPacketIssue port q s
  | .fetchRetry port q => Sys2Proof.Machine.execFetchRetry port q s
  | .hwaitPoll port q => Sys2Proof.Machine.execHwaitPoll port q s
  | .doorbell port q v => Sys2Proof.Machine.execDoorbell port q v s
  | .qctlEnable port q v => Sys2Proof.Machine.execQctlEnable port q v s
  | .qctlDisable port q v => Sys2Proof.Machine.execQctlDisable port q v s
  | .restart port q v => Sys2Proof.Machine.execRestart port q v s
  | .chead port q v => Sys2Proof.Machine.execChead port q v s
  | .devnum port v => Sys2Proof.Machine.execDevnum port v s
  | .pwrlim port v => Sys2Proof.Machine.execPwrlim port v s
  | .linkctx port n v => Sys2Proof.Machine.execLinkctx port n v s
  | .attcmdReport port v => Sys2Proof.Machine.execAttcmdReport port v s
  | .attcmdChain port v => Sys2Proof.Machine.execAttcmdChain port v s
  | .bootgo port v => Sys2Proof.Machine.execBootgo port v s
  | .hostRegisterWrite port off size v => Sys2Proof.Machine.execHostRegisterWrite port off size v s
  | .loaderMessage core => Sys2Proof.Machine.execLoaderMessage core s
  | .streamCommandStart core => Sys2Proof.Machine.execStreamCommandStart core s
  | .copyLand core slot p => Sys2Proof.Machine.execCopyLand core slot p s
  | .copyComplete core slot => Sys2Proof.Machine.execCopyComplete core slot s
  | .followOnEntry core slot => Sys2Proof.Machine.execFollowOnEntry core slot s
  | .dcmpComplete core slot => Sys2Proof.Machine.execDcmpComplete core slot s
  | .fillComplete core slot k => Sys2Proof.Machine.execFillComplete core slot k s
  | .csumComplete core slot k => Sys2Proof.Machine.execCsumComplete core slot k s
  | .sendAccept core k => Sys2Proof.Machine.execSendAccept core k s
  | .spawnStore core slot => Sys2Proof.Machine.execSpawnStore core slot s
  | .spawnRingEntry task => Sys2Proof.Machine.execSpawnRingEntry task s
  | .matrixCommandPerform core k => Sys2Proof.Machine.execMatrixCommandPerform core k s
  | .mstComplete core => Sys2Proof.Machine.execMstComplete core s
  | .storeDrain core strand k => Sys2Proof.Machine.execStoreDrain core strand k s
  | .loadPerform core strand k => Sys2Proof.Machine.execLoadPerform core strand k s
  | .rowComplete core strand q => Sys2Proof.Machine.execRowComplete core strand q s
  | .semincApply core strand => Sys2Proof.Machine.execSemincApply core strand s
  | .semIncrementArrival core k => Sys2Proof.Machine.execSemIncrementArrival core k s
  | .residencyOpPerform core strand => Sys2Proof.Machine.execResidencyOpPerform core strand s
  | .translationFault core slot p => Sys2Proof.Machine.execTranslationFault core slot p s
  | .invalidation unit k => Sys2Proof.Machine.execInvalidation unit k s
  | .handlerStart core strand => Sys2Proof.Machine.execHandlerStart core strand s
  | .taskEnd task => Sys2Proof.Machine.execTaskEnd task s
  | .asyncCauseDelivery core strand => Sys2Proof.Machine.execAsyncCauseDelivery core strand s
  | .errorRecord k => Sys2Proof.Machine.execErrorRecord k s
  | .collHop k => Sys2Proof.Machine.execCollHop k s
  | .collCompletion core k => Sys2Proof.Machine.execCollCompletion core k s
  | .gangRetry k => Sys2Proof.Machine.execGangRetry k s
  | .gangEnd gang => Sys2Proof.Machine.execGangEnd gang s
  | .tempoBoundary cluster => Sys2Proof.Machine.execTempoBoundary cluster s
  | .firingArrival core k => Sys2Proof.Machine.execFiringArrival core k s
  | .preemptSave task => Sys2Proof.Machine.execPreemptSave task s
  | .saveUnitApply core k => Sys2Proof.Machine.execSaveUnitApply core k s
  | .retirementRequest die => Sys2Proof.Machine.execRetirementRequest die s
  | .dieFailure die => Sys2Proof.Machine.execDieFailure die s
  | .linkTraining n r => Sys2Proof.Machine.execLinkTraining n r s
  | .linkLossOfLock n => Sys2Proof.Machine.execLinkLossOfLock n s
  | .scrub core group => Sys2Proof.Machine.execScrub core group s
  | .boot die r => Sys2Proof.Machine.execBoot die r s
  | .bootFallback => Sys2Proof.Machine.execBootFallback s
  | .dieReset die => Sys2Proof.Machine.execDieReset die s
  | .completionTimeout core slot p => Sys2Proof.Machine.execCompletionTimeout core slot p s
  | .tag4PieceArrival n va write data => Sys2Proof.Machine.execTag4PieceArrival n va write data s
  | .linkLevelRetry n => Sys2Proof.Machine.execLinkLevelRetry n s
  | .junctionLimit die => Sys2Proof.Machine.execJunctionLimit die s
  | .hostPortLinkTraining port widths rates => Sys2Proof.Machine.execHostPortLinkTraining port widths rates s

end Sys2Proof.Machine
end

