-- ==== Sys2Proof/Machine/RvDecode.lean ====
section
/-! DEFINITION. Sys2Proof/Machine/RvDecode.lean: the instructions of RV64GC that a cluster supervisor runs beside the Rivan extension,
and their decoding. The spec names RV64GC and gives none of its instructions (spec/01_device_overview.md R17): all of this is the
family's, the RISC-V unprivileged and privileged architectures (assumption 8). -/

namespace Sys2Proof.Machine

/-- Integer operations of two operands. -/
inductive RvAlu where
  | add
  | sub
  | sll
  | slt
  | sltu
  | xor
  | srl
  | sra
  | or
  | and
  | mul
  | mulh
  | mulhsu
  | mulhu
  | div
  | divu
  | rem
  | remu
  deriving DecidableEq, Repr, Inhabited

/-- Atomic updates of a word. -/
inductive RvAmo where
  | swap
  | add
  | xor
  | and
  | or
  | min
  | max
  | minu
  | maxu
  deriving DecidableEq, Repr, Inhabited

/-- Words of SYSTEM that name no CSR. -/
inductive RvSys where
  | ecall
  | ebreak
  | mret
  | sret
  | wfi
  | sfence
  deriving DecidableEq, Repr, Inhabited

/-- Floating operations of two operands that round. -/
inductive RvFop where
  | add
  | sub
  | mul
  | div
  deriving DecidableEq, Repr, Inhabited

/-- An instruction of RV64GC: `d`, `a`, `b`, `c` are rd, rs1, rs2, rs3; `w` is for 32-bit operations and `dbl` for 64-bit operands;
immediates are extended and in bytes. -/
inductive Rv where
  | lui (d : BitVec 5) (imm : Word)
  | auipc (d : BitVec 5) (imm : Word)
  | jal (d : BitVec 5) (off : Word)
  | jalr (d a : BitVec 5) (off : Word)
  /-- `f` is funct3: BEQ 0, BNE 1, BLT 4, BGE 5, BLTU 6, BGEU 7 -/
  | branch (f : BitVec 3) (a b : BitVec 5) (off : Word)
  /-- `f` is funct3: bits 1:0 the size, bit 2 unsigned -/
  | load (f : BitVec 3) (d a : BitVec 5) (off : Word)
  | store (f : BitVec 2) (a b : BitVec 5) (off : Word)
  | opImm (o : RvAlu) (w : Bool) (d a : BitVec 5) (imm : Word)
  | op (o : RvAlu) (w : Bool) (d a b : BitVec 5)
  | fence
  | sys (o : RvSys)
  /-- `f` is funct3: bits 1:0 write 1, set 2, clear 3, bit 2 with `a` as an immediate -/
  | csr (f : BitVec 3) (d a : BitVec 5) (n : BitVec 12)
  | lr (dbl : Bool) (d a : BitVec 5)
  | sc (dbl : Bool) (d a b : BitVec 5)
  | amo (o : RvAmo) (dbl : Bool) (d a b : BitVec 5)
  | fload (dbl : Bool) (d a : BitVec 5) (off : Word)
  | fstore (dbl : Bool) (a b : BitVec 5) (off : Word)
  /-- FMADD, FMSUB, FNMSUB, FNMADD: whether the product and the third operand are negated -/
  | fma (negProd negAdd dbl : Bool) (d a b c : BitVec 5) (rm : BitVec 3)
  | fop (o : RvFop) (dbl : Bool) (d a b : BitVec 5) (rm : BitVec 3)
  | fsqrt (dbl : Bool) (d a : BitVec 5) (rm : BitVec 3)
  /-- FSGNJ 0, FSGNJN 1, FSGNJX 2 -/
  | fsgnj (k : BitVec 3) (dbl : Bool) (d a b : BitVec 5)
  | fminmax (maxi dbl : Bool) (d a b : BitVec 5)
  /-- FLE 0, FLT 1, FEQ 2 -/
  | fcmp (k : BitVec 3) (dbl : Bool) (d a b : BitVec 5)
  | fclass (dbl : Bool) (d a : BitVec 5)
  /-- to and from W 0, WU 1, L 2, LU 3 -/
  | ftoInt (k : BitVec 2) (dbl : Bool) (d a : BitVec 5) (rm : BitVec 3)
  | ffromInt (k : BitVec 2) (dbl : Bool) (d a : BitVec 5) (rm : BitVec 3)
  /-- to the format `dbl` from the other -/
  | fconv (dbl : Bool) (d a : BitVec 5) (rm : BitVec 3)
  | fmvToInt (dbl : Bool) (d a : BitVec 5)
  | fmvFromInt (dbl : Bool) (d a : BitVec 5)
  deriving DecidableEq, Repr, Inhabited

/-! ## Words of 32 bits -/

/-- OP and OP-IMM by funct3, `alt` being bit 30. -/
def rvAlu (f3 : Nat) (alt : Bool) : RvAlu :=
  match f3 with
  | 0 => if alt then .sub else .add
  | 1 => .sll
  | 2 => .slt
  | 3 => .sltu
  | 4 => .xor
  | 5 => if alt then .sra else .srl
  | 6 => .or
  | _ => .and

/-- The M extension by funct3. -/
def rvMul (f3 : Nat) : RvAlu :=
  match f3 with
  | 0 => .mul
  | 1 => .mulh
  | 2 => .mulhsu
  | 3 => .mulhu
  | 4 => .div
  | 5 => .divu
  | 6 => .rem
  | _ => .remu

/-- OP-IMM and, with `w`, OP-IMM-32. -/
def rvOpImm (w : Bool) (f3 : Nat) (d a : BitVec 5) (i : BitVec 12) : Option Rv :=
  let shifts : Bool := f3 = 1 || f3 = 5
  if shifts then
    let alt : Bool := i.getLsbD 10
    let bits : BitVec 6 := if w then i.extractLsb' 5 6 else i.extractLsb' 6 6
    if i.getLsbD 11 || (w && i.getLsbD 5) || (if w then bits &&& 0x1F#6 else bits &&& 0x2F#6) != 0#6 || (f3 = 1 && alt) then none
    else some (.opImm (rvAlu f3 alt) w d a ((i.extractLsb' 0 6).zeroExtend 64))
  else if w && f3 != 0 then none
  else some (.opImm (rvAlu f3 false) w d a (i.signExtend 64))

/-- OP and, with `w`, OP-32. -/
def rvOp (w : Bool) (f3 f7 : Nat) (d a b : BitVec 5) : Option Rv :=
  if f7 = 1 then (if w && f3 != 0 && f3 < 4 then none else some (.op (rvMul f3) w d a b))
  else if f7 = 0x20 then (if f3 = 0 || f3 = 5 then some (.op (rvAlu f3 true) w d a b) else none)
  else if f7 = 0 then (if w && !(f3 = 0 || f3 = 1 || f3 = 5) then none else some (.op (rvAlu f3 false) w d a b))
  else none

/-- The A extension; funct7 without its two ordering bits. -/
def rvAtomic (f5 : Nat) (dbl : Bool) (d a b : BitVec 5) : Option Rv :=
  match f5 with
  | 0 => some (.amo .add dbl d a b)
  | 1 => some (.amo .swap dbl d a b)
  | 2 => if b = 0#5 then some (.lr dbl d a) else none
  | 3 => some (.sc dbl d a b)
  | 4 => some (.amo .xor dbl d a b)
  | 8 => some (.amo .or dbl d a b)
  | 12 => some (.amo .and dbl d a b)
  | 16 => some (.amo .min dbl d a b)
  | 20 => some (.amo .max dbl d a b)
  | 24 => some (.amo .minu dbl d a b)
  | 28 => some (.amo .maxu dbl d a b)
  | _ => none

/-- OP-FP: funct7 without its format, which is S 0 or D 1. -/
def rvFp (f5 : Nat) (dbl : Bool) (f3 : BitVec 3) (d a b : BitVec 5) : Option Rv :=
  match f5 with
  | 0 => some (.fop .add dbl d a b f3)
  | 1 => some (.fop .sub dbl d a b f3)
  | 2 => some (.fop .mul dbl d a b f3)
  | 3 => some (.fop .div dbl d a b f3)
  | 4 => if f3.toNat < 3 then some (.fsgnj f3 dbl d a b) else none
  | 5 => if f3.toNat < 2 then some (.fminmax (f3 = 1#3) dbl d a b) else none
  | 8 => if b = (if dbl then 0#5 else 1#5) then some (.fconv dbl d a f3) else none
  | 11 => if b = 0#5 then some (.fsqrt dbl d a f3) else none
  | 20 => if f3.toNat < 3 then some (.fcmp f3 dbl d a b) else none
  | 24 => if b.toNat < 4 then some (.ftoInt (b.truncate 2) dbl d a f3) else none
  | 26 => if b.toNat < 4 then some (.ffromInt (b.truncate 2) dbl d a f3) else none
  | 28 => if b != 0#5 then none else if f3 = 0#3 then some (.fmvToInt dbl d a) else if f3 = 1#3 then some (.fclass dbl d a) else none
  | 30 => if b = 0#5 && f3 = 0#3 then some (.fmvFromInt dbl d a) else none
  | _ => none

/-- SYSTEM with funct3 0. -/
def rvSystem (w : BitVec 32) : Option Rv :=
  if w.extractLsb' 7 5 != 0#5 then none
  else if w.extractLsb' 25 7 = 9#7 then some (.sys .sfence)
  else if w.extractLsb' 15 5 != 0#5 then none
  else
    match (w.extractLsb' 20 12).toNat with
    | 0 => some (.sys .ecall)
    | 1 => some (.sys .ebreak)
    | 0x102 => some (.sys .sret)
    | 0x302 => some (.sys .mret)
    | 0x105 => some (.sys .wfi)
    | _ => none

/-- The instruction of a 32-bit word, whose bits 1:0 are 3; none for a reserved encoding. -/
def rvDecode (w : BitVec 32) : Option Rv :=
  let d := w.extractLsb' 7 5
  let a := w.extractLsb' 15 5
  let b := w.extractLsb' 20 5
  let f3 := w.extractLsb' 12 3
  let f7 := (w.extractLsb' 25 7).toNat
  let iImm : Word := (w.extractLsb' 20 12).signExtend 64
  let sImm : Word := (w.extractLsb' 25 7 ++ d).signExtend 64
  let uImm : Word := (w.extractLsb' 12 20 ++ 0#12).signExtend 64
  let dbl : Bool := w.getLsbD 25
  match (w.extractLsb' 2 5).toNat with
  | 0x00 => if f3 = 7#3 then none else some (.load f3 d a iImm)
  | 0x01 => if f3 = 2#3 || f3 = 3#3 then some (.fload (f3 = 3#3) d a iImm) else none
  | 0x03 => if f3.toNat < 2 then some .fence else none
  | 0x04 => rvOpImm false f3.toNat d a (w.extractLsb' 20 12)
  | 0x05 => some (.auipc d uImm)
  | 0x06 => rvOpImm true f3.toNat d a (w.extractLsb' 20 12)
  | 0x08 => if f3.toNat < 4 then some (.store (f3.truncate 2) a b sImm) else none
  | 0x09 => if f3 = 2#3 || f3 = 3#3 then some (.fstore (f3 = 3#3) a b sImm) else none
  | 0x0B => if f3 = 2#3 || f3 = 3#3 then rvAtomic (f7 / 4) (f3 = 3#3) d a b else none
  | 0x0C => rvOp false f3.toNat f7 d a b
  | 0x0D => some (.lui d uImm)
  | 0x0E => rvOp true f3.toNat f7 d a b
  | 0x10 => if w.getLsbD 26 then none else some (.fma false false dbl d a b (w.extractLsb' 27 5) f3)
  | 0x11 => if w.getLsbD 26 then none else some (.fma false true dbl d a b (w.extractLsb' 27 5) f3)
  | 0x12 => if w.getLsbD 26 then none else some (.fma true false dbl d a b (w.extractLsb' 27 5) f3)
  | 0x13 => if w.getLsbD 26 then none else some (.fma true true dbl d a b (w.extractLsb' 27 5) f3)
  | 0x14 => if w.getLsbD 26 then none else rvFp (f7 / 4) dbl f3 d a b
  | 0x18 =>
    if f3 = 2#3 || f3 = 3#3 then none
    else some (.branch f3 a b
      ((w.extractLsb' 31 1 ++ w.extractLsb' 7 1 ++ w.extractLsb' 25 6 ++ w.extractLsb' 8 4 ++ 0#1).signExtend 64))
  | 0x19 => if f3 = 0#3 then some (.jalr d a iImm) else none
  | 0x1B => some (.jal d
      ((w.extractLsb' 31 1 ++ w.extractLsb' 12 8 ++ w.extractLsb' 20 1 ++ w.extractLsb' 21 10 ++ 0#1).signExtend 64))
  | 0x1C => if f3 = 0#3 then rvSystem w else if f3 = 4#3 then none else some (.csr f3 d a (w.extractLsb' 20 12))
  | _ => none

/-! ## Words of 16 bits -/

/-- A register named by three bits. -/
def rvShort (b : BitVec 3) : BitVec 5 := 1#2 ++ b

/-- Quadrant 0. -/
def rvQuad0 (h : BitVec 16) : Option Rv :=
  let d := rvShort (h.extractLsb' 2 3)
  let a := rvShort (h.extractLsb' 7 3)
  let o4 : Word := (h.extractLsb' 5 1 ++ h.extractLsb' 10 3 ++ h.extractLsb' 6 1 ++ 0#2).zeroExtend 64
  let o8 : Word := (h.extractLsb' 5 2 ++ h.extractLsb' 10 3 ++ 0#3).zeroExtend 64
  let sp : Word := (h.extractLsb' 7 4 ++ h.extractLsb' 11 2 ++ h.extractLsb' 5 1 ++ h.extractLsb' 6 1 ++ 0#2).zeroExtend 64
  match (h.extractLsb' 13 3).toNat with
  | 0 => if sp = 0#64 then none else some (.opImm .add false d 2#5 sp)
  | 1 => some (.fload true d a o8)
  | 2 => some (.load 2#3 d a o4)
  | 3 => some (.load 3#3 d a o8)
  | 5 => some (.fstore true a d o8)
  | 6 => some (.store 2#2 a d o4)
  | 7 => some (.store 3#2 a d o8)
  | _ => none

/-- The arithmetic of quadrant 1 on short registers. -/
def rvQuad1Alu (h : BitVec 16) (imm : Word) : Option Rv :=
  let d := rvShort (h.extractLsb' 7 3)
  let b := rvShort (h.extractLsb' 2 3)
  match (h.extractLsb' 10 2).toNat with
  | 0 => some (.opImm .srl false d d (imm &&& 63#64))
  | 1 => some (.opImm .sra false d d (imm &&& 63#64))
  | 2 => some (.opImm .and false d d imm)
  | _ =>
    match h.getLsbD 12, (h.extractLsb' 5 2).toNat with
    | false, 0 => some (.op .sub false d d b)
    | false, 1 => some (.op .xor false d d b)
    | false, 2 => some (.op .or false d d b)
    | false, _ => some (.op .and false d d b)
    | true, 0 => some (.op .sub true d d b)
    | true, 1 => some (.op .add true d d b)
    | true, _ => none

/-- Quadrant 1. -/
def rvQuad1 (h : BitVec 16) : Option Rv :=
  let d := h.extractLsb' 7 5
  let imm : Word := (h.extractLsb' 12 1 ++ h.extractLsb' 2 5).signExtend 64
  let sp : Word :=
    (h.extractLsb' 12 1 ++ h.extractLsb' 3 2 ++ h.extractLsb' 5 1 ++ h.extractLsb' 2 1 ++ h.extractLsb' 6 1 ++ 0#4).signExtend 64
  let far : Word := (h.extractLsb' 12 1 ++ h.extractLsb' 8 1 ++ h.extractLsb' 9 2 ++ h.extractLsb' 6 1 ++ h.extractLsb' 7 1 ++
    h.extractLsb' 2 1 ++ h.extractLsb' 11 1 ++ h.extractLsb' 3 3 ++ 0#1).signExtend 64
  let near : Word := (h.extractLsb' 12 1 ++ h.extractLsb' 5 2 ++ h.extractLsb' 2 1 ++ h.extractLsb' 10 2 ++ h.extractLsb' 3 2 ++
    0#1).signExtend 64
  match (h.extractLsb' 13 3).toNat with
  | 0 => some (.opImm .add false d d imm)
  | 1 => if d = 0#5 then none else some (.opImm .add true d d imm)
  | 2 => some (.opImm .add false d 0#5 imm)
  | 3 =>
    if d = 2#5 then (if sp = 0#64 then none else some (.opImm .add false 2#5 2#5 sp))
    else if imm = 0#64 then none
    else some (.lui d (imm <<< 12))
  | 4 => rvQuad1Alu h imm
  | 5 => some (.jal 0#5 far)
  | 6 => some (.branch 0#3 (rvShort (h.extractLsb' 7 3)) 0#5 near)
  | _ => some (.branch 1#3 (rvShort (h.extractLsb' 7 3)) 0#5 near)

/-- Quadrant 2. -/
def rvQuad2 (h : BitVec 16) : Option Rv :=
  let d := h.extractLsb' 7 5
  let b := h.extractLsb' 2 5
  let o4 : Word := (h.extractLsb' 2 2 ++ h.extractLsb' 12 1 ++ h.extractLsb' 4 3 ++ 0#2).zeroExtend 64
  let o8 : Word := (h.extractLsb' 2 3 ++ h.extractLsb' 12 1 ++ h.extractLsb' 5 2 ++ 0#3).zeroExtend 64
  let s4 : Word := (h.extractLsb' 7 2 ++ h.extractLsb' 9 4 ++ 0#2).zeroExtend 64
  let s8 : Word := (h.extractLsb' 7 3 ++ h.extractLsb' 10 3 ++ 0#3).zeroExtend 64
  match (h.extractLsb' 13 3).toNat with
  | 0 => some (.opImm .sll false d d ((h.extractLsb' 12 1 ++ h.extractLsb' 2 5).zeroExtend 64))
  | 1 => some (.fload true d 2#5 o8)
  | 2 => if d = 0#5 then none else some (.load 2#3 d 2#5 o4)
  | 3 => if d = 0#5 then none else some (.load 3#3 d 2#5 o8)
  | 4 =>
    match h.getLsbD 12, b == 0#5, d == 0#5 with
    | false, true, true => none
    | false, true, false => some (.jalr 0#5 d 0#64)
    | false, false, _ => some (.op .add false d 0#5 b)
    | true, true, true => some (.sys .ebreak)
    | true, true, false => some (.jalr 1#5 d 0#64)
    | true, false, _ => some (.op .add false d d b)
  | 5 => some (.fstore true 2#5 b s8)
  | 6 => some (.store 2#2 2#5 b s4)
  | _ => some (.store 3#2 2#5 b s8)

/-- The instruction of a 16-bit word, whose bits 1:0 are not 3; none for a reserved encoding. -/
def rvExpand (h : BitVec 16) : Option Rv :=
  match (h.extractLsb' 0 2).toNat with
  | 0 => rvQuad0 h
  | 1 => rvQuad1 h
  | _ => rvQuad2 h

end Sys2Proof.Machine
end

