-- ==== Sys2Proof/Machine/RvFloat.lean ====
section
/-! DEFINITION. Sys2Proof/Machine/RvFloat.lean: binary32 and binary64 arithmetic of the supervisors' F and D extensions. The spec
names RV64GC and gives none of its instructions (spec/01_device_overview.md R17): all of this is the family's, the RISC-V
unprivileged architecture and IEEE 754-2008 (assumption 8). Values are exact and rounded once. -/

namespace Sys2Proof.Machine

/-- A binary format: bits of the exponent and of the fraction. -/
structure RvFmt where
  eb : Nat
  wf : Nat
  deriving DecidableEq, Repr, Inhabited

def rvFmt (dbl : Bool) : RvFmt := if dbl then ⟨11, 52⟩ else ⟨8, 23⟩
def RvFmt.bias (f : RvFmt) : Nat := 2 ^ (f.eb - 1) - 1
def RvFmt.signBit (f : RvFmt) : Nat := 2 ^ (f.eb + f.wf)
def RvFmt.infBits (f : RvFmt) : Nat := (2 ^ f.eb - 1) * 2 ^ f.wf
/-- The canonical NaN. -/
def RvFmt.nanBits (f : RvFmt) : Nat := f.infBits + 2 ^ (f.wf - 1)

/-- A value: NaN, signaling or not; an infinity; or (−1)^neg · m · 2^e. -/
inductive RvVal where
  | nan (signaling : Bool)
  | inf (neg : Bool)
  | num (neg : Bool) (m : Nat) (e : Int)
  deriving DecidableEq, Repr, Inhabited

/-- Flags of fcsr: NV 4, DZ 3, OF 2, UF 1, NX 0. -/
abbrev RvFlags := BitVec 5
def rvNV : RvFlags := 16#5
def rvDZ : RvFlags := 8#5

def RvFmt.decode (f : RvFmt) (v : Nat) : RvVal :=
  let neg := v / f.signBit % 2 = 1
  let ex := v / 2 ^ f.wf % 2 ^ f.eb
  let fr := v % 2 ^ f.wf
  if ex = 2 ^ f.eb - 1 then (if fr = 0 then .inf neg else .nan (fr < 2 ^ (f.wf - 1)))
  else if ex = 0 then .num neg fr (1 - (f.bias : Int) - f.wf)
  else .num neg (2 ^ f.wf + fr) ((ex : Int) - f.bias - f.wf)

def RvFmt.withSign (f : RvFmt) (neg : Bool) (v : Nat) : Nat := if neg then f.signBit + v else v

/-- A magnitude m · 2^s with s below 0 rounded to an integer: rounding modes RNE 0, RTZ 1, RDN 2, RUP 3, RMM 4. The Bool says that
it was not exact. -/
def rvRoundInt (rm : Nat) (neg : Bool) (m : Nat) (s : Int) : Nat × Bool :=
  if 0 ≤ s then (m * 2 ^ s.toNat, false)
  else
    let d := 2 ^ (-s).toNat
    let lo := m / d
    let rem := m % d
    let up : Bool := match rm with
      | 0 => d < 2 * rem || (2 * rem = d && lo % 2 = 1)
      | 1 => false
      | 2 => neg && rem != 0
      | 3 => !neg && rem != 0
      | _ => d ≤ 2 * rem
    (if up then lo + 1 else lo, rem != 0)

/-- (−1)^neg · m · 2^e rounded to a format, `sticky` standing for a rest below m's last bit: bits and flags. Tininess is found after
rounding. -/
def RvFmt.round (f : RvFmt) (rm : Nat) (neg : Bool) (m : Nat) (e : Int) (sticky : Bool) : Nat × RvFlags :=
  if m = 0 && !sticky then (f.withSign neg 0, 0#5)
  else
    let m := 2 * m + (if sticky then 1 else 0)
    let e := e - 1
    let top := (Nat.log2 m : Int) + e
    let emin := 1 - (f.bias : Int)
    let q := max top emin - f.wf
    let r := rvRoundInt rm neg m (e - q)
    let big := r.1 = 2 ^ (f.wf + 1)
    let k := if big then r.1 / 2 else r.1
    let q := if big then q + 1 else q
    let ex := if k < 2 ^ f.wf then 0 else (q + f.wf + f.bias).toNat
    if 2 ^ f.eb - 1 ≤ ex then
      let toInf : Bool := match rm with
        | 1 => false
        | 2 => neg
        | 3 => !neg
        | _ => true
      (f.withSign neg (if toInf then f.infBits else f.infBits - 1), 5#5)
    else
      let free := rvRoundInt rm neg m (e - (top - f.wf))
      let tiny := top < emin && !(top = emin - 1 && free.1 = 2 ^ (f.wf + 1))
      let bits := if k < 2 ^ f.wf then k else ex * 2 ^ f.wf + (k - 2 ^ f.wf)
      (f.withSign neg bits, (if r.2 then 1#5 else 0#5) ||| (if tiny && r.2 then 2#5 else 0#5))

/-- The canonical NaN, with NV when an operand was signaling or the operation is invalid. -/
def RvFmt.nan (f : RvFmt) (invalid : Bool) : Nat × RvFlags := (f.nanBits, if invalid then rvNV else 0#5)

def RvVal.isNan : RvVal → Bool
  | .nan _ => true
  | _ => false
def RvVal.isSnan : RvVal → Bool
  | .nan s => s
  | _ => false

/-- The sign of a number or an infinity. -/
def RvVal.neg : RvVal → Bool
  | .nan _ => false
  | .inf n => n
  | .num n _ _ => n
def RvVal.negate : RvVal → RvVal
  | .nan s => .nan s
  | .inf n => .inf !n
  | .num n m e => .num (!n) m e

def RvVal.isInf : RvVal → Bool
  | .inf _ => true
  | _ => false
def RvVal.isZero : RvVal → Bool
  | .num _ m _ => m == 0
  | _ => false

/-- A significand with its sign. -/
def signedInt (neg : Bool) (m : Nat) : Int := if neg then -(m : Int) else m

/-- The sum of two numbers, exact: sign, significand and exponent. A sum of 0 has the sign of both, or else that of the rounding
mode. -/
def rvSum (rm : Nat) (a b : Bool × Nat × Int) : Bool × Nat × Int :=
  let e := min a.2.2 b.2.2
  let n := signedInt a.1 (a.2.1 * 2 ^ (a.2.2 - e).toNat) + signedInt b.1 (b.2.1 * 2 ^ (b.2.2 - e).toNat)
  if n = 0 then (if a.2.1 = 0 && b.2.1 = 0 && a.1 == b.1 then a.1 else rm == 2, 0, e) else (n < 0, n.natAbs, e)

def RvFmt.add (f : RvFmt) (rm : Nat) (x y : RvVal) : Nat × RvFlags :=
  match x, y with
  | .nan s, v => f.nan (s || v.isSnan)
  | v, .nan s => f.nan (s || v.isSnan)
  | .inf a, .inf b => if a == b then (f.withSign a f.infBits, 0#5) else f.nan true
  | .inf a, _ => (f.withSign a f.infBits, 0#5)
  | _, .inf b => (f.withSign b f.infBits, 0#5)
  | .num a m e, .num b n d =>
    let r := rvSum rm (a, m, e) (b, n, d)
    f.round rm r.1 r.2.1 r.2.2 false

def RvFmt.mul (f : RvFmt) (rm : Nat) (x y : RvVal) : Nat × RvFlags :=
  match x, y with
  | .nan s, v => f.nan (s || v.isSnan)
  | v, .nan s => f.nan (s || v.isSnan)
  | .num a m e, .num b n d => f.round rm (a != b) (m * n) (e + d) false
  | v, w => if v.isZero || w.isZero then f.nan true else (f.withSign (v.neg != w.neg) f.infBits, 0#5)

/-- x · y + z with one rounding. -/
def RvFmt.fma (f : RvFmt) (rm : Nat) (x y z : RvVal) : Nat × RvFlags :=
  let bad : Bool := (x.isInf && y.isZero) || (x.isZero && y.isInf)
  if x.isNan || y.isNan || z.isNan || bad then f.nan (bad || x.isSnan || y.isSnan || z.isSnan)
  else
    match x, y, z with
    | .num a m e, .num b n d, .num c k g =>
      let r := rvSum rm (a != b, m * n, e + d) (c, k, g)
      f.round rm r.1 r.2.1 r.2.2 false
    | .num _ _ _, .num _ _ _, v => (f.withSign v.neg f.infBits, 0#5)
    | v, w, .inf c => if c == (v.neg != w.neg) then (f.withSign c f.infBits, 0#5) else f.nan true
    | v, w, _ => (f.withSign (v.neg != w.neg) f.infBits, 0#5)

def RvFmt.div (f : RvFmt) (rm : Nat) (x y : RvVal) : Nat × RvFlags :=
  match x, y with
  | .nan s, v => f.nan (s || v.isSnan)
  | v, .nan s => f.nan (s || v.isSnan)
  | .inf _, .inf _ => f.nan true
  | .inf a, v => (f.withSign (a != v.neg) f.infBits, 0#5)
  | v, .inf b => (f.withSign (v.neg != b) 0, 0#5)
  | .num a m e, .num b n d =>
    if n = 0 then (if m = 0 then f.nan true else (f.withSign (a != b) f.infBits, rvDZ))
    else
      let s := Nat.log2 n + f.wf + 3
      f.round rm (a != b) (m * 2 ^ s / n) (e - d - s) (m * 2 ^ s % n != 0)

def RvFmt.sqrt (f : RvFmt) (rm : Nat) (x : RvVal) : Nat × RvFlags :=
  match x with
  | .nan s => f.nan s
  | .inf n => if n then f.nan true else (f.infBits, 0#5)
  | .num n m e =>
    if m = 0 then (f.withSign n 0, 0#5)
    else if n then f.nan true
    else
      let s := 2 * (f.wf + 3) + (if e % 2 = 0 then 0 else 1)
      let v := m * 2 ^ s
      let r := isqrt v
      f.round rm false r ((e - s) / 2) (r * r != v)

/-- x < y, or x = y where `eq`; neither is a NaN. -/
def RvVal.before (eq : Bool) (x y : RvVal) : Bool :=
  match x, y with
  | .inf a, .inf b => if a == b then eq else a
  | .inf a, _ => a
  | _, .inf b => !b
  | .num a m e, .num b n d =>
    let g := min e d
    let i := signedInt a (m * 2 ^ (e - g).toNat)
    let j := signedInt b (n * 2 ^ (d - g).toNat)
    i < j || (eq && i == j)
  | _, _ => false

/-- FMIN and FMAX on bits: −0 lies below +0, and one NaN gives the other operand. -/
def RvFmt.minMax (f : RvFmt) (maxi : Bool) (a b : Nat) : Nat × RvFlags :=
  let x := f.decode a
  let y := f.decode b
  let fl := if x.isSnan || y.isSnan then rvNV else 0#5
  let below : Bool := if x.isZero && y.isZero then x.neg else x.before true y
  match x.isNan, y.isNan with
  | true, true => (f.nanBits, fl)
  | true, false => (b, fl)
  | false, true => (a, fl)
  | false, false => (if below == maxi then b else a, fl)

/-- FLE 0, FLT 1, FEQ 2: the last is quiet on a quiet NaN. -/
def rvCompare (k : Nat) (x y : RvVal) : Bool × RvFlags :=
  if x.isNan || y.isNan then (false, if k != 2 || x.isSnan || y.isSnan then rvNV else 0#5)
  else
    (match k with
      | 0 => x.before true y
      | 1 => x.before false y
      | _ => x.before true y && y.before true x, 0#5)

/-- FCLASS. -/
def RvFmt.classOf (f : RvFmt) (v : Nat) : Nat :=
  match f.decode v with
  | .nan s => if s then 2 ^ 8 else 2 ^ 9
  | .inf n => if n then 2 ^ 0 else 2 ^ 7
  | .num n m _ =>
    if m = 0 then (if n then 2 ^ 3 else 2 ^ 4)
    else if m < 2 ^ f.wf then (if n then 2 ^ 2 else 2 ^ 5)
    else if n then 2 ^ 1 else 2 ^ 6

/-- A value as an integer of `w` bits, signed or not: out of range it saturates with NV. -/
def rvToInt (signed : Bool) (w rm : Nat) (x : RvVal) : Int × RvFlags :=
  let lo : Int := if signed then -(2 ^ (w - 1)) else 0
  let hi : Int := if signed then 2 ^ (w - 1) - 1 else 2 ^ w - 1
  match x with
  | .nan _ => (hi, rvNV)
  | .inf n => (if n then lo else hi, rvNV)
  | .num n m e =>
    let r := rvRoundInt rm n m e
    let v := signedInt n r.1
    if v < lo then (lo, rvNV) else if hi < v then (hi, rvNV) else (v, if r.2 then 1#5 else 0#5)

/-- A value in another format. -/
def RvFmt.convert (f : RvFmt) (rm : Nat) (x : RvVal) : Nat × RvFlags :=
  match x with
  | .nan s => f.nan s
  | .inf n => (f.withSign n f.infBits, 0#5)
  | .num n m e => f.round rm n m e false

end Sys2Proof.Machine
end

