-- ==== Sys2Proof/Machine/Riscv.lean ====
section
/-! DEFINITION. Sys2Proof/Machine/Riscv.lean: what the base instructions of a cluster supervisor do. The spec names RV64GC and gives
none of its instructions (spec/01_device_overview.md R17): their effects are the family's, the RISC-V unprivileged and privileged
architectures with M, S and U modes, no address translation and no memory protection (assumption 8). What their loads and stores
reach is R17's: the private SRAM, the pools of the cluster and its die, and HBM. -/

namespace Sys2Proof.Machine

/-! ## Memory (R17) -/

/-- What an address of a supervisor names: a byte of its private SRAM; one of a pool or of HBM; its translation resolve register
or the resolve error register; a register of its placement unit, residency table or slot table; or nothing. -/
inductive SupPlace where
  | priv (a : Nat)
  | mem (l : Loc)
  | resolve
  | resolveErr
  | unit
  | none
  deriving DecidableEq, Repr, Inhabited

/-- The address space of the supervisor of cluster `k`. Its private SRAM is at 0, as RFCH and DISP name it (R263, R266); where the
other units lie the spec does not say (assumption 8). -/
def supPlace (k a : Nat) : SupPlace :=
  if a < privateSize then .priv a
  else
    let p := Config.supPage (a / 4096)
    let b := 4096 * p.2 + a % 4096
    match p.1 with
    | 1 => if b < 0x2000000 then .mem ⟨.cpool k, b⟩ else .none
    | 2 => if b < 0x4000000 then .mem ⟨.dpool (k / 4), b⟩ else .none
    | 3 => if b < hbmTop then .mem ⟨.hbm, b⟩ else .none
    | 4 => if b = 0 then .resolve else if b = 8 then .resolveErr else .unit
    | _ => .none

/-- What a load of `n` aligned bytes brings: none for an access fault, where there is nothing, or a word is poisoned or lost with
its die (R25, R140). A register of a unit gives free bytes. -/
def State.supLoad (s : State) (k a n : Nat) : Option Nat :=
  match supPlace k a with
  | .priv a => some (leNat (readCells (s.cluster k).sup.sram a n))
  | .mem l => if s.lostFrom (k / 4) l || (s.ram l.place).poisoned l.addr n then none else some ((s.ram l.place).readLE l.addr n)
  | .resolve => some ((s.cluster k).resolve.toNat % 256 ^ n)
  | .resolveErr => some ((s.cluster k).resolveErr.toNat % 256 ^ n)
  | .unit => some ((Config.freeWord s.free).toNat % 256 ^ n)
  | .none => none

/-! ## Integers -/

/-- A number of `w` bits, signed. -/
def rvSigned (w : Nat) (v : Word) : Int := intOf true w v.toNat

/-- The result of 32 bits, sign-extended. -/
def rvShorten (v : Word) : Word := (v.truncate 32).signExtend 64

/-- An operation on `w` bits; a quotient by 0 is −1 or all ones and its remainder the dividend. -/
def RvAlu.apply (o : RvAlu) (w : Nat) (x y : Word) : Int :=
  let a := rvSigned w x
  let b := rvSigned w y
  let u : Int := intOf false w x.toNat
  let v : Int := intOf false w y.toNat
  let sh := y.toNat % w
  match o with
  | .add => a + b
  | .sub => a - b
  | .sll => u * 2 ^ sh
  | .slt => if a < b then 1 else 0
  | .sltu => if u < v then 1 else 0
  | .xor => (x ^^^ y).toNat
  | .srl => u / 2 ^ sh
  | .sra => a / 2 ^ sh
  | .or => (x ||| y).toNat
  | .and => (x &&& y).toNat
  | .mul => a * b
  | .mulh => a * b / 2 ^ w
  | .mulhsu => a * v / 2 ^ w
  | .mulhu => u * v / 2 ^ w
  | .div => if b = 0 then -1 else Int.tdiv a b
  | .divu => if v = 0 then -1 else u / v
  | .rem => if b = 0 then a else Int.tmod a b
  | .remu => if v = 0 then u else u % v

/-- The result register of an operation. -/
def rvResult (o : RvAlu) (w : Bool) (x y : Word) : Word :=
  if w then rvShorten (wordOf (o.apply 32 x y)) else wordOf (o.apply 64 x y)

def rvBranch (f : BitVec 3) (x y : Word) : Bool :=
  match f.toNat with
  | 0 => x == y
  | 1 => x != y
  | 4 => x.toInt < y.toInt
  | 5 => y.toInt ≤ x.toInt
  | 6 => x.toNat < y.toNat
  | _ => y.toNat ≤ x.toNat

/-- The value that an AMO leaves, of `w` bits. -/
def RvAmo.apply (o : RvAmo) (w : Nat) (old y : Word) : Word :=
  let less : Bool := rvSigned w old < rvSigned w y
  let below : Bool := old.toNat % 2 ^ w < y.toNat % 2 ^ w
  match o with
  | .swap => y
  | .add => old + y
  | .xor => old ^^^ y
  | .and => old &&& y
  | .or => old ||| y
  | .min => if less then old else y
  | .max => if less then y else old
  | .minu => if below then old else y
  | .maxu => if below then y else old

/-! ## Control and status registers -/

/-- The bits of mstatus that software writes, and those of sstatus. -/
def mstatusMask : Word := 0x7E79AA#64
def sstatusMask : Word := 0xC6122#64

/-- The whole of mstatus: SXL and UXL are 2, and SD says that FS is 3. -/
def Supervisor.status (u : Supervisor) : Word :=
  (u.mstatus &&& mstatusMask) ||| 0xA00000000#64 ||| (if u.mstatus.extractLsb' 13 2 = 3#2 then 1#64 <<< 63 else 0#64)

/-- The bits of mie that exist: those of the standard causes, and those of the platform. -/
def mieMask : Word := ~~~0xF555#64

/-- The clocks of the supervisor's die, less what a write of mcycle took off (R18). -/
def State.supCycle (s : State) (k : Nat) : Word := (s.die (k / 4)).cyc + (s.cluster k).sup.cycleOff

/-- A CSR as it reads; none where there is no such CSR. Which interrupts from outside are pending is a free value. -/
def State.supCsr (s : State) (k n : Nat) : Option Word :=
  let u := (s.cluster k).sup
  let pending := u.mip ||| (Config.freeWord s.free &&& 0xFFFFFFFFFFFF0888#64)
  match n with
  | 0x001 => some (u.fcsr &&& 31#64)
  | 0x002 => some (u.fcsr >>> 5 &&& 7#64)
  | 0x003 => some (u.fcsr &&& 255#64)
  | 0x100 => some (u.status &&& (sstatusMask ||| 0x8000000300000000#64))
  | 0x104 => some (u.mie &&& u.mideleg)
  | 0x105 => some u.stvec
  | 0x106 => some u.scounteren
  | 0x10A => some 0#64
  | 0x140 => some u.sscratch
  | 0x141 => some u.sepc
  | 0x142 => some u.scause
  | 0x143 => some u.stval
  | 0x144 => some (pending &&& u.mideleg)
  | 0x180 => some 0#64
  | 0x300 => some u.status
  | 0x301 => some 0x800000000014112D#64
  | 0x302 => some u.medeleg
  | 0x303 => some u.mideleg
  | 0x304 => some u.mie
  | 0x305 => some u.mtvec
  | 0x306 => some u.mcounteren
  | 0x30A => some 0#64
  | 0x320 => some 0#64
  | 0x340 => some u.mscratch
  | 0x341 => some u.mepc
  | 0x342 => some u.mcause
  | 0x343 => some u.mtval
  | 0x344 => some pending
  | 0xB00 => some (s.supCycle k)
  | 0xB02 => some u.minstret
  | 0xC00 => some (s.supCycle k)
  | 0xC02 => some u.minstret
  | 0xF14 => some (BitVec.ofNat 64 k)
  | n =>
    if (0x323 ≤ n && n < 0x340) || (0x3A0 ≤ n && n < 0x3B0 && n % 2 = 0) || (0x3B0 ≤ n && n < 0x3F0) || (0xB03 ≤ n && n < 0xB20) ||
        (0xC03 ≤ n && n < 0xC20) || (0xF11 ≤ n && n < 0xF16) then some 0#64
    else none

/-- A CSR as written: fields without another legal value keep theirs. -/
def State.supCsrSet (s : State) (k n : Nat) (v : Word) (u : Supervisor) : Supervisor :=
  let status (mask : Word) : Word :=
    let w := (u.mstatus &&& ~~~mask) ||| (v &&& mask)
    if w.extractLsb' 11 2 = 2#2 then (w &&& ~~~0x1800#64) ||| (u.mstatus &&& 0x1800#64) else w
  let under (old mask : Word) : Word := (old &&& ~~~mask) ||| (v &&& mask)
  let fp (m : Supervisor) : Supervisor := { m with mstatus := m.mstatus ||| 0x6000#64 }
  match n with
  | 0x001 => fp { u with fcsr := under u.fcsr 31#64 }
  | 0x002 => fp { u with fcsr := (u.fcsr &&& 31#64) ||| (v &&& 7#64) <<< 5 }
  | 0x003 => fp { u with fcsr := v &&& 255#64 }
  | 0x100 => { u with mstatus := status sstatusMask }
  | 0x104 => { u with mie := under u.mie u.mideleg }
  | 0x105 => { u with stvec := v &&& ~~~2#64 }
  | 0x106 => { u with scounteren := v &&& 0xFFFFFFFF#64 }
  | 0x140 => { u with sscratch := v }
  | 0x141 => { u with sepc := v &&& ~~~1#64 }
  | 0x142 => { u with scause := v }
  | 0x143 => { u with stval := v }
  | 0x144 => { u with mip := under u.mip (u.mideleg &&& 2#64) }
  | 0x300 => { u with mstatus := status mstatusMask }
  | 0x302 => { u with medeleg := v &&& ~~~0x800#64 }
  | 0x303 => { u with mideleg := v &&& mieMask &&& ~~~0x888#64 }
  | 0x304 => { u with mie := v &&& mieMask }
  | 0x305 => { u with mtvec := v &&& ~~~2#64 }
  | 0x306 => { u with mcounteren := v &&& 0xFFFFFFFF#64 }
  | 0x340 => { u with mscratch := v }
  | 0x341 => { u with mepc := v &&& ~~~1#64 }
  | 0x342 => { u with mcause := v }
  | 0x343 => { u with mtval := v }
  | 0x344 => { u with mip := under u.mip 0x222#64 }
  | 0xB00 => { u with cycleOff := v - (s.die (k / 4)).cyc }
  | 0xB02 => { u with minstret := v }
  | _ => u

/-- The floating unit is off (mstatus.FS 0). -/
def Supervisor.noFp (u : Supervisor) : Bool := u.mstatus.extractLsb' 13 2 == 0#2

/-- An access to a CSR is illegal: it needs a higher mode, writes a read-only one, needs the floating unit while that is off, satp in
S-mode under TVM, or a counter that a higher mode has not enabled. -/
def Supervisor.csrBad (u : Supervisor) (n : Nat) (writes : Bool) : Bool :=
  let level := match u.mode with
    | .u => 0
    | .s => 1
    | .m => 3
  let counter : Bool := 0xC00 ≤ n && n < 0xC20
  level < n / 2 ^ 8 % 4 || (writes && n / 2 ^ 10 = 3) || (1 ≤ n && n ≤ 3 && u.noFp) ||
    (n = 0x180 && u.mode == .s && u.mstatus.getLsbD 20) ||
    (counter && ((u.mode != .m && !u.mcounteren.getLsbD (n % 32)) || (u.mode == .u && !u.scounteren.getLsbD (n % 32))))

/-! ## Floating registers -/

/-- The bits of an f register in a format: a 32-bit value that is not NaN-boxed is the canonical NaN. -/
def Supervisor.freg (u : Supervisor) (dbl : Bool) (r : BitVec 5) : Nat :=
  let v := (u.f.get r.toFin).toNat
  if dbl then v else if v / 2 ^ 32 = 2 ^ 32 - 1 then v % 2 ^ 32 else (rvFmt false).nanBits

/-- An f register written, NaN-boxed when it is of 32 bits; FS becomes 3. -/
def Supervisor.setFreg (u : Supervisor) (dbl : Bool) (r : BitVec 5) (v : Nat) : Supervisor :=
  { u with f := u.f.set r.toFin (BitVec.ofNat 64 (if dbl then v else (2 ^ 32 - 1) * 2 ^ 32 + v % 2 ^ 32))
           mstatus := u.mstatus ||| 0x6000#64 }

/-- Flags accrue in fcsr. -/
def Supervisor.accrue (u : Supervisor) (f : RvFlags) : Supervisor :=
  if f = 0#5 then u else { u with fcsr := u.fcsr ||| f.zeroExtend 64, mstatus := u.mstatus ||| 0x6000#64 }

/-- The rounding mode of a word: its own, or with 7 that of fcsr; 5 and above is none. -/
def Supervisor.rounding (u : Supervisor) (rm : BitVec 3) : Nat :=
  if rm = 7#3 then (u.fcsr.extractLsb' 5 3).toNat else rm.toNat

def RvFop.apply (o : RvFop) (f : RvFmt) (rm : Nat) (x y : RvVal) : Nat × RvFlags :=
  match o with
  | .add => f.add rm x y
  | .sub => f.add rm x (if y.isNan then y else y.negate)
  | .mul => f.mul rm x y
  | .div => f.div rm x y

/-- The sign of FSGNJ, FSGNJN and FSGNJX. -/
def rvSign (k : BitVec 3) (a b : Bool) : Bool :=
  match k.toNat with
  | 0 => b
  | 1 => !b
  | _ => a != b

/-! ## What a word does -/

/-- The outcome of a base instruction: the supervisor goes on, at the place its pc names; it stores bytes as well; or it takes an
exception. -/
inductive RvAct where
  | done (u : Supervisor)
  | store (u : Supervisor) (a n : Nat) (v : Word)
  | trap (cause : Nat) (tval : Word)

/-- Register D takes a value. -/
def Supervisor.gives (u : Supervisor) (d : BitVec 5) (v : Word) : RvAct := .done (u.setReg d v)

/-- A floating result for register D with its flags. -/
def Supervisor.givesF (u : Supervisor) (dbl : Bool) (d : BitVec 5) (r : Nat × RvFlags) : RvAct :=
  .done ((u.setFreg dbl d r.1).accrue r.2)

/-- A load of `n` bytes: misaligned 4, access fault 5. -/
def State.rvLoad (s : State) (k : Nat) (a : Word) (n : Nat) (f : Nat → RvAct) : RvAct :=
  if a.toNat % n != 0 then .trap 4 a
  else
    match s.supLoad k a.toNat n with
    | some v => f v
    | none => .trap 5 a

/-- A store of `n` bytes: misaligned 6, access fault 7. -/
def State.rvStore (s : State) (k : Nat) (u : Supervisor) (a : Word) (n : Nat) (v : Word) : RvAct :=
  if a.toNat % n != 0 then .trap 6 a
  else
    match supPlace k a.toNat with
    | .none => .trap 7 a
    | .mem l => if s.lostFrom (k / 4) l then .trap 7 a else .store u a.toNat n v
    | _ => .store u a.toNat n v

/-- An atomic update of a word of memory: a unit's register takes none. -/
def State.rvAmo (s : State) (k : Nat) (a : Word) (dbl : Bool) (f : Word → RvAct) : RvAct :=
  let n := if dbl then 8 else 4
  if a.toNat % n != 0 then .trap 6 a
  else
    match supPlace k a.toNat, s.supLoad k a.toNat n with
    | .priv _, some v => f (if dbl then BitVec.ofNat 64 v else rvShorten (BitVec.ofNat 64 v))
    | .mem _, some v => f (if dbl then BitVec.ofNat 64 v else rvShorten (BitVec.ofNat 64 v))
    | _, _ => .trap 7 a

/-- A word of SYSTEM; `here` is its address, and `u` stands at the word after it. -/
def RvSys.run (o : RvSys) (here : Word) (u : Supervisor) : RvAct :=
  let bad : RvAct := .trap supIllegal 0#64
  match o with
  | .ecall => .trap (match u.mode with
      | .u => 8
      | .s => 9
      | .m => 11) 0#64
  | .ebreak => .trap 3 here
  | .wfi => if u.mode != .m && u.mstatus.getLsbD 21 then bad else .done u
  | .sfence => if u.mode == .u || (u.mode == .s && u.mstatus.getLsbD 20) then bad else .done u
  | .mret =>
    if u.mode != .m then bad
    else
      let mode : Mode := match (u.mstatus.extractLsb' 11 2).toNat with
        | 3 => .m
        | 1 => .s
        | _ => .u
      let st := (u.mstatus &&& ~~~0x1888#64) ||| 0x80#64 ||| (if u.mstatus.getLsbD 7 then 8#64 else 0#64)
      .done { u with mode := mode, pc := u.mepc, mstatus := if mode == .m then st else st &&& ~~~0x20000#64 }
  | .sret =>
    if u.mode == .u || (u.mode == .s && u.mstatus.getLsbD 22) then bad
    else
      let mode : Mode := if u.mstatus.getLsbD 8 then .s else .u
      let st := (u.mstatus &&& ~~~0x122#64) ||| 0x20#64 ||| (if u.mstatus.getLsbD 5 then 2#64 else 0#64)
      .done { u with mode := mode, pc := u.sepc, mstatus := st &&& ~~~0x20000#64 }

/-- A CSR word: rd takes the old value, and the CSR the new one where the word writes. -/
def State.rvCsr (s : State) (k : Nat) (u : Supervisor) (f : BitVec 3) (d a : BitVec 5) (n : Nat) : RvAct :=
  let v : Word := if f.getLsbD 2 then a.zeroExtend 64 else u.reg a
  let how := f.toNat % 4
  let writes : Bool := how = 1 || a != 0#5
  match s.supCsr k n with
  | none => .trap supIllegal 0#64
  | some old =>
    if u.csrBad n writes then .trap supIllegal 0#64
    else if !writes then u.gives d old
    else
      let new := match how with
        | 1 => v
        | 2 => old ||| v
        | _ => old &&& ~~~v
      .done ((s.supCsrSet k n new u).setReg d old)

/-- A floating word, the unit being on; `rm` is its rounding mode, of which those that round need a legal one. -/
def State.rvFloat (s : State) (k : Nat) (u : Supervisor) (i : Rv) : RvAct :=
  let x (dbl : Bool) (r : BitVec 5) : RvVal := (rvFmt dbl).decode (u.freg dbl r)
  let rounds (rm : BitVec 3) (f : Nat → RvAct) : RvAct := if 5 ≤ u.rounding rm then .trap supIllegal 0#64 else f (u.rounding rm)
  match i with
  | .fload dbl d a off =>
    s.rvLoad k (u.reg a + off) (if dbl then 8 else 4) fun v => .done (u.setFreg dbl d v)
  | .fstore dbl a b off => s.rvStore k u (u.reg a + off) (if dbl then 8 else 4) (u.f.get b.toFin)
  | .fma np na dbl d a b c rm => rounds rm fun r =>
    let p := if np then (x dbl a).negate else x dbl a
    u.givesF dbl d ((rvFmt dbl).fma r p (x dbl b) (if na then (x dbl c).negate else x dbl c))
  | .fop o dbl d a b rm => rounds rm fun r => u.givesF dbl d (o.apply (rvFmt dbl) r (x dbl a) (x dbl b))
  | .fsqrt dbl d a rm => rounds rm fun r => u.givesF dbl d ((rvFmt dbl).sqrt r (x dbl a))
  | .fsgnj j dbl d a b =>
    let f := rvFmt dbl
    let v := u.freg dbl a
    let w := u.freg dbl b
    .done (u.setFreg dbl d (f.withSign (rvSign j (v / f.signBit % 2 = 1) (w / f.signBit % 2 = 1)) (v % f.signBit)))
  | .fminmax m dbl d a b => u.givesF dbl d ((rvFmt dbl).minMax m (u.freg dbl a) (u.freg dbl b))
  | .fcmp j dbl d a b =>
    let r := rvCompare j.toNat (x dbl a) (x dbl b)
    (u.accrue r.2).gives d (if r.1 then 1#64 else 0#64)
  | .fclass dbl d a => u.gives d (BitVec.ofNat 64 ((rvFmt dbl).classOf (u.freg dbl a)))
  | .ftoInt j dbl d a rm => rounds rm fun r =>
    let v := rvToInt (j.toNat % 2 = 0) (if j.toNat < 2 then 32 else 64) r (x dbl a)
    (u.accrue v.2).gives d (if j.toNat < 2 then rvShorten (wordOf v.1) else wordOf v.1)
  | .ffromInt j dbl d a rm => rounds rm fun r =>
    let v := intOf (j.toNat % 2 = 0) (if j.toNat < 2 then 32 else 64) (u.reg a).toNat
    u.givesF dbl d ((rvFmt dbl).round r (v < 0) v.natAbs 0 false)
  | .fconv dbl d a rm => rounds rm fun r => u.givesF dbl d ((rvFmt dbl).convert r (x (!dbl) a))
  | .fmvToInt dbl d a => u.gives d (if dbl then u.f.get a.toFin else rvShorten (u.f.get a.toFin))
  | .fmvFromInt dbl d a => .done (u.setFreg dbl d (u.reg a).toNat)
  | _ => .trap supIllegal 0#64

/-- What instruction `i` of `len` bytes does on the supervisor of cluster `k`; `u` stands at the word after it, and counts it. -/
def State.rvRun (s : State) (k : Nat) (len : Nat) (i : Rv) : RvAct :=
  let here := (s.cluster k).sup.pc
  let link := here + BitVec.ofNat 64 len
  let u := { (s.cluster k).sup with pc := link, minstret := (s.cluster k).sup.minstret + 1#64 }
  match i with
  | .lui d imm => u.gives d imm
  | .auipc d imm => u.gives d (here + imm)
  | .jal d off => { u with pc := here + off }.gives d link
  | .jalr d a off => { u with pc := (u.reg a + off) &&& ~~~1#64 }.gives d link
  | .branch f a b off => .done (if rvBranch f (u.reg a) (u.reg b) then { u with pc := here + off } else u)
  | .load f d a off =>
    let n := 2 ^ (f.toNat % 4)
    s.rvLoad k (u.reg a + off) n fun v => u.gives d (wordOf (intOf (f.toNat < 4) (8 * n) v))
  | .store f a b off => s.rvStore k u (u.reg a + off) (2 ^ f.toNat) (u.reg b)
  | .opImm o w d a imm => u.gives d (rvResult o w (u.reg a) imm)
  | .op o w d a b => u.gives d (rvResult o w (u.reg a) (u.reg b))
  | .fence => .done u
  | .sys o => o.run here u
  | .csr f d a n => s.rvCsr k u f d a n.toNat
  | .lr dbl d a =>
    let n := if dbl then 8 else 4
    if (u.reg a).toNat % n != 0 then .trap 4 (u.reg a)
    else
      match supPlace k (u.reg a).toNat, s.supLoad k (u.reg a).toNat n with
      | .unit, _ => .trap 5 (u.reg a)
      | _, some v =>
        let v := if dbl then BitVec.ofNat 64 v else rvShorten (BitVec.ofNat 64 v)
        { u with reserved := some ((u.reg a).toNat, n, v) }.gives d v
      | _, none => .trap 5 (u.reg a)
  | .sc dbl d a b => s.rvAmo k (u.reg a) dbl fun v =>
    let n := if dbl then 8 else 4
    let m := { u with reserved := none }
    if u.reserved = some ((u.reg a).toNat, n, v) && !Config.freeBool s.free then .store (m.setReg d 0#64) (u.reg a).toNat n (u.reg b)
    else m.gives d 1#64
  | .amo o dbl d a b => s.rvAmo k (u.reg a) dbl fun v =>
    .store (u.setReg d v) (u.reg a).toNat (if dbl then 8 else 4) (o.apply (if dbl then 64 else 32) v (u.reg b))
  | i => if u.noFp then .trap supIllegal 0#64 else s.rvFloat k u i

/-- A store of a supervisor takes effect: an aligned word of memory whole, or a byte range within one. -/
def State.supStore (s : State) (k a n : Nat) (v : Word) : Option State :=
  let l := natBytes n v.toNat
  match supPlace k a with
  | .priv a => some (s.modCluster k fun c => { c with sup := { c.sup with sram := writeCells c.sup.sram a l } })
  | .mem m => some (s.writeLoc m l false)
  | _ => none

/-- The word at the pc of a supervisor: its bytes, of which a base word has two or four; none beyond the private SRAM, from which
its firmware runs (R17). -/
def Supervisor.fetch (u : Supervisor) : Option (List Byte) :=
  let at_ (n : Nat) : Option (List Byte) := if u.pc.toNat + n ≤ privateSize then some (readCells u.sram u.pc.toNat n) else none
  match at_ 2 with
  | none => none
  | some l => if leNat l % 4 = 3 then at_ 4 else some l

/-- The base instruction of a word, and the bits that an illegal instruction leaves in mtval or stval. -/
def rvWord (l : List Byte) : Option Rv :=
  if l.length = 2 then rvExpand (BitVec.ofNat 16 (leNat l)) else rvDecode (BitVec.ofNat 32 (leNat l))

/-- The supervisor of cluster `k` runs the base word of bytes `l`; `resolve` is what a write of the resolve register does (R211). -/
def State.runBase (s : State) (k : Nat) (l : List Byte) (resolve : Word → State → Host.Outcome State Fault Refusal) :
    Host.Outcome State Fault Refusal :=
  let traps (cause : Nat) (tval : Word) : Host.Outcome State Fault Refusal :=
    let v := if cause = supIllegal then BitVec.ofNat 64 (leNat l) else tval
    .next ((s.modCluster k fun c => { c with sup := c.sup.exception cause v }).res (.trapped 0#22 cause 0#16))
  match rvWord l with
  | none => traps supIllegal 0#64
  | some i =>
    let ends (u : Supervisor) : State := ({ s with free := s.free + 1 }.modCluster k fun c => { c with sup := u }).res .issued
    match s.rvRun k l.length i with
    | .trap c v => traps c v
    | .done u => .next (ends u)
    | .store u a n v =>
      match supPlace k a with
      | .resolve => if n = 8 then resolve v (ends u) else .refused .supervisorUnit
      | _ =>
        match (ends u).supStore k a n v with
        | some t => .next t
        | none => .refused .supervisorUnit

end Sys2Proof.Machine
end

