-- ==== Sys2Proof/Machine/Run.lean ====
section
/-! DEFINITION. Sys2Proof/Machine/Run.lean: one turn of each agent: the walk of a counter over its text, its groups
(spec/02_execution_model.md R33 to R37, spec/03_instruction_encoding.md R60, R65 to R71), the supervisor's fetch, and the
inputs. -/

namespace Sys2Proof.Machine

/-! ## The walk of a counter -/

/-- The four bytes of the text word at `pc`. -/
def State.textBytes (s : State) (c : Nat) (pc : BitVec 22) : List Byte := (s.core c).sram.bytes pc.toNat 4

/-- The word that four bytes hold. -/
def wordAt (l : List Byte) : BitVec 32 := BitVec.ofNat 32 (leNat l)

/-- Bits 31:1 of EXIT and ERET, at which an execute counter stops (R60). -/
def stopWord (w : BitVec 32) : XStop :=
  if w >>> 1 <<< 1 = 0xC200001A#32 then .exit else if w >>> 1 <<< 1 = 0xC200002A#32 then .eret else .no

/-- The words that a counter owns (R60): its own tag's, and those of tags 00 and 11. -/
def owns (k : Ctr) (w : BitVec 32) : Bool :=
  match k, (w.extractLsb' 1 2).toNat with
  | .a, 2 => false
  | .x, 1 => false
  | _, _ => true

/-- The acting counter passes over a word of the other counter (R33, R44). -/
def State.skipWord (s : State) (pc : BitVec 22) : State :=
  (s.modMe fun t => (t.addPassed s.cur.ctr 1).advance s.cur.ctr pc false).res .issued

/-- The acting agent is counter `k` of strand `n` of core `c`, before a word at `pc`. -/
def State.begin (s : State) (c : Nat) (n : Fin 4) (k : Ctr) (pc : BitVec 22) : State :=
  { s with cur := { s.cur with
      core := c, strand := n, ctr := k, pc := pc, phase := .single, ext := none, rotw := false,
      numver := (s.strand c n).numver, ahead := 0, flags := (s.strand c n).fpPend.length, res := .none } }

/-- The reads that a group of two has begun return to the state before the group, but for a read behind a word that stands
apart (R368). `t` is the strand before the group. -/
def Strand.restamp (t t' : Strand) : Strand :=
  if t.heldA.any fun h => solid h.2 then t'
  else { t' with reads := t'.reads.map fun o => if t.rdNext ≤ o.id then { o with snap := Snap.of t } else o }

/-- The end of a group of two: `s` before it, `o` the outcome of its second word at `pc`. -/
def finishPair (s : State) (pc : BitVec 22) (o : Host.Outcome State Fault Refusal) : Host.Outcome State Fault Refusal :=
  match o with
  | .next s' =>
    match s'.cur.res with
    | .issued => .next ((s'.modMe s.me.restamp).issued 2 pc)
    | .jump target => .next ((s'.modMe s.me.restamp).jumped 2 pc target)
    | .trapped p c d => .next (s.deliver p c d)
    | .waiting => .next (s.res .waiting)
    | _ => .next (s.res .stutter)
  | .fault r => .fault r
  | .refused r => .refused r

/-- The second word `i` of a group at `pc` waits for its own part (R56), `s` being the state after the pops of the first. -/
def State.secondWaits (s : State) (pc : BitVec 22) (i : Instr) : Bool :=
  match exec i { s with cur := { s.cur with pc := pc, phase := .second, ahead := 0, res := .none } } with
  | .next s => s.cur.res == .waiting
  | _ => false

/-- A group of two words issues: the words take effect in order, or neither does (R33, R71). QUEUE-FAULT is raised by a group
that could issue otherwise (R39, R41, R413; assumption 110). The flags of the first word arrive later (R113): a CSRR of FPSTAT that is second
does not see them, and they outlast a CSRW (assumption 89). -/
def runPair (s : State) (pc1 : BitVec 22) (i1 : Instr) (pc2 : BitVec 22) (i2 : Instr) :
    Host.Outcome State Fault Refusal :=
  let n := if readsLate i2 && !solid i1 then 1 else 0
  match exec i1 { s with cur := { s.cur with pc := pc1, phase := .first, ahead := n } } with
  | .next s1 =>
    match s1.cur.res with
    | .issued => finishPair s pc2 (exec i2 { s1 with cur := { s1.cur with pc := pc2, phase := .second, ahead := 0, res := .none } })
    | .trapped p c d => if c = causeQueue && s1.secondWaits pc2 i2 then .next (s.res .waiting) else .next (s.deliver p c d)
    | .waiting => .next (s.res .waiting)
    | _ => .next (s.res .stutter)
  | .fault r => .fault r
  | .refused r => .refused r

/-- The acting counter meets a decoded word of its own (R33, R67). -/
def State.ownWord (s : State) (i : Instr) : Host.Outcome State Fault Refusal :=
  let t := s.me
  let k := s.cur.ctr
  let pc := s.cur.pc
  match t.held k with
  | none =>
    if !endsGroup i && firstIllegal t k pc i then .next (s.deliver pc causeIllegal 0#16)
    else exec i s
  | some (pc1, i1) =>
    if secondIllegal t i1 i then .next (s.deliver pc causeIllegal 0#16)
    else if !s.slipOk 2 then .next (s.res .waiting)
    else runPair s pc1 i1 pc i

/-- The acting counter meets its next word: `s` has the agent and the word's address set. Two points are the model's choice
(assumption 94): a gathered first word that the execute counter holds when it stops at an EXIT or ERET word is dropped, and the
trap at a next word outside the text waits for slip room, as that of any word does, while the trap for a target that TRAPPC
cannot hold (`State.counterTurn`) does not. -/
def State.meetWord (s : State) : Host.Outcome State Fault Refusal :=
  let t := s.me
  let k := s.cur.ctr
  let pc := s.cur.pc
  let bytes := s.textBytes s.cur.core pc
  let w := wordAt bytes
  if !inRange (s.textOf t) pc.toNat then
    (if s.slipOk 1 then .next (s.deliver pc causeIllegal 0#16) else .next (s.res .waiting))
  else if s.myCore.sram.poisoned pc.toNat 4 && s.slipOk 1 then .next (s.deliver pc causePoison 0#16)
  else if k == .x && stopWord w != .no then
    .next ((s.modMe fun t => { t with xstop := stopWord w, heldX := none }).res .waiting)
  else if !s.slipOk 1 then .next (s.res .waiting)
  else if !owns k w then
    (if (t.held k).isSome && endsLoop (t.loops k) pc then .next (s.deliver pc causeIllegal 0#16)
     else .next (s.skipWord pc))
  else
    match decode bytes with
    | .error _ => .next (s.deliver pc causeIllegal 0#16)
    | .ok (i, _) => s.ownWord i

/-- One turn of counter `k` of strand `n` of core `c`. -/
def State.counterTurn (s : State) (c : Nat) (n : Fin 4) (k : Ctr) : Host.Outcome State Fault Refusal :=
  if coreCount ≤ c then .fault .noSuchAgent
  else
    let t := s.strand c n
    let s := s.begin c n k (t.pc k)
    if t.task = 0 then .next (s.res .stutter)
    else
      match (match k with | .a => t.orgA | .x => t.orgX) with
      | some org => .next (s.deliver org causeIllegal 1#16)
      | none => if t.stopped || (k == .x && t.xstop != .no) then .next (s.res .stutter) else s.meetWord

/-! ## The supervisor -/

/-- One turn of the supervisor of cluster `k` (R17, R265): a word of the Rivan extension, or a base word (assumption 8); that of a
retired or failed die runs no more (R25). -/
def State.supervisorTurn (s : State) (k : Nat) : Host.Outcome State Fault Refusal :=
  if 64 ≤ k then .fault .noSuchAgent
  else if !s.supervised k then .next (s.res .stutter)
  else
    let s := { s with cur := { s.cur with cluster := k, res := .none } }
    match s.sup.fetch with
    | none => .next ((s.modSup fun u => u.exception 1 u.pc).res (.trapped 0#22 1 0#16))
    | some l =>
      match decodeSup l with
      | .ok (i, _) => exec i s
      | .error _ => s.runBase k l fun v t => exec (if v.getLsbD 17 then .translationKill k v else .translationRetry k v) t

/-! ## Inputs -/

/-- Where write pieces begin. -/
def partAddrs (l : List (List Host.Cell)) : List Nat := l.flatMap fun p => (p.take 1).map (·.1)

/-- Bytes that the strand class of R136 has to reach on a core: pieces of reads, buffered stores, and text. -/
def Core.strandSeeks (k : Core) : List Nat :=
  k.strands.toList.flatMap fun t =>
    (t.reads.flatMap fun r => r.left.map (·.addr)) ++ (t.sbuf.flatMap fun e => partAddrs e.parts) ++
      (if t.task = 0 then [] else [t.pcA.toNat, t.pcX.toNat])

/-- Bytes of core `here` that the stream engines have to reach for a command of core `core` (R136): its records, its source,
and the destinations that it lands there. -/
def StrCmd.seeks (c : StrCmd) (core here : Nat) : List Nat :=
  let moves : Bool := c.phase == .flight && (c.kind == .copy || c.kind == .dcmp || c.kind == .fill || c.kind == .csum)
  (if core = here && c.phase == .reading && !(c.kind == .spawn && c.stage != 0) then c.need.map (·.addr) else []) ++
    (if core = here && moves && c.source.tag = 0 then
      (c.srcPieces.zipIdx.filter fun p => !c.srcDone.contains p.2).map (·.1.addr) else []) ++
    (if moves then
      (List.range c.ndst).flatMap fun n =>
        if (c.dest n).tag = 0 && c.cores.getD n core = here then
          ((c.dstPieces n).zipIdx.filter fun p => !c.dstDone.contains (n, p.2)).map (·.1.addr)
        else []
      else [])

/-- Bytes that the stream-engine class has to reach on a core: its own commands, those of others that land there, and the
loader's sections. -/
def State.streamSeeks (s : State) (core : Nat) : List Nat :=
  (s.cores.flatMap fun e => e.2.sq.flatMap fun c => c.seeks e.1 core) ++ (s.core core).jobs.flatMap fun j => partAddrs j.out

/-- Bytes that the accumulate-on-write class has to reach on a core: those of the packets whose entries have begun there. -/
def State.landSeeks (s : State) (core : Nat) : List Nat :=
  s.packets.flatMap fun p =>
    match p.at_, s.coll? p.coll with
    | .core l, some c =>
      if p.work && s.ctxTarget c.regid p.ctx l == some (.live core) then p.left.map (·.addr) else []
    | _, _ => []

/-- Bytes that the matrix streams have to reach on a core. -/
def Core.matrixSeeks (k : Core) : List Nat := k.mq.flatMap fun m => m.left.map (·.addr) ++ partAddrs m.out

/-- Two lists of bytes share a bank. -/
def banksMeet (a b : List Nat) : Bool :=
  let l := b.map fun y => bankOf (y / 64)
  a.any fun x => l.contains (bankOf (x / 64))

/-- A request of the strand, stream-engine or accumulate-on-write class and one of another class have one bank of the core to
reach (R137, R139). -/
def State.mayConflict (s : State) (core : Nat) : Bool :=
  let a := (s.core core).strandSeeks
  let b := s.streamSeeks core
  let c := s.landSeeks core
  let d := (s.core core).matrixSeeks
  banksMeet a b || banksMeet a c || banksMeet a d || banksMeet b c || banksMeet b d || banksMeet c d

/-- A core counts a conflict (R139), where there can be one. -/
def State.countConflict (s : State) (c : Nat) : State :=
  let may := s.mayConflict c
  s.modCore c fun k =>
    { k with conflicts := if may && k.conflicts.toNat < 0xFFFFFFFF then k.conflicts + 1#64 else k.conflicts }

/-- A clock of a die (R18, R139). -/
def State.clockTurn (s : State) (die : Fin 16) (conflicts : List Nat) : State :=
  let s := s.modDie die.val fun d => { d with cyc := d.cyc + 1#64 }
  (conflicts.filter fun c => dieOf c = die.val).dedup.foldl State.countConflict s

/-- The die whose health counts an error of a word (R140); none where there is no such word. -/
def errorDie (space unit addr : Nat) : Option Nat :=
  match space with
  | 0 => if coreCount ≤ unit || sramSize ≤ addr then none else some (dieOf unit)
  | 1 => if hbmTop ≤ addr then none else some (Loc.die ⟨.hbm, addr⟩)
  | 2 => if 64 ≤ unit || 0x2000000 ≤ addr then none else some (unit / 4)
  | 3 => if 16 ≤ unit || 0x4000000 ≤ addr then none else some unit
  | _ => none

/-- A read or a scrub corrects an error (R140): its die counts it, and the value stands. -/
def State.correctTurn (s : State) (space unit addr : Nat) : Host.Outcome State Fault Refusal :=
  match errorDie space unit addr with
  | none => .fault .noSuchAgent
  | some d => .next (s.modDie d fun v => { v with corrected := v.corrected + 1 })

/-- A word becomes uncorrectable (R140), and its die counts it. -/
def State.poisonTurn (s : State) (space unit addr : Nat) : Host.Outcome State Fault Refusal :=
  match errorDie space unit addr with
  | none => .fault .noSuchAgent
  | some d =>
    let s := s.modDie d fun v => { v with uncorrectable := v.uncorrectable + 1 }
    let place : Place := match space with
      | 0 => .sram unit
      | 1 => .hbm
      | 2 => .cpool unit
      | _ => .dpool unit
    .next (s.modRam place fun m => m.mark (addr / 8))

/-- A supervisor takes an interrupt (R269). -/
def State.interruptTurn (s : State) (k cause : Nat) : Host.Outcome State Fault Refusal :=
  if 64 ≤ k then .fault .noSuchAgent
  else
    match (s.cluster k).sup.interrupt cause with
    | some u => if s.supervised k then .next (s.modCluster k fun v => { v with sup := u }) else .next (s.res .stutter)
    | none => .next (s.res .stutter)

/-- A supervisor rewrites a page table entry (R214): an aligned word of HBM outside the save windows. -/
def State.leafTurn (s : State) (cluster pa : Nat) (e ctx : Word) (lo n : Nat) : Host.Outcome State Fault Refusal :=
  if 64 ≤ cluster then .fault .noSuchAgent
  else if pa % 8 != 0 || !tableRoom pa 8 || !s.supervised cluster || s.lostFrom (cluster / 4) ⟨.hbm, pa⟩ then .next (s.res .stutter)
  else .next (s.changeLeaf pa e ctx lo n)

/-- One turn. -/
def State.turn (s : State) (t : Turn) : Host.Outcome State Fault Refusal :=
  match t with
  | .counter c n k => s.counterTurn c n k
  | .supervisor k => s.supervisorTurn k
  | .event i => if (encode i).isSome then .next (s.res .stutter) else exec i (s.res .none)
  | .result c n k => if coreCount ≤ c then .fault .noSuchAgent else .next ((s.modStrand c n fun t => t.landFlags k).res .issued)
  | .clock d l => .next ((s.clockTurn d l).res .issued)
  | .hostStore p a v => .next ((s.modPort p fun q => { q with host := writeCell q.host a v }).res .issued)
  | .poison sp u a => s.poisonTurn sp u a
  | .corrected sp u a => s.correctTurn sp u a
  | .attest p => .next ((s.res .issued).attest p)
  | .windowWrites o0 z0 v0 o1 z1 v1 => .next (((s.res .issued).windowWrite 0 o0 z0 v0).windowWrite 1 o1 z1 v1)
  | .config p w => .next ((s.res .issued).writeConfig p w)
  | .leaf k pa e ctx lo n => s.leafTurn k pa e ctx lo n
  | .interrupt k cause => s.interruptTurn k cause
  | .record c n k => if coreCount ≤ c then .fault .noSuchAgent else .next ((s.res .issued).recordTurn c n k)
  | .load c k => if coreCount ≤ c then .fault .noSuchAgent else if !s.inService c then .next (s.res .stutter) else .next ((s.res .issued).loadTurn c k)
  | .foreign n img pair ver => .next ((s.res .issued).foreignTurn n img pair ver)
  | .upset k e d => .next ((s.res .issued).upsetTurn k e d)

/-- The turn that comes next: the schedule's head, or the arbiter's choice (assumption 1). -/
def State.nextTurn (s : State) : Turn :=
  match s.turns with
  | t :: _ => t
  | [] => Config.arbiter s.tick

/-- The state in which that turn is taken. -/
def State.takeTurn (s : State) : State := { s with turns := s.turns.drop 1, tick := s.tick + 1 }

/-! ## Placing a word -/

/-- A core that runs one strand of one task over [0x2C_0000, 0x30_0000), standing at its first word (assumption 2). -/
def State.placed (s : State) : State :=
  let key := s.nextTask
  let t : Task :=
    { key := key, tid := 1#64, regid := 1#64, gang := 0#64, hdr := 0, st := .running, core := 0, lcore := 0#16,
      strands := 1#4, nstrands := 1, textBase := 0x2C0000, textEnd := 0x300000, dataBase := 0, code := 0#64, prods := [], early := false,
      base := 0, e := 0, waited := 0, since := 0, ran := 0, boundDue := false, forTask := 0, started := true, fired := false,
      yielding := false, cluster := 0, source := 0, slotCore := 0, slotCoreSec := false, why := 0, counts := [],
      cwin := (0, 0), dwin := (0, 0), nv := 3, slip := 256, held := [], savedMask := 0#4, hands := 0#4, owners := [],
      cmds := [], arms := [], chosen := false, stash := none, loading := false }
  let s := { s with tasks := t :: s.tasks, nextTask := key + 1 }
  s.modStrand 0 0 fun t =>
    { t with task := key, handler := false, stopped := false, pcA := 0x2C0000#22, pcX := 0x2C0000#22,
             heldA := none, heldX := none, orgA := none, orgX := none, xstop := .no, passedA := 0#64, passedX := 0#64 }

/-- Bits 2:1 of a word name the execute counter. -/
def wordCtr (w : BitVec 32) : Ctr := if w.extractLsb' 1 2 = 2#2 then .x else .a

/-- A supervisor word of 32 bits. -/
def isSupWord (w : BitVec 32) : Bool := w.extractLsb' 0 7 == 0x0B#7 && w.extractLsb' 25 7 == 0#7

/-- The state with `w` where the next step fetches (assumption 2). -/
def State.placeWord (s : State) (w : BitVec 32) : State :=
  if isSupWord w then
    let s := s.modCluster 0 fun k =>
      { k with sup := { k.sup with sram := writeCells k.sup.sram k.sup.pc.toNat (bytesOfWord w) } }
    { s with turns := [.supervisor 0] }
  else
    let s := s.placed
    let s := s.modCore 0 fun k => { k with sram := k.sram.write 0x2C0000 (bytesOfWord w) }
    { s with turns := [.counter 0 0 (wordCtr w)] }

end Sys2Proof.Machine
end

