-- ==== Sys2Proof/Safety.lean ====
section
/-! DEFINITION. Sys2Proof/Safety.lean: the terms that claims about a step use. -/

namespace Sys2Proof.Machine

/-- A step that answers a next state. -/
def Answers (s : State) : Prop := ∃ t, step s = .next t

/-! ## What an issued word leaves -/

/-- The word of a group takes its effect now: it is in a group of two, or it ends the group that it begins (R33). -/
def Issues (s : State) (e : BitVec 1) : Prop := s.cur.phase = .single → e = 1#1

/-- A strand without what passing a word moves: both counters' places, passed counts, held words and loop levels
(R33, R37, R44), BASE of ROTBASE (R46) and IDX of FMTIDX (R48). -/
def Strand.uncounted (t : Strand) : Strand :=
  { t with
    pcA := 0#22, pcX := 0#22, passedA := 0#64, passedX := 0#64, heldA := none, heldX := none, orgA := none, orgX := none,
    loopsA := Vector.replicate 3 Level.off, loopsX := Vector.replicate 3 Level.off,
    rotbase := t.rotbase &&& ~~~7#64, fmtidx := t.fmtidx &&& ~~~15#64 }

/-- A level whose end word is at `pc`: active and not held (R44, R285). -/
def Level.Ends (l : Level) (pc : BitVec 22) : Prop := l.active = true ∧ l.held = false ∧ l.stop = pc

/-- What `m` has of the counter other than `k` is what `u` has. -/
def SameOther (k : Ctr) (u m : Strand) : Prop :=
  match k with
  | .a => m.pcX = u.pcX ∧ m.passedX = u.passedX ∧ m.loopsX = u.loopsX ∧ m.heldX = u.heldX ∧ m.orgX = u.orgX
  | .x => m.pcA = u.pcA ∧ m.passedA = u.passedA ∧ m.loopsA = u.loopsA ∧ m.heldA = u.heldA ∧ m.orgA = u.orgA

/-- IDX of FMTIDX is the iteration number modulo 16 of the level it is bound to, if that level is active in `m`, and stays
otherwise (R48). -/
def IdxFollows (u m : Strand) : Prop :=
  ∀ l : Fin 3, (u.fmtidx.extractLsb' 4 2).toNat = l.val →
    (u.fmtidx.getLsbD 6 = true → (m.loopsX.get l).active = true →
      m.fmtidx = (u.fmtidx &&& ~~~15#64) ||| BitVec.ofNat 64 (((m.loopsX.get l).count - (m.loopsX.get l).rem).toNat % 16)) ∧
    (¬ (u.fmtidx.getLsbD 6 = true ∧ (m.loopsX.get l).active = true) → m.fmtidx = u.fmtidx)

/-- `m` is the strand `u` after counter `k` has passed the word at `pc`, which issued alone: one word is counted (R37), the
counter and its levels follow R44, ROTBASE follows R46 unless the word wrote it (`rotw`), and FMTIDX R48. -/
structure Passed (k : Ctr) (pc : BitVec 22) (rotw : Bool) (u m : Strand) : Prop where
  count : m.passed k = u.passed k + 1#64 ∧ m.held k = none
  on : (∀ j, ¬ ((u.loops k).get j).Ends pc) → m.pc k = pc + 4#22 ∧ m.loops k = u.loops k
  back : ∀ j, ((u.loops k).get j).Ends pc → 1 < ((u.loops k).get j).rem.toNat →
    (∀ i, i < j → ((u.loops k).get i).Ends pc → ((u.loops k).get i).rem.toNat ≤ 1) →
    m.pc k = ((u.loops k).get j).start ∧
    (m.loops k).get j = { (u.loops k).get j with rem := ((u.loops k).get j).rem - 1#32 } ∧
    (∀ i, i < j → ((u.loops k).get i).Ends pc → (m.loops k).get i = { (u.loops k).get i with active := false }) ∧
    ∀ i, i ≠ j → (j < i ∨ ¬ ((u.loops k).get i).Ends pc) → (m.loops k).get i = (u.loops k).get i
  out : (∃ j, ((u.loops k).get j).Ends pc) → (∀ j, ((u.loops k).get j).Ends pc → ((u.loops k).get j).rem.toNat ≤ 1) →
    m.pc k = pc + 4#22 ∧
    (∀ i, ((u.loops k).get i).Ends pc → (m.loops k).get i = { (u.loops k).get i with active := false }) ∧
    ∀ i, ¬ ((u.loops k).get i).Ends pc → (m.loops k).get i = (u.loops k).get i
  other : SameOther k u m
  access : k = .a → m.rotbase = u.rotbase ∧ m.fmtidx = u.fmtidx
  turn : k = .x → (u.loopsX.get 0).Ends pc → u.rotbase.getLsbD 3 = true → rotw = false →
    m.rotbase = (u.rotbase &&& ~~~7#64) ||| BitVec.ofNat 64 ((u.rotbase.toNat % 8 + 1) % 8)
  still : k = .x → ¬ ((u.loopsX.get 0).Ends pc ∧ u.rotbase.getLsbD 3 = true ∧ rotw = false) → m.rotbase = u.rotbase
  idx : k = .x → IdxFollows u m

/-- `m` is the strand `u` after counter `k` has passed the word at `pc`, which issued alone and named `target` as the next:
the counter is there, or, where 22 bits cannot hold it, waits at the word to trap (R36); its levels stay. -/
structure Jumped (k : Ctr) (pc : BitVec 22) (target : Int) (u m : Strand) : Prop where
  count : m.passed k = u.passed k + 1#64 ∧ m.held k = none
  there : 0 ≤ target → target < 2 ^ 22 → m.pc k = BitVec.ofInt 22 target ∧ (match k with | .a => m.orgA | .x => m.orgX) = none
  nowhere : target < 0 ∨ 2 ^ 22 ≤ target → (match k with | .a => m.orgA | .x => m.orgX) = some pc
  levels : m.loops k = u.loops k
  other : SameOther k u m
  rot : m.rotbase = u.rotbase
  access : k = .a → m.fmtidx = u.fmtidx
  idx : k = .x → IdxFollows u m

/-- `t` is `w`, the state with a word's own effect, after the acting counter has issued the word. Alone in its group, the
counter has passed it; in a group of two the pair's turn moves the counter. The acting agent's result is noted. -/
def Retired (w t : State) : Prop :=
  if w.cur.phase = .single then
    ∃ m : Strand, m.uncounted = w.me.uncounted ∧ Passed w.cur.ctr w.cur.pc w.cur.rotw w.me m ∧ t = (w.setMe m).res .issued
  else t = w.res .issued

/-- The same for a word that names the next word of its counter. A target of the word after it is no transfer: R44 places
the counter. -/
def Went (w : State) (target : Int) (t : State) : Prop :=
  if w.cur.phase = .single then
    ∃ m : Strand, m.uncounted = w.me.uncounted ∧ t = (w.setMe m).res .issued ∧
      (target = (w.cur.pc.toNat : Int) + 4 → Passed w.cur.ctr w.cur.pc w.cur.rotw w.me m) ∧
      (target ≠ (w.cur.pc.toNat : Int) + 4 → Jumped w.cur.ctr w.cur.pc target w.me m)
  else t = w.res (.jump target)

/-- Every byte of every memory of the package reads in `t` as it read in `s`, and no word's poison differs: local SRAM,
HBM, cluster pools and die pools. -/
def SameMemory (s t : State) : Prop :=
  (∀ c, (t.core c).sram = (s.core c).sram) ∧ t.hbm = s.hbm ∧ (∀ k, (t.cluster k).pool = (s.cluster k).pool) ∧
    ∀ d, (t.die d).pool = (s.die d).pool

end Sys2Proof.Machine
end

