-- ==== Sys2Proof/Certificates/Slice0/Obligations.lean ====
section
/-! DEFINITION. Sys2Proof/Certificates/Slice0/Obligations.lean: the statements for the provers, from the numbered rules of
spec/. -/

open Sys2Proof Sys2Proof.Machine

namespace Sys2Proof.Claims

/-- Every register in `rs` is available to counter `k` (R49, R50): only a registers are ever unavailable. -/
def Available (s : State) (k : Ctr) (rs : List (BitVec 5)) : Prop := k = .a → ∀ r ∈ rs, s.me.isBusy r = false

/-- The state with counter `k` acting and `v` in its register `d`; register 0 keeps nothing (R35). -/
def wrote (s : State) (k : Ctr) (d : BitVec 5) (v : Word) : State :=
  (s.actAs k).modMe fun t =>
    if d = 0#5 then t
    else match k with
      | .a => { t with areg := t.areg.set d.toFin v }
      | .x => { t with xreg := t.xreg.set d.toFin v }

/-- The shared words on two registers, with the value each rule gives (R333, R406, R336, R391, R440, R402, R403, R380). -/
def registerWords :
    List ((BitVec 5 → BitVec 5 → BitVec 5 → Tag → BitVec 1 → Instr) × (Word → Word → Word)) :=
  [(.add, fun x y => BitVec.ofNat 64 ((x.toNat + y.toNat) % 2 ^ 64)),
   (.sub, fun x y => BitVec.ofInt 64 ((x.toNat : Int) - (y.toNat : Int))),
   (.and, fun x y => x &&& y),
   (.or, fun x y => x ||| y),
   (.xor, fun x y => x ^^^ y),
   (.shl, fun x y => if 64 ≤ y.toNat then 0#64 else BitVec.ofNat 64 (x.toNat * 2 ^ y.toNat % 2 ^ 64)),
   (.shr, fun x y => if 64 ≤ y.toNat then 0#64 else BitVec.ofNat 64 (x.toNat / 2 ^ y.toNat)),
   (.sra, fun x y => BitVec.ofInt 64 (x.toInt / 2 ^ min y.toNat 64)),
   (.slt, fun x y => if x.toInt < y.toInt then 1#64 else 0#64),
   (.sltu, fun x y => if x.toNat < y.toNat then 1#64 else 0#64),
   (.minS64, fun x y => BitVec.ofInt 64 (min x.toInt y.toInt)),
   (.minZ64, fun x y => BitVec.ofNat 64 (min x.toNat y.toNat)),
   (.maxS64, fun x y => BitVec.ofInt 64 (max x.toInt y.toInt)),
   (.maxZ64, fun x y => BitVec.ofNat 64 (max x.toNat y.toNat)),
   (.mul, fun x y => BitVec.ofNat 64 (x.toNat * y.toNat % 2 ^ 64)),
   (.mulhS64, fun x y => BitVec.ofInt 64 (x.toInt * y.toInt / 2 ^ 64)),
   (.mulhZ64, fun x y => BitVec.ofNat 64 (x.toNat * y.toNat / 2 ^ 64))]

/-- The shared words on a register and a 12-bit immediate that LIMM may widen, with the value each rule gives. -/
def immediateWords :
    List ((BitVec 5 → BitVec 5 → BitVec 12 → Tag → BitVec 1 → Instr) × (Word → Int → Word)) :=
  [(.addi, fun x n => BitVec.ofInt 64 ((x.toNat : Int) + n)),
   (.andi, fun x n => x &&& BitVec.ofInt 64 n),
   (.ori, fun x n => x ||| BitVec.ofInt 64 n),
   (.xori, fun x n => x ^^^ BitVec.ofInt 64 n)]

/-- The immediate of a field of `w` bits: its own two's complement value, or after a LIMM with extension e the value of e
followed by the field (R62, R66). -/
def immediate (s : State) {w : Nat} (f : BitVec w) : Int :=
  match s.cur.ext with
  | none => f.toInt
  | some e => if e.msb then (e.toNat : Int) * 2 ^ w + f.toNat - 2 ^ (22 + w) else (e.toNat : Int) * 2 ^ w + f.toNat

end Sys2Proof.Claims

open Sys2Proof.Claims

/-- R333, R406, R336, R391, R440, R402, R403 and R380: ADD, SUB, AND, OR, XOR, SHL, SHR, SRA, SLT, SLTU, MIN, MAX, MUL and
MULH issue, write Reg(D), and change nothing else. -/
def Sys2Proof.Claims.RegisterWordsWriteTheirResult : Prop :=
  ∀ p ∈ registerWords, ∀ (d a b : BitVec 5) (g : Tag) (e : BitVec 1) (s : State),
    Issues s e → Available s (tagCtr g s) [d, a, b] →
    ∃ t, exec (p.1 d a b g e) s = .next t ∧
      Retired (wrote s (tagCtr g s) d (p.2 (s.me.reg (tagCtr g s) a) (s.me.reg (tagCtr g s) b))) t

/-- R380: MADD adds the product of two registers to D modulo 2^64 and changes nothing else. -/
def Sys2Proof.Claims.MaddAddsTheProduct : Prop :=
  ∀ (d a b : BitVec 5) (g : Tag) (e : BitVec 1) (s : State),
    Issues s e → Available s (tagCtr g s) [d, a, b] →
    ∃ t, exec (.madd d a b g e) s = .next t ∧
      Retired (wrote s (tagCtr g s) d (BitVec.ofNat 64 (((s.me.reg (tagCtr g s) d).toNat +
        (s.me.reg (tagCtr g s) a).toNat * (s.me.reg (tagCtr g s) b).toNat) % 2 ^ 64))) t

/-- R333, R336, R391, R440, R66: ADDI, ANDI, ORI and XORI, with the immediate that LIMM may widen. -/
def Sys2Proof.Claims.ImmediateWordsWriteTheirResult : Prop :=
  ∀ p ∈ immediateWords, ∀ (d a : BitVec 5) (f : BitVec 12) (g : Tag) (e : BitVec 1) (s : State),
    Issues s e → Available s (tagCtr g s) [d, a] →
    ∃ t, exec (p.1 d a f g e) s = .next t ∧
      Retired (wrote s (tagCtr g s) d (p.2 (s.me.reg (tagCtr g s) a) (immediate s f))) t

/-- R402, R379, R338: the immediate shifts, LUI, and the bit fields of `w + 1` bits from bit `l`, for every width and
position that R73 admits (l + w + 1 ≤ 64). -/
def Sys2Proof.Claims.ShiftAndFieldWordsWriteTheirResult : Prop :=
  ∀ (d a : BitVec 5) (c w l : BitVec 6) (f : BitVec 17) (g : Tag) (e : BitVec 1) (s : State),
    Issues s e → Available s (tagCtr g s) [d, a] → l.toNat + w.toNat + 1 ≤ 64 →
    let k := tagCtr g s
    let x := (s.me.reg k a).toNat
    let y := (s.me.reg k d).toNat
    let fld := x / 2 ^ l.toNat % 2 ^ (w.toNat + 1)
    (∃ t, exec (.shlImm d a c g e) s = .next t ∧ Retired (wrote s k d (BitVec.ofNat 64 (x * 2 ^ c.toNat % 2 ^ 64))) t) ∧
    (∃ t, exec (.shrImm d a c g e) s = .next t ∧ Retired (wrote s k d (BitVec.ofNat 64 (x / 2 ^ c.toNat))) t) ∧
    (∃ t, exec (.sraImm d a c g e) s = .next t ∧
      Retired (wrote s k d (BitVec.ofInt 64 ((s.me.reg k a).toInt / 2 ^ c.toNat))) t) ∧
    (∃ t, exec (.lui d f g e) s = .next t ∧ Retired (wrote s k d (BitVec.ofInt 64 (immediate s f * 4096))) t) ∧
    (∃ t, exec (.bfxZ64 d a w l g e) s = .next t ∧ Retired (wrote s k d (BitVec.ofNat 64 fld)) t) ∧
    (∃ t, exec (.bfxS64 d a w l g e) s = .next t ∧
      Retired (wrote s k d (BitVec.ofInt 64 (if 2 ^ w.toNat ≤ fld then (fld : Int) - 2 ^ (w.toNat + 1) else fld))) t) ∧
    ∃ t, exec (.bfi d a w l g e) s = .next t ∧
      Retired (wrote s k d (BitVec.ofNat 64
        (y - y / 2 ^ l.toNat % 2 ^ (w.toNat + 1) * 2 ^ l.toNat + x % 2 ^ (w.toNat + 1) * 2 ^ l.toNat))) t

/-- R390, R376: NOP has no effect of its own; LIMM has none but the extension that the next word of its group sees. A word
with E = 0 that begins a group is gathered: its counter moves past it and nothing else happens (R33). -/
def Sys2Proof.Claims.NopAndLimmHaveNoEffect : Prop :=
  (∀ (g : Tag) (e : BitVec 1) (s : State), Issues s e →
    ∃ t, exec (.nop g e) s = .next t ∧ Retired (s.actAs (tagCtr g s)) t) ∧
  (∀ (x : BitVec 22) (g : Tag) (s : State), s.cur.phase ≠ .single →
    ∃ t, exec (.limm x g) s = .next t ∧
      Retired { s.actAs (tagCtr g s) with cur := { (s.actAs (tagCtr g s)).cur with ext := some x } } t) ∧
  ∀ (x : BitVec 22) (g : Tag) (s : State), s.cur.phase = .single →
    let k := tagCtr g s
    exec (.limm x g) s = .next (((s.actAs k).modMe fun t =>
      match k with
      | .a => { t with heldA := some (s.cur.pc, .limm x g), pcA := s.cur.pc + 4#22, orgA := none }
      | .x => { t with heldX := some (s.cur.pc, .limm x g), pcX := s.cur.pc + 4#22, orgX := none }).res .gathered)

/-- Every scalar integer word, NOP and LIMM complete with the result of their rule and change nothing else: the parts above,
together. -/
def Obligations.ScalarIntegerWordsWriteTheirResult : Prop :=
  Claims.RegisterWordsWriteTheirResult ∧ Claims.MaddAddsTheProduct ∧ Claims.ImmediateWordsWriteTheirResult ∧ Claims.ShiftAndFieldWordsWriteTheirResult ∧ Claims.NopAndLimmHaveNoEffect

namespace Sys2Proof.Claims

/-- The word raises a precise cause: it has no effect of its own. Alone in its group it is delivered at once at its own
address; in a group of two it is noted, and the pair's turn delivers it with neither word's effect (R71, R284). -/
def Raises (i : Instr) (k : Ctr) (cause : Nat) (detail : BitVec 16) (s : State) : Prop :=
  exec i s = .next (if s.cur.phase = .single then (s.actAs k).deliver s.cur.pc cause detail
    else (s.actAs k).res (.trapped s.cur.pc cause detail))

/-- The word waits: nothing of the machine changes but the note of it (R56). -/
def Holds (i : Instr) (k : Ctr) (s : State) : Prop := exec i s = .next ((s.actAs k).res .waiting)

/-- What the word does is hidden by a read: one that is outstanding, or one that the second word of its group makes (R368,
log entry 20). -/
def hidden (s : State) : Bool := !s.me.reads.isEmpty || (s.cur.phase != .single && s.cur.ahead != 0)

/-- A word of counter `k` whose effect others see takes effect at once: no read hides it (R368). -/
def Direct (s : State) (k : Ctr) : Prop := k = .a → hidden s = false

/-- Reads of the strand below this number are older than the word's effect, or of its own group (R368). -/
def mark (s : State) : Nat := s.me.rdNext + (if s.cur.phase = .single then 0 else s.cur.ahead)

/-- The word has issued, and its effect `kind` waits until every older read is done (R368). -/
def deferred (s : State) (kind : LateKind) : State :=
  (s.actAs .a).modMe fun u => { u with late := u.late ++ [⟨mark s, kind⟩] }

/-- A CSRR or CSRW of FPSTAT by the execute counter finds the flags of every earlier instruction there (R113): as the second
word of a group, of those before its group (log entry 89). -/
def FlagsThere (s : State) (k : Ctr) (c : BitVec 12) : Prop :=
  k = .x → c = 0x014#12 → (s.cur.phase ≠ .second → s.me.fpPend = []) ∧ (s.cur.phase = .second → s.cur.flags = 0)

/-- The CSRs of R75 with the values that CSRR reads (R18, R463, R30, R29, R121, R38, R46, R48, R112, R139, R223, R281,
R282, R283). -/
def csrValues : List (BitVec 12 × (State → Word)) :=
  [(0x000#12, fun s => (s.die (s.cur.core / 256)).cyc),
   (0x001#12, fun s => (s.core s.cur.core).lcore.zeroExtend 64 + BitVec.ofNat 64 (s.cur.core * 2 ^ 16)),
   (0x002#12, fun s => s.me.strandCsr),
   (0x003#12, fun s => s.me.taskid),
   (0x010#12, fun s => s.me.numver),
   (0x011#12, fun s => s.me.slipw),
   (0x012#12, fun s => s.me.rotbase),
   (0x013#12, fun s => s.me.fmtidx),
   (0x014#12, fun s => s.me.fpstat),
   (0x020#12, fun s => (s.core s.cur.core).conflicts),
   (0x021#12, fun s => (s.core s.cur.core).inject),
   (0x030#12, fun s => s.me.trapcause),
   (0x031#12, fun s => s.me.trappc),
   (0x032#12, fun s => s.me.trapvec)]

/-- The acting strand of a state replaced by `f` of it. -/
def withMe (s : State) (f : Strand → Strand) : State := s.modMe f

/-- The acting core of a state replaced by `f` of it. -/
def withCore (s : State) (f : Core → Core) : State := s.modCore s.cur.core f

/-- The writable strand CSRs without further rules, with the bits that each reserves and the effect of an accepted write
(R348): SLIPW (R38), FPSTAT (R112), TRAPCAUSE (R281), TRAPPC (R282). -/
def plainCsrs : List (BitVec 12 × Word × (Word → Strand → Strand)) :=
  [(0x011#12, 0xFFFFFFFFFFFFF800#64, fun v t => { t with slipw := BitVec.ofNat 64 (max 16 (min v.toNat 1024)) }),
   (0x014#12, 0xFFFFFFFFFFFFFFC0#64, fun v t => { t with fpstat := v }),
   (0x030#12, 0x0000E000FFFCFF00#64, fun v t => { t with trapcause := v }),
   (0x031#12, 0xFFC00003FFC00003#64, fun v t => { t with trappc := v })]

/-- FMTIDX with the value `v` written: IDX is the iteration number modulo 16 of the level that `v` binds, if that level is
active, and `v`'s own otherwise (R348, R48). -/
def indexed (v : Word) (u : Strand) : Word :=
  let l := u.loopsX.get (Fin.ofNat 3 (v.toNat / 16 % 4))
  if v.getLsbD 6 = true ∧ l.active = true then (v &&& ~~~15#64) ||| BitVec.ofNat 64 ((l.count - l.rem).toNat % 16) else v

/-- The CSRs that CSRW writes, with the bits that each reserves and what an accepted value must also meet (R31, R122, R48,
R224). -/
def writableCsrs : List (BitVec 12 × Word × (State → Word → Prop)) :=
  [(0x010#12, 0xFFFFFFFFFFFFFFFC#64, fun _ v => v ≠ 0#64),
   (0x011#12, 0xFFFFFFFFFFFFF800#64, fun _ _ => True),
   (0x012#12, 0xFFFFFFFFFFFFFFF0#64, fun _ _ => True),
   (0x013#12, 0xFFFFFFFFFFFFFF80#64, fun _ v => v.extractLsb' 4 2 ≠ 3#2),
   (0x014#12, 0xFFFFFFFFFFFFFFC0#64, fun _ _ => True),
   (0x020#12, 0xFFFFFFFF00000000#64, fun _ _ => True),
   (0x021#12, 0xFFFFE00000000000#64, fun s v =>
      s.debugRegion (s.regidOf s.me.task) = true ∧ ¬ (v.getLsbD 32 = true ∧ v.extractLsb' 33 8 = 0#8)),
   (0x030#12, 0x0000E000FFFCFF00#64, fun _ _ => True),
   (0x031#12, 0xFFC00003FFC00003#64, fun _ _ => True),
   (0x032#12, 0xFFFFFFFFFFC00000#64, fun _ _ => True)]

end Sys2Proof.Claims

/-- R75, R347, R113: CSRR of each listed CSR writes its value to Reg(D) and changes nothing else; one of FPSTAT by the execute
counter waits for the flags of earlier instructions. The access counter reads what it has itself written, also where a read still
hides that from others (log entry 20). -/
def Sys2Proof.Claims.CsrrReadsEveryListedCsr : Prop :=
  ∀ p ∈ csrValues, ∀ (d : BitVec 5) (g : Tag) (e : BitVec 1) (s : State),
    Issues s e → Available s (tagCtr g s) [d] →
    (FlagsThere s (tagCtr g s) p.1 →
      ∃ t, exec (.csrr d p.1 g e) s = .next t ∧ Retired (wrote s (tagCtr g s) d (p.2 (s.view (tagCtr g s)))) t) ∧
    (¬ FlagsThere s (tagCtr g s) p.1 → Holds (.csrr d p.1 g e) (tagCtr g s) s)

/-- R348, R38, R31, R113: an accepted CSRW of SLIPW, FPSTAT, TRAPCAUSE or TRAPPC replaces the CSR (SLIPW clamped to 16
to 1,024) and changes nothing else. One of FPSTAT by the execute counter waits for the flags of earlier instructions. -/
def Sys2Proof.Claims.CsrwReplacesPlainCsrs : Prop :=
  ∀ p ∈ plainCsrs, ∀ (a : BitVec 5) (g : Tag) (e : BitVec 1) (s : State),
    Issues s e → Available s (tagCtr g s) [a] → s.me.reg (tagCtr g s) a &&& p.2.1 = 0#64 →
    (Direct s (tagCtr g s) → FlagsThere s (tagCtr g s) p.1 →
      ∃ t, exec (.csrw a p.1 g e) s = .next t ∧
        Retired (withMe (s.actAs (tagCtr g s)) (p.2.2 (s.me.reg (tagCtr g s) a))) t) ∧
    (¬ FlagsThere s (tagCtr g s) p.1 → Holds (.csrw a p.1 g e) (tagCtr g s) s)

/-- R368, R189: an accepted CSRW of any CSR by the access counter behind an outstanding read issues, and its effect waits until
every older read is done (log entry 20). -/
def Sys2Proof.Claims.CsrwBehindAReadWaitsToBeSeen : Prop :=
  ∀ p ∈ writableCsrs, ∀ (a : BitVec 5) (g : Tag) (e : BitVec 1) (s : State),
    Issues s e → tagCtr g s = .a → Available s .a [a] → hidden s = true →
    s.me.a a &&& p.2.1 = 0#64 → p.2.2 s (s.me.a a) →
    ∃ t, exec (.csrw a p.1 g e) s = .next t ∧
      Retired (deferred s (if p.1 = 0x021#12 then .inject (s.me.a a) s.me.streamCount else .csr p.1.toNat (s.me.a a))) t

/-- CSRR reads every listed CSR; an accepted CSRW of SLIPW, FPSTAT, TRAPCAUSE or TRAPPC replaces it, at once or behind a read: the
parts above, together. -/
def Obligations.CsrsReadAndPlainCsrsAreReplaced : Prop :=
  Claims.CsrrReadsEveryListedCsr ∧ Claims.CsrwReplacesPlainCsrs ∧ Claims.CsrwBehindAReadWaitsToBeSeen

/-- R348, R46, R48, R139, R225, R283, R285: an accepted CSRW of ROTBASE, FMTIDX, CONFLICTS, INJECT or TRAPVEC that no read hides.
ROTBASE keeps the value written even where the word ends an iteration; every field of FMTIDX is replaced, but for IDX where the
level it is bound to is active; a write of TRAPVEC that clears ACTIVE releases the held loop levels; a write of INJECT, in a
debug-enabled region, takes back a choice, in the queue and in a task saved without its core, and chooses afresh (log entry 25). -/
def Sys2Proof.Claims.CsrwEffectsOfTheOtherCsrs : Prop :=
  ∀ (a : BitVec 5) (g : Tag) (e : BitVec 1) (s : State), Issues s e → Available s (tagCtr g s) [a] → Direct s (tagCtr g s) →
    let k := tagCtr g s
    let v := s.me.reg k a
    (v &&& 0xFFFFFFFFFFFFFFF0#64 = 0#64 →
      ∃ t r, exec (.csrw a 0x012#12 g e) s = .next t ∧ t.me.rotbase = v ∧
        Retired { withMe (s.actAs k) fun u => { u with rotbase := v } with cur := { (s.actAs k).cur with rotw := r } } t) ∧
    (v &&& 0xFFFFFFFFFFFFFF80#64 = 0#64 → v.extractLsb' 4 2 ≠ 3#2 →
      ∃ t, exec (.csrw a 0x013#12 g e) s = .next t ∧
        Retired (withMe (s.actAs k) fun u => { u with fmtidx := indexed v u }) t ∧
        (v.getLsbD 6 = false → t.me.fmtidx = v) ∧
        ∀ l : Fin 3, (v.extractLsb' 4 2).toNat = l.val → v.getLsbD 6 = true → (t.me.loopsX.get l).active = true →
          t.me.fmtidx = (v &&& ~~~15#64) |||
            BitVec.ofNat 64 (((t.me.loopsX.get l).count - (t.me.loopsX.get l).rem).toNat % 16)) ∧
    (v &&& 0xFFFFFFFF00000000#64 = 0#64 →
      ∃ t, exec (.csrw a 0x020#12 g e) s = .next t ∧ Retired (withCore (s.actAs k) fun c => { c with conflicts := v }) t) ∧
    (v &&& 0xFFFFE00000000000#64 = 0#64 → s.debugRegion (s.regidOf s.me.task) = true →
      ¬(v.getLsbD 32 = true ∧ v.extractLsb' 33 8 = 0#8) →
      ∃ t, exec (.csrw a 0x021#12 g e) s = .next t ∧
        Retired { withCore (s.actAs k) fun c =>
          { c with inject := v, chosen := false, sq := c.sq.map fun q => { q with inject := false } } with
          tasks := s.tasks.map fun x =>
            if x.st = .saved ∧ x.slotCore = s.cur.core ∧ x.slotCoreSec = false then
              { x with chosen := false, cmds := x.cmds.map fun q => { q with inject := false } }
            else x } t) ∧
    (v &&& 0xFFFFFFFFFFC00000#64 = 0#64 →
      ∃ t, exec (.csrw a 0x032#12 g e) s = .next t ∧
        (¬ (s.me.trapvec.getLsbD 1 = true ∧ v.getLsbD 1 = false) →
          Retired (withMe (s.actAs k) fun u => { u with trapvec := v }) t) ∧
        (s.me.trapvec.getLsbD 1 = true → v.getLsbD 1 = false →
          Retired (withMe (s.actAs k) fun u =>
            { u with trapvec := v, loopsA := u.loopsA.map fun l => { l with held := false },
                     loopsX := u.loopsX.map fun l => { l with held := false } }) t ∧
          ∀ l, (t.me.loopsA.get l).held = false ∧ (t.me.loopsX.get l).held = false))

/-- R31, R75, R48, R224, R348: a CSRW that sets a reserved bit, one of a read-only CSR, FMTIDX with LVL 3, and INJECT
armed with MASK 0 or outside a debug-enabled region raise ILLEGAL-ENCODING. -/
def Sys2Proof.Claims.CsrwRefusals : Prop :=
  ∀ (a : BitVec 5) (g : Tag) (e : BitVec 1) (s : State), Issues s e → Available s (tagCtr g s) [a] →
    let k := tagCtr g s
    let v := s.me.reg k a
    (∀ c : BitVec 12, c.toNat ≤ 3 → Raises (.csrw a c g e) k 1 0#16 s) ∧
    (∀ p ∈ plainCsrs, v &&& p.2.1 ≠ 0#64 → Raises (.csrw a p.1 g e) k 1 0#16 s) ∧
    (v &&& 0xFFFFFFFFFFFFFFF0#64 ≠ 0#64 → Raises (.csrw a 0x012#12 g e) k 1 0#16 s) ∧
    (v &&& 0xFFFFFFFFFFFFFF80#64 ≠ 0#64 ∨ v.extractLsb' 4 2 = 3#2 → Raises (.csrw a 0x013#12 g e) k 1 0#16 s) ∧
    (v &&& 0xFFFFFFFF00000000#64 ≠ 0#64 → Raises (.csrw a 0x020#12 g e) k 1 0#16 s) ∧
    (v &&& 0xFFFFE00000000000#64 ≠ 0#64 ∨ s.debugRegion (s.regidOf s.me.task) = false ∨
        (v.getLsbD 32 = true ∧ v.extractLsb' 33 8 = 0#8) → Raises (.csrw a 0x021#12 g e) k 1 0#16 s) ∧
    (v &&& 0xFFFFFFFFFFC00000#64 ≠ 0#64 → Raises (.csrw a 0x032#12 g e) k 1 0#16 s)

/-- CSRW of ROTBASE, FMTIDX, CONFLICTS, INJECT and TRAPVEC, and every CSRW that raises a cause: the parts above, together. -/
def Obligations.CsrwOfTheOtherCsrsAndItsRefusals : Prop :=
  Claims.CsrwEffectsOfTheOtherCsrs ∧ Claims.CsrwRefusals

namespace Sys2Proof.Claims

/-- The conditional branches with their conditions (R337). -/
def branchWords : List ((BitVec 5 → BitVec 5 → BitVec 12 → Tag → BitVec 1 → Instr) × (Word → Word → Prop)) :=
  [(.beq, fun x y => x = y), (.bne, fun x y => x ≠ y), (.blt, fun x y => x.toInt < y.toInt),
   (.bge, fun x y => y.toInt ≤ x.toInt), (.bltu, fun x y => x.toNat < y.toNat), (.bgeu, fun x y => y.toNat ≤ x.toNat)]

/-- `4 off` bytes from the word (R62). -/
def target (s : State) {w : Nat} (off : BitVec w) : Int := (s.cur.pc.toNat : Int) + 4 * off.toInt

end Sys2Proof.Claims

/-- R337, R35: a conditional branch goes to PC + 4 × off when its condition holds of the acting counter's own registers, and
goes on otherwise; it changes nothing else. -/
def Sys2Proof.Claims.ConditionalBranches : Prop :=
  ∀ p ∈ branchWords, ∀ (a b : BitVec 5) (off : BitVec 12) (g : Tag) (e : BitVec 1) (s : State),
    Issues s e → Available s (tagCtr g s) [a, b] →
    let k := tagCtr g s
    ∃ t, exec (p.1 a b off g e) s = .next t ∧
      (p.2 (s.me.reg k a) (s.me.reg k b) → Went (s.actAs k) (target s off) t) ∧
      (¬ p.2 (s.me.reg k a) (s.me.reg k b) → Retired (s.actAs k) t)

/-- R339, R341, R398: BR and CALL go to PC + 4 × off, CALL with PC + 4 in register 31 of the counter's own file; RET goes to
register 31, and raises ALIGN when bits 1:0 of it are not zero. -/
def Sys2Proof.Claims.BrCallAndRet : Prop :=
  ∀ (off : BitVec 22) (g : Tag) (e : BitVec 1) (s : State), Issues s e →
    let k := tagCtr g s
    (∃ t, exec (.br off g e) s = .next t ∧ Went (s.actAs k) (target s off) t) ∧
    (Available s k [31#5] →
      (∃ t, exec (.call off g e) s = .next t ∧
        Went (wrote s k 31#5 (BitVec.ofNat 64 (s.cur.pc.toNat + 4))) (target s off) t) ∧
      ((s.me.reg k 31#5).extractLsb' 0 2 = 0#2 →
        ∃ t, exec (.ret g e) s = .next t ∧ Went (s.actAs k) (s.me.reg k 31#5).toNat t) ∧
      ((s.me.reg k 31#5).extractLsb' 0 2 ≠ 0#2 → Raises (.ret g e) k 3 0#16 s))

/-- The conditional branches, BR, CALL and RET go to their target or go on, and change nothing else: the parts above, together. -/
def Obligations.BranchesCallsAndReturnsGoToTheirTarget : Prop :=
  Claims.ConditionalBranches ∧ Claims.BrCallAndRet

namespace Sys2Proof.Claims

/-- The loop levels of counter `k` of a strand. -/
def levels (t : Strand) (k : Ctr) : Vector Level 3 :=
  match k with
  | .a => t.loopsA
  | .x => t.loopsX

/-- The loop levels of counter `k` changed by `f`, which sees each level's number. -/
def changeLevels (s : State) (k : Ctr) (f : Nat → Level → Level) : State :=
  withMe (s.actAs k) fun u =>
    match k with
    | .a => { u with loopsA := u.loopsA.mapIdx f }
    | .x => { u with loopsX := u.loopsX.mapIdx f }

/-- A count register: its value, or 2^32 − 1 where that is greater (R377). -/
def countOf (v : Word) : Nat := min v.toNat (2 ^ 32 - 1)

/-- `end` of a LOOP with `len` words (R377): PC + 4 × len. -/
def loopEnd (s : State) (len : BitVec 12) : Nat := s.cur.pc.toNat + 4 * len.toNat

end Sys2Proof.Claims

/-- R43, R377: a LOOP whose level is not held, with an end in the text and a count that is not 0, makes its level active with
the count, start PC + 4 and its end, and goes on; with count 0 it makes the level inactive and continues at end + 4. -/
def Sys2Proof.Claims.LoopStartsOrSkips : Prop :=
  ∀ (l : Fin 3) (a : BitVec 5) (len : BitVec 12) (g : Tag) (e : BitVec 1) (s : State),
    Issues s e → Available s (tagCtr g s) [a] → len ≠ 0#12 →
    (s.textOf s.me).1 ≤ loopEnd s len → loopEnd s len < (s.textOf s.me).2 →
    let k := tagCtr g s
    let lv := (levels s.me k).get l
    let c := countOf (s.me.reg k a)
    lv.held = false →
    let new : Level :=
      { active := true, held := false, rem := BitVec.ofNat 32 c, count := BitVec.ofNat 32 c, start := s.cur.pc + 4#22,
        stop := BitVec.ofNat 22 (loopEnd s len) }
    (c ≠ 0 → ∃ t, exec (.loop (BitVec.ofNat 2 l.val) a len g e) s = .next t ∧
      Retired (changeLevels s k fun j v => if j = l.val then new else v) t ∧ (levels t.me k).get l = new) ∧
    (c = 0 → ∃ t, exec (.loop (BitVec.ofNat 2 l.val) a len g e) s = .next t ∧
      Went (changeLevels s k fun j v => if j = l.val then { v with active := false } else v) (loopEnd s len + 4) t ∧
      (levels t.me k).get l = { lv with active := false })

/-- R378, R36, R285: a LOOP whose len is 0 or whose level is held raises ILLEGAL-ENCODING at the LOOP, and one whose end lies outside
the text raises it at that end, or, where 22 bits cannot hold the end, at the LOOP with DETAIL 1. -/
def Sys2Proof.Claims.LoopRefusals : Prop :=
  ∀ (l : Fin 3) (a : BitVec 5) (len : BitVec 12) (g : Tag) (e : BitVec 1) (s : State), Issues s e →
    let k := tagCtr g s
    let i := Instr.loop (BitVec.ofNat 2 l.val) a len g e
    let inText := (s.textOf s.me).1 ≤ loopEnd s len ∧ loopEnd s len < (s.textOf s.me).2
    (len = 0#12 → Raises i k 1 0#16 s) ∧
    (len ≠ 0#12 → inText → ((levels s.me k).get l).held = true → Raises i k 1 0#16 s) ∧
    (len ≠ 0#12 → ¬ inText → 2 ^ 22 ≤ loopEnd s len → Raises i k 1 1#16 s) ∧
    (len ≠ 0#12 → ¬ inText → loopEnd s len < 2 ^ 22 →
      exec i s = .next (if s.cur.phase = .single then (s.actAs k).deliver (BitVec.ofNat 22 (loopEnd s len)) 1 0#16
        else (s.actAs k).res (.trapped (BitVec.ofNat 22 (loopEnd s len)) 1 0#16)))

/-- R340: BRKL of a held level raises ILLEGAL-ENCODING; of an active level it makes the levels up to L that are not held
inactive and continues at the word after L's end; of an inactive level it goes on. -/
def Sys2Proof.Claims.BrklEndsLevels : Prop :=
  ∀ (l : Fin 3) (g : Tag) (e : BitVec 1) (s : State), Issues s e →
    let k := tagCtr g s
    let i := Instr.brkl (BitVec.ofNat 2 l.val) g e
    let lv := (levels s.me k).get l
    (lv.held = true → Raises i k 1 0#16 s) ∧
    (lv.held = false → lv.active = true → ∃ t, exec i s = .next t ∧
      Went (changeLevels s k fun j v => if j ≤ l.val ∧ v.held = false then { v with active := false } else v)
        (lv.stop.toNat + 4) t ∧
      ∀ j : Fin 3, j ≤ l → ((levels s.me k).get j).held = false → ((levels t.me k).get j).active = false) ∧
    (lv.held = false → lv.active = false → ∃ t, exec i s = .next t ∧ Retired (s.actAs k) t)

/-- LOOP starts or skips its level and raises its causes; BRKL ends levels: the parts above, together. -/
def Obligations.LoopAndBrklStartAndEndLevels : Prop :=
  Claims.LoopStartsOrSkips ∧ Claims.LoopRefusals ∧ Claims.BrklEndsLevels

/-- R44, R37, of NOP: when a counter passes a word that issues alone, it counts one word and goes to the next (`Retired` says the
same, and what R46 and R48 add, of every other word that issues alone and has a statement here). Where no active level
that is not held ends at the word, that is the word after it and the levels stay; where one ends and it is the lowest that has
another iteration, that level counts one iteration less, the lower levels that end there become inactive, and the counter goes to
its start. The other counter keeps its place and its count. -/
def Obligations.PassingAWordFollowsTheLoopLevels : Prop :=
  ∀ (g : Tag) (s : State), s.cur.phase = .single →
    let k := tagCtr g s
    let ends (j : Fin 3) : Prop :=
      ((levels s.me k).get j).active = true ∧ ((levels s.me k).get j).held = false ∧ ((levels s.me k).get j).stop = s.cur.pc
    ∃ t, exec (.nop g 1#1) s = .next t ∧ t.me.passed k = s.me.passed k + 1#64 ∧
      ((∀ j, ¬ ends j) → t.me.pc k = s.cur.pc + 4#22 ∧ levels t.me k = levels s.me k) ∧
      (∀ j, ends j → 1 < ((levels s.me k).get j).rem.toNat → (∀ i, i < j → ends i → ((levels s.me k).get i).rem.toNat ≤ 1) →
        t.me.pc k = ((levels s.me k).get j).start ∧
        (levels t.me k).get j = { (levels s.me k).get j with rem := ((levels s.me k).get j).rem - 1#32 } ∧
        (∀ i, i < j → ends i → (levels t.me k).get i = { (levels s.me k).get i with active := false }) ∧
        (∀ i, i ≠ j → (j < i ∨ ¬ ends i) → (levels t.me k).get i = (levels s.me k).get i)) ∧
      ((∃ j, ends j) → (∀ j, ends j → ((levels s.me k).get j).rem.toNat ≤ 1) →
        t.me.pc k = s.cur.pc + 4#22 ∧
        (∀ i, ends i → (levels t.me k).get i = { (levels s.me k).get i with active := false }) ∧
        ∀ i, ¬ ends i → (levels t.me k).get i = (levels s.me k).get i) ∧
      ∀ j, j ≠ k → t.me.pc j = s.me.pc j ∧ t.me.passed j = s.me.passed j ∧ levels t.me j = levels s.me j

/-- R46, R48: when the execute counter passes a word that does not itself write ROTBASE, BASE advances by 1 modulo 8 if EN = 1 and the
word ends an iteration of its lc0, the last one included, and ROTBASE stays otherwise; IDX of FMTIDX becomes the iteration number
modulo 16 of the level it is bound to if that level is active afterwards, and FMTIDX stays otherwise. The access counter
changes neither. -/
def Sys2Proof.Claims.RotationAndFormatIndexFollowTheLoops : Prop :=
  ∀ (g : Tag) (s : State), s.cur.phase = .single → s.cur.rotw = false →
    let lc0 := s.me.loopsX.get 0
    let ends : Prop := lc0.active = true ∧ lc0.held = false ∧ lc0.stop = s.cur.pc
    let rot := s.me.rotbase
    ∃ t, exec (.nop g 1#1) s = .next t ∧
      (tagCtr g s = .a → t.me.rotbase = rot ∧ t.me.fmtidx = s.me.fmtidx) ∧
      (tagCtr g s = .x →
        (ends → rot.getLsbD 3 = true → t.me.rotbase = (rot &&& ~~~7#64) ||| BitVec.ofNat 64 ((rot.toNat % 8 + 1) % 8)) ∧
        (¬ (ends ∧ rot.getLsbD 3 = true) → t.me.rotbase = rot) ∧
        ∀ l : Fin 3, (s.me.fmtidx.extractLsb' 4 2).toNat = l.val →
          (s.me.fmtidx.getLsbD 6 = true → (t.me.loopsX.get l).active = true →
            t.me.fmtidx = (s.me.fmtidx &&& ~~~15#64) |||
              BitVec.ofNat 64 (((t.me.loopsX.get l).count - (t.me.loopsX.get l).rem).toNat % 16)) ∧
          (¬ (s.me.fmtidx.getLsbD 6 = true ∧ (t.me.loopsX.get l).active = true) → t.me.fmtidx = s.me.fmtidx))

namespace Sys2Proof.Claims

/-- The handler's byte address, ENTRY × 4 (R283). -/
def handlerAt (t : Strand) : BitVec 22 := BitVec.ofNat 22 (t.trapvec.toNat / 4 % 2 ^ 20 * 4)

/-- A user cause goes to the handler: EN = 1, ACTIVE = 0 and the entry in the text (R284). -/
def HandlerReady (s : State) : Prop :=
  s.me.trapvec.getLsbD 0 = true ∧ s.me.trapvec.getLsbD 1 = false ∧
    (s.textOf s.me).1 ≤ (handlerAt s.me).toNat ∧ (handlerAt s.me).toNat < (s.textOf s.me).2

/-- Where counter `k` would go on: the first word of a group it has begun, or its next word. -/
def resumeAt (t : Strand) (k : Ctr) : BitVec 22 :=
  match k with
  | .a => (t.heldA.map Prod.fst).getD t.pcA
  | .x => (t.heldX.map Prod.fst).getD t.pcX

/-- passed(A) − passed(X) in 12 bits (R281). -/
def slipField (t : Strand) : Nat := (BitVec.ofInt 12 (t.passedA - t.passedX).toInt).toNat

/-- TRAPCAUSE of a precise cause (R281): CAUSE, CTR, SLIP and DETAIL. -/
def preciseCause (t : Strand) (k : Ctr) (cause : Nat) (detail : BitVec 16) : Word :=
  BitVec.ofNat 64 (cause + (match k with | .a => 0 | .x => 2 ^ 16) + slipField t * 2 ^ 32 + detail.toNat * 2 ^ 48)

/-- TRAPPC (R282). -/
def trapPcOf (apc xpc : BitVec 22) : Word := BitVec.ofNat 64 (apc.toNat + xpc.toNat * 2 ^ 32)

/-- The levels of a counter with those that are active held (R285). -/
def heldLevels (ls : Vector Level 3) : Vector Level 3 := ls.map fun l => if l.active then { l with held := true } else l

/-- The strand in its handler (R284). -/
def inHandler (t : Strand) (cause pcs : Word) : Strand :=
  { t with
    trapcause := cause, trappc := pcs, trapvec := t.trapvec ||| 2#64, passedX := t.passedA,
    pcA := handlerAt t, pcX := handlerAt t, orgA := none, orgX := none, heldA := none, heldX := none, xstop := .no,
    loopsA := heldLevels t.loopsA, loopsX := heldLevels t.loopsX }

end Sys2Proof.Claims

/-- R408, R284, R281, R282, R285: TRAP with the handler ready takes the exception: cause 8 with its code and the slip in
TRAPCAUSE, the word after the TRAP and the execute counter's next word in TRAPPC, ACTIVE set, slip 0, both counters at the
handler, active loop levels held; everything else stays. While a read of the strand is outstanding it waits (R368). -/
def Sys2Proof.Claims.TrapEntersTheHandler : Prop :=
  ∀ (c : BitVec 12) (s : State), s.cur.phase = .single → HandlerReady s →
    (s.me.reads = [] → exec (.trap c) s = .next ((withMe (s.actAs .a) fun t =>
      inHandler t (preciseCause t .a 8 (c.zeroExtend 16)) (trapPcOf (s.cur.pc + 4#22) (resumeAt t .x))).res
        (.trapped s.cur.pc 8 (c.zeroExtend 16)))) ∧
    (s.me.reads ≠ [] → Holds (.trap c) .a s)

/-- R284, R398: a cause at another word, here ALIGN at a RET of either counter, enters the same handler with the address of the
word for its counter and the next word for the other. A cause of either counter waits while a read of the strand is
outstanding, of which POISON may come first (log entry 20). -/
def Sys2Proof.Claims.AlignAtRetEntersTheHandler : Prop :=
  ∀ (g : Tag) (s : State), s.cur.phase = .single → HandlerReady s → Available s (tagCtr g s) [31#5] →
    (s.me.reg (tagCtr g s) 31#5).extractLsb' 0 2 ≠ 0#2 →
    (s.me.reads = [] → exec (.ret g 1#1) s = .next ((withMe (s.actAs (tagCtr g s)) fun t =>
      inHandler t (preciseCause t (tagCtr g s) 3 0#16)
        (match tagCtr g s with
          | .a => trapPcOf s.cur.pc (resumeAt t .x)
          | .x => trapPcOf (resumeAt t .a) s.cur.pc)).res (.trapped s.cur.pc 3 0#16))) ∧
    (s.me.reads ≠ [] → Holds (.ret g 1#1) (tagCtr g s) s)

/-- R122: a CSRW to NUMVER that sets a reserved bit raises ILLEGAL-ENCODING, one of 0 raises NUMVER, and both leave the register
unchanged where the strand goes on; one of 1, 2 or 3 takes effect and changes nothing else (behind an outstanding read, when that
is done: `CsrwBehindAReadWaitsToBeSeen`). -/
def Obligations.NumverWritesAreCheckedInOrder : Prop :=
  ∀ (a : BitVec 5) (g : Tag) (e : BitVec 1) (s : State), Issues s e → Available s (tagCtr g s) [a] →
    let k := tagCtr g s
    let v := s.me.reg k a
    (v &&& 0xFFFFFFFFFFFFFFFC#64 ≠ 0#64 → Raises (.csrw a 0x010#12 g e) k 1 0#16 s) ∧
    (v = 0#64 → Raises (.csrw a 0x010#12 g e) k 7 0#16 s) ∧
    (v = 0#64 ∨ v &&& 0xFFFFFFFFFFFFFFFC#64 ≠ 0#64 → HandlerReady s ∨ s.cur.phase ≠ .single →
      ∃ t, exec (.csrw a 0x010#12 g e) s = .next t ∧ t.me.numver = s.me.numver) ∧
    (v = 1#64 ∨ v = 2#64 ∨ v = 3#64 → Direct s k → ∃ t, exec (.csrw a 0x010#12 g e) s = .next t ∧ t.me.numver = v ∧
      Retired (withMe (s.actAs k) fun u => { u with numver := v }) t)

namespace Sys2Proof.Claims

/-- A strand that runs nothing: its registers and queue entries are gone, and what its engines still hold stays (R32). -/
def idleStrand (t : Strand) : Strand :=
  { Strand.reset with sbuf := t.sbuf, sbNext := t.sbNext, rdNext := t.rdNext, semops := t.semops, resops := t.resops }

/-- Task `v`, which runs on core `c`, has ended by escalation (R289). -/
def EscalatedAt (c : Nat) (s t : State) (v : Task) (cause pcs : Word) : Prop :=
  (∀ n, (s.strand c n).task = v.key → t.strand c n = idleStrand (s.strand c n)) ∧
  (∀ d n, d ≠ c ∨ (s.strand c n).task ≠ v.key → t.strand d n = s.strand d n) ∧
  t.task? v.key = some { v with st := .ended, fired := true } ∧
  (∀ m, (((s.core c).mailboxes.get m).valid = true ∧ ((s.core c).mailboxes.get m).owner = v.key →
      ((t.core c).mailboxes.get m).valid = false) ∧
    (¬ (((s.core c).mailboxes.get m).valid = true ∧ ((s.core c).mailboxes.get m).owner = v.key) →
      (t.core c).mailboxes.get m = (s.core c).mailboxes.get m)) ∧
  (∀ p ∈ (t.core c).pending, p ∈ (s.core c).pending ∧ p.owner ≠ v.key) ∧
  (∀ q ∈ (t.core c).sq, q.task = v.key → q.tok = 0#5) ∧
  (∃ e, (t.cluster (clusterOf v.core)).rings.get 2 = (s.cluster (clusterOf v.core)).rings.get 2 ++ [e] ∧
    e.extractLsb' 0 64 = v.tid ∧ e.extractLsb' 88 8 = 1#8 ∧ e.extractLsb' 96 16 = 4#16) ∧
  (∃ r, t.records = s.records ++ [r] ∧ r.regid = v.regid ∧
    r.words = noticeWords v.tid v.regid (s.core c).lcore.toNat 1 cause pcs 0#64) ∧
  SameMemory s t

end Sys2Proof.Claims

/-- R289, R408, R284: TRAP with EN = 0, with ACTIVE = 1 or with the entry outside the text ends the task: its strands and handler
tasks stop, its mailbox registrations, pending handlers and token writes go, ring 2 receives event 1 with status 4 and a notice goes to
the fault domain; no byte of memory and no other strand changes. -/
def Sys2Proof.Claims.TrapWithoutHandlerEndsTheTask : Prop :=
  ∀ (c : BitVec 12) (s : State) (v : Task), s.cur.phase = .single → ¬ HandlerReady s → s.me.reads = [] →
    s.task? s.me.task = some v → v.core < 4096 →
    ∃ t, exec (.trap c) s = .next t ∧
      EscalatedAt s.cur.core s t v (preciseCause s.me .a 8 (c.zeroExtend 16)) (trapPcOf (s.cur.pc + 4#22) (resumeAt s.me .x))

/-- R286, R285, R368: ERET with ACTIVE = 1 and the execute counter at an ERET word restores the slip, releases the held levels, clears
ACTIVE and continues both counters at TRAPPC; behind an outstanding read the access counter goes on, and the execute counter
when the read is done (log entry 20). With ACTIVE = 0 it raises ILLEGAL-ENCODING; otherwise it waits. The CSRs are as the access
counter has itself written them. -/
def Sys2Proof.Claims.EretReturns : Prop :=
  ∀ s : State,
    let own := (s.view .a).me
    (s.me.trapvec.getLsbD 1 = true → s.me.xstop = .eret → hidden s = false →
      exec .eret s = .next ((withMe (s.actAs .a) fun t =>
        { t with
          passedA := t.passedA + 1#64
          passedX := t.passedA + 1#64 - (t.trapcause.extractLsb' 32 12).signExtend 64
          loopsA := t.loopsA.map fun l => { l with held := false }
          loopsX := t.loopsX.map fun l => { l with held := false }
          trapvec := t.trapvec &&& ~~~2#64
          pcA := t.trappc.extractLsb' 0 22, pcX := t.trappc.extractLsb' 32 22
          orgA := none, orgX := none, heldX := none, xstop := .no }).res .ended)) ∧
    (own.trapvec.getLsbD 1 = true → s.me.xstop = .eret → hidden s = true →
      exec .eret s = .next ((withMe (deferred s (.eret (s.me.passedA + 1#64 - (own.trapcause.extractLsb' 32 12).signExtend 64)
          (own.trappc.extractLsb' 32 22))) fun t =>
        { t with
          passedA := t.passedA + 1#64, loopsA := t.loopsA.map fun l => { l with held := false },
          pcA := own.trappc.extractLsb' 0 22, orgA := none }).res .ended)) ∧
    (own.trapvec.getLsbD 1 = false → Raises .eret .a 1 0#16 s) ∧
    (own.trapvec.getLsbD 1 = true → s.me.xstop ≠ .eret → Holds .eret .a s)

/-- TRAP and a precise cause enter the handler, or end the task where there is none; ERET returns: the parts above, together. -/
def Obligations.TrapsEnterTheHandlerOrEndTheTask : Prop :=
  Claims.TrapEntersTheHandler ∧ Claims.AlignAtRetEntersTheHandler ∧ Claims.TrapWithoutHandlerEndsTheTask ∧ Claims.EretReturns

/-- R32, R55: EXIT, once its execute counter stands at an EXIT word and everything the strand issued has completed, ends the
strand; the last strand of a running task leaves it draining, its mailbox bindings closed to new deliveries. Before that it
waits. -/
def Sys2Proof.Claims.ExitEndsTheStrand : Prop :=
  ∀ s : State,
    (s.me.xstop = .exit → s.myCore.strandQuiet s.cur.strand = true →
      ∃ t, exec .exit s = .next t ∧ t.me = idleStrand s.me ∧
        (∀ c n, c ≠ s.cur.core ∨ n ≠ s.cur.strand → t.strand c n = s.strand c n) ∧ SameMemory s t ∧
        ((∃ n, n ≠ s.cur.strand ∧ (s.strand s.cur.core n).task = s.me.task ∧ (s.strand s.cur.core n).handler = false) →
          s.me.task ≠ 0 → t.tasks = s.tasks) ∧
        (∀ v, s.me.task ≠ 0 → s.task? s.me.task = some v → v.st = .running →
          (∀ n, n ≠ s.cur.strand → (s.strand s.cur.core n).task = s.me.task →
            (s.strand s.cur.core n).handler = true) →
          t.task? s.me.task = some { v with st := .draining } ∧
          ∀ m, ((s.core s.cur.core).mailboxes.get m).valid = true →
            ((s.core s.cur.core).mailboxes.get m).owner = s.me.task →
            ((t.core s.cur.core).mailboxes.get m).accepting = false)) ∧
    (¬ (s.me.xstop = .exit ∧ s.myCore.strandQuiet s.cur.strand = true) → Holds .exit .a s)

/-- R187, R362, R410, R353, R443: FENCE issues at once and makes every store of the strand so far older than what follows; TRIG
fires the task, for its own core at once; DWAIT issues once every producer has fired and its firing has reached the core, and waits
otherwise; YIELD marks the task. In a handler task TRIG and YIELD have no effect and DWAIT issues. None of them changes a
register or a byte of memory. Behind an outstanding read TRIG and YIELD issue, and others see what they do when the read is done
(R368, R410, log entry 20). -/
def Sys2Proof.Claims.FenceTrigDwaitYield : Prop :=
  ∀ s : State,
    (∃ t, exec .fence s = .next t ∧ Retired (withMe (s.actAs .a) fun u => { u with fence := u.sbNext }) t) ∧
    (∀ e, Issues s e → s.me.handler = true → ∃ t, exec (.trig e) s = .next t ∧ Retired (s.actAs .a) t) ∧
    (∀ e, Issues s e → s.me.handler = false → hidden s = true → ∃ t, exec (.trig e) s = .next t ∧ Retired (deferred s .fire) t) ∧
    (∀ e, Issues s e → s.me.handler = false → hidden s = false → ∃ t, exec (.trig e) s = .next t ∧
      Retired (withCore { s.actAs .a with tasks := s.tasks.map fun v => if v.key = s.me.task then { v with fired := true } else v }
        fun k => { k with firings := if s.me.task ∈ k.firings then k.firings else s.me.task :: k.firings }) t) ∧
    (∀ v, s.task? s.me.task = some v →
      let ready := ∀ p ∈ v.prods, ∃ u ∈ s.tasks, u.tid = p ∧ u.fired = true ∧ s.contextOf u.regid = s.contextOf v.regid ∧
        u.key ∈ (s.core s.cur.core).firings
      (s.me.handler = true ∨ ready → ∃ t, exec .dwait s = .next t ∧ Retired (s.actAs .a) t) ∧
      (s.me.handler = false → ¬ ready → Holds .dwait .a s)) ∧
    (s.me.handler = true → ∃ t, exec .yield s = .next t ∧ Retired (s.actAs .a) t) ∧
    (s.me.handler = false → hidden s = true → ∃ t, exec .yield s = .next t ∧ Retired (deferred s .yield) t) ∧
    (s.me.handler = false → hidden s = false → ∃ t, exec .yield s = .next t ∧
      Retired { s.actAs .a with tasks := s.tasks.map fun v => if v.key = s.me.task then { v with yielding := true } else v } t)

/-- EXIT ends its strand once it is quiet; FENCE, TRIG, DWAIT and YIELD: the parts above, together. -/
def Obligations.ExitFenceTrigDwaitAndYield : Prop :=
  Claims.ExitEndsTheStrand ∧ Claims.FenceTrigDwaitYield

namespace Sys2Proof.Claims

/-- Bytes that a load or store type names (R78). -/
def typeBytes (ty : Nat) : Nat := 2 ^ (ty % 4)

/-- The address of a load or store: Reg(S1) + off, exactly (R373, R6). -/
def loadAddr (s : State) (a : BitVec 5) (o : BitVec 9) : Int := ((s.me.a a).toNat : Int) + immediate s o

/-- The `n` bytes at that address lie in local SRAM (R134). -/
def InLocal (addr : Int) (n : Nat) : Prop := 0 ≤ addr ∧ addr + n ≤ 0x300000

/-- The `n` bytes at `addr` lie in local SRAM (R134). -/
def InSram (addr : Word) (n : Nat) : Prop := addr.toNat < 2 ^ 60 ∧ addr.toNat + n ≤ 0x300000

/-- The number that `n` little-endian bytes form (R1). -/
def number (b : Nat → Byte) : Nat → Nat
  | 0 => 0
  | n + 1 => (b 0).toNat + 256 * number (fun i => b (i + 1)) n

/-- A loaded number extended as its type says: types 4 to 6 are signed (R78). -/
def extended (ty n v : Nat) : Word :=
  if 4 ≤ ty ∧ 2 ^ (8 * n - 1) ≤ v then BitVec.ofInt 64 ((v : Int) - 2 ^ (8 * n)) else BitVec.ofNat 64 v

/-- No word that the `n` bytes at `a` meet is poisoned (R140, R141). -/
def Clean (m : Ram) (a n : Nat) : Prop := ∀ w, a / 8 ≤ w → w * 8 < a + n → w ∉ m.poison

/-- No byte of [a, a + n) lies in a protected text range of the acting core (R135). -/
def OutOfText (s : State) (a n : Nat) : Prop := ∀ r ∈ s.textRanges s.cur.core, a + n ≤ r.1 ∨ r.2 ≤ a

/-- LD and LD.acq (R373). -/
def loadWords : List (BitVec 5 → BitVec 5 → BitVec 9 → BitVec 3 → BitVec 1 → Instr) := [.ld, .ldAcq]

/-- ST and ST.rel (R373). -/
def storeWords : List (BitVec 5 → BitVec 5 → BitVec 9 → BitVec 2 → BitVec 1 → Instr) := [.st, .stRel]

end Sys2Proof.Claims

namespace Sys2Proof.Claims

/-- The pieces of the `n ≤ 8` bytes at `addr`: one, or two where they cross an 8-byte boundary (R182). -/
def piecesOf (addr n : Nat) : List ReadPiece :=
  if addr / 8 = (addr + n - 1) / 8 then [⟨0, addr, n⟩]
  else [⟨0, addr, 8 - addr % 8⟩, ⟨8 - addr % 8, addr + (8 - addr % 8), n - (8 - addr % 8)⟩]

/-- The read that the word being executed begins: of `kind` and `pieces`, not performed, younger than every store so far. -/
def Begun (s : State) (r : ReadOp) (kind : ReadKind) (pieces : List ReadPiece) : Prop :=
  r.id = s.me.rdNext ∧ r.pc = s.cur.pc ∧ r.kind = kind ∧ r.left = pieces ∧ r.data = [] ∧ r.stores = s.me.sbNext ∧ r.fence = s.me.fence

/-- Read `r` may not read its piece `p` yet: a store before a FENCE that is older than it is left (R187), or an older PST or SCAT,
not of its own group, shares a byte with the piece (R372). -/
def Kept (u : Strand) (r : ReadOp) (p : ReadPiece) : Prop :=
  (∃ b ∈ u.sbuf, b.id < r.fence) ∨
    ∃ b ∈ u.sbuf, b.line = none ∧ b.id < r.stores ∧ b.rd ≤ r.id ∧ ∃ i, i < p.len ∧ (b.byteAt (p.addr + i)).isSome = true

/-- The strand with read `r` outstanding. -/
def withRead (u : Strand) (r : ReadOp) : Strand := { u with reads := u.reads ++ [r], rdNext := u.rdNext + 1 }

/-- The strand with a-d unavailable; a0 never is (R49). -/
def unavailable (u : Strand) (d : BitVec 5) : Strand :=
  if d = 0#5 then u else { u with busy := u.busy ||| 1#32 <<< d.toNat }

/-- The bytes that a read piece finds: those of the stores older than its read, and the bank's (R184). -/
def pieceData (t : Strand) (m : Ram) (r : ReadOp) (p : ReadPiece) : List Byte :=
  (List.range p.len).map fun i => t.loadByte m r.stores (p.addr + i)

/-- A handler is ready for strand `n` of core `c` (R284). -/
def HandlerReadyAt (s : State) (c : Nat) (n : Fin 4) : Prop :=
  let t := s.strand c n
  t.trapvec.getLsbD 0 = true ∧ t.trapvec.getLsbD 1 = false ∧
    (s.textOf t).1 ≤ (handlerAt t).toNat ∧ (handlerAt t).toNat < (s.textOf t).2

end Sys2Proof.Claims

/-- R373, R189, R368, R182: LD and LD.acq inside local SRAM issue with Reg(D) unavailable: they begin a read of one piece, or of
two where the bytes cross an 8-byte boundary, and change nothing else. -/
def Sys2Proof.Claims.LoadsIssueWithTheirRegisterUnavailable : Prop :=
  ∀ p ∈ loadWords, ∀ (d a : BitVec 5) (o : BitVec 9) (ty : BitVec 3) (e : BitVec 1) (s : State),
    let n := typeBytes ty.toNat
    let addr := loadAddr s a o
    Issues s e → Available s .a [d, a] → InLocal addr n → (s.afterSolid = true → Clean s.myCore.sram addr.toNat n) →
    ∃ t r, exec (p d a o ty e) s = .next t ∧ Begun s r (.reg d ty) (piecesOf addr.toNat n) ∧
      Retired (withMe (s.actAs .a) fun u => unavailable (withRead u r) d) t

/-- R184, R182, R372, R187: LOAD_PERFORM of a piece of the oldest read of a strand reads it where no older wide store shares a byte and
no store before a FENCE is left; otherwise nothing happens. A piece that leaves others only notes its bytes. The last
piece of a load gives Reg(D) the bytes, extended as the type says (R373, R78), available from then on; the younger reads
stay outstanding, and no other register, panel, counter or byte of memory changes. -/
def Sys2Proof.Claims.LoadsArePerformedInOrder : Prop :=
  ∀ (core : Nat) (strand : Fin 4) (k : Nat) (s : State) (r : ReadOp) (l : List ReadOp) (p : ReadPiece),
    let u := s.strand core strand
    let m := (s.core core).sram
    let data := writeCells r.data p.off (pieceData u m r p)
    u.reads = r :: l → (∀ x, r.kind ≠ .check x) → r.left[k]? = some p →
    (Kept u r p → exec (.loadPerform core strand k) s = .next (s.res .stutter)) ∧
    (¬ Kept u r p → u.loadPoisoned m r.stores p.addr p.len = false →
      (∀ d ty, r.kind = .reg d ty → r.left.eraseIdx k ≠ [] →
        exec (.loadPerform core strand k) s = .next ((s.modStrand core strand fun t =>
          { t with reads := { r with left := r.left.eraseIdx k, data := data } :: l }).res .issued)) ∧
      (∀ d ty, r.kind = .reg d ty → r.left.eraseIdx k = [] →
        ∃ t, exec (.loadPerform core strand k) s = .next t ∧
          (d ≠ 0#5 → (t.strand core strand).isBusy d = false ∧ (t.strand core strand).a d =
            extended ty.toNat (typeBytes ty.toNat) (number (fun i => readCell data i) (typeBytes ty.toNat))) ∧
          (∀ x, x ≠ d → (t.strand core strand).a x = u.a x ∧ (t.strand core strand).isBusy x = u.isBusy x) ∧
          (t.strand core strand).reads.map ReadOp.id = l.map ReadOp.id ∧
          (t.strand core strand).xreg = u.xreg ∧ (t.strand core strand).panels = u.panels ∧
          (t.strand core strand).pcA = u.pcA ∧ (t.strand core strand).sbuf = u.sbuf ∧ SameMemory s t))

/-- R368, R141, R284: a piece of the oldest read that meets a poisoned word of its bank raises POISON at the word of that read:
where a handler is ready both counters enter it, with the resume address of the read's word, the a registers, their
availability and the count of words as they stood before its group, and without what issued after it. -/
def Sys2Proof.Claims.PoisonedReadsReturnToTheirWord : Prop :=
  ∀ (core : Nat) (strand : Fin 4) (k : Nat) (s : State) (r : ReadOp) (l : List ReadOp) (p : ReadPiece),
    let u := s.strand core strand
    u.reads = r :: l → (∀ x, r.kind ≠ .check x) → r.left[k]? = some p → HandlerReadyAt s core strand →
    ¬ Kept u r p → u.loadPoisoned (s.core core).sram r.stores p.addr p.len = true →
    ∃ t, exec (.loadPerform core strand k) s = .next t ∧
      let v := t.strand core strand
      v.areg = r.snap.areg ∧ v.busy = r.snap.busy ∧ v.passedA = r.snap.passedA ∧ v.reads = [] ∧
      v.sbuf = u.sbuf.filter (fun b => b.rd ≤ r.id) ∧ v.semops = u.semops.filter (fun b => b.rd ≤ r.id) ∧
      v.late = u.late.filter (fun b => b.rd ≤ r.id) ∧
      v.xreg = u.xreg ∧ v.panels = u.panels ∧
      (v.trapcause.toNat % 2 ^ 16 = 4 ∧ v.trappc.toNat % 2 ^ 22 = r.pc.toNat ∧ v.trapvec.getLsbD 1 = true ∧
        v.pcA = handlerAt u ∧ v.pcX = handlerAt u) ∧
      SameMemory s t

/-- R368: when the only read of a strand is done, a word's effect that it hid is seen: a SEMWAIT's threshold is taken from its
semaphore, a mailbox is bound or freed, a TRIG has fired the task, a YIELD has marked it, a CSR holds what was written, and the
execute counter of an ERET goes on. -/
def Sys2Proof.Claims.HiddenEffectsAreSeen : Prop :=
  ∀ (core : Nat) (strand : Fin 4) (k : Nat) (s : State) (r : ReadOp) (p : ReadPiece) (d : BitVec 5) (ty : BitVec 3) (o : LateOp),
    let u := s.strand core strand
    u.reads = [r] → r.kind = .reg d ty → r.left[k]? = some p → r.left.eraseIdx k = [] → ¬ Kept u r p →
    u.loadPoisoned (s.core core).sram r.stores p.addr p.len = false → u.late = [o] →
    ∃ t, exec (.loadPerform core strand k) s = .next t ∧ (t.strand core strand).late = [] ∧
      (∀ m v, o.kind = .take m v →
        semCount ((t.core core).sems.get m) = semCount ((s.core core).sems.get m) - v.toNat) ∧
      (∀ m b, o.kind = .bind m b → (((s.core core).mailboxes.get m).valid = true →
          ((s.core core).mailboxes.get m).owner = u.task) →
        ((t.core core).mailboxes.get m).valid = b.valid ∧ ((t.core core).mailboxes.get m).base = b.base ∧
        ((t.core core).mailboxes.get m).len = b.len ∧ ((t.core core).mailboxes.get m).handler = b.handler) ∧
      (o.kind = .fire → u.task ∈ (t.core core).firings ∧ ∀ v, s.task? u.task = some v → t.task? u.task = some { v with fired := true }) ∧
      (o.kind = .yield → ∀ v, s.task? u.task = some v → t.task? u.task = some { v with yielding := true }) ∧
      (∀ v, o.kind = .csr 0x010 v → (t.strand core strand).numver = v) ∧
      (∀ v, o.kind = .csr 0x014 v → (t.strand core strand).fpstat = v) ∧
      (∀ v, o.kind = .csr 0x032 v → (t.strand core strand).trapvec = v) ∧
      (∀ px pc, o.kind = .eret px pc →
        (t.strand core strand).passedX = px ∧ (t.strand core strand).pcX = pc ∧ (t.strand core strand).xstop = .no ∧
        (t.strand core strand).trapvec.getLsbD 1 = false) ∧
      SameMemory s t

/-- LD issues with its register unavailable, and its read is performed later, in order, with the bytes of the store buffer and
then the bank, or with POISON at its word; then what it hid is seen: the parts above, together. -/
def Obligations.LoadsReadTheirBytes : Prop :=
  Claims.LoadsIssueWithTheirRegisterUnavailable ∧ Claims.LoadsArePerformedInOrder ∧ Claims.PoisonedReadsReturnToTheirWord ∧
    Claims.HiddenEffectsAreSeen

namespace Sys2Proof.Claims

/-- The byte that a strand's store buffer and then the bank give for an address (R184). -/
def seen (t : Strand) (m : Ram) (a : Nat) : Byte := (t.sbuf.reverse.findSome? fun b => b.byteAt a).getD (readCell m.cells a)

end Sys2Proof.Claims

/-- R373, R184, R185, R135: ST and ST.rel outside protected text, meeting no poison and with room in the buffer, change only
the store buffer: afterwards the buffer and the bank give the stored bytes at their addresses, and at every other address what
they gave before; no byte of memory changes. -/
def Sys2Proof.Claims.StoresEnterTheBuffer : Prop :=
  ∀ p ∈ storeWords, ∀ (d a : BitVec 5) (o : BitVec 9) (ty : BitVec 2) (e : BitVec 1) (s : State),
    let n := typeBytes ty.toNat
    let addr := loadAddr s a o
    Issues s e → Available s .a [d, a] → InLocal addr n → OutOfText s addr.toNat n → Clean s.myCore.sram addr.toNat n →
    s.me.lineEntries ≤ 6 →
    ∃ t m, exec (p d a o ty e) s = .next t ∧
      Retired { (s.actAs .a).setMe { s.me with sbuf := m, sbNext := (t.me).sbNext } with free := s.free + 1 } t ∧
      SameMemory s t ∧
      ∀ x, seen t.me s.myCore.sram x =
        if addr.toNat ≤ x ∧ x < addr.toNat + n then BitVec.ofNat 8 ((s.me.a d).toNat / 256 ^ (x - addr.toNat))
        else seen s.me s.myCore.sram x

/-- R134, R135, R141: loads, stores, AMO and CAS outside local SRAM, and stores, AMO and CAS into protected text, raise SPACE; an
AMO or CAS inside local SRAM that is not aligned raises ALIGN, whether or not its other registers are available (R335). -/
def Obligations.AccessesOutsideTheirBoundsTrap : Prop :=
  ∀ (d a b : BitVec 5) (o : BitVec 9) (e : BitVec 1) (s : State), Issues s e → Available s .a [a] →
    (∀ p ∈ loadWords, ∀ ty, ¬ InLocal (loadAddr s a o) (typeBytes ty.toNat) → Raises (p d a o ty e) .a 2 0#16 s) ∧
    (Available s .a [d] → ∀ p ∈ storeWords, ∀ ty, ¬ (InLocal (loadAddr s a o) (typeBytes ty.toNat) ∧
      OutOfText s (loadAddr s a o).toNat (typeBytes ty.toNat)) → Raises (p d a o ty e) .a 2 0#16 s) ∧
    ∀ (u z : BitVec 1) (p : BitVec 3),
      let n := if z = 0#1 then 4 else 8
      let addr := s.me.a a
      (¬ (InSram addr n ∧ OutOfText s addr.toNat n) →
        Raises (.amo d a b u z p e) .a 2 0#16 s ∧ Raises (.cas d a b z e) .a 2 0#16 s) ∧
      (InSram addr n → OutOfText s addr.toNat n → addr.toNat % n ≠ 0 →
        Raises (.amo d a b u z p e) .a 3 0#16 s ∧ Raises (.cas d a b z e) .a 3 0#16 s)

namespace Sys2Proof.Claims

/-- The two's complement value of `w` bits. -/
def signedOf (w v : Nat) : Int := if 2 ^ (w - 1) ≤ v then (v : Int) - 2 ^ w else v

/-- The new value of an AMO of operation `p` on words of `w` bits; `u` = 1 compares unsigned (R334, R79). -/
def amoResult (p : BitVec 3) (u : BitVec 1) (w old v : Nat) : Nat :=
  match p.toNat with
  | 0 => (old + v) % 2 ^ w
  | 1 => old &&& v
  | 2 => old ||| v
  | 3 => old ^^^ v
  | 4 => v
  | 5 => if u = 1#1 then min old v else if signedOf w v < signedOf w old then v else old
  | _ => if u = 1#1 then max old v else if signedOf w old < signedOf w v then v else old

/-- The acting core with the `n` bytes of `v` at `addr`, an aligned 8-byte write clearing its word's poison (R140). -/
def stored (s : State) (addr n v : Nat) : State :=
  withCore s fun k => { k with sram := k.sram.write addr (natBytes n v) }

end Sys2Proof.Claims

/-- R334, R335, R188: an AMO that is aligned, in local SRAM and outside protected text, with the strand's stores drained, its
reads performed and its word not poisoned, writes the operation's result to its 4 or 8 bytes and the old value, zero-extended, to Reg(D), and
changes nothing else; with an older access left it waits. -/
def Sys2Proof.Claims.AmoUpdatesItsWord : Prop :=
  ∀ (d a b : BitVec 5) (u z : BitVec 1) (p : BitVec 3) (e : BitVec 1) (s : State),
    let n := if z = 0#1 then 4 else 8
    let addr := s.me.a a
    let old := s.myCore.sram.readLE addr.toNat n
    Issues s e → Available s .a [d, a, b] → (Instr.amo d a b u z p e).WellFormed →
    InSram addr n → OutOfText s addr.toNat n → addr.toNat % n = 0 →
    (s.me.sbuf ≠ [] ∨ s.me.reads ≠ [] → Holds (.amo d a b u z p e) .a s) ∧
    (s.me.sbuf = [] → s.me.reads = [] → Clean s.myCore.sram addr.toNat n →
      ∃ t, exec (.amo d a b u z p e) s = .next t ∧
        Retired (wrote (stored (s.actAs .a) addr.toNat n (amoResult p u (8 * n) old ((s.me.a b).toNat % 2 ^ (8 * n)))) .a d
          (BitVec.ofNat 64 old)) t)

/-- R342, R335: CAS under the same conditions writes Reg(S2) when the old value equals Reg(D) modulo 2^(8n), writes nothing
otherwise, and gives Reg(D) the old value, zero-extended. -/
def Sys2Proof.Claims.CasComparesAndSwaps : Prop :=
  ∀ (d a b : BitVec 5) (z e : BitVec 1) (s : State),
    let n := if z = 0#1 then 4 else 8
    let addr := s.me.a a
    let old := s.myCore.sram.readLE addr.toNat n
    Issues s e → Available s .a [d, a, b] →
    InSram addr n → OutOfText s addr.toNat n → addr.toNat % n = 0 → s.me.sbuf = [] → s.me.reads = [] →
    Clean s.myCore.sram addr.toNat n →
    (old = (s.me.a d).toNat % 2 ^ (8 * n) →
      ∃ t, exec (.cas d a b z e) s = .next t ∧
        Retired (wrote (stored (s.actAs .a) addr.toNat n ((s.me.a b).toNat % 2 ^ (8 * n))) .a d (BitVec.ofNat 64 old)) t) ∧
    (old ≠ (s.me.a d).toNat % 2 ^ (8 * n) →
      ∃ t, exec (.cas d a b z e) s = .next t ∧ Retired (wrote s .a d (BitVec.ofNat 64 old)) t)

/-- AMO and CAS update their word, give D the old value and change nothing else: the parts above, together. -/
def Obligations.AmoAndCasUpdateTheirWord : Prop :=
  Claims.AmoUpdatesItsWord ∧ Claims.CasComparesAndSwaps

namespace Sys2Proof.Claims

/-- The acting strand's A→X queue `q` replaced, and its X→A queue (R40). -/
def withQax (t : Strand) (q : BitVec 2) (v : Queue) : Strand := { t with qax := t.qax.set q.toFin v }
def withQxa (t : Strand) (q : BitVec 2) (v : Queue) : Strand := { t with qxa := t.qxa.set q.toFin v }

/-- Entries joined to the tail of a queue, and `n` entries taken from its head, whose slot moves on (R40, R300). -/
def pushed (q : Queue) (es : List QEntry) : Queue := { q with entries := q.entries ++ es }
def popped (q : Queue) (n : Nat) : Queue := { head := q.head + BitVec.ofNat 5 n, entries := q.entries.drop n }

/-- Row `i` of the bytes that a read has collected: bytes 256 i to 256 i + 255 (R394). -/
def rowAt (data : List Host.Cell) (i : Nat) : Row := BitVec.ofNat 2048 (leNat (readCells data (256 * i) 256))

/-- `n` rows that read `id` reserves (R369). -/
def reservedRows (id n : Nat) : List QEntry := (List.range n).map fun i => .pending id i

/-- `n` rows at the head of a queue, each poppable (R39, R369). -/
def HeadRows (q : Queue) (rows : List Row) : Prop :=
  rows.length ≤ q.poppable ∧ (q.entries.take rows.length).map QEntry.row? = rows.map some

/-- A word pops a scalar where it needs a row, or a row where it needs a scalar: QUEUE-FAULT (R41). In a group of two, `s'` is the
state with its pops made, in which the group's other word is looked at (R413, log entry 110). -/
def RaisesQueue (i : Instr) (k : Ctr) (s s' : State) : Prop :=
  exec i s = .next (if s.cur.phase = .single then (s.actAs k).deliver s.cur.pc 5 0#16 else s'.res (.trapped s.cur.pc 5 0#16))

/-- X→A queue `q` without the entries that the access counter has taken and not yet released. -/
def viewed (u : Strand) (q : BitVec 2) : Queue := popped (u.qxa.get q.toFin) (u.took.get q.toFin)

/-- The access counter takes `n` entries from X→A queue `q`: they go at once, or, where a read hides it, when the read is done. -/
def taking (hide : Bool) (u : Strand) (q : BitVec 2) (n : Nat) : Strand :=
  if hide then { u with took := u.took.set q.toFin (u.took.get q.toFin + n) }
  else { withQxa u q (popped (viewed u q) n) with took := u.took.set q.toFin 0 }

/-- The access counter pushes entries onto A→X queue `q`; where a read hides them the execute counter pops none of them. -/
def giving (hide : Bool) (u : Strand) (q : BitVec 2) (es : List QEntry) : Strand :=
  { withQax u q (pushed (u.qax.get q.toFin) es) with
    hid := if hide then u.hid.set q.toFin (u.hid.get q.toFin + es.length) else u.hid }

end Sys2Proof.Claims

/-- R394, R369, R370, R371: a PLD at a multiple of 64 in local SRAM with room for its rows, and a GATH whose index rows are there,
whose elements lie in local SRAM and that has room, issue at once: they begin a read of their bytes and reserve their rows at
the tail of their A→X queue, not yet poppable, and GATH takes its index rows. -/
def Sys2Proof.Claims.PldAndGathReserveRows : Prop :=
  (∀ (q : BitVec 2) (a r : BitVec 5) (e : BitVec 1) (s : State),
    let n := r.toNat + 1
    let addr := s.me.a a
    Issues s e → Available s .a [a] → addr.toNat % 64 = 0 → InSram addr (256 * n) →
    (s.me.qax.get q.toFin).entries.length + n ≤ 32 → (s.afterSolid = true → Clean s.myCore.sram addr.toNat (256 * n)) →
    ∃ t x, exec (.pld q a r e) s = .next t ∧ Begun s x (.rows q.toFin n) (readPieces 0 addr.toNat (256 * n)) ∧
      Retired (withMe (s.actAs .a) fun u => giving true (withRead u x) q (reservedRows s.me.rdNext n)) t) ∧
  ∀ (q : BitVec 2) (a : BitVec 5) (j : BitVec 2) (r : BitVec 5) (sz : BitVec 2) (e : BitVec 1) (s : State)
      (rows : List Row),
    let n := r.toNat + 1
    let w := 2 ^ sz.toNat
    let m := (n * w + 3) / 4
    Issues s e → Available s .a [a] → (Instr.gath q a j r sz e).WellFormed →
    HeadRows (viewed s.me j) rows → rows.length = n →
    (s.me.qax.get q.toFin).entries.length + m ≤ 32 →
    (∀ i ∈ indicesOf rows, i < 2 ^ 31 → InSram (s.me.a a) 0 ∧ (s.me.a a).toNat + i * w + w ≤ 0x300000 ∧
      (s.afterSolid = true → Clean s.myCore.sram ((s.me.a a).toNat + i * w) w)) →
    ∃ t x, exec (.gath q a j r sz e) s = .next t ∧
      Begun s x (.rows q.toFin m) (gathPieces (s.me.a a) w 0 (indicesOf rows)) ∧
      Retired (withMe (s.actAs .a) fun u =>
        giving true (taking true (withRead u x) j n) q (reservedRows s.me.rdNext m)) t

/-- R369, R182, R184: each piece of a PLD or GATH completes the rows of which no other piece is left, with the bytes read; the last
one ends the read. ROW_COMPLETE makes the oldest complete row poppable: of a read that is done, or, where no hidden entry stands
before it, of one of which other rows are not complete. -/
def Sys2Proof.Claims.ReservedRowsComplete : Prop :=
  (∀ (core : Nat) (strand : Fin 4) (k : Nat) (s : State) (r : ReadOp) (l : List ReadOp) (p : ReadPiece) (q : Fin 4) (n : Nat),
    let u := s.strand core strand
    let m := (s.core core).sram
    let data := writeCells r.data p.off (pieceData u m r p)
    let rest := r.left.eraseIdx k
    let filled : QEntry → QEntry := fun e => match e with
      | .pending id i => if id = r.id ∧ ∀ x ∈ rest, x.off / 256 ≠ i then .reserved (rowAt data i) else .pending id i
      | .early v => if rest = [] then .row v else .early v
      | e => e
    u.reads = r :: l → r.kind = .rows q n → r.left[k]? = some p → ¬ Kept u r p →
    u.loadPoisoned m r.stores p.addr p.len = false →
    ∃ t, exec (.loadPerform core strand k) s = .next t ∧
      ((t.strand core strand).qax.get q).entries = (u.qax.get q).entries.map filled ∧
      (t.strand core strand).reads.map ReadOp.id = (if rest = [] then l else r :: l).map ReadOp.id ∧
      (t.strand core strand).areg = u.areg ∧ (t.strand core strand).xreg = u.xreg ∧ SameMemory s t) ∧
  ∀ (core : Nat) (strand q : Fin 4) (s : State) (x y : List QEntry) (v : Row),
    let u := s.strand core strand
    let seen := (u.qax.get q).entries.length - u.hid.get q
    (u.qax.get q).entries = x ++ .reserved v :: y → (∀ e ∈ x, ∀ w, e ≠ .reserved w) →
    (x.length < seen → exec (.rowComplete core strand q) s = .next (s.modStrand core strand fun t =>
      { t with qax := t.qax.set q { t.qax.get q with entries := x ++ .row v :: y } })) ∧
    (x.length = seen → ∃ t, exec (.rowComplete core strand q) s = .next t ∧
      ((t.strand core strand).qax.get q).entries = x ++ .early v :: y ∧
      (t.strand core strand).hid.get q = u.hid.get q - 1 ∧ (∀ z, z ≠ q → (t.strand core strand).hid.get z = u.hid.get z) ∧
      (t.strand core strand).reads.map ReadOp.id = u.reads.map ReadOp.id ∧ (t.strand core strand).areg = u.areg ∧ SameMemory s t) ∧
    (seen < x.length → exec (.rowComplete core strand q) s = .next (s.res .stutter))

/-- R394, R395, R370, R371, R372: a PST at a multiple of 64 in local SRAM outside protected text takes its rows from the X→A queue
and makes one wide entry of the store buffer with their bytes in address order; a SCAT with its index and data rows takes
both and makes one with its elements, and begins the check of the words that they write. -/
def Sys2Proof.Claims.PstAndScatEnterTheBuffer : Prop :=
  (∀ (q : BitVec 2) (a r : BitVec 5) (e : BitVec 1) (s : State) (rows : List Row),
    let n := r.toNat + 1
    let addr := s.me.a a
    Issues s e → Available s .a [a] → addr.toNat % 64 = 0 → InSram addr (256 * n) → OutOfText s addr.toNat (256 * n) →
    HeadRows (viewed s.me q) rows → rows.length = n →
    ∃ t b, exec (.pst q a r e) s = .next t ∧
      Retired (withMe (s.actAs .a) fun u =>
        { taking (hidden s) u q n with sbuf := u.sbuf ++ [b], sbNext := u.sbNext + 1 }) t ∧
      b.id = s.me.sbNext ∧ b.rd = mark s ∧ b.task = s.me.task ∧ b.line = none ∧ (∀ p ∈ b.parts, p.length = 8) ∧ b.left = List.range b.parts.length ∧
      ∀ i, i < 256 * n → b.byteAt (addr.toNat + i) =
        some (((rows.getD (i / 256) 0#2048).extractLsb' (8 * (i % 256)) 8))) ∧
  ∀ (q : BitVec 2) (a : BitVec 5) (j : BitVec 2) (r : BitVec 5) (sz : BitVec 2) (e : BitVec 1) (s : State)
      (rows dat : List Row),
    let n := r.toNat + 1
    let w := 2 ^ sz.toNat
    let m := (n * w + 3) / 4
    let parts := scatParts (s.me.a a) w (dat.flatMap rowBytes) 0 (indicesOf rows)
    Issues s e → Available s .a [a] → (Instr.scat q a j r sz e).WellFormed →
    HeadRows (viewed s.me j) rows → rows.length = n → HeadRows (viewed s.me q) dat → dat.length = m →
    (∀ i ∈ indicesOf rows, i < 2 ^ 31 → InSram (s.me.a a) 0 ∧ (s.me.a a).toNat + i * w + w ≤ 0x300000 ∧
      OutOfText s ((s.me.a a).toNat + i * w) w) →
    ((∃ i ∈ indicesOf rows, i < 2 ^ 31) →
      ∃ t b x, exec (.scat q a j r sz e) s = .next t ∧ Begun s x (.check parts) [] ∧
        Retired (withMe (s.actAs .a) fun u =>
          { taking true (taking true (withRead u x) j n) q m with sbuf := u.sbuf ++ [b], sbNext := u.sbNext + 1 }) t ∧
        b.id = s.me.sbNext ∧ s.me.rdNext < b.rd ∧ b.task = s.me.task ∧ b.line = none ∧ b.parts = parts ∧ b.left = List.range parts.length) ∧
    ((∀ i ∈ indicesOf rows, 2 ^ 31 ≤ i) →
      ∃ t, exec (.scat q a j r sz e) s = .next t ∧
        Retired (withMe (s.actAs .a) fun u => taking (hidden s) (taking (hidden s) u j n) q m) t)

/-- R371, R141, R71: the words that a SCAT writes are checked once every older store of its strand has drained, one of its own group
apart, and before one of its elements is written. A word that a store of its own group writes whole is clean by then (R374). -/
def Sys2Proof.Claims.ScatterWordsAreChecked : Prop :=
  ∀ (core : Nat) (strand : Fin 4) (k : Nat) (s : State) (r : ReadOp) (l : List ReadOp) (parts : List (List Host.Cell)),
    let u := s.strand core strand
    let bad (p : List Host.Cell) : Prop := p.length ≠ 8 ∧ pieceWord p ∈ (s.core core).sram.poison ∧
      ∀ b ∈ u.sbuf, b.id < r.stores → ∀ q ∈ b.parts, q.length = 8 → pieceWord q ≠ pieceWord p
    u.reads = r :: l → r.kind = .check parts →
    ((∃ b ∈ u.sbuf, b.id < r.stores ∧ b.rd ≤ r.id) → exec (.loadPerform core strand k) s = .next (s.res .stutter)) ∧
    ((∀ b ∈ u.sbuf, r.stores ≤ b.id ∨ r.id < b.rd) →
      ((∀ p ∈ parts, ¬ bad p) →
        ∃ t, exec (.loadPerform core strand k) s = .next t ∧ (t.strand core strand).reads.map ReadOp.id = l.map ReadOp.id ∧
          (t.strand core strand).sbuf = u.sbuf ∧ (t.strand core strand).areg = u.areg ∧ SameMemory s t) ∧
      ((∃ p ∈ parts, bad p) → HandlerReadyAt s core strand →
        ∃ t, exec (.loadPerform core strand k) s = .next t ∧ (t.strand core strand).reads = [] ∧
          (t.strand core strand).sbuf = u.sbuf.filter (fun b => b.rd ≤ r.id) ∧
          (t.strand core strand).trapcause.toNat % 2 ^ 16 = 4 ∧ (t.strand core strand).trappc.toNat % 2 ^ 22 = r.pc.toNat ∧
          SameMemory s t))

/-- PLD and GATH reserve rows and read them; PST and SCAT take rows into the store buffer: the parts above, together. -/
def Obligations.PanelAccessesMoveRows : Prop :=
  Claims.PldAndGathReserveRows ∧ Claims.ReservedRowsComplete ∧ Claims.PstAndScatEnterTheBuffer ∧ Claims.ScatterWordsAreChecked

/-- R185, R184, R374, R368: STORE_DRAIN of a line entry writes every piece of the oldest entry to the core's local SRAM and frees the
entry; of a PST or SCAT entry it writes one piece that is left; a narrow piece at a poisoned word is lost and recorded for the region of
the task that stored it, and the word stays as it is. An entry behind an outstanding read does not drain. -/
def Sys2Proof.Claims.StoresDrainToSram : Prop :=
  ∀ (core : Nat) (strand : Fin 4) (k : Nat) (s : State) (b : SbEntry) (l : List SbEntry),
    let u := s.strand core strand
    let m := (s.core core).sram
    let p := b.parts.getD k []
    let first : Prop := k ∈ b.left ∧ ∀ j ∈ b.left, j < k → pieceWord (b.parts.getD j []) ≠ pieceWord p
    u.sbuf = b :: l →
    ((∃ r x, u.reads = r :: x ∧ r.id < b.rd) → exec (.storeDrain core strand k) s = .next (s.res .stutter)) ∧
    ((∀ r x, u.reads = r :: x → b.rd ≤ r.id) →
      (b.line.isSome = true → (∀ p ∈ b.parts, p.length = 8 ∨ pieceWord p ∉ m.poison) →
        ∃ t, exec (.storeDrain core strand k) s = .next t ∧ (t.core core).sram = b.parts.foldl Ram.store m ∧
          t.strand core strand = { u with sbuf := l } ∧
          (∀ c, c ≠ core → t.core c = s.core c) ∧ t.hbm = s.hbm ∧ t.records = s.records) ∧
      (b.line = none → first → p.length = 8 ∨ pieceWord p ∉ m.poison →
        ∃ t, exec (.storeDrain core strand k) s = .next t ∧ (t.core core).sram = m.store p ∧
          t.strand core strand = { u with
            sbuf := if b.left.filter (· != k) = [] then l else { b with left := b.left.filter (· != k) } :: l } ∧
          (∀ c, c ≠ core → t.core c = s.core c) ∧ t.hbm = s.hbm) ∧
      (b.line = none → first → p.length ≠ 8 → pieceWord p ∈ m.poison →
        ∃ t r, exec (.storeDrain core strand k) s = .next t ∧ (t.core core).sram = m ∧
          t.records = s.records ++ [r] ∧ r.regid = s.regidOf b.task))

/-- ST enters the store buffer and changes no byte; STORE_DRAIN writes it to SRAM and frees the entry: the parts above, together.
-/
def Obligations.StoresEnterTheBufferAndDrain : Prop :=
  Claims.StoresEnterTheBuffer ∧ Claims.StoresDrainToSram

/-- R396, R39, R40: QSND issues when its register is available and A→X queue `q` has room: it pushes the scalar. Without room it waits. -/
def Sys2Proof.Claims.QsndPushesAScalar : Prop :=
  ∀ (q : BitVec 2) (a : BitVec 5) (e : BitVec 1) (s : State), Issues s e → Available s .a [a] →
    ((s.me.qax.get q.toFin).entries.length < 32 → ∃ t, exec (.qsnd q a e) s = .next t ∧
      Retired (withMe (s.actAs .a) fun u => giving (hidden s) u q [.scalar (u.reg .a a)]) t) ∧
    (32 ≤ (s.me.qax.get q.toFin).entries.length → Holds (.qsnd q a e) .a s)

/-- R396, R39, R41: QRCV issues when its register is available and a scalar is at the head of X→A queue `q`: it pops it into Reg(D). A row
there raises QUEUE-FAULT, and an empty queue makes it wait. -/
def Sys2Proof.Claims.QrcvPopsAScalar : Prop :=
  ∀ (q : BitVec 2) (d : BitVec 5) (e : BitVec 1) (s : State), Issues s e → Available s .a [d] →
    (∀ v l, (viewed s.me q).entries = .scalar v :: l → ∃ t, exec (.qrcv d q e) s = .next t ∧
      Retired (wrote (withMe s fun u => taking (hidden s) u q 1) .a d v) t) ∧
    (∀ v l, (viewed s.me q).entries = .row v :: l →
      RaisesQueue (.qrcv d q e) .a s (withMe (s.actAs .a) fun u => taking (hidden s) u q 1)) ∧
    ((viewed s.me q).entries = [] → Holds (.qrcv d q e) .a s)

/-- R441, R442, R39, R40, R46: XSND issues when X→A queue `q` has room for its entries: it pushes the scalar in x-S1, or rows of the panel as
BASE renames it, the lowest first. Without room it waits. -/
def Sys2Proof.Claims.XsndPushesAScalarOrRows : Prop :=
  ∀ (q : BitVec 2) (a p : BitVec 5) (r f : BitVec 4) (e : BitVec 1) (s : State), Issues s e →
    let xa := s.me.qxa.get q.toFin
    (xa.entries.length < 32 → ∃ t, exec (.xsndScalar q a e) s = .next t ∧
      Retired (withMe (s.actAs .x) fun u => withQxa u q (pushed xa [.scalar (u.reg .x a)])) t) ∧
    (32 ≤ xa.entries.length → Holds (.xsndScalar q a e) .x s) ∧
    (p.toNat < 16 → f.toNat + r.toNat + 1 ≤ 16 → xa.entries.length + r.toNat + 1 ≤ 32 →
      ∃ t, exec (.xsndPanel q p r f e) s = .next t ∧
        Retired (withMe (s.actAs .x) fun u => withQxa u q (pushed xa ((List.range (r.toNat + 1)).map fun i =>
          .row ((u.panel p).extractLsb' (2048 * (f.toNat + i)) 2048)))) t) ∧
    (32 < xa.entries.length + r.toNat + 1 → Holds (.xsndPanel q p r f e) .x s)

/-- R441, R39, R41, R368: XRCV issues when a scalar that no read hides is at the head of A→X queue `q`: it pops it into x-D. A row there raises
QUEUE-FAULT; an empty queue, a head that a read hides, and a row not yet poppable make it wait. -/
def Sys2Proof.Claims.XrcvPopsAScalar : Prop :=
  ∀ (q : BitVec 2) (d : BitVec 5) (e : BitVec 1) (s : State), Issues s e →
    let ax := s.me.qax.get q.toFin
    let shown : Prop := s.me.hid.get q.toFin < ax.entries.length
    (∀ v l, ax.entries = .scalar v :: l → shown →
      ∃ t, exec (.xrcv d q e) s = .next t ∧ Retired (wrote (withMe s fun u => withQax u q (popped ax 1)) .x d v) t) ∧
    (∀ v l, ax.entries = .row v :: l ∨ ax.entries = .early v :: l → shown →
      RaisesQueue (.xrcv d q e) .x s (withMe (s.actAs .x) fun u => withQax u q (popped ax 1))) ∧
    (¬ shown ∨ (∃ v l, ax.entries = .reserved v :: l) ∨ (∃ v n l, ax.entries = .pending v n :: l) → Holds (.xrcv d q e) .x s)

/-- QSND, QRCV, XSND and XRCV move scalars and rows through the queues, or wait: the parts above, together. -/
def Obligations.QueueWordsMoveScalarsAndRows : Prop :=
  Claims.QsndPushesAScalar ∧ Claims.QrcvPopsAScalar ∧ Claims.XsndPushesAScalarOrRows ∧ Claims.XrcvPopsAScalar

namespace Sys2Proof.Claims

/-- The strand with the flags `f`, if any, on their way to FPSTAT: they are ORed there when the result is written (R113). -/
def flagged (u : Strand) (f : Flags) : Strand := if f = 0#6 then u else { u with fpPend := u.fpPend ++ [f] }

/-- `v` in x-d and the flags `f` on their way to FPSTAT (R113, R331). -/
def floated (s : State) (d : BitVec 5) (v : Word) (f : Flags) : State := withMe (wrote s .x d v) fun u => flagged u f

/-- A scalar floating operand: the low bits of its register (R331). -/
def operand (s : State) (f : Fmt) (r : BitVec 5) : Val := decodeVal f ((s.me.x r).toNat % 2 ^ f.bits)

/-- Scalar floating words on S1 and S2, with the value of each before its one rounding, and its rounding mode (R358). -/
def floatWords : List ((BitVec 5 → BitVec 5 → BitVec 5 → BitVec 2 → BitVec 2 → BitVec 1 → Instr) ×
    (Rnd → Val → Val → Val × Flags) × (BitVec 2 → Rnd)) :=
  [(.fadd, fun r x y => exactSum [x, y] r, Rnd.ofBits),
   (.fsub, fun r x y => exactSum [x, y.neg] r, Rnd.ofBits),
   (.fmul, fun _ x y => exactMul x y, Rnd.ofBits),
   (.fdiv, fun _ x y => quotVal x y, Rnd.ofBits),
   (fun d a _ r t e => .fsqrt d a r t e, fun _ x _ => sqrtVal x, Rnd.ofBits),
   (fun d a b _ t e => .fmin d a b t e, fun _ x y => (valMin x y, 0#6), fun _ => .rne),
   (fun d a b _ t e => .fmax d a b t e, fun _ x y => (valMax x y, 0#6), fun _ => .rne)]

end Sys2Proof.Claims

/-- R358, R364, R360, R331, R113: FADD, FSUB, FMUL, FDIV, FSQRT, FMIN, FMAX and FMA write the encoding of their value, rounded
once, zero-extended, and send its flags to FPSTAT; FCMP writes 1 or 0 and no flag. That FDIV raises DZ for an infinite dividend too is the model's
reading of R358 against R112 (log entry 23). Nothing else changes. -/
def Sys2Proof.Claims.FloatWordsRoundTheirValueOnce : Prop :=
  ∀ (d a b : BitVec 5) (r t : BitVec 2) (e : BitVec 1) (s : State), Issues s e →
    let f := scalarFmt t
    let x := operand s f a
    let y := operand s f b
    (∀ p ∈ floatWords,
      let v := p.2.1 (Rnd.ofBits r) x y
      let w := encodeVal f v.1 (p.2.2 r) false
      ∃ u, exec (p.1 d a b r t e) s = .next u ∧ Retired (floated s d (BitVec.ofNat 64 w.1) (v.2 ||| w.2)) u) ∧
    (∀ c n : BitVec 1,
      let m := exactMul x y
      let v := exactSum [if n = 1#1 then m.1.neg else m.1,
        if c = 1#1 then (operand s f d).neg else operand s f d] (Rnd.ofBits r)
      let w := encodeVal f v.1 (Rnd.ofBits r) false
      ∃ u, exec (.fma d a b c n r t e) s = .next u ∧
        Retired (floated s d (BitVec.ofNat 64 w.1) (m.2 ||| v.2 ||| w.2)) u) ∧
    ∃ u, exec (.fcmp d a b r t e) s = .next u ∧
      Retired (wrote s .x d (if valCond r.toNat x y then 1#64 else 0#64)) u

/-- R361, R115, R116: FCVT between floating formats and the 32-bit and 64-bit integers. R352: DIV and DIV.rem, with their results for a
divisor of 0 and the remainder's sign that of the dividend; no case traps. -/
def Sys2Proof.Claims.ConversionsAndDivisions : Prop :=
  ∀ (d a b : BitVec 5) (c k : BitVec 3) (u g e : BitVec 1) (r : BitVec 2) (s : State), Issues s e →
    (let src := cvtFmt c
     let bits := (s.me.x a).toNat % 2 ^ src.bits
     let w : Word × Flags :=
       match src, cvtFmt k with
       | .int z n, .int z' n' =>
         (BitVec.ofInt 64 (intNarrow z' n' (intOf z n bits) (u == 1#1)).1, (intNarrow z' n' (intOf z n bits) (u == 1#1)).2)
       | f, .int z' n' =>
         (BitVec.ofInt 64 (toInt z' n' (decodeVal f bits) (Rnd.ofBits r) (u == 1#1)).1,
          (toInt z' n' (decodeVal f bits) (Rnd.ofBits r) (u == 1#1)).2)
       | f, f' =>
         (BitVec.ofNat 64 (encodeVal f' (decodeVal f bits) (Rnd.ofBits r) (u == 1#1)).1,
          (encodeVal f' (decodeVal f bits) (Rnd.ofBits r) (u == 1#1)).2)
     ∃ t, exec (.fcvt d a c u r k e) s = .next t ∧ Retired (floated s d w.1 w.2) t) ∧
    let n : Int := if g = 0#1 then (s.me.x a).toInt else (s.me.x a).toNat
    let m : Int := if g = 0#1 then (s.me.x b).toInt else (s.me.x b).toNat
    let q : Int := if m = 0 then 2 ^ 64 - 1 else n.tdiv m
    let rem : Int := if m = 0 then n else n - n.tdiv m * m
    (∃ t, exec (.div d a b g e) s = .next t ∧ Retired (wrote s .x d (BitVec.ofInt 64 q)) t) ∧
    ∃ t, exec (.divRem d a b g e) s = .next t ∧ Retired (wrote s .x d (BitVec.ofInt 64 rem)) t

/-- R113, R359: when a result is written its flags are ORed into FPSTAT, those of a younger result of a shorter latency before those
of an older one; nothing else of the machine changes. -/
def Sys2Proof.Claims.FlagsReachFpstat : Prop :=
  ∀ (c : Nat) (n : Fin 4) (k : Nat) (s : State) (l : List Turn) (f : Flags),
    s.turns = .result c n k :: l → c < 4096 → (s.strand c n).fpPend[k]? = some f →
    step s = .next (({ s with turns := l, tick := s.tick + 1 }.modStrand c n fun u =>
      { u with fpstat := u.fpstat ||| f.zeroExtend 64, fpPend := u.fpPend.eraseIdx k }).res .issued)

/-- The scalar float words, FCVT and DIV write their value rounded once, with its flags: the parts above, together. -/
def Obligations.ScalarFloatWordsRoundOnce : Prop :=
  Claims.FloatWordsRoundTheirValueOnce ∧ Claims.ConversionsAndDivisions ∧ Claims.FlagsReachFpstat

/-- R439, R46: WROT sets EN and BASE, which stay even where WROT ends an iteration. R366: FMTSET writes entry K, or raises
ILLEGAL-ENCODING where bits 63:20 are not zero or a code names no panel format. R365, R48: FMTSEL sets BND and LVL, and IDX
follows a bound level that is active; it stays as it was where FMTSEL unbinds or the level is inactive. -/
def Sys2Proof.Claims.RotationAndFormatTableWords : Prop :=
  ∀ (e : BitVec 1) (s : State), Issues s e →
    (∀ (n : BitVec 1) (b : BitVec 3), ∃ t r, exec (.wrot n b e) s = .next t ∧
      t.me.rotbase = BitVec.ofNat 64 (8 * n.toNat + b.toNat) ∧
      Retired { withMe (s.actAs .x) fun u => { u with rotbase := BitVec.ofNat 64 (8 * n.toNat + b.toNat) } with
        cur := { (s.actAs .x).cur with rotw := r } } t) ∧
    (∀ (a : BitVec 5) (k : BitVec 4),
      let v := s.me.x a
      let good := v.toNat < 2 ^ 20 ∧
        ∀ c ∈ [v.toNat % 32, v.toNat / 32 % 32, v.toNat / 1024 % 32], c ∈ [0, 1, 2, 3, 4, 5, 9, 11, 12, 13, 14, 15, 16, 17, 18]
      (good → ∃ t, exec (.fmtset a k e) s = .next t ∧
        Retired (withMe (s.actAs .x) fun u => { u with fmt := u.fmt.set k.toFin (BitVec.ofNat 32 v.toNat) }) t) ∧
      (¬ good → Raises (.fmtset a k e) .x 1 0#16 s)) ∧
    ∀ (l : Fin 3) (n : BitVec 1), ∃ t, exec (.fmtsel (BitVec.ofNat 2 l.val) n e) s = .next t ∧
      Retired (withMe (s.actAs .x) fun u =>
        { u with fmtidx := indexed ((u.fmtidx &&& 15#64) ||| BitVec.ofNat 64 (64 * n.toNat + 16 * l.val)) u }) t ∧
      (n = 1#1 → (s.me.loopsX.get l).active = false →
        t.me.fmtidx = (s.me.fmtidx &&& 15#64) ||| BitVec.ofNat 64 (64 + 16 * l.val)) ∧
      (n = 0#1 → t.me.fmtidx = (s.me.fmtidx &&& 15#64) ||| BitVec.ofNat 64 (16 * l.val)) ∧
      (n = 1#1 → (t.me.loopsX.get l).active = true →
        t.me.fmtidx = BitVec.ofNat 64 (64 + 16 * l.val + ((t.me.loopsX.get l).count - (t.me.loopsX.get l).rem).toNat % 16))

/-- ROTBASE and FMTIDX advance with the execute counter; WROT, FMTSET and FMTSEL set them and the table: the parts above,
together. -/
def Obligations.RotationAndFormatIndex : Prop :=
  Claims.RotationAndFormatIndexFollowTheLoops ∧ Claims.RotationAndFormatTableWords

namespace Sys2Proof.Claims

/-- Source operand `a` of `n` rows gives the bits `v` and leaves the strand `u'`: a panel as it is, or the rows at the head of an
A→X queue, which no read hides and which are popped (R63, R413, R368). -/
def Gives (u : Strand) (a : BitVec 5) (n : Nat) (v : Panel) (u' : Strand) : Prop :=
  (a.toNat < 16 ∧ v = u.panel a ∧ u' = u) ∨
  (16 ≤ a.toNat ∧ a.toNat < 20 ∧ ∃ rows : List Row, rows.length = n ∧ v = panelOfRows rows ∧
    let q : Fin 4 := Fin.ofNat 4 (a.toNat - 16)
    HeadRows (u.qax.get q) rows ∧ n + u.hid.get q ≤ (u.qax.get q).entries.length ∧
    u' = { u with qax := u.qax.set q (popped (u.qax.get q) n) })

/-- Source operand `a` names an A→X queue that shows fewer than `n` entries (R39, R368, R369). -/
def Short (u : Strand) (a : BitVec 5) (n : Nat) : Prop :=
  16 ≤ a.toNat ∧ a.toNat < 20 ∧
    let q : Fin 4 := Fin.ofNat 4 (a.toNat - 16)
    (u.qax.get q).poppable < n ∨ (u.qax.get q).entries.length < n + u.hid.get q

/-- Source operand `a` names an A→X queue that shows `n` entries, of which one is a scalar; `u'` has them popped (R41). -/
def Wrong (u : Strand) (a : BitVec 5) (n : Nat) (u' : Strand) : Prop :=
  16 ≤ a.toNat ∧ a.toNat < 20 ∧
    let q : Fin 4 := Fin.ofNat 4 (a.toNat - 16)
    n ≤ (u.qax.get q).poppable ∧ n + u.hid.get q ≤ (u.qax.get q).entries.length ∧
    (∃ v, QEntry.scalar v ∈ (u.qax.get q).entries.take n) ∧ u' = { u with qax := u.qax.set q (popped (u.qax.get q) n) }

/-- Element `k` of `v`, of `w` bits, is `f k` for the first `n` elements, and the rest of the panel is zero (R411). -/
def Elements (v : Panel) (w n : Nat) (f : Nat → Nat) : Prop :=
  (∀ k, k < n → elem v w k = f k % 2 ^ w) ∧ v.toNat < 2 ^ (w * n)

/-- The acting strand become `u` with `v` in panel d and the flags `f` on their way to FPSTAT. -/
def panelled (s : State) (u : Strand) (d : BitVec 5) (v : Panel) (f : Flags) : State :=
  withMe (s.actAs .x) fun _ => flagged (u.setPanel d v) f

/-- `f` is the union of the flags of the first `n` elements. -/
def Union (f : Flags) (n : Nat) (g : Nat → Flags) : Prop :=
  ∀ j : Nat, f.getLsbD j = true ↔ ∃ k, k < n ∧ (g k).getLsbD j = true

/-- The word writes panel d with `n` elements of `w` bits and the flags that `out` gives, after its sources left the
strand `u`, and changes nothing else. -/
def Writes (i : Instr) (s : State) (u : Strand) (d : BitVec 5) (w n : Nat) (out : Nat → Nat × Flags) : Prop :=
  ∃ t v f, exec i s = .next t ∧ Elements v w n (fun k => (out k).1) ∧ Union f n (fun k => (out k).2) ∧
    Retired (panelled s u d v f) t

/-- The six words of R412, with the exact value each forms of the decoded elements and its mode (R419, R428). -/
def panelArithmetic : List ((BitVec 5 → BitVec 5 → BitVec 5 → BitVec 2 → BitVec 5 → BitVec 1 → Instr) ×
    (Rnd → Val → Val → Val → Val × Flags) × (BitVec 2 → BitVec 2)) :=
  [(.vadd, fun r x y _ => exactSum [x, y] r, id),
   (.vsub, fun r x y _ => exactSum [x, y.neg] r, id),
   (.vmul, fun _ x y _ => exactMul x y, id),
   (.vfma, fun r x y z =>
      ((exactSum [(exactMul x y).1, z] r).1, (exactMul x y).2 ||| (exactSum [(exactMul x y).1, z] r).2), id),
   (fun d a b _ t e => .vmin d a b t e, fun _ x y _ => (valMin x y, 0#6), fun _ => 0#2),
   (fun d a b _ t e => .vmax d a b t e, fun _ x y _ => (valMax x y, 0#6), fun _ => 0#2)]

end Sys2Proof.Claims

/-- R419, R428, R412, R82, R47: VADD, VSUB, VMUL, VFMA, VMIN and VMAX form each element's value exactly from the decoded sources
and write it once, narrowed when all formats are integers and encoded otherwise, under the type's format or, for type 31, under
the table entry that FMTIDX names; the queues they name are popped. The sign of an integer 0 is the model's reading (log entry 53). -/
def Obligations.PanelArithmeticWorksElementByElement : Prop :=
  ∀ p ∈ panelArithmetic, ∀ (d a b : BitVec 5) (m : BitVec 2) (ty : BitVec 5) (e : BitVec 1) (s : State)
      (va vb : Panel) (u u' : Strand),
    let i := p.1 d a b m ty e
    let en := s.me.fmt.get (s.me.fmtidx.extractLsb' 0 4).toFin
    let code (k : Nat) := if ty = 31#5 then fmtOf (en.extractLsb' k 5).toNat else fmtOf ty.toNat
    let fa := code 0
    let fb := code 5
    let fc := code 10
    let rnd := Rnd.ofBits (if ty = 31#5 then en.extractLsb' 16 2 else p.2.2 m)
    let sat := if ty = 31#5 then en.getLsbD 15 else fc.isInt && p.2.2 m == 1#2
    let n := 4096 / max fa.bytes (max fb.bytes fc.bytes)
    Issues s e → i.WellFormed → Gives s.me a (n * fa.bytes / 256) va u → Gives u b (n * fb.bytes / 256) vb u' →
    Writes i s u' d fc.bits n fun k =>
      let v := p.2.1 rnd (decodeVal fa (elem va fa.bits k)) (decodeVal fb (elem vb fb.bits k))
        (decodeVal fc (elem (s.me.panel d) fc.bits k))
      let w := match fc with
        | .int z c =>
          if fa.isInt && fb.isInt then (intBits c (intNarrow z c (valInt v.1) sat).1, (intNarrow z c (valInt v.1) sat).2)
          else encodeVal fc v.1 rnd sat
        | _ => encodeVal fc v.1 rnd sat
      (w.1, v.2 ||| w.2)

namespace Sys2Proof.Claims

/-- Element words with one source: each element's result from its bits, with its flags (R418, R425). -/
def oneSource : List ((BitVec 5 → BitVec 5 → BitVec 2 → BitVec 5 → BitVec 1 → Instr) × (Fmt → Rnd → Nat → Nat × Flags)) :=
  let encoded (g : Val → Val × Flags) (f : Fmt) (r : Rnd) (x : Nat) : Nat × Flags :=
    ((encodeVal f (g (decodeVal f x)).1 r false).1, (g (decodeVal f x)).2 ||| (encodeVal f (g (decodeVal f x)).1 r false).2)
  [(fun d a _ t e => .vabs d a t e, fun f _ x =>
      (if f.isInt then (intOf true f.bits x).natAbs
       else if decodeVal f x = .nan then codeOf f .nan else x % 2 ^ (f.bits - 1), 0#6)),
   (fun d a _ t e => .vneg d a t e, fun f _ x =>
      (if f.isInt then (-intOf true f.bits x % 2 ^ f.bits).toNat
       else if decodeVal f x = .nan then codeOf f .nan
       else if f = .mk8 ∧ x = 0 then 0 else x ^^^ 2 ^ (f.bits - 1), 0#6)),
   (.vexp2, encoded exp2Val),
   (.vlog2, encoded log2Val),
   (.vrcp, encoded (quotVal (.fin false 1 0))),
   (.vrsq, encoded rsqVal)]

/-- The result of one element of VCVT and VCVT.sat (R424). -/
def converted (src dst : Fmt) (r : Rnd) (sat : Bool) (x : Nat) : Nat × Flags :=
  match src, dst with
  | .int z n, .int z' n' => (intBits n' (intNarrow z' n' (intOf z n x) sat).1, (intNarrow z' n' (intOf z n x) sat).2)
  | _, .int z' n' => (intBits n' (toInt z' n' (decodeVal src x) .rne sat).1, (toInt z' n' (decodeVal src x) .rne sat).2)
  | _, _ => encodeVal dst (decodeVal src x) r sat

end Sys2Proof.Claims

/-- R418, R425, R424, R420, R429: VABS, VNEG, VEXP2, VLOG2, VRCP, VRSQ, VCVT, VCVT.sat, VNOT and VMOV. -/
def Sys2Proof.Claims.PanelWordsOnOneSource : Prop :=
  ∀ (d a : BitVec 5) (m : BitVec 2) (ty : BitVec 5) (e : BitVec 1) (s : State) (va : Panel) (u : Strand), Issues s e →
    let f := fmtOf ty.toNat
    (Gives s.me a 16 va u →
      (∀ p ∈ oneSource, (p.1 d a m ty e).WellFormed →
        Writes (p.1 d a m ty e) s u d f.bits (32768 / f.bits) fun k => p.2 f (Rnd.ofBits m) (elem va f.bits k)) ∧
      (∃ t, exec (.vnot d a ty e) s = .next t ∧ Retired (panelled s u d (~~~va) 0#6) t) ∧
      ∃ t, exec (.vmov d a e) s = .next t ∧ Retired (panelled s u d va 0#6) t) ∧
    ∀ sc : BitVec 5,
      let src := fmtOf sc.toNat
      let n := 4096 / max src.bytes f.bytes
      Gives s.me a (n * src.bytes / 256) va u →
      ((Instr.vcvt d a sc m ty e).WellFormed →
        Writes (.vcvt d a sc m ty e) s u d f.bits n fun k =>
          converted src f (Rnd.ofBits m) (f.isInt && m == 1#2) (elem va src.bits k)) ∧
      ((Instr.vcvtSat d a sc m ty e).WellFormed →
        Writes (.vcvtSat d a sc m ty e) s u d f.bits n fun k => converted src f (Rnd.ofBits m) true (elem va src.bits k))

namespace Sys2Proof.Claims

/-- The panel shifts: each element from its own bits and its count, in elements of `w` bits (R437). -/
def panelShifts : List ((BitVec 5 → BitVec 5 → BitVec 5 → BitVec 5 → BitVec 1 → Instr) × (Nat → Nat → Nat → Nat)) :=
  [(.vshl, fun w x k => if w ≤ k then 0 else x * 2 ^ k % 2 ^ w),
   (.vshr, fun w x k => if w ≤ k then 0 else x / 2 ^ k),
   (.vsra, fun w x k => (intOf true w x / 2 ^ min k w % 2 ^ w).toNat)]

/-- RShiftRound of R117: `n` over 2^c to the nearest integer, halves away from zero. -/
def requantised (n : Int) (c : Nat) : Int :=
  let h : Int := ((2 * n.natAbs + 2 ^ c) / (2 * 2 ^ c) : Nat)
  if n < 0 then -h else h

end Sys2Proof.Claims

/-- R420, R437, R422, R436, R434: VAND, VOR, VXOR bit by bit; VSHL, VSHR, VSRA; VCMP's all-ones and zero elements; VSEL by the
condition in D; VRSHR's rounding shift into a saturated destination. -/
def Sys2Proof.Claims.PanelWordsOnTwoSources : Prop :=
  ∀ (d a b ty : BitVec 5) (e : BitVec 1) (s : State) (va vb : Panel) (u u' : Strand),
    Issues s e → Gives s.me a 16 va u → Gives u b 16 vb u' →
    let f := fmtOf ty.toNat
    let n := 32768 / f.bits
    (∃ t, exec (.vand d a b ty e) s = .next t ∧ Retired (panelled s u' d (va &&& vb) 0#6) t) ∧
    (∃ t, exec (.vor d a b ty e) s = .next t ∧ Retired (panelled s u' d (va ||| vb) 0#6) t) ∧
    (∃ t, exec (.vxor d a b ty e) s = .next t ∧ Retired (panelled s u' d (va ^^^ vb) 0#6) t) ∧
    (∀ p ∈ panelShifts, (p.1 d a b ty e).WellFormed →
      Writes (p.1 d a b ty e) s u' d f.bits n fun k => (p.2 f.bits (elem va f.bits k) (elem vb f.bits k), 0#6)) ∧
    (∀ c : BitVec 2, (Instr.vcmp d a b c ty e).WellFormed →
      Writes (.vcmp d a b c ty e) s u' d f.bits n fun k =>
        (if valCond c.toNat (decodeVal f (elem va f.bits k)) (decodeVal f (elem vb f.bits k)) then 2 ^ f.bits - 1 else 0, 0#6)) ∧
    ((Instr.vsel d a b ty e).WellFormed → Writes (.vsel d a b ty e) s u' d f.bits n fun k =>
      (if elem (s.me.panel d) f.bits k ≠ 0 then elem va f.bits k else elem vb f.bits k, 0#6)) ∧
    ((Instr.vrshr d a b ty e).WellFormed → ∀ z w, f = .int z w → Writes (.vrshr d a b ty e) s u' d w 1024 fun k =>
      let r := intNarrow z w (requantised (intOf true 32 (elem va 32 k)) (elem vb 32 k)) true
      (intBits w r.1, r.2))

/-- R413, R39, R41: a panel word waits while a queue that it names shows too few entries, and raises QUEUE-FAULT when they are
there and one of them is a scalar; of two sources, once both are there (log entry 110): here VMOV and VAND. -/
def Sys2Proof.Claims.PanelWordsWaitForTheirRows : Prop :=
  ∀ (d a b ty : BitVec 5) (e : BitVec 1) (s : State), Issues s e →
    (Short s.me a 16 → Holds (.vmov d a e) .x s ∧ Holds (.vand d a b ty e) .x s) ∧
    (∀ u, Wrong s.me a 16 u → RaisesQueue (.vmov d a e) .x s (withMe (s.actAs .x) fun _ => u) ∧
      (Short u b 16 → Holds (.vand d a b ty e) .x s) ∧
      (∀ u' v, Gives u b 16 v u' ∨ Wrong u b 16 u' → RaisesQueue (.vand d a b ty e) .x s (withMe (s.actAs .x) fun _ => u'))) ∧
    ∀ u v, Gives s.me a 16 v u →
      (Short u b 16 → Holds (.vand d a b ty e) .x s) ∧
      ∀ u', Wrong u b 16 u' → RaisesQueue (.vand d a b ty e) .x s (withMe (s.actAs .x) fun _ => u')

/-- The panel words on one source and the logic, shift, compare, select and rounding words on two, and what they wait for: the
parts above, together. -/
def Obligations.PanelWordsWorkElementByElement : Prop :=
  Claims.PanelWordsOnOneSource ∧ Claims.PanelWordsOnTwoSources ∧ Claims.PanelWordsWaitForTheirRows

namespace Sys2Proof.Claims

/-- Comb of R131 for add (0), max (1) and min (2). -/
def combine (f : Fmt) (o : Nat) (r : Rnd) (sat : Bool) (x y : Val) : Val × Flags :=
  match o with
  | 0 =>
    match f with
    | .int z w => (valOfInt (intNarrow z w (valInt x + valInt y) sat).1, (intNarrow z w (valInt x + valInt y) sat).2)
    | _ => ((roundTo f (exactSum [x, y] r).1 r false).1, (exactSum [x, y] r).2 ||| (roundTo f (exactSum [x, y] r).1 r false).2)
  | 1 => (valMax x y, 0#6)
  | _ => (valMin x y, 0#6)

/-- The running value, and the flags so far, of the first `n + 1` terms taken in order (R131, versions 1 and 2; R435). -/
def running (c : Val → Val → Val × Flags) (x : Nat → Val) : Nat → Val × Flags
  | 0 => (x 0, 0#6)
  | n + 1 => ((c (running c x n).1 (x (n + 1))).1, (running c x n).2 ||| (c (running c x n).1 (x (n + 1))).2)

/-- The halving tree of R131 on 2^h terms: term j combines with term j + 2^(h-1) first (version 3). -/
def halving (c : Val → Val → Val × Flags) : Nat → (Nat → Val × Flags) → Val × Flags
  | 0, x => x 0
  | h + 1, x => halving c h fun j =>
    ((c (x j).1 (x (j + 2 ^ h)).1).1, (x j).2 ||| (x (j + 2 ^ h)).2 ||| (c (x j).1 (x (j + 2 ^ h)).1).2)

/-- A reduction of 2^h terms under a numerics version (R131). -/
def reduced (ver : Word) (c : Val → Val → Val × Flags) (h : Nat) (x : Nat → Val) : Val × Flags :=
  if ver = 3#64 then halving c h fun j => (x j, 0#6) else running c x (2 ^ h - 1)

end Sys2Proof.Claims

/-- R432, R131, R123, R435: VREDR writes each row's reduction to column 0 and VREDC each column's to row 0, with zeros elsewhere, in
the order that the version at issue gives; VSCAN writes the prefixes of each row in sequence. -/
def Obligations.ReductionsAndScansFollowTheirOrder : Prop :=
  ∀ (d a o : BitVec 5) (m : BitVec 2) (ty : BitVec 5) (e : BitVec 1) (s : State) (va : Panel) (u : Strand) (h : Nat),
    Issues s e → Gives s.me a 16 va u →
    let f := fmtOf ty.toNat
    let cols := 2048 / f.bits
    let c := combine f o.toNat (Rnd.ofBits m) (f.isInt && m == 1#2)
    let x (r k : Nat) := decodeVal f (elem va f.bits (r * cols + k))
    let ver := if s.cur.phase = .second then s.cur.numver else s.me.numver
    ver.toNat < 4 → cols = 2 ^ h →
    ((Instr.vredr d a o m ty e).WellFormed → Writes (.vredr d a o m ty e) s u d f.bits (16 * cols) fun k =>
      if k % cols = 0 then
        (codeOf f (reduced ver c h (x (k / cols))).1, (reduced ver c h (x (k / cols))).2)
      else (0, 0#6)) ∧
    ((Instr.vredc d a o m ty e).WellFormed → Writes (.vredc d a o m ty e) s u d f.bits cols fun k =>
      (codeOf f (reduced ver c 4 fun r => x r k).1, (reduced ver c 4 fun r => x r k).2)) ∧
    ((Instr.vscan d a o m ty e).WellFormed → Writes (.vscan d a o m ty e) s u d f.bits (16 * cols) fun k =>
      (codeOf f (running c (x (k / cols)) (k % cols)).1, (running c (x (k / cols)) (k % cols)).2))

namespace Sys2Proof.Claims

/-- Words that move the bits of elements within one source: element (r, c) of D is the source's at the row and column given,
with the scalar operand and the number of columns (R421, R433). -/
def movements : List ((BitVec 5 → BitVec 5 → BitVec 5 → BitVec 5 → BitVec 1 → Instr) ×
    (Word → Nat → Nat → Nat → Nat × Nat)) :=
  [(.vbcr, fun v n r _ => (r, v.toNat % n)),
   (.vbcc, fun v _ _ c => (v.toNat % 16, c)),
   (.vrotr, fun v n r c => (r, (((c : Int) + v.toInt) % (n : Int)).toNat)),
   (.vrotc, fun v _ r c => ((((r : Int) + v.toInt) % 16).toNat, c))]

/-- Element `i` ranks above element `j` of a row of values (R438). -/
def Above (x : Nat → Val) (i j : Nat) : Prop :=
  (x i ≠ .nan ∧ (x j = .nan ∨ valLt (x j) (x i) = true ∨ (valEq (x i) (x j) = true ∧ i < j))) ∨ (x i = .nan ∧ x j = .nan ∧ i < j)

end Sys2Proof.Claims

/-- R421, R433, R431, R392, R430, R427, R426: VBCR, VBCC, VROTR, VROTC and VPERM copy elements; PART writes the indices of the elements
that are not zero upwards from 0 and those of the others downwards from 1,023, and the count; VMOVI fills; VINS and VEXT move
one element. -/
def Sys2Proof.Claims.PanelMovement : Prop :=
  ∀ (d a b ty : BitVec 5) (e : BitVec 1) (s : State), Issues s e →
    let f := fmtOf ty.toNat
    let w := f.bits
    let cols := 2048 / w
    (∀ (va : Panel) (u : Strand), Gives s.me a 16 va u →
      (∀ p ∈ movements, (p.1 d a b ty e).WellFormed → Writes (p.1 d a b ty e) s u d w (16 * cols) fun k =>
        let g := p.2 (s.me.x b) cols (k / cols) (k % cols)
        (elem va w (g.1 * cols + g.2), 0#6)) ∧
      (∀ (vb : Panel) (u' : Strand), Gives u b 16 vb u' → (Instr.vperm d a b ty e).WellFormed →
        Writes (.vperm d a b ty e) s u' d w (16 * cols) fun k =>
          (elem va w (k / cols * cols + elem vb w k % cols), 0#6)) ∧
      ((Instr.part d a b ty e).WellFormed →
        let before (c : Bool) (k : Nat) := ((List.range k).filter fun j => (elem va 32 j != 0) == c).length
        ∃ t v, exec (.part d a b ty e) s = .next t ∧
          (∀ k, k < 1024 → elem va 32 k ≠ 0 → elem v 32 (before true k) = k) ∧
          (∀ k, k < 1024 → elem va 32 k = 0 → elem v 32 (1023 - before false k) = k) ∧
          Retired (withMe (s.actAs .x) fun _ =>
            if b = 0#5 then u.setPanel d v
            else { u.setPanel d v with xreg := u.xreg.set b.toFin (BitVec.ofNat 64 (before true 1024)) }) t)) ∧
    (∀ imm : BitVec 17, Writes (.vmovi d imm e) s s.me d 32 1024 fun _ => ((immediate s imm % 2 ^ 32).toNat, 0#6)) ∧
    ((Instr.vins d a b ty e).WellFormed → Writes (.vins d a b ty e) s s.me d w (16 * cols) fun k =>
      (if k = (s.me.x b).toNat % (16 * cols) then (s.me.x a).toNat else elem (s.me.panel d) w k, 0#6)) ∧
    ((Instr.vext d a b ty e).WellFormed → ∃ t, exec (.vext d a b ty e) s = .next t ∧
      let v := elem (s.me.panel a) w ((s.me.x b).toNat % (16 * cols))
      Retired (wrote s .x d (match f with
        | .int true z => BitVec.ofInt 64 (intOf true z v)
        | _ => BitVec.ofNat 64 v)) t)

/-- R438: VTOPK writes, for each row, the columns of the k = min(Reg, 32) elements that rank highest, in rank order, in columns 0 to
31, with all-one bits beyond k, their bits in columns 32 to 63, and zeros elsewhere. -/
def Sys2Proof.Claims.TopKSelectsTheHighestRanks : Prop :=
  ∀ (d a b ty : BitVec 5) (e : BitVec 1) (s : State) (va : Panel) (u : Strand),
    Issues s e → Gives s.me a 16 va u → (Instr.vtopk d a b ty e).WellFormed →
    let f := fmtOf ty.toNat
    let w := f.bits
    let cols := 2048 / w
    let k := min (s.me.x b).toNat 32
    let x (r c : Nat) := elem va w (r * cols + c)
    ∃ t v, ∃ j : Nat → Nat → Nat, exec (.vtopk d a b ty e) s = .next t ∧ Retired (panelled s u d v 0#6) t ∧
      ∀ r, r < 16 →
        (∀ m, m < k → j r m < cols ∧ elem v w (r * cols + m) = j r m ∧ elem v w (r * cols + 32 + m) = x r (j r m)) ∧
        (∀ m n, m < n → n < k → Above (fun c => decodeVal f (x r c)) (j r m) (j r n)) ∧
        (∀ m c, m < k → c < cols → (∀ n, n < k → j r n ≠ c) → Above (fun c => decodeVal f (x r c)) (j r m) c) ∧
        (∀ m, k ≤ m → m < 32 → elem v w (r * cols + m) = 2 ^ w - 1 ∧ elem v w (r * cols + 32 + m) = 0) ∧
        ∀ c, 64 ≤ c → c < cols → elem v w (r * cols + c) = 0

/-- VBCR, VBCC, VROTR, VROTC, VPERM, PART, VMOVI, VINS, VEXT and VTOPK: the parts above, together. -/
def Obligations.PanelMovementAndTopK : Prop :=
  Claims.PanelMovement ∧ Claims.TopKSelectsTheHighestRanks

namespace Sys2Proof.Claims

/-- A semaphore word from its COUNT and OVF (R178). -/
def semaphore (count ovf : Nat) : Word := BitVec.ofNat 64 (count + ovf * 2 ^ 56)

/-- A semaphore after an increment by `v`, and after SEMSET of `v` (R179). -/
def incremented (x v : Word) : Word :=
  let n := x.toNat % 2 ^ 56 + v.toNat
  if n ≤ 2 ^ 56 - 1 then semaphore n (x.toNat / 2 ^ 56 % 2) else semaphore (2 ^ 56 - 1) 1

def semSetTo (v : Word) : Word := if v.toNat ≤ 2 ^ 56 - 1 then semaphore v.toNat 0 else semaphore (2 ^ 56 - 1) 1

/-- What the SEMWAITs that an outstanding read hides will take from semaphore `m` of a core (R368). -/
def promisedTo (k : Core) (m : Fin 64) : Nat :=
  ((k.strands.toList.flatMap (·.late)).map fun o => match o.kind with
    | .take j v => if j = m then v.toNat else 0
    | _ => 0).sum

/-- Every read below number `n` of a strand has been performed (R368). -/
def ReadsDone (u : Strand) (n : Nat) : Prop := ∀ r l, u.reads = r :: l → n ≤ r.id

end Sys2Proof.Claims

/-- R399, R179, R178, R170, R368: SEMINC and SEMSET issue and are applied, in issue order, once the older stores of their strand have
drained and its older reads have been performed; SEMWAIT takes its threshold from COUNT, at once or, behind an outstanding read,
when that is done (log entry 20), waits while COUNT is less, what hidden SEMWAITs take counted, and raises SEM-OVF with OVF set or a
threshold above 2^56 − 1; an arriving increment is added with saturation, and its command counts one increment less. -/
def Sys2Proof.Claims.SemaphoresCountAndSaturate : Prop :=
  (∀ (a : BitVec 5) (m : BitVec 6) (e : BitVec 1) (s : State), Issues s e → Available s .a [a] →
    let v := s.me.a a
    let x := s.myCore.sems.get m.toFin
    let count := x.toNat % 2 ^ 56
    let queued (set : Bool) : State :=
      withMe (s.actAs .a) fun u => { u with semops := u.semops ++ [⟨set, m.toFin, v, u.sbNext, mark s, u.task⟩] }
    (∃ t, exec (.seminc a m e) s = .next t ∧ Retired (queued false) t) ∧
    (∃ t, exec (.semset a m e) s = .next t ∧ Retired (queued true) t) ∧
    (x.getLsbD 56 = true ∨ 2 ^ 56 ≤ v.toNat → Raises (.semwait a m e) .a 6 0#16 s) ∧
    let need := v.toNat + promisedTo s.myCore m.toFin
    (x.getLsbD 56 = false → v.toNat < 2 ^ 56 → count < need → Holds (.semwait a m e) .a s) ∧
    (x.getLsbD 56 = false → v.toNat < 2 ^ 56 → need ≤ count → hidden s = true → ∃ t, exec (.semwait a m e) s = .next t ∧
      Retired (deferred s (.take m.toFin v)) t) ∧
    (x.getLsbD 56 = false → v.toNat < 2 ^ 56 → need ≤ count → hidden s = false → ∃ t, exec (.semwait a m e) s = .next t ∧
      Retired (withCore (s.actAs .a) fun k => { k with sems := k.sems.set m.toFin (semaphore (count - v.toNat) 0) }) t)) ∧
  (∀ (core : Nat) (strand : Fin 4) (s : State) (o : SemOp) (l : List SemOp),
    (s.strand core strand).semops = o :: l → (∀ b ∈ (s.strand core strand).sbuf, o.mark ≤ b.id) →
    ReadsDone (s.strand core strand) o.rd →
    exec (.semincApply core strand) s = .next ((s.modStrand core strand fun t => { t with semops := l }).modCore core fun k =>
      { k with sems := k.sems.set o.sem (if o.set then semSetTo o.amount else incremented (k.sems.get o.sem) o.amount) })) ∧
  ∀ (core k : Nat) (s : State) (i : Increment), (s.core core).incs[k]? = some i →
    ∃ t, exec (.semIncrementArrival core k) s = .next t ∧
      (t.core core).sems = (s.core core).sems.set i.sem (incremented ((s.core core).sems.get i.sem) i.amount) ∧
      (t.core core).incs = (s.core core).incs.eraseIdx k ∧
      (∀ c, c ≠ core → (t.core c).sems = (s.core c).sems ∧ (t.core c).incs = (s.core c).incs) ∧
      (∀ c n, t.strand c n = s.strand c n) ∧ SameMemory s t ∧
      ∀ r c, i.ref = some r → s.cmd? r = some c → t.cmd? r = some { c with incs := c.incs - 1 }

namespace Sys2Proof.Claims

/-- The commands whose card Reg(S1) names, with their kind and the card's bytes (R332, R404). -/
def cardWords : List ((BitVec 5 → BitVec 5 → BitVec 1 → Instr) × StrKind × Nat) :=
  [(.copy, .copy, 128), (.dcmp, .dcmp, 64), (.fill, .fill, 64), (.csum, .csum, 64), (.coll, .coll, 64), (.spawn, .spawn, 256)]

/-- The strand's `i`-th entry of the stream queue is free (R161). -/
def SlotFree (s : State) (i : Nat) : Prop := ∀ c ∈ s.myCore.sq, c.slot ≠ 8 * s.cur.strand.val + i

/-- `i` is the first free of the strand's 8 entries. -/
def FirstFree (s : State) (i : Nat) : Prop := i < 8 ∧ SlotFree s i ∧ ∀ j, j < i → ¬ SlotFree s j

/-- Registers marked unavailable, register 0 never (R50). -/
def marked (t : Strand) (d : BitVec 5) : BitVec 32 := if d = 0#5 then t.busy else t.busy ||| (1#32 <<< d.toNat)

/-- The word enters the stream queue as a command of kind `kind` in entry `i`, its token pending (R332, R221). -/
def Queued (w : Instr) (kind : StrKind) (d : BitVec 5) (s1 s2 : Word) (i : Nat) (s : State) : Prop :=
  ∃ t c, exec w s = .next t ∧
    Retired (withCore (withMe (s.actAs .a) fun u => { u with streamCount := u.streamCount + 1#64, busy := marked u d }) fun k =>
      { k with sq := k.sq ++ [c], chosen := k.chosen || c.inject }) t ∧
    c.slot = 8 * s.cur.strand.val + i ∧ c.kind = kind ∧ c.strand = s.cur.strand ∧ c.task = s.me.task ∧ c.tok = d ∧
    c.s1 = s1 ∧ c.s2 = s2 ∧ c.numver = (s.view .a).me.numver.extractLsb' 0 2 ∧ c.seq = s.me.streamCount + 1#64 ∧
    c.mark = s.me.sbNext ∧ c.rd = mark s ∧ c.phase = .waiting ∧ encode w = some c.word

end Sys2Proof.Claims

/-- R332, R161, R400, R404, R50, R221: COPY, DCMP, FILL, CSUM, COLL and SPAWN whose card, and SEND whose message, lies where it
must, take the strand's first free entry of the stream queue with their token unavailable and the strand's count advanced; they
wait while no entry is free, and raise ALIGN or SPACE at the word otherwise. -/
def Obligations.StreamCommandsEnterTheQueue : Prop :=
  ∀ (d a b : BitVec 5) (e : BitVec 1) (s : State), Issues s e → Available s .a [a] →
    (∀ p ∈ cardWords, (p.1 d a e).WellFormed →
      let addr := s.me.a a
      (addr.toNat % 64 ≠ 0 → Raises (p.1 d a e) .a 3 0#16 s) ∧
      (addr.toNat % 64 = 0 → ¬ InSram addr p.2.2 → Raises (p.1 d a e) .a 2 0#16 s) ∧
      (addr.toNat % 64 = 0 → InSram addr p.2.2 → Available s .a [d] →
        (∀ i, FirstFree s i → Queued (p.1 d a e) p.2.1 d addr 0#64 i s) ∧
        ((∀ i, i < 8 → ¬ SlotFree s i) → Holds (p.1 d a e) .a s))) ∧
    ∀ l : BitVec 6, Available s .a [b] → (Instr.send d a b l e).WellFormed →
      let dest := (s.me.a b).toNat
      let ok := InSram (s.me.a a) (l.toNat + 1) ∧ dest < 2 ^ 16 ∧ dest / 2 ^ 12 ≠ 0
      (¬ ok → Raises (.send d a b l e) .a 2 0#16 s) ∧
      (ok → Available s .a [d] →
        (∀ i, FirstFree s i → Queued (.send d a b l e) .send d (s.me.a a) (s.me.a b) i s) ∧
        ((∀ i, i < 8 → ¬ SlotFree s i) → Holds (.send d a b l e) .a s))

/-- R381, R382: MBREG makes its checks in order; it then binds the mailbox to its range, its handler and its task, or removes the
binding when Reg(S2) = 0, and changes nothing else. Behind an outstanding read it issues, and the binding changes when the read is
done (R368, log entry 20). -/
def Sys2Proof.Claims.MbregBindsAMailbox : Prop :=
  ∀ (d a b : BitVec 5) (m : BitVec 4) (e : BitVec 1) (s : State), Issues s e → Available s .a [d, a, b] →
    let i := Instr.mbreg d a b m e
    let h := s.me.a d
    let base := s.me.a a
    let len := s.me.a b
    let box := s.myCore.mailboxes.get m.toFin
    let inText := (s.textOf s.me).1 ≤ h.toNat ∧ h.toNat < (s.textOf s.me).2
    let fits := base.toNat < 2 ^ 60 ∧ (len = 0#64 ∨ base.toNat + len.toNat ≤ 0x300000)
    let theirs := box.valid = true ∧ box.owner ≠ s.me.task
    (m = 0#4 → Raises i .a 1 0#16 s) ∧
    (m ≠ 0#4 → h.toNat % 4 ≠ 0 → Raises i .a 3 0#16 s) ∧
    (m ≠ 0#4 → h.toNat % 4 = 0 → ¬ (inText ∧ fits ∧ ¬ theirs) → Raises i .a 2 0#16 s) ∧
    (m ≠ 0#4 → h.toNat % 4 = 0 → inText → fits → ¬ theirs →
      ∃ t new, exec i s = .next t ∧
        (hidden s = true → Retired (deferred s (.bind m.toFin new)) t) ∧
        (hidden s = false → Retired (withCore (s.actAs .a) fun k => { k with mailboxes := k.mailboxes.set m.toFin new }) t) ∧
        (len = 0#64 → new.valid = false) ∧
        (len ≠ 0#64 → new.valid = true ∧ new.base = BitVec.ofNat 32 base.toNat ∧ new.len = BitVec.ofNat 32 len.toNat ∧
          new.handler = BitVec.ofNat 32 h.toNat ∧ new.owner = s.me.task ∧
          (hidden s = false → ∀ v, s.task? s.me.task = some v → (new.accepting = true ↔ v.st = .running))))

/-- SEMINC, SEMSET and SEMWAIT act on semaphores; MBREG binds a mailbox: the parts above, together. -/
def Obligations.SemaphoresAndMailboxBindings : Prop :=
  Claims.SemaphoresCountAndSaturate ∧ Claims.MbregBindsAMailbox

namespace Sys2Proof.Claims

/-- What a matrix word names: the registers of its walks, that of its header, whether version 1 refuses it, its token, and the
registers of S1 and S2 (R383, R124). -/
structure MatrixUse where
  word : Instr
  walks : List (BitVec 5)
  header : Option (BitVec 5)
  refused : Bool
  tok : BitVec 5
  s1 : BitVec 5
  s2 : BitVec 5

/-- Formats of R124: E2M1, INT4, E3M2, E2M3, MK8 and the block records. -/
def laterFormat (c : BitVec 5) : Bool := [6, 7, 8, 9, 10].contains c.toNat || 19 ≤ c.toNat

/-- The seven matrix words (R384 to R389). -/
def matrixWords (d a b f k : BitVec 5) (p : BitVec 2) (e : BitVec 1) : List MatrixUse :=
  [⟨.mma f a b k p e, [a, b], none, laterFormat f || laterFormat k, 0#5, a, b⟩,
   ⟨.mmaSat f a b k p e, [a, b], none, laterFormat f || laterFormat k, 0#5, a, b⟩,
   ⟨.mmas f a b k p e, [a, b], none, true, 0#5, a, b⟩,
   ⟨.mzero p e, [], none, false, 0#5, 0#5, 0#5⟩,
   ⟨.mld a p e, [a], none, false, 0#5, a, 0#5⟩,
   ⟨.mst d a b k p e, [a], some b, k == 9#5, d, a, b⟩,
   ⟨.mstSat d a b k p e, [a], some b, k == 9#5, d, a, b⟩]

/-- The record at the address in register `r` lies at a multiple of 64 in local SRAM (R143). -/
def RecordAt (s : State) (r : BitVec 5) : Prop := (s.me.a r).toNat % 64 = 0 ∧ InSram (s.me.a r) 64

end Sys2Proof.Claims

/-- R383 to R389, R124, R157, R281: a matrix word that the strand's version admits, with its walk records and its header at
multiples of 64 in local SRAM and room in the queue of 16, enters it with the count advanced and its token unavailable; it waits
while the queue is full; version 1 raises NUMVER for the later formats, and a record out of place raises ALIGN or SPACE. That a header address
of 0 names no header, as in the pseudocode of R388, is log entry 24. -/
def Obligations.MatrixCommandsEnterTheQueue : Prop :=
  ∀ (d a b f k : BitVec 5) (p : BitVec 2) (e : BitVec 1) (s : State), Issues s e → Available s .a [a, b, d, 0#5] →
    ∀ m ∈ matrixWords d a b f k p e, m.word.WellFormed →
      let own := (s.view .a).me
      let v1 := m.refused = true ∧ own.numver.toNat % 4 = 1
      let good := (∀ r ∈ m.walks, RecordAt s r) ∧ ∀ r, m.header = some r → s.me.a r = 0#64 ∨ RecordAt s r
      (v1 → Raises m.word .a 7 0#16 s) ∧
      (¬ v1 → ¬ good → Raises m.word .a 3 0#16 s ∨ Raises m.word .a 2 0#16 s) ∧
      (¬ v1 → ∀ r l, m.walks = r :: l →
        ((s.me.a r).toNat % 64 ≠ 0 → Raises m.word .a 3 0#16 s) ∧
        ((s.me.a r).toNat % 64 = 0 → ¬ InSram (s.me.a r) 64 → Raises m.word .a 2 0#16 s)) ∧
      (¬ v1 → good → 16 ≤ s.myCore.mq.length → Holds m.word .a s) ∧
      (¬ v1 → good → s.myCore.mq.length < 16 →
        ∃ t c, exec m.word s = .next t ∧
          Retired (withCore (withMe (s.actAs .a) fun u =>
              { u with matrixCount := u.matrixCount + 1#64, busy := marked u m.tok }) fun q => { q with mq := q.mq ++ [c] }) t ∧
          encode m.word = some c.word ∧ c.tok = m.tok ∧ c.strand = s.cur.strand ∧ c.task = s.me.task ∧ c.s1 = s.me.a m.s1 ∧
          c.s2 = s.me.a m.s2 ∧ c.numver = own.numver.extractLsb' 0 2 ∧ c.count = s.me.matrixCount + 1#64 ∧
          c.mark = s.me.sbNext ∧ c.rd = mark s ∧ c.started = false ∧
          c.scl = (own.fmt.get (own.fmtidx.extractLsb' 0 4).toFin).extractLsb' 18 2)

namespace Sys2Proof.Claims

/-- A residency operation's result and the table after it, for a location word that RESIDE admits or not (R229). -/
def residency (tab : List ResEntry) (ctx : Word) (o : ResOp) (good : Prop) (w : Word) (tab' : List ResEntry) : Prop :=
  let has := ∃ e ∈ tab, e.context = ctx ∧ e.id = o.id
  match o.kind with
  | .reside =>
    (o.id = 0#64 → w = 5#64 ∧ tab' = tab) ∧
    (o.id ≠ 0#64 → ¬ good → w = 3#64 ∧ tab' = tab) ∧
    (o.id ≠ 0#64 → good → has →
      w = 1#64 ∧ tab' = tab.map fun e => if e.context = ctx ∧ e.id = o.id then { e with loc := o.loc } else e) ∧
    (o.id ≠ 0#64 → good → ¬ has → 8192 ≤ tab.length → w = 2#64 ∧ tab' = tab) ∧
    (o.id ≠ 0#64 → good → ¬ has → tab.length < 8192 → w = 0#64 ∧ tab' = tab ++ [⟨ctx, o.id, o.loc⟩])
  | .evict =>
    (o.id = 0#64 → w = 5#64 ∧ tab' = tab) ∧
    (o.id ≠ 0#64 → has → w = 0#64 ∧ tab' = tab.filter fun e => ¬ (e.context = ctx ∧ e.id = o.id)) ∧
    (o.id ≠ 0#64 → ¬ has → w = 4#64 ∧ tab' = tab)
  | .rquery =>
    tab' = tab ∧ (o.id = 0#64 → w = 0#64) ∧ (¬ has → w = 0#64) ∧
    (o.id ≠ 0#64 → ∀ x e y, tab = x ++ e :: y → e.context = ctx → e.id = o.id →
      (∀ f ∈ x, ¬ (f.context = ctx ∧ f.id = o.id)) → w = e.loc)

/-- A location word that RESIDE admits from core `c` for task `k` (R227, R229). -/
def GoodLocation (s : State) (c : Nat) (k : Task) (loc : Word) : Prop :=
  let bytes := loc.toNat / 2 ^ 25 % 2 ^ 21
  let core := loc.toNat / 2 ^ 46 % 2 ^ 12
  let addr := loc.toNat % 2 ^ 25
  loc.toNat / 2 ^ 58 % 2 ^ 5 = 0 ∧ 1 ≤ bytes ∧ bytes ≤ 0x100000 ∧
    (loc.getLsbD 63 = false → addr < 0x300000 ∧
      ∃ x, s.resolve k.regid (BitVec.ofNat 12 core) = some x ∧ clusterOf x = clusterOf c) ∧
    (loc.getLsbD 63 = true → core = 0 ∧ addr + bytes ≤ k.cwin.2)

end Sys2Proof.Claims

/-- R228, R229, R230, R226: RESIDE, EVICT and RQUERY issue with D unavailable; in issue order, and behind older reads, each then acts
on the table of its core's cluster under the context of the task that issued it, and while that task still runs there writes its
result to D and makes it available. -/
def Obligations.ResidencyOperations : Prop :=
  (∀ (d a b : BitVec 5) (e : BitVec 1) (s : State), Issues s e → Available s .a [a, b, 0#5, d] →
    let queued (k : ResKind) (x : Word) : State :=
      withMe (s.actAs .a) fun u => { u with resops := u.resops ++ [⟨k, d, s.me.a a, x, mark s, u.task⟩], busy := marked u d }
    (∃ t, exec (.reside d a b e) s = .next t ∧ Retired (queued .reside (s.me.a b)) t) ∧
    (∃ t, exec (.evict d a e) s = .next t ∧ Retired (queued .evict 0#64) t) ∧
    ∃ t, exec (.rquery d a e) s = .next t ∧ Retired (queued .rquery 0#64) t) ∧
  ∀ (core : Nat) (strand : Fin 4) (s : State) (o : ResOp) (l : List ResOp) (k : Task),
    let u := s.strand core strand
    u.resops = o :: l → s.task? o.task = some k → s.region? k.regid ≠ none →
    (∀ r x, u.reads = r :: x → r.id < o.rd → exec (.residencyOpPerform core strand) s = .next (s.res .stutter)) ∧
    (ReadsDone u o.rd →
      ∃ w tab t, residency (s.cluster (clusterOf core)).resid (s.contextOf k.regid) o (GoodLocation s core k o.loc) w tab ∧
        exec (.residencyOpPerform core strand) s = .next t ∧ (t.cluster (clusterOf core)).resid = tab ∧
        (∀ c, c ≠ clusterOf core → t.cluster c = s.cluster c) ∧ SameMemory s t ∧
        (∀ d n, d ≠ core ∨ n ≠ strand → t.strand d n = s.strand d n) ∧
        (u.task = o.task → o.d ≠ 0#5 → (t.strand core strand).a o.d = w ∧ (t.strand core strand).isBusy o.d = false ∧
          (∀ x, x ≠ o.d → (t.strand core strand).a x = u.a x ∧ (t.strand core strand).isBusy x = u.isBusy x) ∧
          (t.strand core strand).resops = l ∧ (t.strand core strand).reads.map ReadOp.id = u.reads.map ReadOp.id) ∧
        (u.task ≠ o.task ∨ o.d = 0#5 → t.strand core strand = { u with resops := l }))

namespace Sys2Proof.Claims

/-- TRAPCAUSE of an async cause of a command, its SLIP zero until delivery (R281, R287). -/
def asyncCause (cause : Nat) (eng : Bool) (tok : BitVec 5) (count : Word) : Word :=
  BitVec.ofNat 64 (cause + 2 ^ 17 + (if eng then 2 ^ 44 else 0) + (tok.toNat + count.toNat % 2048 * 32) * 2 ^ 48)

/-- A strand takes async causes: EN = 1 and the entry lies in its task's text (R284). -/
def Takes (s : State) (u : Strand) : Prop :=
  u.trapvec.getLsbD 0 = true ∧ (s.textOf u).1 ≤ (handlerAt u).toNat ∧ (handlerAt u).toNat < (s.textOf u).2

/-- A stream command fails with an async cause (R332): it leaves the queue, its cause waits at the strand that issued it, and no
byte of memory changes. -/
def Fails (s t : State) (core : Nat) (c : StrCmd) (cause : Nat) : Prop :=
  let u := s.strand core c.strand
  (u.task ≠ 0 → u.task = c.task → Takes s u →
    (t.core core).sq = (s.core core).sq.filter (fun x => x.slot ≠ c.slot) ∧
    t.strand core c.strand = { u with async := u.async ++ [asyncCause cause false c.tok c.seq] } ∧
    (∀ d n, d ≠ core ∨ n ≠ c.strand → t.strand d n = s.strand d n)) ∧
  SameMemory s t

/-- A token status word: DONE, ERR, POISON, VERDICT and BYTES (R51). -/
def status (err : Nat) (poison : Bool) (verdict bytes : Nat) : Word :=
  BitVec.ofNat 64 (2 ^ 63 + err * 2 ^ 48 + (if poison then 2 ^ 43 else 0) + verdict * 2 ^ 41 + min bytes (2 ^ 40 - 1))

/-- A strand at which `w` has arrived in token register `r`, which is available; a POISON of a read that was outstanding brings
back no older value of it (R50, R368). -/
def arrived (u : Strand) (r : BitVec 5) (w : Word) : Strand :=
  { u with
    areg := u.areg.set r.toFin w, busy := u.busy &&& ~~~(1#32 <<< r.toNat)
    reads := u.reads.map fun o => { o with snap := o.snap.arrive r (some w) } }

/-- A command ends with token `w` (R332, R50, R51): its entry is free, and its token register holds `w` and is available, while
its task still runs on its strand; no other strand changes. -/
def Finished (s t : State) (core : Nat) (c : StrCmd) (w : Word) : Prop :=
  let u := s.strand core c.strand
  (t.core core).sq = (s.core core).sq.filter (fun x => x.slot ≠ c.slot) ∧
  t.strand core c.strand =
    (if c.tok = 0#5 ∨ c.task = 0 ∨ u.task ≠ c.task then u
     else arrived u c.tok w) ∧
  ∀ d n, d ≠ core ∨ n ≠ c.strand → t.strand d n = s.strand d n

/-- No byte of any memory but that of core `d` changes, which becomes `m`. -/
def SramOnly (s t : State) (d : Nat) (m : Ram) : Prop :=
  (t.core d).sram = m ∧ (∀ c, c ≠ d → (t.core c).sram = (s.core c).sram) ∧ t.hbm = s.hbm ∧
    (∀ k, (t.cluster k).pool = (s.cluster k).pool) ∧ ∀ k, (t.die k).pool = (s.die k).pool

/-- A read piece has been read as `v`, poisoned when `z` (R182). -/
def tookPiece (c : StrCmd) (k : Nat) (p : ReadPiece) (v : List Byte) (z : Bool) : StrCmd :=
  { c with
    data := writeCells c.data p.off v
    pois := if z then (List.range p.len).map (· + p.off) ++ c.pois else c.pois
    srcDone := k :: c.srcDone }

/-- The card of a FILL is as R363 and R176 ask: its record at `a`, a multiple of 64 in local SRAM. -/
def GoodFillCard (card : List Byte) (a : Nat) : Prop :=
  a = field card 0 8 ∧ a % 64 = 0 ∧ a + 64 ≤ 0x300000 ∧ field card 16 4 < 2 ^ 8 ∧ zeros card 0x14 4 = true ∧
    field card 24 8 < 2 ^ 56 ∧ zeros card 0x20 32 = true

/-- The walk record of a FILL is as R363, R176 and R145 ask: a walk of local SRAM outside protected text. -/
def GoodFillWalk (s : State) (core : Nat) (l : List Byte) : Prop :=
  let w := decodeWalk l
  walkReserved l = false ∧ w.esize ∈ [1, 2, 4, 8, 17, 25, 33] ∧ w.replay = false ∧
    (w.fwd = true → w.linear = true) ∧ (w.csumc = true → w.hdr % 64 = 0) ∧ w.tag = 0 ∧ w.hdr < 2 ^ 22 ∧
    w.inside 0 0x300000 = true ∧ w.isZero = false ∧ s.walkHitsText core w true = false ∧ s.anyFailed = false

/-- Walk record `l` breaks WALK-FORMAT for a command that admits the element sizes `sizes` and no replay (R145). -/
def BrokenFormat (l : List Byte) (sizes : List Nat) : Prop :=
  let w := decodeWalk l
  walkReserved l = true ∨ w.esize ∉ sizes ∨ w.replay = true ∨ (w.fwd = true ∧ w.linear = false) ∨
    (w.csumc = true ∧ w.hdr % 64 ≠ 0)

/-- A walk's elements and header lie in local SRAM (R145). -/
def InsideSram (w : Walk) : Prop := w.tag = 0 ∧ w.hdr < 2 ^ 22 ∧ w.inside 0 0x300000 = true ∧ w.isZero = false

/-- A walk record's address as a card gives it is no place for one (R143, R162). -/
def BadRecordAddr (a : Nat) : Prop := a % 64 ≠ 0 ∨ 0x300000 < a + 64

/-- Ways in which the cards break their layouts, with the bytes of each card (R163 to R165, R173, R176, R177, R345). -/
def cardBreaks : List (StrKind × Nat × (List Byte → Prop)) :=
  [(.copy, 128, fun l => BadRecordAddr (field l 0 8) ∨ 2 ^ 15 ≤ field l 8 4 ∨ field l 8 4 % 16 = 0 ∨ 8 < field l 8 4 % 16 ∨
      field l 8 4 / 16 % 4 = 3 ∨ zeros l 0xC 4 = false ∨ zeros l 0x1C 4 = false ∨ zeros l 0x30 16 = false ∨
      2 ^ 56 ≤ field l 16 8),
   (.dcmp, 64, fun l => BadRecordAddr (field l 16 8) ∨ 2 ^ 8 ≤ field l 12 4 ∨ 2 ^ 56 ≤ field l 24 8 ∨
      zeros l 0x20 32 = false ∨ 4 ≤ field l 7 1 / 16),
   (.fill, 64, fun l => BadRecordAddr (field l 0 8) ∨ 2 ^ 8 ≤ field l 16 4 ∨ 2 ^ 56 ≤ field l 24 8 ∨
      zeros l 0x14 4 = false ∨ zeros l 0x20 32 = false),
   (.csum, 64, fun l => BadRecordAddr (field l 0 8) ∨ 2 ≤ field l 8 4 ∨ zeros l 0xC 52 = false)]

/-- A chunk header for a payload of `n` bytes breaks R217. -/
def BadHeader (h : List Byte) (n : Nat) : Prop :=
  zeros h 14 2 = false ∨ zeros h 56 8 = false ∨ (24 ≤ field h 12 1 ∧ field h 12 1 ≠ 31) ∨ field h 13 1 = 0 ∨ 3 < field h 13 1 ∨
    0x100000 < field h 8 4 ∨ field h 8 4 ≠ n

/-- Bytes that the kinds of commands read first: their card, notation header or task header (R162, R404). -/
def cardSizes : List (StrKind × Nat) := [(.copy, 128), (.dcmp, 64), (.fill, 64), (.csum, 64), (.coll, 64), (.spawn, 256)]

end Sys2Proof.Claims

/-- R161, R162: STREAM_COMMAND_START takes the command whose turn it is: the engine begins to read its card, one piece per aligned
8-byte word, and no byte and no strand changes; with no command to take nothing happens. -/
def Sys2Proof.Claims.StreamCommandsBeginToRead : Prop :=
  ∀ (core : Nat) (s : State),
    ((s.core core).nextStart = none → exec (.streamCommandStart core) s = .next (s.res .stutter)) ∧
    ∀ (c : StrCmd) (n : Nat), (s.core core).nextStart = some c → (s.core core).cmdAt c.slot = some c → c.phase = .waiting →
      (c.kind, n) ∈ cardSizes →
      ∃ t, exec (.streamCommandStart core) s = .next t ∧ (t.core core).served = c.strand ∧ SameMemory s t ∧
        (t.core core).cmdAt c.slot = some { c with
          phase := .reading, stage := 0, recs := [], recPois := false, need := readPieces c.s1.toNat c.s1.toNat n } ∧
        ∀ d n, t.strand d n = s.strand d n

/-- R182, R162, R147, R332, R363: a piece of what a command reads is the contents of its word at that time, read once. The last piece
of a poisoned card ends the command with POISON; that of a good FILL card lets the engine read the walk record, and that of
a good walk record puts the FILL in flight. -/
def Sys2Proof.Claims.CommandRecordsAreReadPieceByPiece : Prop :=
  ∀ (core slot k : Nat) (s : State) (c : StrCmd) (p : ReadPiece) (l : List Turn),
    let m := (s.core core).sram
    let rest := c.need.eraseIdx k
    let recs := writeCells c.recs p.off (m.bytes p.addr p.len)
    let bad := c.recPois || m.poisoned p.addr p.len
    let now := { c with need := rest, recs := recs, recPois := bad }
    s.turns = .record core slot k :: l → core < 4096 → (s.core core).cmdAt slot = some c → c.phase = .reading → c.need[k]? = some p →
    (rest ≠ [] → ¬ (c.kind = .spawn ∧ c.stage ≠ 0) → ∃ t, step s = .next t ∧ SameMemory s t ∧
      (∀ d n, t.strand d n = s.strand d n) ∧ (t.core core).cmdAt slot = some now) ∧
    (rest = [] → c.stage = 0 → c.kind ∈ [.copy, .dcmp, .fill, .csum, .coll] → bad = true →
      ∃ t, step s = .next t ∧ Fails s t core c 4) ∧
    (rest = [] → c.stage = 0 → c.kind = .fill → bad = false → ∀ a, GoodFillCard (readCells recs c.s1.toNat 64) a →
      ∃ t, step s = .next t ∧ SameMemory s t ∧ (∀ d n, t.strand d n = s.strand d n) ∧
        (t.core core).cmdAt slot = some { now with
          card := readCells recs c.s1.toNat 64, stage := 1, recs := [], need := readPieces a a 64 }) ∧
    (rest = [] → c.stage = 1 → c.kind = .fill → bad = false → GoodFillWalk s core (readCells recs (field c.card 0 8) 64) →
      ∃ t, step s = .next t ∧ SameMemory s t ∧ (∀ d n, t.strand d n = s.strand d n) ∧
        (t.core core).cmdAt slot = some { now with
          phase := .flight, walks := [default, decodeWalk (readCells recs (field c.card 0 8) 64)], cores := [core] })

/-- R332, R345, R349, R350, R363, R145, R162, R167, R217: a command whose card breaks its layout fails with CARD-FORMAT; one whose walk
breaks the record's format with WALK-FORMAT, and one whose walk has another tag or leaves local SRAM or meets protected text with
SPACE (here of FILL); a copy of unequal totals with WALK-FORMAT and one whose source and destination share bytes with OVERLAP; a
checking copy with a bad source header with HEADER-FORMAT. Nothing is written. -/
def Sys2Proof.Claims.BrokenCardsAndWalksFail : Prop :=
  (∀ (core slot k : Nat) (s : State) (c : StrCmd) (p : ReadPiece) (l : List Turn),
    let m := (s.core core).sram
    let recs := writeCells c.recs p.off (m.bytes p.addr p.len)
    let ends (cause : Nat) : Prop := ∃ t, step s = .next t ∧ Fails s t core c cause
    s.turns = .record core slot k :: l → core < 4096 → (s.core core).cmdAt slot = some c → c.phase = .reading → c.need[k]? = some p →
    c.need.eraseIdx k = [] → (c.recPois || m.poisoned p.addr p.len) = false →
    (∀ x ∈ cardBreaks, c.stage = 0 → c.kind = x.1 → x.2.2 (readCells recs c.s1.toNat x.2.1) → ends 12) ∧
    (c.stage = 1 → c.kind = .fill →
      let r := readCells recs (field c.card 0 8) 64
      let w := decodeWalk r
      (BrokenFormat r [1, 2, 4, 8, 17, 25, 33] → ends 11) ∧
      (¬ BrokenFormat r [1, 2, 4, 8, 17, 25, 33] → 5 < w.tag → ends 2) ∧
      (¬ BrokenFormat r [1, 2, 4, 8, 17, 25, 33] → w.tag = 0 → w.isZero = false → ¬ InsideSram w ∨ s.walkHitsText core w true = true →
        ends 2)) ∧
    (c.stage = 1 → c.kind = .copy → c.ndst = 1 → c.chk = 0 → c.follow = false → s.anyFailed = false →
      let ra := readCells recs (field c.card 0 8) 64
      let rb := readCells recs (entryWalk (c.dstEntry 0)) 64
      let a := decodeWalk ra
      let b := decodeWalk rb
      ¬ BrokenFormat ra [1, 2, 4, 8, 17, 25, 33] → ¬ BrokenFormat rb [1, 2, 4, 8, 17, 25, 33] → InsideSram a → InsideSram b →
      s.target (s.regidOf c.task) (entryCore (c.dstEntry 0)) = some (.live core) → s.task? c.task ≠ none →
      s.walkHitsText core b false = false →
      (a.size ≠ b.size → ends 11) ∧
      (a.size = b.size → ¬ (a.linear = true ∧ b.linear = true) → (∃ x ∈ a.addrs, x ∈ b.addrs) → ends 10))) ∧
  ∀ (core slot k : Nat) (s : State) (c : StrCmd) (p : ReadPiece),
    let m := (s.core core).sram
    let now := tookPiece c k p (m.bytes p.addr p.len) (m.poisoned p.addr p.len)
    (s.core core).cmdAt slot = some c → c.kind = .copy → c.chk = 1 → c.source.tag = 0 → s.anyFailed = false → k < 8 →
    c.mayRead k = true → c.srcPieces[k]? = some p →
    (∀ j, j < 8 → j ∈ now.srcDone) → (∀ x ∈ now.pois, 64 ≤ x) → BadHeader (readCells now.data 0 64) c.payload →
    ∃ t, exec (.copyLand core slot (.src k)) s = .next t ∧ Fails s t core c 14

/-- R166, R182: COPY_LAND reads one piece of a copy or a decompression, or writes one to the destination's memory, poisoned where its
bytes are. R202: after COMPLETION_TIMEOUT the bytes of a host read are unknown and poisoned. -/
def Sys2Proof.Claims.PiecesAreReadAndLand : Prop :=
  (∀ (core slot k : Nat) (s : State) (c : StrCmd) (p : ReadPiece),
    (s.core core).cmdAt slot = some c → c.mayRead k = true → c.srcPieces[k]? = some p → c.lead = 0 →
    (c.kind = .copy ∨ c.kind = .dcmp → c.source.tag = 0 → s.anyFailed = false →
      ∃ t, exec (.copyLand core slot (.src k)) s = .next t ∧ SameMemory s t ∧
        (t.core core).cmdAt slot = some (tookPiece c k p ((s.core core).sram.bytes p.addr p.len)
          ((s.core core).sram.poisoned p.addr p.len))) ∧
    (c.source.tag = 5 → ∃ t v, exec (.completionTimeout core slot (.src k)) s = .next t ∧ v.length = p.len ∧
      SameMemory s t ∧ (t.core core).cmdAt slot = some (tookPiece c k p v true))) ∧
  ∀ (core slot n k d : Nat) (s : State) (c : StrCmd) (p : ReadPiece),
    let v := (List.range p.len).map fun i => c.outByte (p.off + i)
    (s.core core).cmdAt slot = some c → c.kind = .copy ∨ c.kind = .dcmp → c.mayWrite n k = true →
    (c.dstPieces n)[k]? = some p → (c.dest n).tag = 0 → s.destTarget core c n = .live d → c.inject = false →
    ∃ t c', exec (.copyLand core slot (.dst n k)) s = .next t ∧
      SramOnly s t d (if v.any (·.2) then (s.core d).sram.writePoisoned p.addr (v.map (·.1))
        else (s.core d).sram.write p.addr (v.map (·.1))) ∧
      (t.core core).cmdAt slot = some c' ∧ c'.dstDone = (n, k) :: c.dstDone ∧ c'.phase = .flight

/-- Stream commands start, read their records once, fail where a card or a walk is bad, and land piece by piece: the parts above,
together. -/
def Obligations.StreamCommandsStartAndLand : Prop :=
  Claims.StreamCommandsBeginToRead ∧ Claims.CommandRecordsAreReadPieceByPiece ∧ Claims.BrokenCardsAndWalksFail ∧
    Claims.PiecesAreReadAndLand

/-- R209, R210, R206: a piece that a fresh walk of the tables refuses holds its command with the fault, and its record enters the
fault queue of 64 while there is room. R211, R269: a resolve word with ACT = 0 lets a held command go on once the walk finds its
page; one with ACT = 1 discards it and ends its region (R292); one that names no held command, or sets a reserved bit, sets event 5
and the error register, and so does one for a core of another cluster (log entry 87). The resolve register holds the word. The
supervisor of a retired or failed die writes none (R25). -/
def Obligations.HeldCommandsAndTheirResolution : Prop :=
  (∀ (core slot : Nat) (p : CopyPiece) (s : State) (c : StrCmd) (w : Walk) (addr kind lvl : Nat) (write : Bool) (e : Word),
    let ring := (s.cluster (clusterOf core)).rings.get 1
    (s.core core).cmdAt slot = some c → c.phase = .flight → c.pending p = some (w, addr, write) → w.tag = 3 → core < 4096 →
    s.walkVa (s.contextOf (s.regidOf c.task)) addr write = .fault kind lvl e → s.task? c.task ≠ none →
    ∃ t, exec (.translationFault core slot p) s = .next t ∧ SameMemory s t ∧ (∀ d n, t.strand d n = s.strand d n) ∧
      (t.core core).cmdAt slot = some { c with
        phase := .held
        fault := some ⟨BitVec.ofNat 64 (3 * 2 ^ 60 + addr), kind, write, lvl, e, false, ring.length < 64⟩ } ∧
      (64 ≤ ring.length → (t.cluster (clusterOf core)).rings.get 1 = ring) ∧
      (ring.length < 64 → ∃ r, (t.cluster (clusterOf core)).rings.get 1 = ring ++ [r] ∧
        r.extractLsb' 0 64 = BitVec.ofNat 64 (3 * 2 ^ 60 + addr) ∧ r.extractLsb' 64 16 = BitVec.ofNat 16 core ∧
        (kind < 256 → r.extractLsb' 88 8 = BitVec.ofNat 8 kind))) ∧
  ∀ (cluster core slot : Nat) (s : State), cluster < 64 → core < 2 ^ 12 → slot < 2 ^ 5 →
    let go : Word := BitVec.ofNat 64 (core + slot * 2 ^ 12)
    let kill : Word := BitVec.ofNat 64 (core + slot * 2 ^ 12 + 2 ^ 17)
    let runs := (s.die (cluster / 4)).health ≠ .retired ∧ (s.die (cluster / 4)).health ≠ .failed
    (¬ runs → exec (.translationRetry cluster go) s = .next (s.res .stutter) ∧
      exec (.translationKill cluster kill) s = .next (s.res .stutter)) ∧
    (runs → (∀ w : Word, w.extractLsb' 18 46 ≠ 0#46 →
      let t := s.modCluster cluster fun k => { k with resolve := w, events := k.events ||| 0x20#8, resolveErr := w }
      (w.getLsbD 17 = false → exec (.translationRetry cluster w) s = .next t) ∧
      (w.getLsbD 17 = true → exec (.translationKill cluster w) s = .next t)) ∧
    (∀ c f pa size rd w, clusterOf core = cluster → (s.core core).cmdAt slot = some c → c.phase = .held → c.fault = some f →
      f.addr.extractLsb' 60 4 = 3#4 →
      s.walkVa (s.contextOf (s.regidOf c.task)) (f.addr.toNat % 2 ^ 60) f.write = .page pa size rd w → s.task? c.task ≠ none →
      exec (.translationRetry cluster go) s = .next ((s.modCluster cluster fun v => { v with resolve := go }).modCore core fun k =>
        { k with sq := k.sq.map fun x => if x.slot = slot then { x with phase := .flight, fault := none } else x })) ∧
    (∀ c v r, clusterOf core = cluster → (s.core core).cmdAt slot = some c → c.phase = .held → s.task? c.task = some v →
      s.region? v.regid = some r →
      ∃ t, exec (.translationKill cluster kill) s = .next t ∧ (t.core core).cmdAt slot = none ∧ SameMemory s t ∧
        (∀ x ∈ s.tasks, x.regid = v.regid → ∃ y ∈ t.tasks, y.key = x.key ∧ y.st = .ended) ∧
        ∃ n, t.records = s.records ++ [n] ∧ n.words = noticeWords 0#64 r.regid 0 3 17#64 0#64 0#64) ∧
    ((clusterOf core ≠ cluster ∨ (s.core core).cmdAt slot = none) →
      ∀ i ∈ [(Instr.translationRetry cluster go, go), (Instr.translationKill cluster kill, kill)],
        exec i.1 s = .next (s.modCluster cluster fun k =>
          { k with resolve := i.2, events := k.events ||| 0x20#8, resolveErr := i.2 })))

namespace Sys2Proof.Claims

/-- All bytes of a command have landed and nothing else that its token waits for is left (R171, R332). -/
def Settled (c : StrCmd) : Prop :=
  c.phase = .flight ∧ c.allLanded = true ∧ c.incSent = true ∧ c.incs = 0 ∧ (c.follow = true → c.followed = true)

end Sys2Proof.Claims

/-- R171, R169, R220, R222: COPY_COMPLETE writes the token with BYTES and, for a checking copy, the verdict of the pair it read; a
mismatch sends a record first, and the event after it writes the token. R172: FOLLOW_ON_ENTRY puts the follow-on in the matrix queue. R175: DCMP_COMPLETE writes the token, or
fails a malformed stream. -/
def Sys2Proof.Claims.CopiesAndDecompressionsComplete : Prop :=
  ∀ (core slot : Nat) (s : State) (c : StrCmd), (s.core core).cmdAt slot = some c →
    (c.kind = .copy → Settled c → (∀ w, c.verdict = some w → ∃ t, exec (.copyComplete core slot) s = .next t ∧ SameMemory s t ∧
      t.records = s.records ∧ Finished s t core c w)) ∧
    (c.kind = .copy → Settled c → c.verdict = none →
      (c.isZero = false → c.chk ≠ 1 → ∃ t, exec (.copyComplete core slot) s = .next t ∧ SameMemory s t ∧
        t.records = s.records ∧ Finished s t core c (status 0 (!c.pois.isEmpty || c.taint.isSome) 0 (c.bytes * c.ndst))) ∧
      (c.isZero = true → ∃ t, exec (.copyComplete core slot) s = .next t ∧ SameMemory s t ∧ t.records = s.records ∧
        Finished s t core c (status 0 false 0 0)) ∧
      (c.isZero = false → c.chk = 1 → c.pois = [] → c.taint = none → c.badDst = [] → c.hit = false →
        let want := headerPair (readCells c.data 0 64)
        (c.readPair = want → ∃ t, exec (.copyComplete core slot) s = .next t ∧ SameMemory s t ∧ t.records = s.records ∧
          Finished s t core c (status 0 false 1 (c.bytes * c.ndst))) ∧
        (c.readPair ≠ want → ∃ t r, exec (.copyComplete core slot) s = .next t ∧ SameMemory s t ∧
          t.records = s.records ++ [r] ∧ r.regid = s.regidOf c.task ∧
          (r.words.drop 3).take 4 = [want.1, want.2, c.readPair.1, c.readPair.2] ∧
          (∀ d n, t.strand d n = s.strand d n) ∧
          (t.core core).cmdAt slot = some { c with verdict := some (status 2 false 2 (c.bytes * c.ndst)) }))) ∧
    (c.follow = true → c.followed = false → c.phase = .flight → c.allLanded = true → c.followCause = none →
      (s.core core).mq.length < 16 →
      let u := s.strand core c.strand
      ∃ t m, exec (.followOnEntry core slot) s = .next t ∧ SameMemory s t ∧
        (t.core core).mq = (s.core core).mq ++ [m] ∧ m.word = c.fword ∧ m.s1 = BitVec.ofNat 64 c.fopa ∧
        m.s2 = BitVec.ofNat 64 c.fopb ∧ m.tok = 0#5 ∧ m.strand = c.strand ∧ m.task = c.task ∧ m.follow = true ∧
        m.numver = c.numver ∧ m.started = false ∧ (t.core core).cmdAt slot = some { c with followed := true } ∧
        t.strand core c.strand = if u.task = c.task then { u with
          matrixCount := u.matrixCount + 1#64
          reads := u.reads.map fun o => { o with snap := { o.snap with matrixCount := o.snap.matrixCount + 1#64 } } } else u) ∧
    (c.kind = .dcmp → c.phase = .flight → c.allLanded = true →
      (c.isZero = true ∨ c.elements.2 = true → Settled c →
        ∃ t, exec (.dcmpComplete core slot) s = .next t ∧ SameMemory s t ∧
          Finished s t core c (status 0 (c.output.any (·.2) || c.taint.isSome) 0 c.bytes)) ∧
      (c.isZero = false → c.elements.2 = false → ∃ t, exec (.dcmpComplete core slot) s = .next t ∧ Fails s t core c 13))

/-- R176, R363, R170: FILL_COMPLETE writes one piece of the repeated 8 bytes of VALUE, then sends the increment, then writes the token.
R177, R349: CSUM_COMPLETE reads one piece, and after the last writes the token of a computing or a verifying CSUM; a failed verify
sends its record first (R220, R222). -/
def Sys2Proof.Claims.FillsAndChecksumsComplete : Prop :=
  ∀ (core slot k : Nat) (s : State) (c : StrCmd), (s.core core).cmdAt slot = some c →
    (c.kind = .fill →
      (∀ p, c.allLanded = false → c.mayWrite 0 k = true → (c.dstPieces 0)[k]? = some p → (c.dest 0).tag = 0 →
        p.off + p.len ≤ c.payload →
        ∃ t c', exec (.fillComplete core slot k) s = .next t ∧
          SramOnly s t core ((s.core core).sram.write p.addr ((List.range p.len).map fun i =>
            BitVec.ofNat 8 (field c.card (8 + (p.off + i) % 8) 1))) ∧
          (t.core core).cmdAt slot = some c' ∧ c'.dstDone = (0, k) :: c.dstDone) ∧
      (c.phase = .flight → c.allLanded = true → c.incSent = false → c.semEn = true →
        ∃ t, exec (.fillComplete core slot k) s = .next t ∧ SameMemory s t ∧
          (t.core core).incs = (s.core core).incs ++
            [⟨Fin.ofNat 64 c.sem, BitVec.ofNat 64 c.incAmount, some ⟨core, c.slot, c.seq⟩, none⟩] ∧
          (t.core core).cmdAt slot = some { c with incSent := true, incs := 1 }) ∧
      (Settled c → ∃ t, exec (.fillComplete core slot k) s = .next t ∧ SameMemory s t ∧
        Finished s t core c (status 0 false 0 c.bytes))) ∧
    (c.kind = .csum →
      (∀ p, c.allRead = false → c.mayRead k = true → c.srcPieces[k]? = some p → c.source.tag = 0 → c.lead = 0 →
        s.anyFailed = false →
        ∃ t, exec (.csumComplete core slot k) s = .next t ∧ SameMemory s t ∧
          (t.core core).cmdAt slot = some (tookPiece c k p ((s.core core).sram.bytes p.addr p.len)
            ((s.core core).sram.poisoned p.addr p.len))) ∧
      (c.allRead = true → Settled c → ∀ w, c.verdict = some w → ∃ t, exec (.csumComplete core slot k) s = .next t ∧
        SameMemory s t ∧ t.records = s.records ∧ Finished s t core c w) ∧
      (c.allRead = true → Settled c → c.verdict = none →
        (c.isZero = true ∨ c.ctrl = 0 → ∃ t, exec (.csumComplete core slot k) s = .next t ∧ SameMemory s t ∧
          Finished s t core c (status 0 false 0 c.bytes)) ∧
        (c.isZero = false → c.ctrl ≠ 0 → c.pois = [] → c.taint = none → c.readPair = headerPair (readCells c.data 0 64) →
          ∃ t, exec (.csumComplete core slot k) s = .next t ∧ SameMemory s t ∧ t.records = s.records ∧
            Finished s t core c (status 0 false 1 c.bytes)) ∧
        (c.isZero = false → c.ctrl ≠ 0 → c.pois = [] → c.taint = none → c.readPair ≠ headerPair (readCells c.data 0 64) →
          ∃ t r, exec (.csumComplete core slot k) s = .next t ∧ SameMemory s t ∧ t.records = s.records ++ [r] ∧
            r.regid = s.regidOf c.task ∧ (∀ d n, t.strand d n = s.strand d n) ∧
            (t.core core).cmdAt slot = some { c with verdict := some (status 2 false 2 c.bytes) })))

/-- Copies, decompressions, follow-ons, fills and checksums complete with their token: the parts above, together. -/
def Obligations.CopiesFillsAndChecksumsComplete : Prop :=
  Claims.CopiesAndDecompressionsComplete ∧ Claims.FillsAndChecksumsComplete

/-- R401, R53: SEND_ACCEPT takes a message for a bound mailbox whose task runs, while fewer than 16 handlers wait, and writes the
sender's token; one behind an older SEND of its strand to the same mailbox waits; a copy that became visible while its mailbox was
bound keeps the task and the handler of that binding (R382). R404, R278, R266: SPAWN_STORE enters the task with its header in an entry
of the spawn area that no task uses which has not ended (the model's choice, log entry 14), and waits while all 256 are used;
SPAWN_RING_ENTRY puts it in ring 0 once it may wait. R54: HANDLER_START starts the oldest handler on a free strand; its STRAND has
IDX 0 and CNT 0, which the model deduces (log entry 55). -/
def Obligations.MessagesAndSpawnedTasks : Prop :=
  (∀ (core k : Nat) (s : State) (d : Delivery),
    let v := s.core core
    let box := v.mailboxes.get d.mailbox
    v.ingress[k]? = some d → box.valid = true → box.accepting = true → s.regidOf box.owner = d.regid →
    (∃ w, s.task? box.owner = some w ∧ w.st = .running) → v.pending.length < 16 → d.bound = none →
    let older (r : CmdRef) (c : StrCmd) : Prop :=
      ∃ x ∈ (s.core r.core).sq, x.kind = .send ∧ x.strand = c.strand ∧ x.task = c.task ∧ x.s2 = c.s2 ∧ x.seq.toNat < c.seq.toNat
    (∀ r c, d.token = some r → s.cmd? r = some c → older r c → exec (.sendAccept core k) s = .next (s.res .stutter)) ∧
    ((∀ r c, d.token = some r → s.cmd? r = some c → ¬ older r c) →
    ∃ t, exec (.sendAccept core k) s = .next t ∧ SameMemory s t ∧
      (t.core core).pending =
        v.pending ++ [⟨box.owner, d.regs ++ [BitVec.ofNat 64 d.mailbox.val], d.regid, BitVec.ofNat 22 box.handler.toNat⟩] ∧
      (t.core core).ingress = v.ingress.eraseIdx k ∧
      ∀ r c, d.token = some r → s.cmd? r = some c → Finished s t r.core c (status 0 false 0 d.len))) ∧
  (∀ (core k owner : Nat) (h : BitVec 22) (s : State) (d : Delivery),
    let v := s.core core
    v.ingress[k]? = some d → d.bound = some (owner, h) → d.token = none → v.pending.length < 16 →
    (∀ x ∈ v.ingress.take k, x.bound = none) →
    exec (.sendAccept core k) s = .next (s.modCore core fun v => { v with
      pending := v.pending ++ [⟨owner, d.regs ++ [BitVec.ofNat 64 d.mailbox.val], d.regid, h⟩], ingress := v.ingress.eraseIdx k })) ∧
  (∀ (core slot : Nat) (s : State) (c : StrCmd), (s.core core).cmdAt slot = some c → c.kind = .spawn → c.phase = .flight →
    let old := (s.cluster (clusterOf core)).spawn
    let free (i : Nat) : Prop := ∀ x ∈ s.tasks, x.st = .ended ∨ x.hdr ≠ spawnAt (clusterOf core) i
    ((∀ i, i < 256 → ¬ free i) → exec (.spawnStore core slot) s = .next (s.res .stutter)) ∧
    ((∃ i, i < 256 ∧ free i) → ∃ t v, exec (.spawnStore core slot) s = .next t ∧ (∃ i, i < 256 ∧ free i ∧ v.hdr = spawnAt (clusterOf core) i) ∧ t.tasks = s.tasks ++ [v] ∧ v.key = s.nextTask ∧
      t.nextTask = s.nextTask + 1 ∧ v.tid = BitVec.ofNat 64 (field c.card 0 8) ∧ v.regid = s.regidOf c.task ∧
      v.st = .dependent ∧ v.source = 1 ∧ t.hbm = s.hbm.write v.hdr c.card ∧
      (t.cluster (clusterOf core)).spawn = old ++ [(s.nextTask, c.card)] ∧ Finished s t core c (status 0 false 0 256))) ∧
  (∀ (key : Nat) (s : State) (v : Task), s.task? key = some v → v.st = .dependent →
    (v.early = true ∨ ∀ p ∈ v.prods, ∃ x ∈ s.tasks, x.tid = p ∧ x.fired = true ∧ s.contextOf x.regid = s.contextOf v.regid) →
    ∃ t e, exec (.spawnRingEntry key) s = .next t ∧ SameMemory s t ∧
      t.task? key = some { v with st := .waiting, since := (s.cluster v.cluster).boundary } ∧
      (t.cluster v.cluster).rings.get 0 = (s.cluster v.cluster).rings.get 0 ++ [e] ∧
      (v.hdr < 2 ^ 64 → e.extractLsb' 0 64 = BitVec.ofNat 64 v.hdr ∧ e.extractLsb' 64 64 = v.regid ∧
        e.extractLsb' 128 64 = v.gang)) ∧
  ∀ (core : Nat) (strand : Fin 4) (s : State) (p : Pending) (l : List Pending) (v : Task),
    let k := s.core core
    let old := k.strand strand
    k.pending = p :: l → s.task? p.owner = some v → v.st = .running ∨ v.st = .draining → old.task = 0 →
    ∃ t, exec (.handlerStart core strand) s = .next t ∧ SameMemory s t ∧ (t.core core).pending = l ∧
      (∀ d n, d ≠ core ∨ n ≠ strand → t.strand d n = s.strand d n) ∧
      t.strand core strand =
        { Strand.reset with
          sbuf := old.sbuf, sbNext := old.sbNext, rdNext := old.rdNext, semops := old.semops, resops := old.resops,
          slipw := BitVec.ofNat 64 v.slip, numver := BitVec.ofNat 64 v.nv, taskid := v.tid, strandCsr := BitVec.ofNat 64 (strand.val * 4),
          pcA := p.entry, pcX := p.entry, task := v.key, handler := true,
          areg := Vector.ofFn fun i : Fin 32 => if 1 ≤ i.val ∧ i.val ≤ 10 then p.regs.getD (i.val - 1) 0#64 else 0#64 }

namespace Sys2Proof.Claims

/-- Token `r` of a strand takes `w` and is available while the strand still runs the task that issued its command (R50); no other
strand changes. -/
def Tokened (s t : State) (core : Nat) (n : Fin 4) (task : Nat) (r : BitVec 5) (w : Word) : Prop :=
  let u := s.strand core n
  t.strand core n = (if r = 0#5 ∨ task = 0 ∨ u.task ≠ task then u else arrived u r w) ∧
  ∀ d m, d ≠ core ∨ m ≠ n → t.strand d m = s.strand d m

/-- Element (i, j) of a plane (R150). -/
def planeElem (p : Plane) (i j : Nat) : Nat := (p.bits.extractLsb' (32 * (64 * i + j)) 32).toNat

/-- One k-block of version 1 or 3 for one element (R126, R127, R129): the exact sum of the products and the accumulator, rounded
once into the accumulator format, wrapping or with SAT saturating for INT32. -/
def blockSum (int sat : Bool) (ps : List Val) (acc : Nat) : Nat :=
  if int then
    let f : Fmt := .int true 32
    codeOf f (valOfInt (intNarrow true 32 (valInt (exactSum (ps ++ [decodeVal f acc]) .rne).1) sat).1)
  else
    let f : Fmt := .bin binary32
    codeOf f (roundTo f (exactSum (ps ++ [decodeVal f acc]) .rne).1 .rne false).1

end Sys2Proof.Claims

/-- R157, R190, R147: MATRIX_COMMAND_PERFORM takes the oldest command once the older stores of its strand have drained, and reads its walk
records once, piece by piece; R383: with the last piece of poisoned records it fails with POISON; R389: MZERO writes zeros to its
plane; R158, R182: a started command reads its k-block piece by piece; R126, R127, R129, R151: with the last piece of an
unscaled k-block of version 1 or 3 each accumulator element takes the rounded exact sum, and the plane its tag; R155: an MST writes its
beat piece by piece; R156, R388: MST_COMPLETE writes the header's pair and the token, or for a poisoned plane sends a record and, in
the next event, a token with POISON (R222). R383, R145, R149: with the last piece of its records, a first walk that breaks its format
fails the command with WALK-FORMAT and one of another tag with SPACE (log entry 101), and operands that meet in a bank group with
OPERAND-CONFLICT. That the pair and the token are written in one event, and that a record address of 0 names no header, is the
model's choice (log entries 96 and 24). -/
def Obligations.MatrixEngineSteps : Prop :=
  (∀ (core k : Nat) (s : State) (c : MatCmd) (l : List MatCmd), (s.core core).mq = c :: l → Claims.ReadsDone (s.strand core c.strand) c.rd →
    (c.started = false → (∃ x ∈ (s.strand core c.strand).sbuf, x.id < c.mark) →
      exec (.matrixCommandPerform core k) s = .next (s.res .stutter)) ∧
    (∀ p, c.started = false → (∀ x ∈ (s.strand core c.strand).sbuf, c.mark ≤ x.id) → c.left[k]? = some p → 2 ≤ c.left.length →
      exec (.matrixCommandPerform core k) s = .next (s.modCore core fun v =>
        { v with mq := { c with left := c.left.eraseIdx k, data := writeCells c.data p.off (v.sram.bytes p.addr p.len),
                                poisoned := c.poisoned || v.sram.poisoned p.addr p.len } :: l })) ∧
    (∀ p, c.started = false → (∀ x ∈ (s.strand core c.strand).sbuf, c.mark ≤ x.id) → c.left = [p] → k = 0 → c.op ≠ .mzero →
      (c.poisoned || (s.core core).sram.poisoned p.addr p.len) = true →
      let u := s.strand core c.strand
      u.task ≠ 0 → u.task = c.task → Takes s u →
      ∃ t, exec (.matrixCommandPerform core k) s = .next t ∧ SameMemory s t ∧ (t.core core).mq = l ∧
        t.strand core c.strand = { u with async := u.async ++ [asyncCause 4 true c.tok c.count] }) ∧
    (∀ p, c.started = false → (∀ x ∈ (s.strand core c.strand).sbuf, c.mark ≤ x.id) → c.left = [p] → k = 0 → c.op ≠ .mzero →
      (c.poisoned || (s.core core).sram.poisoned p.addr p.len) = false →
      let d := writeCells c.data p.off ((s.core core).sram.bytes p.addr p.len)
      let ra := readCells d 0 64
      let rb := readCells d 64 64
      let a := decodeWalk ra
      let b := decodeWalk rb
      let size := if c.op = .mld then 4 else if c.op ∈ [.mst, .mstSat] then (fmtOf c.fb).bytes else operandSize c.fa
      let u := s.strand core c.strand
      let ends (cause : Nat) : Prop := ∃ t, exec (.matrixCommandPerform core k) s = .next t ∧ SameMemory s t ∧
        (t.core core).mq = l ∧ (t.core core).planes = (s.core core).planes ∧
        t.strand core c.strand = { u with async := u.async ++ [asyncCause cause true c.tok c.count] }
      u.task ≠ 0 → u.task = c.task → Takes s u → size ∈ [1, 2, 4, 8, 17, 25, 33] →
      (BrokenFormat ra [size] → ends 11) ∧
      (¬ BrokenFormat ra [size] → a.tag ≠ 0 → ends 2) ∧
      (c.op ∈ [.mma, .mmaSat, .mmas] → ¬ BrokenFormat ra [size] → ¬ BrokenFormat rb [operandSize c.fb] →
        operandSize c.fb ∈ [1, 2, 4, 8, 17, 25, 33] → InsideSram a → InsideSram b → a.ext0 ≤ 64 → b.ext0 ≤ 64 →
        kOf c.fa a = kOf c.fb b → (∃ x ∈ a.addrs, ∃ y ∈ b.addrs, x / 0xC0000 = y / 0xC0000) → ends 9)) ∧
    (∀ p e, encode (.mzero p e) = some c.word → c.started = false → c.left = [] →
      (∀ x ∈ (s.strand core c.strand).sbuf, c.mark ≤ x.id) →
      exec (.matrixCommandPerform core k) s = .next (s.modCore core fun v =>
        { v with mq := l
                 planes := v.planes.set p.toFin { v.planes.get p.toFin with bits := 0#131072, poisoned := false } })) ∧
    (∀ p, c.started = true → c.op ∈ [.mma, .mmaSat, .mmas, .mld] → c.left[k]? = some p → 2 ≤ c.left.length →
      exec (.matrixCommandPerform core k) s = .next (s.modCore core fun v =>
        { v with mq := { c with left := c.left.eraseIdx k, data := writeCells c.data p.off (v.sram.bytes p.addr p.len),
                                poisoned := c.poisoned || v.sram.poisoned p.addr p.len } :: l })) ∧
    (∀ p, c.started = true → c.op ∈ [.mma, .mmaSat] → c.numver ≠ 2#2 → c.fa ∈ [0, 2, 3, 4, 5, 11] → c.fb ∈ [0, 2, 3, 4, 5, 11] →
      c.left = [p] → k = 0 →
      let v := s.core core
      let a := c.walk 0
      let b := c.walk 1
      let d := writeCells c.data p.off (v.sram.bytes p.addr p.len)
      let bad := c.poisoned || v.sram.poisoned p.addr p.len
      let n := c.blockEnd - c.next
      let x (i j : Nat) : Val := decodeVal (fmtOf c.fa) (leNat (readCells d ((j * a.ext0 + i) * a.esize) a.esize))
      let y (i j : Nat) : Val :=
        decodeVal (fmtOf c.fb) (leNat (readCells d (a.ext0 * n * a.esize + (j * b.ext0 + i) * b.esize) b.esize))
      let old := v.planes.get c.plane
      a.ext0 ≤ 64 → b.ext0 ≤ 64 → c.next < c.blockEnd →
      ∃ t new, exec (.matrixCommandPerform core k) s = .next t ∧ SameMemory s t ∧ (∀ e m, t.strand e m = s.strand e m) ∧
        (t.core core).planes = v.planes.set c.plane new ∧ new.tag = (if c.fa = 11 then 1#2 else 0#2) ∧
        new.poisoned = (old.poisoned || bad) ∧
        (∀ i j, i < 64 → j < 64 → planeElem new i j =
          if i < a.ext0 ∧ j < b.ext0 then
            blockSum (c.fa == 11) (c.op == .mmaSat) ((List.range n).map fun q => (exactMul (x i q) (y j q)).1) (planeElem old i j)
              % 2 ^ 32
          else planeElem old i j) ∧
        (c.blockEnd = kOf c.fa a → (t.core core).mq = l)) ∧
    ∀ p r v q, c.started = true → c.op ∈ [.mst, .mstSat] → c.out[k]? = some p → p = (r, v) :: q →
      (∀ q ∈ c.out.take k, (q.headD default).1 / 8 ≠ r / 8) →
      ∃ t, exec (.matrixCommandPerform core k) s = .next t ∧ (∀ e m, t.strand e m = s.strand e m) ∧
        SramOnly s t core (if c.poisoned then (s.core core).sram.writePoisoned r (p.map Prod.snd) else (s.core core).sram.store p)) ∧
  ∀ (core : Nat) (s : State) (c : MatCmd) (l : List MatCmd), (s.core core).mq = c :: l → Claims.ReadsDone (s.strand core c.strand) c.rd →
    c.started = true → c.op ∈ [.mst, .mstSat] → c.out = [] → (c.walk 0).beats ≤ c.next →
    let m := (s.core core).sram
    let pair := csumPair (c.mstAll (s.core core))
    (c.poisoned = true → c.told = false → ∃ t r, exec (.mstComplete core) s = .next t ∧ SameMemory s t ∧
      t.records = s.records ++ [r] ∧ r.regid = s.regidOf c.task ∧ (t.core core).mq = { c with told := true } :: l ∧
      ∀ d n, t.strand d n = s.strand d n) ∧
    (c.poisoned = false ∨ c.told = true → ∃ t, exec (.mstComplete core) s = .next t ∧ (t.core core).mq = l ∧
      t.records = s.records ∧
      Tokened s t core c.strand c.task c.tok (status 0 c.poisoned 0 ((c.walk 0).count * (c.walk 0).esize)) ∧
      (c.poisoned = true → SameMemory s t) ∧
      (c.poisoned = false →
        SramOnly s t core (if c.s2 = 0#64 then m
          else (m.write (c.s2.toNat + 0x28) (natBytes 8 pair.1.toNat)).write (c.s2.toNat + 0x30) (natBytes 8 pair.2.toNat))))

namespace Sys2Proof.Claims

/-- A core that exists and whose die is in service. -/
def Usable (s : State) (core : Nat) : Prop :=
  core < 4096 ∧ (s.die (core / 256)).health ≠ .retired ∧ (s.die (core / 256)).health ≠ .failed

/-- A core with its slot free. -/
def freedCore (k : Core) : Core := { k with slot := .free, regid := 0#64, lcore := 0#12 }

/-- The task waits in ring 0 of a cluster (R273). -/
def Waits (cl : Nat) (v : Task) : Prop := v.st ∈ [.waiting, .saved] ∧ v.loading = false ∧ v.cluster = cl

/-- The task is due (R273): at e = 7 it has waited 8 boundaries more. -/
def DueTask (v : Task) : Prop := v.e = 7 ∧ 8 * (7 - v.base) + 8 ≤ v.waited

/-- `a` is bound before `b` (R274): due tasks first, then descending e, then the earliest start of waiting, then the lowest TASKID. -/
def Ahead (a b : Task) : Prop :=
  (DueTask a ∧ ¬ DueTask b) ∨ ((DueTask a ↔ DueTask b) ∧
    (b.e < a.e ∨ (a.e = b.e ∧ (a.since < b.since ∨ (a.since = b.since ∧ a.tid.toNat < b.tid.toNat)))))

/-- `v` waits in the cluster, ahead of every other task that waits there, `f` being the promotion that comes first. -/
def FirstWaiting (f : Task → Task) (s : State) (cl : Nat) (v : Task) : Prop :=
  Waits cl v ∧ ∀ x ∈ s.tasks, Waits cl x → x.key ≠ v.key → Ahead (f v) (f x)

/-- Strands of a core that run nothing. -/
def idleStrands (s : State) (c : Nat) : List (Fin 4) := (List.finRange 4).filter fun n => (s.strand c n).task = 0

/-- A task that has not begun may be bound on core `c` of the cluster as logical core `l`, which is mapped for it when `new` holds
(R231, R274): the core is in service and enough of its strands are idle, none of them wanted for another task for which one was
pre-empted, and none while a task comes back there with its core section; it is the core of its LCORE, or without one a core of its
region, or a free one that the region may map and that is not held for another. -/
def Finds (s : State) (cl : Nat) (v : Task) (c : Nat) (l : BitVec 12) (new : Prop) : Prop :=
  let k := s.core c
  Usable s c ∧ clusterOf c = cl ∧ (∀ r ∈ s.retiring, r.1 ≠ c / 256) ∧ v.nstrands ≤ (idleStrands s c).length ∧
  (∀ x ∈ s.tasks, x.st = .stopping → x.core = c → x.forTask = 0 ∨ x.forTask = v.key) ∧
  (∀ j ∈ k.jobs, j.resume ≠ none → ∀ x, s.task? j.key = some x → x.slotCoreSec = false) ∧
  (v.lcore ≠ 0xFFFF#16 → s.resolve v.regid (v.lcore.truncate 12) = some c ∧ k.slot = .mapped ∧ l = v.lcore.truncate 12 ∧ ¬ new) ∧
  (v.lcore = 0xFFFF#16 →
    (k.slot = .mapped ∧ k.regid = v.regid ∧ l = k.lcore ∧ ¬ new) ∨
    (k.slot = .free ∧ new ∧ l = s.newLcore v.regid c ∧ k.heldOk v.regid = true ∧ ∃ r, s.region? v.regid = some r ∧
      (s.inherit 3 r).clusters.getLsbD cl = true ∧ s.heldCores v.regid < (s.inherit 4 r).cores))

/-- The score of a logical core for a task (R231): over the chunks of its header, each at its first appearance, the weight, or the
bytes where that is 0, of an entry of the residency table that names the core's SRAM. -/
def score (s : State) (cl : Nat) (v : Task) (l : BitVec 12) : Nat :=
  ((hdrChunks (s.headerAt (cl / 4) v.hdr)).map fun c =>
    match (s.cluster cl).resid.find? fun e => e.context == s.contextOf v.regid && e.id == c.1 with
    | some e =>
      if e.loc.getLsbD 63 = false ∧ e.loc.extractLsb' 46 12 = l then (if c.2 = 0 then (e.loc.extractLsb' 25 21).toNat else c.2) else 0
    | none => 0).sum

/-- Core `c` is the one of those that the task may be bound on that R231 chooses: the highest score, or with every score 0 the fewest
busy strands, ties to the lowest logical CORE. -/
def Chosen (s : State) (cl : Nat) (v : Task) (c : Nat) (l : BitVec 12) (new : Prop) : Prop :=
  Finds s cl v c l new ∧ (v.lcore = 0xFFFF#16 → ∀ d m p, Finds s cl v d m p → d ≠ c →
    ((∃ e x q, Finds s cl v e x q ∧ score s cl v x ≠ 0) →
      score s cl v m < score s cl v l ∨ (score s cl v m = score s cl v l ∧ l.toNat < m.toNat)) ∧
    ((∀ e x q, Finds s cl v e x q → score s cl v x = 0) →
      (idleStrands s d).length < (idleStrands s c).length ∨
        ((idleStrands s d).length = (idleStrands s c).length ∧ l.toNat < m.toNat)))

/-- Task `v` has been bound on core `c` of `s` as logical core `l`: it takes the lowest idle strands, as many as it needs. -/
def BoundOn (s t : State) (v : Task) (c : Nat) (l : BitVec 12) : Prop :=
  (∃ w, t.task? v.key = some w ∧ w.st = .waiting ∧ w.loading = true ∧ w.core = c) ∧
  (t.core c).slot = .mapped ∧ (t.core c).regid = v.regid ∧ (t.core c).lcore = l ∧
  ∀ n, (t.strand c n).task = v.key ↔ n ∈ (idleStrands s c).take v.nstrands

/-- The header of a task passes the dispatch check on core `c` (R255). -/
def HeaderGood (s : State) (v : Task) (c : Nat) : Prop := s.headerBad v.key v.regid v.hdr (s.headerAt (c / 256) v.hdr) = false

/-- No two tasks have one key, no core is listed twice, and a task that waits runs nowhere. -/
def Keyed (s : State) (v : Task) : Prop :=
  (s.tasks.map (·.key)).Nodup ∧ (s.cores.map (·.1)).Nodup ∧ v ∈ s.tasks ∧ v.key ≠ 0 ∧ ∀ c n, (s.strand c n).task ≠ v.key

/-- `t` is `u` after room has been given on a core to the task of a key, for which another was pre-empted (R274): nothing changes where
it waits no more; a core on which nothing runs and which is mapped to another region is free for it; and it goes where R231 places it. -/
def GivesRoom (u t : State) (core key : Nat) : Prop :=
  ((∀ v, u.task? key = some v → ¬ Waits v.cluster v) → t = u) ∧
  ∀ v, u.task? key = some v → Keyed u v → v.st = .waiting → v.loading = false →
    let freed : Prop := (∀ n, (u.strand core n).task = 0) ∧ (u.core core).slot = .mapped ∧ (u.core core).regid ≠ v.regid
    ∀ u', (freed → u' = u.modCore core freedCore) → (¬ freed → u' = u) →
      ((∀ c l new, ¬ Finds u' (clusterOf core) v c l new) → t = u') ∧
      ∀ c l new, Chosen u' (clusterOf core) v c l new → HeaderGood u' v c → BoundOn u' t v c l

/-- `t` is `u` after the waiting tasks of a cluster have been bound, because strands are free, in the order of R274: nothing changes
where none waits, the first of them goes where R231 places it, and nothing is pre-empted. -/
def BindsWaiting (u t : State) (cl : Nat) : Prop :=
  ((∀ v ∈ u.tasks, ¬ Waits cl v) → t = u) ∧
  (∀ v c l new, Keyed u v → v.st = .waiting → FirstWaiting id u cl v → Chosen u cl v c l new → HeaderGood u v c → BoundOn u t v c l) ∧
  (∀ v, (u.tasks.map (·.key)).Nodup → v ∈ u.tasks → ¬ Waits cl v → t.task? v.key = some v) ∧
  t.hbm = u.hbm ∧ (∀ c, (t.cluster c).pool = (u.cluster c).pool) ∧ (∀ d, (t.die d).pool = (u.die d).pool)

end Sys2Proof.Claims

/-- R55, R277, R261: TASK_END ends a draining task whose strands and handlers are gone: it has fired, its mailbox bindings go and ring 2
receives event 1 with status 0. R410: FIRING_ARRIVAL makes a firing known to a core. R287, R284, R288: ASYNC_CAUSE_DELIVERY takes the
oldest pending cause of a strand into its handler, with SLIP added and the token register of its DETAIL available again, or ends the
task where the entry can no longer be taken (R289); one behind an outstanding read waits (R368). That tasks which wait are bound in the
event that frees the strands (R274) is the model's reading (log entry 9). -/
def Obligations.TasksEndFireAndTakeAsyncCauses : Prop :=
  (∀ (key : Nat) (s : State) (v : Task), s.task? key = some v → v.st = .draining → v.core < 4096 →
    (∀ n, (s.strand v.core n).task ≠ key) → (∀ p ∈ (s.core v.core).pending, p.owner ≠ key) →
    (∀ d ∈ (s.core v.core).ingress, ∀ b, d.bound = some b → b.1 ≠ key) →
    ∃ u t e, exec (.taskEnd key) s = .next u ∧ BindsWaiting t u (clusterOf v.core) ∧ SameMemory s t ∧ (∀ d n, t.strand d n = s.strand d n) ∧
      t.task? key = some { v with st := .ended, fired := true } ∧
      (∀ m, ((t.core v.core).mailboxes.get m).valid = true → ((t.core v.core).mailboxes.get m).owner ≠ key) ∧
      (t.cluster (clusterOf v.core)).rings.get 2 = (s.cluster (clusterOf v.core)).rings.get 2 ++ [e] ∧
      e.extractLsb' 0 64 = v.tid ∧ e.extractLsb' 64 16 = BitVec.ofNat 16 v.core ∧ e.extractLsb' 88 8 = 1#8 ∧
      e.extractLsb' 96 16 = 0#16) ∧
  (∀ (core key : Nat) (s : State) (v : Task), s.task? key = some v → v.fired = true → core < 4096 → key ∉ (s.core core).firings →
    exec (.firingArrival core key) s = .next (s.modCore core fun k => { k with firings := key :: k.firings })) ∧
  ∀ (core : Nat) (strand : Fin 4) (s : State) (c : Word) (l : List Word),
    let u := s.strand core strand
    let cause := c ||| BitVec.ofNat 64 (slipField u * 2 ^ 32)
    let tok := c.extractLsb' 48 5
    u.async = c :: l → u.task ≠ 0 → u.stopped = false → u.trapvec.getLsbD 1 = false →
    (u.reads ≠ [] → exec (.asyncCauseDelivery core strand) s = .next (s.res .stutter)) ∧
    (u.reads = [] → Takes s u → ∃ t, exec (.asyncCauseDelivery core strand) s = .next t ∧ SameMemory s t ∧
      (∀ d n, d ≠ core ∨ n ≠ strand → t.strand d n = s.strand d n) ∧
      t.strand core strand =
        inHandler (if tok = 0#5 then { u with async := l } else { u with
          async := l, busy := u.busy &&& ~~~(1#32 <<< tok.toNat) }) cause
          (trapPcOf (resumeAt u .a) (resumeAt u .x))) ∧
    (∀ v, u.reads = [] → ¬ Takes s u → s.task? u.task = some v → v.core < 4096 → ∃ t, exec (.asyncCauseDelivery core strand) s = .next t ∧
      EscalatedAt core s t v cause (trapPcOf (resumeAt u .a) (resumeAt u .x)))

namespace Sys2Proof.Claims

/-- The port of a command processor stands: its die has not failed (R25, R304). -/
def PortUp (s : State) (p : Fin 2) : Prop := (s.die (if p = 0 then 0 else 15)).health ≠ .failed

/-- A region lies `n` levels below its root. -/
def AtDepth (s : State) : Nat → Region → Prop
  | 0, r => r.parent = 0
  | n + 1, r => r.parent ≠ 0 ∧ ∃ p, s.regionAt? r.parent = some p ∧ AtDepth s n p

/-- Neither a mailbox of this region nor a core under the logical CORE of its FDOM takes a record (R222). -/
def NoFaultBox (s : State) (f : Region) : Prop := f.fdom.toNat / 2 ^ 12 = 0 ∨ s.resolve f.regid (f.fdom.truncate 12) = none

end Sys2Proof.Claims

/-- R222, R253, R290, R312: ERROR_RECORD takes a record to the mailbox that its region's FDOM names, as a message of its eight words and 0,
held for a saved core; where the region does not set FDOM, names mailbox 0 or has no core there, the record goes as one of its parent does. From a
root, and for a notice to the host, it goes into the notice ring of 64 entries of a port in service and is counted in NTAIL, with vector 0, whose
data goes to its address or which is pending while masked (R305). The model's choices: a record of a destroyed region goes as one of its parent
does, a notice while NBASE is 0 is counted only, with no vector (log entry 41), and mask and pending bit of vector 0 (log entry 92). -/
def Obligations.RecordsReachTheirFaultDomain : Prop :=
  ∀ (k : Nat) (s : State) (r : Record), s.records[k]? = some r →
    let asOf (regid : Word) : Prop :=
      exec (.errorRecord k) s = exec (.errorRecord k) { s with records := s.records.set k { r with regid := regid } }
    let message (f : Region) : Delivery :=
      Delivery.mk (Fin.ofNat 16 (f.fdom.toNat / 2 ^ 12)) f.regid (r.words ++ [0#64]) (4097, 0) none 64 none
    (∀ (p : Fin 2), (r.toHost = true ∨ (s.region? r.regid = none ∧ s.gone? r.regid = none) ∨
        ∃ f, s.region? r.regid = some f ∧ f.parent = 0 ∧ f.ovr.getLsbD 10 = true ∧ NoFaultBox s f) → r.port = p.val → PortUp s p →
      let v := s.port p
      let x := v.vecs.get 0
      let host := writeCells v.host (v.nbase.toNat + 64 * (v.ntail.toNat % 64)) (r.words.flatMap fun w => natBytes 8 w.toNat)
      exec (.errorRecord k) s = .next { s with
        records := s.records.eraseIdx k
        ports := s.ports.set p (if v.nbase = 0#64 then { v with ntail := v.ntail + 1#64 }
          else if x.masked then { v with
            host := host, ntail := v.ntail + 1#64, msix := v.msix ++ [0#6], vecs := v.vecs.set 0 { x with pending := true } }
          else { v with
            host := writeCells host x.addr.toNat (natBytes 4 x.data.toNat), ntail := v.ntail + 1#64, msix := v.msix ++ [0#6] }) }) ∧
    (∀ f p n, r.toHost = false → s.region? r.regid = some f → f.parent ≠ 0 → s.regionAt? f.parent = some p → s.region? p.regid = some p →
      AtDepth s n p → n ≤ 6 → f.ovr.getLsbD 10 = false ∨ NoFaultBox s f → asOf p.regid) ∧
    (∀ g q, r.toHost = false → s.region? r.regid = none → s.gone? r.regid = some g → g.parent ≠ 0#64 → s.region? g.parent = some q →
      asOf g.parent) ∧
    ∀ f, r.toHost = false → s.region? r.regid = some f → f.ovr.getLsbD 10 = true → f.fdom.toNat / 2 ^ 12 ≠ 0 →
      (∀ c, (∀ v ∈ s.tasks, v.st ≠ .saved) → s.resolve f.regid (f.fdom.truncate 12) = some c →
        exec (.errorRecord k) s = .next ({ s with records := s.records.eraseIdx k }.modCore c fun q =>
          { q with ingress := q.ingress ++ [message f] })) ∧
      ∀ v, s.savedAt f.regid (f.fdom.truncate 12) = some v → s.resolve f.regid (f.fdom.truncate 12) ≠ none →
        exec (.errorRecord k) s = .next ({ s with records := s.records.eraseIdx k }.modTask v.key fun t =>
          { t with held := t.held ++ [HeldDelivery.message (message f)] })

/-- R293, R294, R296, R267: PREEMPT_SAVE, once everything of a stopping task is at its stopping point, saves it in the slot of its core:
its strands are idle, it waits in ring 0 with its base priority, ring 2 receives event 2 with status 0, and no byte of local SRAM or of a
pool changes. R274: the strands then go to tasks that wait, first to the one for which the task was pre-empted, for which a core on which
nothing else runs is free; that this happens in the save's own event is the model's reading (log entry 9). R295, R183, R179:
SAVE_UNIT_APPLY adds a held increment to the semaphore's word in the image, in order but for deliveries that find no room there. -/
def Obligations.StoppedTasksAreSaved : Prop :=
  (∀ (key : Nat) (s : State) (v : Task), s.task? key = some v → s.maySave v = true → key ≠ 0 → v.core < 4096 →
    let cl := clusterOf v.core
    ∃ t' t w e f, exec (.preemptSave key) s = .next t' ∧ t.task? key = some w ∧ w.forTask = 0 ∧
      (v.forTask = 0 → BindsWaiting t t' cl) ∧
      (v.forTask ≠ 0 → ∃ u, GivesRoom t u v.core v.forTask ∧ BindsWaiting u t' cl) ∧ w.st = .saved ∧ w.slotCore = v.core ∧
      w.lcore = (s.core v.core).lcore.zeroExtend 16 ∧ w.e = v.base ∧ w.waited = 0 ∧ w.yielding = false ∧ w.cluster = cl ∧
      (∀ n, w.savedMask.getLsbD n = true ↔ ∃ i : Fin 4, i.val = n ∧ (s.strand v.core i).task = key) ∧
      (∀ n, t.strand v.core n = if (s.strand v.core n).task = key then idleStrand (s.strand v.core n) else s.strand v.core n) ∧
      (∀ d n, d ≠ v.core → t.strand d n = s.strand d n) ∧
      (∀ c, (t.core c).sram = (s.core c).sram) ∧ (∀ c, (t.cluster c).pool = (s.cluster c).pool) ∧
      (∀ d, (t.die d).pool = (s.die d).pool) ∧
      (t.cluster cl).rings.get 2 = (s.cluster cl).rings.get 2 ++ [e] ∧ e.extractLsb' 0 64 = v.tid ∧
      e.extractLsb' 88 8 = 2#8 ∧ e.extractLsb' 96 16 = 0#16 ∧
      (t.cluster cl).rings.get 0 = (s.cluster cl).rings.get 0 ++ [f] ∧
      (v.hdr < 2 ^ 64 → f.extractLsb' 0 64 = BitVec.ofNat 64 v.hdr ∧ f.extractLsb' 64 64 = v.regid)) ∧
  ∀ (core k : Nat) (s : State) (v : Task) (i : Increment),
    let a := slotBase core + 0x40 + 8 * i.sem.val
    s.tasks.find? (fun x => x.st == .saved && x.slotCoreSec && x.slotCore == core && k < x.held.length) = some v →
    s.task? v.key = some v → v.held[k]? = some (.incr i) → v.stash = none → i.ref = none → i.pkt = none →
    ((∃ j ∈ v.held.take k, (∃ x, j = .incr x) ∨ ∃ a b c, j = .bytes a b c) →
      exec (.saveUnitApply core k) s = .next (s.res .stutter)) ∧
    ((∀ j ∈ v.held.take k, ∃ d, j = .message d ∧ d.token = none ∧ (16 ≤ leNat (s.hbm.bytes (slotBase core + 0x340) 8) ∨
        (d.bound = none ∧ leNat (s.hbm.bytes (slotBase core + 0x24C + 16 * d.mailbox.val) 4) % 2 = 0))) → ∃ t, exec (.saveUnitApply core k) s = .next t ∧ t.task? v.key = some { v with held := v.held.eraseIdx k } ∧
      t.hbm = s.hbm.write a (natBytes 8 (incremented (BitVec.ofNat 64 (s.hbm.readLE a 8)) i.amount).toNat) ∧
      ∀ d n, t.strand d n = s.strand d n)

namespace Sys2Proof.Claims

/-- Where a packet goes after hop entry `h` (R235). -/
def nextPlace (h : Hop) : PacketAt := if h.next.testBit 16 then .link (Fin.ofNat 16 h.next) else .core (BitVec.ofNat 12 h.next)

/-- A packet that has gone on past the entry that acted on it. -/
def goneOn (c : Coll) (p : CollPacket) : CollPacket :=
  { p with entry := p.entry + 1, at_ := nextPlace (hopAt c.image p.entry), work := false, left := [], buf := [], marks := [], upset := none }

/-- The entry has treated all bytes of the collective with packet `p`. -/
def WholeWith (c : Coll) (p : CollPacket) : Prop := c.bytesAt p.entry + packetLen (collLen c.image) p.no = collLen c.image

/-- The semaphores of a core after entry `h` (R241): with EN = 1, once all bytes are done, SEM gains LENGTH, or 1 with ONE = 1. -/
def SemAfter (s t : State) (core : Nat) (h : Hop) (len : Nat) (all : Prop) : Prop :=
  ∀ n : Fin 64, let old := (s.core core).sems.get n
    (all → h.sem.testBit 7 = true → n.val = h.sem % 64 →
      (t.core core).sems.get n = incremented old (BitVec.ofNat 64 (if h.sem.testBit 6 then 1 else len))) ∧
    (¬ all ∨ h.sem.testBit 7 = false ∨ n.val ≠ h.sem % 64 → (t.core core).sems.get n = old)

/-- The collective and its packets are no more. -/
def Over (t : State) (key : Nat) : Prop := (∀ x ∈ t.packets, x.coll ≠ key) ∧ ∀ x ∈ t.colls, x.key ≠ key

/-- R238, R241: the last piece of a packet's operand is read at an entry of a core: add, max and min send on the combined elements, copy-in
the operand, with its stamp, and after packet `no` of the origin the next one stands at entry 0; no byte of memory changes, and after the
last read of the collective the semaphore gains its amount. -/
def OperandReadAndSentOn (s : State) (k core : Nat) (c : Coll) (p : CollPacket) : Prop :=
  let h := hopAt c.image p.entry
  let len := collLen c.image
  ∀ g, p.work = true → p.left = [g] → p.upset = none → collChk c.image = false →
    let u := readCells (writeCells p.buf g.off ((s.core core).sram.bytes g.addr g.len)) 0 (packetLen len p.no)
    (h.op ∈ [1, 2, 3] → p.entry ≠ 0 → collFmt c.image ∈ [0, 1, 2, 3, 13, 14, 17, 18] →
      let f := fmtOf (collFmt c.image)
      let n := f.bytes
      ∃ t q, exec (.collHop k) s = .next t ∧ SameMemory s t ∧ (∀ d i, t.strand d i = s.strand d i) ∧
        SemAfter s t core h len (WholeWith c p) ∧
        t.packets[k]? = some q ∧ q.entry = p.entry + 1 ∧ q.at_ = nextPlace h ∧ q.no = p.no ∧ q.work = false ∧
        ∀ i, n * (i + 1) ≤ p.data.length → field q.data (n * i) n =
          codeOf f (combine f (h.op - 1) .rne (collSat c.image) (decodeVal f (field p.data (n * i) n))
            (decodeVal f (field u (n * i) n))).1 % 256 ^ n) ∧
    (h.op = 4 → (s.core core).inject.getLsbD 32 = false →
      ∃ t q, exec (.collHop k) s = .next t ∧ SameMemory s t ∧ (∀ d i, t.strand d i = s.strand d i) ∧
        SemAfter s t core h len (WholeWith c p) ∧ q = { goneOn c p with data := u, stamp := packetPair p.no u, pois := q.pois } ∧
        t.packets = s.packets.set k q ++ if p.entry = 0 ∧ p.no + 1 < packetCount len then
          [emptyPacket c.key (p.no + 1) 0 (.core (collOrigin c.image)) c.context] else [])

/-- R243: the claim of rows by the first packet at an APPEND land: with rows enough in the header at `a` FILL rises and the packet's bytes
go behind the header of the first row granted; else nothing is granted, and every packet is discarded here, the collective being over with
the last of them. That a poisoned word of the header fails the claim is the model's choice (log entry 105). -/
def RowsAreClaimed (s : State) (k core : Nat) (c : Coll) (p : CollPacket) : Prop :=
  let a := (hopAt c.image p.entry).walk % 2 ^ 22
  let len := collLen c.image
  let img := (s.core core).sram.bytes a 64
  let rows := field img 0 4
  let fill := field img 4 4
  let n := (64 + len + 4095) / 4096
  let granted : Prop := a + 64 ≤ 0x300000 ∧ img.drop 8 = List.replicate 56 0#8 ∧ 1 ≤ rows ∧ rows ≤ 767 ∧ fill + n ≤ rows ∧
    a + 64 + 4096 * rows ≤ 0x300000 ∧ (s.core core).sram.poisoned a 64 = false
  let row := a + 64 + 4096 * fill
  let first : Prop := ∀ g ∈ c.granted, g.1 ≠ p.entry
  (first → granted → ∃ t v, exec (.collHop k) s = .next t ∧ (∀ d i, t.strand d i = s.strand d i) ∧
    (t.core core).sram = (s.core core).sram.write (a + 4) (natBytes 4 (fill + n)) ∧
    t.coll? c.key = some v ∧ v.granted.find? (fun g => g.1 == p.entry) = some (p.entry, row) ∧
    t.packets = s.packets.set k { p with
      work := true, left := Sys2Proof.Machine.piecesOf 0 ((List.range (packetLen len p.no)).map fun i => row + 64 + 4096 * p.no + i) }) ∧
  ((first ∧ ¬ granted) ∨ c.granted.find? (fun g => g.1 == p.entry) = some (p.entry, 0) →
    ∃ t, exec (.collHop k) s = .next t ∧ SameMemory s t ∧ (∀ d i, t.strand d i = s.strand d i) ∧
      (∀ d, (t.core d).sems = (s.core d).sems) ∧
      (c.bytesAt p.entry + p.data.length ≠ len →
        t.packets = s.packets.eraseIdx k ∧ ∃ v, t.coll? c.key = some v ∧ v.capacity = true) ∧
      (c.bytesAt p.entry + p.data.length = len → Over t c.key ∧
        ∃ v, (collChk c.image = false → v = status 1 c.poisoned 0 0) ∧
          t.collDones = s.collDones ++ (s.participants c).map fun l => ⟨c.regid, l.1, c.collid, l.2, v⟩))

/-- The memory of a core after a completed landing has written the header of walk `w` (R241): CHUNKID, LENGTH, FMT, NUMVER and the pair. -/
def landed (m : Ram) (c : Coll) (w : Walk) (pair : Word × Word) : Ram :=
  if w.csumc then
    (((m.write w.hdr (natBytes 8 (collChunk c.image))).write (w.hdr + 8)
      (natBytes 4 (collLen c.image) ++ [BitVec.ofNat 8 (collFmt c.image), BitVec.ofNat 8 c.numver.toNat])).write (w.hdr + 0x28)
      (natBytes 8 pair.1.toNat)).write (w.hdr + 0x30) (natBytes 8 pair.2.toNat)
  else m

/-- R241, R242: the last write piece of a packet lands at a land entry with a walk of its own: its bytes are written; when all LENGTH bytes
have landed the header follows with CSUMC = 1, and the semaphore gains its amount; the packet goes on, or at the last entry it is no more,
and with the last of them completion flits leave for the origin and every participant. -/
def PacketLands (s : State) (k core : Nat) (c : Coll) (p : CollPacket) : Prop :=
  let h := hopAt c.image p.entry
  let len := collLen c.image
  let all : Prop := c.bytesAt p.entry + p.data.length = len
  ∀ g w, p.work = true → p.left = [g] → p.pois = [] → collChk c.image = false → h.op = 5 → h.walk.testBit 31 = false →
    (s.core core).hopWalk core c p.ctx p.entry = some w →
    let m := (s.core core).sram.write g.addr ((p.data.drop g.off).take g.len)
    ∃ t, exec (.collHop k) s = .next t ∧ (∀ d i, t.strand d i = s.strand d i) ∧
      (∀ d, d ≠ core → (t.core d).sram = (s.core d).sram) ∧ t.hbm = s.hbm ∧
      SemAfter s t core h len all ∧
      (¬ all → (t.core core).sram = m) ∧
      (all → (t.core core).sram = landed m c w ((c.note p.entry p.no p.data).pairAt p.entry)) ∧
      (h.next.testBit 31 = false → t.packets = s.packets.set k (goneOn c p)) ∧
      (h.next.testBit 31 = true → ¬ all → t.packets = s.packets.eraseIdx k) ∧
      (h.next.testBit 31 = true → all → Over t c.key ∧
        (c.failed = false → p.failed = false → t.collDones = s.collDones ++ (s.participants c).map fun l =>
          ⟨c.regid, l.1, c.collid, l.2, status (if c.capacity then 1 else 0) c.poisoned 0 (if c.capacity then 0 else len)⟩))

end Sys2Proof.Claims

/-- R238, R239, R241, R464, R315: COLL_HOP takes a packet on: over a link that is up, back from a peer once its link is up and has a
context, past a forward entry to the next core or link, through a copy-in or combining entry, which reads its local operand piece by piece
and increments its semaphore after the last read, and through a land entry, which writes it to its walk or to rows that it claims (R243); it waits
for a participant that has not armed, ends the region over a failed link or, with the collective, where the notation pairs differ (R236,
R292: the participant's region, log entry 46), and a packet whose collective is over is discarded. R242: COLL_COMPLETION writes the token
of an armed participant or of the origin. -/
def Obligations.CollectivePacketsHopAndComplete : Prop :=
  (∀ (k : Nat) (s : State) (p : CollPacket), s.packets[k]? = some p →
    (s.coll? p.coll = none → exec (.collHop k) s = .next { s with packets := s.packets.eraseIdx k }) ∧
    ∀ c, s.coll? p.coll = some c → s.anyFailed = false →
      let ends (regid : Word) (cause : Word) : Prop := ∀ r, s.region? regid = some r →
        ∃ t w, exec (.collHop k) s = .next t ∧ SameMemory s t ∧
          (∀ x ∈ s.tasks, x.regid = regid → ∃ y ∈ t.tasks, y.key = x.key ∧ y.st = .ended) ∧
          t.records = s.records ++ [w] ∧ w.words = noticeWords 0#64 r.regid 0 3 cause 0#64 0#64
      let intact : Prop := collChk c.image = false ∨ packetPair p.no p.data = p.stamp
      (∀ n, p.at_ = .link n →
        ((s.link n).st = 2#2 → intact →
          exec (.collHop k) s = .next { s with packets := s.packets.set k { p with at_ := .away } }) ∧
        ((s.link n).st = 3#2 → ends c.regid 19#64) ∧
        ((s.link n).st ≠ 2#2 → (s.link n).st ≠ 3#2 → exec (.collHop k) s = .next (s.res .stutter))) ∧
      (∀ e m, p.at_ = .away → s.returnAt c.context c.image p.entry = some (e, m) →
        ((s.link m).st ≠ 2#2 ∨ (s.link m).ctx = 0#64 → exec (.collHop k) s = .next (s.res .stutter)) ∧
        ((s.link m).st = 2#2 → (s.link m).ctx ≠ 0#64 → ∃ t q, exec (.collHop k) s = .next t ∧ SameMemory s t ∧
          (∀ d i, t.strand d i = s.strand d i) ∧ t.packets[k]? = some q ∧ q.entry = e + 1 ∧ q.no = p.no ∧
          q.ctx = (s.link m).ctx)) ∧
      ∀ l core, p.at_ = .core l → s.ctxTarget c.regid p.ctx l = some (.live core) →
        let h := hopAt c.image p.entry
        let armed := (s.core core).arming.find? fun a => a.armed && a.collid == c.collid && a.context == p.ctx
        (∀ a, p.work = false → armed = some a → a.pair ≠ c.pair → ends a.regid 15#64 ∧
          ∀ t, exec (.collHop k) s = .next t → Over t c.key) ∧
        (p.work = false → (∀ a, armed = some a → a.pair = c.pair) → h.op = 0 → intact →
          exec (.collHop k) s = .next { s with packets := s.packets.set k (goneOn c p) }) ∧
        (p.work = false → armed = none → h.op ≠ 0 → h.walk.testBit 31 = false → core ≠ c.origin →
          exec (.collHop k) s = .next (s.res .stutter)) ∧
        (∀ w, p.work = false → (∀ a, armed = some a → a.pair = c.pair) → (core = c.origin ∨ armed ≠ none) → h.op ∈ [1, 2, 3, 4] →
          intact → (s.core core).hopWalk core c p.ctx p.entry = some w →
          exec (.collHop k) s = .next { s with packets := s.packets.set k { p with
            work := true, left := operandPieces c w p.no } }) ∧
        (∀ w, p.work = false → (∀ a, armed = some a → a.pair = c.pair) → (core = c.origin ∨ armed ≠ none) → h.op = 5 →
          h.walk.testBit 31 = false → intact → (s.core core).hopWalk core c p.ctx p.entry = some w →
          exec (.collHop k) s = .next { s with packets := s.packets.set k { p with
            work := true, left := Sys2Proof.Machine.piecesOf 0 (w.addrsAt (4096 * p.no) (packetLen (collLen c.image) p.no)) } }) ∧
        (p.work = false → (∀ a, armed = some a → a.pair = c.pair) → h.op = 5 → h.walk.testBit 31 = true → intact →
          RowsAreClaimed s k core c p) ∧
        OperandReadAndSentOn s k core c p ∧ PacketLands s k core c p) ∧
  ∀ (core k : Nat) (s : State) (d : CollDone), s.collDones[k]? = some d →
    s.ctxTarget d.regid d.context d.lcore = some (.live core) →
    let v := s.core core
    (∀ a, v.originCmd d = none → v.arming.find? (fun a => a.armed && a.collid == d.collid && a.context == d.context) = some a →
      (∀ x ∈ s.tasks, x.key = a.task → x.st ≠ .saved) →
      ∃ t, exec (.collCompletion core k) s = .next t ∧ SameMemory s t ∧ t.collDones = s.collDones.eraseIdx k ∧
        (t.core core).arming = v.arming.filter (fun b => b ≠ a) ∧ Tokened s t core a.strand a.task a.tok d.status) ∧
    ∀ c, v.originCmd d = some c → ∃ t, exec (.collCompletion core k) s = .next t ∧ SameMemory s t ∧
      t.collDones = s.collDones.eraseIdx k ∧ Finished s t core c d.status

namespace Sys2Proof.Claims

/-- Register x-r of a supervisor: x0 reads 0. -/
def supX (u : Supervisor) (r : BitVec 5) : Word := if r = 0#5 then 0#64 else u.x.get r.toFin

/-- The supervisor of the acting cluster. -/
def mySup (s : State) : Supervisor := (s.cluster s.cur.cluster).sup

/-- A supervisor word leaves `w`, writes `v` to D, and goes to the next word, counted in minstret (log entry 7). -/
def SupGives (i : Instr) (s w : State) (d : BitVec 5) (v : Word) : Prop :=
  exec i s = .next ((w.modCluster s.cur.cluster fun k =>
    { k with sup := { k.sup with x := if d = 0#5 then k.sup.x else k.sup.x.set d.toFin v, pc := k.sup.pc + 4#64,
                                 minstret := k.sup.minstret + 1#64 } }).res .issued)

/-- A supervisor word takes exception `cause` with `tval`: in M-mode, or in S-mode where medeleg says so and the hart was below
M-mode (R265); the entry is that of the RISC-V privileged architecture, the model's assumption 7. -/
def SupTraps (i : Instr) (s : State) (cause : Nat) (tval : Word) : Prop :=
  (((mySup s).mode = .m ∨ (mySup s).medeleg.getLsbD cause = false) → ∃ st, exec i s = .next ((s.modCluster s.cur.cluster fun k =>
    { k with sup := { k.sup with mcause := BitVec.ofNat 64 cause, mtval := tval, mepc := k.sup.pc, mstatus := st, mode := .m,
                                 pc := k.sup.mtvec &&& ~~~3#64 } }).res (.trapped 0#22 cause 0#16))) ∧
  ((mySup s).mode ≠ .m → (mySup s).medeleg.getLsbD cause = true → ∃ st, exec i s = .next ((s.modCluster s.cur.cluster fun k =>
    { k with sup := { k.sup with scause := BitVec.ofNat 64 cause, stval := tval, sepc := k.sup.pc, mstatus := st, mode := .s,
                                 pc := k.sup.stvec &&& ~~~3#64 } }).res (.trapped 0#22 cause 0#16)))

/-- In a turn of its own the supervisor of cluster `c`, of a die in service, stands at a word of its private SRAM (R17). -/
def SupRuns (s : State) (rest : List Turn) (c : Nat) : Prop :=
  s.turns = .supervisor c :: rest ∧ c < 64 ∧ (s.die (c / 4)).health ∈ [.healthy, .degraded] ∧
    (s.cluster c).sup.pc.toNat + 4 ≤ 0x80000

/-- The state in which that turn is taken. -/
def supActing (s : State) (rest : List Turn) (c : Nat) : State :=
  { s with turns := rest, tick := s.tick + 1, cur := { s.cur with cluster := c, res := .none } }

/-- The turn of the supervisor of cluster `c` takes exception `cause` with `tval` in M-mode (log entry 7). -/
def SupStepTraps (s : State) (rest : List Turn) (c cause : Nat) (tval : Word) : Prop :=
  ∃ st, step s = .next (((supActing s rest c).modCluster c fun k =>
    { k with sup := { k.sup with mcause := BitVec.ofNat 64 cause, mtval := tval, mepc := k.sup.pc, mstatus := st, mode := .m,
                                 pc := k.sup.mtvec &&& ~~~3#64 } }).res (.trapped 0#22 cause 0#16))

/-- Words of the RV64GC base set, whose effects are those of the RISC-V architecture (log entry 8): `ADDI x10, x10, 1` writes x10,
`SD x11, 0(x10)` writes eight aligned bytes of the private SRAM, and ECALL takes exception 8, 9 or 11 of its mode, in M-mode where
medeleg does not send it to S-mode. -/
def BaseWords : Prop :=
  ∀ (s : State) (rest : List Turn) (c : Nat), SupRuns s rest c →
    let u := (s.cluster c).sup
    let at_ (w : Nat) : Prop := readCells u.sram u.pc.toNat 4 = natBytes 4 w
    let goes (m : Supervisor) : State :=
      ({ supActing s rest c with free := s.free + 1 }.modCluster c fun k =>
        { k with sup := { m with pc := u.pc + 4#64, minstret := u.minstret + 1#64 } }).res .issued
    (at_ 0x00150513 → step s = .next (goes { u with x := u.x.set 10 (u.x.get 10 + 1#64) })) ∧
    (at_ 0x00B53023 → (u.x.get 10).toNat % 8 = 0 → (u.x.get 10).toNat + 8 ≤ 0x80000 →
      step s = .next ((goes u).modCluster c fun k =>
        { k with sup := { k.sup with sram := writeCells k.sup.sram (u.x.get 10).toNat (natBytes 8 (u.x.get 11).toNat) } })) ∧
    ∀ m ∈ [(Mode.u, 8), (.s, 9), (.m, 11)], at_ 0x00000073 → u.mode = m.1 → u.mode = .m ∨ u.medeleg.getLsbD m.2 = false →
      SupStepTraps s rest c m.2 0#64

/-- A multiple of 32 whose 32 bytes lie in the private SRAM of 512 KiB (R266, R270). -/
def PrivateRecord (a : Word) : Prop := a.toNat % 32 = 0 ∧ a.toNat + 32 ≤ 0x80000

/-- A core whose slot is mapped to region `regid` as `lcore` (R262), cleared first when its context changes (R261). -/
def mappedCore (k : Core) (ctx : Word) (lcore : BitVec 12) (regid : Word) : Core :=
  { (if ctx = k.lastCtx then k else { k with
      sram := Ram.empty, planes := Vector.replicate 4 ⟨0#131072, 0#2, false⟩, sems := Vector.replicate 64 0#64,
      mailboxes := Vector.replicate 16 ⟨false, 0#32, 0#32, 0#32, 0, false⟩, conflicts := 0#64, loaded := none,
      arming := k.arming.filter (·.armed) }) with
    slot := .mapped, regid := regid, lcore := lcore, lastCtx := ctx }

end Sys2Proof.Claims

/-- R265: the four words of the extension raise illegal instruction in U-mode. R266: RFCH takes the oldest entry of a ring into private
SRAM, D = 1, or D = 0 for an empty ring. R269: SGWT returns the wanted signals that are pending and
clears those among bits 4 to 7, and waits while none is. R270, R264: DISP hands a record over, here a free and a map record, D = 0,
and D = 1 where R264 forbids it. Each raises its cause 24, 26 or 27 with the value at fault. Three words of the RV64GC base set run from
private SRAM (R17); what they do is taken from the RISC-V architecture (log entries 7 and 8). -/
def Obligations.SupervisorWords : Prop :=
  BaseWords ∧ ∀ (b a d : BitVec 5) (s : State),
    let u := mySup s
    let va := supX u a
    let vb := supX u b
    let cl := s.cur.cluster
    (u.mode = .u → ∀ i ∈ [(Instr.rfch b a d, 0), (.xfld b a d, 1), (.sgwt b a d, 2), (.disp b a d, 3)],
      SupTraps i.1 s 2 (BitVec.ofNat 64 (0x0B + d.toNat * 2 ^ 7 + i.2 * 2 ^ 12 + a.toNat * 2 ^ 15 + b.toNat * 2 ^ 20))) ∧
    (u.mode ≠ .u →
      (3 < va.toNat → SupTraps (.rfch b a d) s 24 va) ∧
      (va.toNat ≤ 3 → ¬ PrivateRecord vb → SupTraps (.rfch b a d) s 24 vb) ∧
      (∀ r : Fin 4, va.toNat = r.val → PrivateRecord vb →
        ((s.cluster cl).rings.get r = [] → SupGives (.rfch b a d) s s d 0#64) ∧
        ∀ x l, (s.cluster cl).rings.get r = x :: l → SupGives (.rfch b a d) s (s.modCluster cl fun k =>
          { k with rings := k.rings.set r l
                   sup := { k.sup with sram := writeCells k.sup.sram vb.toNat (natBytes 32 x.toNat) } }) d 1#64) ∧
      (∀ p : Word, (∀ i : Fin 4, p.getLsbD i.val = !((s.cluster cl).rings.get i).isEmpty) →
        (∀ i, 4 ≤ i → p.getLsbD i = (s.cluster cl).events.getLsbD i) →
        (b ≠ 0#5 → SupTraps (.sgwt b a d) s 26 vb) ∧
        (b = 0#5 → va = 0#64 ∨ 256 ≤ va.toNat → SupTraps (.sgwt b a d) s 26 va) ∧
        (b = 0#5 → va ≠ 0#64 → va.toNat < 256 → p &&& va = 0#64 → exec (.sgwt b a d) s = .next (s.res .waiting)) ∧
        (b = 0#5 → va.toNat < 256 → p &&& va ≠ 0#64 → SupGives (.sgwt b a d) s
          (s.modCluster cl fun k => { k with events := k.events &&& ~~~((p &&& va).truncate 8) }) d (p &&& va))) ∧
      (¬ PrivateRecord va → SupTraps (.disp b a d) s 27 va) ∧
      (PrivateRecord va →
        let l := readCells u.sram va.toNat 32
        let core := vb.toNat
        (l.head? = some 0#8 → SupTraps (.disp b a d) s 27 va) ∧
        (∀ lc regid, l = [3#8, 0#8] ++ natBytes 2 lc ++ List.replicate 12 0#8 ++ natBytes 8 regid ++ List.replicate 8 0#8 →
          lc < 0x1000 → regid < 2 ^ 64 →
          (¬ (Usable s core ∧ clusterOf core = cl) → SupTraps (.disp b a d) s 27 vb) ∧
          (Usable s core → clusterOf core = cl → (s.core core).slot = .mapped → SupGives (.disp b a d) s s d 1#64) ∧
          (Usable s core → clusterOf core = cl → (s.core core).slot ≠ .mapped → SupGives (.disp b a d) s
            (s.modCore core fun k => mappedCore k (s.contextOf (BitVec.ofNat 64 regid)) (BitVec.ofNat 12 lc) (BitVec.ofNat 64 regid))
            d 0#64)) ∧
        (l = 4#8 :: List.replicate 31 0#8 → Usable s core → clusterOf core = cl →
          ((∃ n, (s.strand core n).task ≠ 0) → SupGives (.disp b a d) s s d 1#64) ∧
          ((∀ n, (s.strand core n).task = 0) → SupGives (.disp b a d) s (s.modCore core freedCore) d 0#64))))

/-- R268: XFLD writes floor(rs1 / 2^lo) mod 2^width to rd, zero-extended, for lo and the width minus 1 in bits 5:0 and 11:6 of rs2;
FIELD-FAULT (cause 25 with rs2 as the value at fault in mcause
and mtval or in scause and stval, nothing else of the machine written) when rs2 sets a bit above 11 or lo + width > 64. -/
def Obligations.XfldExtractsAField : Prop :=
  ∀ (b a d : BitVec 5) (s : State), (mySup s).mode ≠ .u →
    let x := (supX (mySup s) a).toNat
    let f := supX (mySup s) b
    let lo := f.toNat % 64
    let width := f.toNat / 64 % 64 + 1
    (2 ^ 12 ≤ f.toNat ∨ 64 < lo + width → ∃ u, exec (.xfld b a d) s = .next ((s.modCluster s.cur.cluster fun k =>
        { k with sup := u }).res (.trapped 0#22 25 0#16)) ∧
      u.x = (mySup s).x ∧ u.sram = (mySup s).sram ∧ ((u.mcause = 25#64 ∧ u.mtval = f) ∨ (u.scause = 25#64 ∧ u.stval = f))) ∧
    (f.toNat < 2 ^ 12 → lo + width ≤ 64 → SupGives (.xfld b a d) s s d (BitVec.ofNat 64 (x / 2 ^ lo % 2 ^ width)))

/-- R264, R261, R293: a map record maps the slot of a core, a free record frees it while its strands are idle, and a pre-empt record
stops the one task of the named strands; a record whose requirement does not hold, or for a die out of service, changes nothing; a
number outside the package, of 4,096 cores (R11), names no agent (log entry 11). A core that its region holds for RESERVED is not freed (R254, R458), and one that is freed goes to the
tasks that wait (R274). -/
def Obligations.BindRecordsMapFreeAndStop : Prop :=
  ∀ (core : Nat) (lcore : BitVec 12) (regid : Word) (m : BitVec 4) (s : State),
    (4096 ≤ core → ∀ i ∈ [Instr.bindMap core lcore regid, .bindFree core, .bindPreempt core m, .bindStart core m 0 regid],
      exec i s = .fault .noSuchAgent) ∧
    (Usable s core → (s.core core).slot ≠ .mapped →
      exec (.bindMap core lcore regid) s = .next (s.modCore core fun k => mappedCore k (s.contextOf regid) lcore regid)) ∧
    (core < 4096 → ¬ Usable s core → ∀ i ∈ [Instr.bindMap core lcore regid, .bindFree core, .bindPreempt core m, .bindStart core m 0 regid],
      exec i s = .next (s.res .stutter)) ∧
    (core < 4096 → (s.core core).slot = .mapped → exec (.bindMap core lcore regid) s = .next (s.res .stutter)) ∧
    (Usable s core → (∀ n, (s.strand core n).task = 0) → (s.core core).regid ∉ (s.core core).heldFor →
      ∃ t, exec (.bindFree core) s = .next t ∧ BindsWaiting (s.modCore core freedCore) t (clusterOf core)) ∧
    (core < 4096 → (s.core core).regid ∈ (s.core core).heldFor → exec (.bindFree core) s = .next (s.res .stutter)) ∧
    (core < 4096 → (∃ n, (s.strand core n).task ≠ 0) → exec (.bindFree core) s = .next (s.res .stutter)) ∧
    (∀ v, Usable s core → m ≠ 0#4 → v.core = core → v.key ≠ 0 → s.task? v.key = some v →
      (∀ n : Fin 4, m.getLsbD n.val = true → (s.strand core n).task = v.key) →
      ∃ t, exec (.bindPreempt core m) s = .next t ∧ SameMemory s t ∧
        t.task? v.key = some { v with st := .stopping, why := 0 } ∧
        ∀ c n, t.strand c n = if c = core ∧ (s.strand core n).task = v.key then { s.strand core n with stopped := true }
          else s.strand c n) ∧
    (core < 4096 → (∃ n : Fin 4, m.getLsbD n.val = true ∧ (s.strand core n).task = 0) →
      exec (.bindPreempt core m) s = .next (s.res .stutter))

namespace Sys2Proof.Claims

/-- Task `v` has started on core `core` from a loader message and the object `o` (R322, R27, R30, R121, R93): its mailboxes are bound
and the i-th strand of the mask, ascending, stands at the entry point as the table of R27 says, with ARG in a1; no byte of memory changes.
What version a message names with 4 to 15 is open (the model's assumption 82). -/
def Started (s t : State) (core : Nat) (v : Task) (m : LoadMsg) (o : List Byte) : Prop :=
  let e := objEntry o 4 m.taskIdx
  let b := m.bases o
  let boxes := (List.range (field e 10 2)).map fun i => objEntry o 5 (field e 8 2 + i)
  let ns := (List.finRange 4).filter fun n => m.mask.getLsbD n.val
  SameMemory s t ∧
  (∃ w, t.task? v.key = some w ∧ w.st = .running ∧ w.core = core ∧ w.strands = m.mask ∧ w.tid = v.tid ∧ w.regid = v.regid ∧
    w.started = true ∧ w.loading = false ∧ w.textBase = m.textBase ∧ w.textEnd = m.textEnd) ∧
  (t.core core).loaded = some (s.contextOf m.regid, m.code, m.textBase) ∧
  ((∀ x ∈ boxes, field x 0 1 < 16) → ∀ (i : Nat) (x : List Byte), boxes[i]? = some x →
    (∀ (j : Nat) (y : List Byte), i < j → boxes[j]? = some y → field y 0 1 ≠ field x 0 1) →
    (t.core core).mailboxes.get (Fin.ofNat 16 (field x 0 1)) =
      ⟨true, BitVec.ofNat 32 (b.data + field x 8 4), BitVec.ofNat 32 (field x 12 4), BitVec.ofNat 32 (b.text + field x 4 4), v.key, true⟩) ∧
  (∃ nv, (m.numver < 4 → nv = if m.numver ≠ 0 then m.numver else if field e 5 1 ≠ 0 then field e 5 1
      else ((s.region? m.regid).map fun r => (s.inherit 1 r).numver).getD 3) ∧ (4 ≤ m.numver → nv ∈ [1, 2, 3]) ∧
    ∀ i n, ns[i]? = some n →
    let old := s.strand core n
    let entry := BitVec.ofNat 22 (b.text + field e 0 4)
    t.strand core n =
      { Strand.reset with
        sbuf := old.sbuf, sbNext := old.sbNext, rdNext := old.rdNext, semops := old.semops, resops := old.resops, areg := (Vector.replicate 32 0#64).set 1 m.arg,
        slipw := BitVec.ofNat 64 (field e 6 2), numver := BitVec.ofNat 64 nv, taskid := v.tid,
        strandCsr := BitVec.ofNat 64 (i + n.val * 4 + (ns.length - 1) * 16), pcA := entry, pcX := entry, task := v.key }) ∧
  ∀ c n, c ≠ core ∨ m.mask.getLsbD n.val = false → t.strand c n = s.strand c n

/-- A start is refused (R271): no byte of memory changes, the strands taken for the task are idle and no other changes, the task has
ended, ring 2 receives event 3 with the status, and a notice with event 6 goes to the fault domain. -/
def Refused (s t : State) (core key : Nat) (tid regid : Word) (status : Nat) : Prop :=
  SameMemory s t ∧
  (∀ c n, t.strand c n = if c = core ∧ (s.strand c n).task = key then idleStrand (s.strand c n) else s.strand c n) ∧
  (∃ w, t.task? key = some w ∧ w.st = .ended) ∧
  (∃ e, (t.cluster (clusterOf core)).rings.get 2 = (s.cluster (clusterOf core)).rings.get 2 ++ [e] ∧
    e.extractLsb' 0 64 = tid ∧ e.extractLsb' 88 8 = 3#8 ∧ e.extractLsb' 96 16 = BitVec.ofNat 16 status) ∧
  ∃ r, t.records = s.records ++ [r] ∧ r.words = noticeWords tid regid (s.core core).lcore.toNat 6 (BitVec.ofNat 64 status) 0#64 0#64

/-- Task `v` has been bound on the strands `m` of a core (R264): they are its own and stopped, ring 0 has lost it, and the loader of the
core is asked for it with message `msg`, behind what it has to do already. -/
def Bound (s t : State) (core : Nat) (v : Task) (m : BitVec 4) (msg : LoadMsg) : Prop :=
  SameMemory s t ∧ t.task? v.key = some { v with loading := true, core := core, strands := m } ∧
  (∀ c n, t.strand c n = if c = core ∧ m.getLsbD n.val = true then { idleStrand (s.strand c n) with task := v.key, stopped := true }
    else s.strand c n) ∧
  (t.core core).jobs = (s.core core).jobs ++ [⟨v.key, false, msg, none, .asked, [], [], [], 0⟩] ∧
  (t.cluster v.cluster).rings.get 0 = ((s.cluster v.cluster).rings.get 0).erase (ring0Entry v)

/-- The first loader of a core has become `j`. -/
def withJob (s : State) (core : Nat) (j : LoadJob) : State := s.modCore core fun k => { k with jobs := j :: k.jobs.drop 1 }

/-- The core is mapped to a region that stands. -/
def Mapped (s : State) (core : Nat) (regid : Word) : Prop :=
  s.region? regid ≠ none ∧ (s.core core).slot ≠ .free ∧ (s.core core).regid = regid

/-- The status with which the loader of a task ends (R322): the one it found, or 3 where its region or task has ended since. -/
def FinalStatus (s : State) (core : Nat) (j : LoadJob) (n : Nat) : Prop :=
  ((¬ Mapped s core j.msg.regid ∨ ∀ v, s.task? j.key = some v → v.st = .ended) → j.status = 0 → n = 3) ∧
  (Mapped s core j.msg.regid → (∃ v, s.task? j.key = some v ∧ v.st ≠ .ended) → n = j.status) ∧ (j.status ≠ 0 → n = j.status)

end Sys2Proof.Claims

/-- R320, R322, R96, R94, R182: the loader of a core, which begins nothing while a command of the core is held (R209), reads the 64
bytes of the object's header and then the rest, piece by piece, stops with status 1 on a poisoned word or a bad object, with status 2
where the request does not fit the core, with status 3 where the core is not of the message's region, and else writes text, data and
walk table piece by piece, changing no other byte; where the text is in place only its relocations are made again. -/
def Sys2Proof.Claims.LoaderReadsChecksAndWrites : Prop :=
  ∀ (core k : Nat) (s : State) (j : LoadJob) (l : List LoadJob),
    let off := j.msg.code.toNat % 2 ^ 60
    let tag := j.msg.code.toNat / 2 ^ 60
    let sp := s.loadSpace core j.msg.regid
    let stops (n : Nat) : Prop :=
      s.turn (.load core k) = .next (withJob (s.res .issued) core { j with phase := .done, status := n, left := [], out := [] })
    Usable s core → (s.core core).jobs = j :: l →
    (j.phase = .asked →
      ((∃ c ∈ (s.core core).sq, c.phase = .held) → s.turn (.load core k) = .next (s.res .stutter)) ∧
      ((∀ c ∈ (s.core core).sq, c.phase ≠ .held) →
        (¬ Mapped s core j.msg.regid → stops 3) ∧
        (Mapped s core j.msg.regid → tag ≠ 3 → tag ≠ 5 → stops 1) ∧
        (Mapped s core j.msg.regid → tag = 3 → off + 64 ≤ 2 ^ 52 →
          s.turn (.load core k) = .next (withJob (s.res .issued) core { j with phase := .head, left := readPieces 0 off 64 })))) ∧
    (∀ p w loc, j.phase = .head ∨ j.phase = .body → j.left[k]? = some p →
      (s.res .issued).reach sp core tag p.addr false = (w, .loc loc) → (∀ n, loc.place ≠ .peer n) → (∀ n, loc.place ≠ .host n) →
      let bytes := readCells (w.ram loc.place).cells loc.addr p.len
      let j1 := { j with left := j.left.eraseIdx k, data := writeCells j.data p.off bytes }
      let h := readCells j1.data 0 64
      let o := readCells j1.data 0 (objExtent h)
      let b := j.msg.bases o
      (¬ Clean (w.ram loc.place) loc.addr p.len → s.turn (.load core k) = .next (withJob w core
        { j with left := [], out := [], phase := .done, status := 1 })) ∧
      (Clean (w.ram loc.place) loc.addr p.len →
        (j1.left ≠ [] → s.turn (.load core k) = .next (withJob w core j1)) ∧
        (j1.left = [] → j.phase = .head → objHeadBad h = true →
          s.turn (.load core k) = .next (withJob w core { j1 with left := [], out := [], phase := .done, status := 1 })) ∧
        (j1.left = [] → j.phase = .head → objHeadBad h = false → tag = 3 → off + objExtent h ≤ 2 ^ 52 → 64 < objExtent h →
          (j.boot = false → j.resume = none → j.msg.textEnd < j.msg.textBase + field h 12 4 →
            s.turn (.load core k) = .next (withJob w core { j1 with left := [], out := [], phase := .done, status := 5 })) ∧
          (j.boot = true ∨ j.msg.textBase + field h 12 4 ≤ j.msg.textEnd →
            s.turn (.load core k) = .next (withJob w core
              { j1 with phase := .body, left := readPieces 64 (off + 64) (objExtent h - 64) }))) ∧
        (j1.left = [] → j.phase = .body →
          (objBad o = true ∨ objLoaded o b = none →
            s.turn (.load core k) = .next (withJob w core { j1 with left := [], out := [], phase := .done, status := 1 })) ∧
          ∀ v, objBad o = false → objLoaded o b = some v → j.resume = none →
            (w.misfit core j.key j.msg o = true →
              s.turn (.load core k) = .next (withJob w core { j1 with left := [], out := [], phase := .done, status := 2 })) ∧
            (w.misfit core j.key j.msg o = false → w.task? w.nextTask = none → core < 4096 →
              ∃ t j2, s.turn (.load core k) = .next t ∧ (t.core core).jobs = j2 :: l ∧ SameMemory w t ∧
                (t.core core).loaded = none ∧ j2.msg = j.msg ∧ j2.data = j1.data ∧ j2.status = j.status ∧ j2.left = [] ∧
                (j2.phase = if j2.out = [] then .done else .write) ∧
                ((w.core core).loaded ≠ some (w.contextOf j.msg.regid, j.msg.code, j.msg.textBase) →
                  j2.out.flatten = cellsAt b.text v.text ++ cellsAt b.data v.data ++ cellsAt b.walks v.walks) ∧
                ((w.core core).loaded = some (w.contextOf j.msg.regid, j.msg.code, j.msg.textBase) →
                  ∃ r : List Host.Cell, j2.out.flatten = r ++ cellsAt b.data v.data ++ cellsAt b.walks v.walks ∧
                    ∀ x ∈ r, ∃ i, i < objCount o 3 ∧
                      let e := objEntry o 3 i
                      field e 4 1 = 0 ∧ b.text + field e 0 4 ≤ x.1 ∧ x.1 < b.text + field e 0 4 + relocLen e) ∧
                (j.boot = false → j2.key = j.key ∧ t.tasks = w.tasks ∧ ∀ c n, t.strand c n = w.strand c n) ∧
                (j.boot = true → j2.key = w.nextTask ∧ t.nextTask = w.nextTask + 1 ∧
                  (∃ x, t.task? w.nextTask = some x ∧ x.tid = j.msg.tid ∧ x.regid = j.msg.regid ∧ x.loading = true) ∧
                  ∀ n : Fin 4, j.msg.mask.getLsbD n.val = true → (t.strand core n).task = w.nextTask ∧ (t.strand core n).stopped = true))))) ∧
    ∀ p, j.phase = .write → j.out[k]? = some p → core < 4096 →
      ∃ t j2, s.turn (.load core k) = .next t ∧ SramOnly s t core ((s.core core).sram.store p) ∧ (t.core core).jobs = j2 :: l ∧
        (∀ c n, t.strand c n = s.strand c n) ∧
        j2 = { j with out := j.out.eraseIdx k, phase := if j.out.eraseIdx k = [] then .done else .write }

/-- R264, R271, R274, R322: BIND_START on a mapped slot with its named strands idle binds the waiting task of its header in its turn, and
asks the loader for it, or refuses it with status 5 for its header; once the loader is done it starts the task, or refuses it with the
loader's status. R320, R322, R323: LOADER_MESSAGE starts the task of the oldest boot message once the loader is done, or gives only
BOOTSTATUS its status. That the loader begins nothing, for a start record or a message, while a command of the core is held is the
model's choice (log entry 98). -/
def Obligations.TasksStartAndAreRefused : Prop :=
  Claims.LoaderReadsChecksAndWrites ∧
  (∀ (core hdr : Nat) (m : BitVec 4) (s : State) (v : Task),
    let k := s.core core
    let h := s.headerAt (core / 256) hdr
    let msg : LoadMsg := ⟨hdrCode h, hdrArg h, hdrTaskIdx h, m, hdrNumver h, hdrTextBase h, hdrDataBase h, hdrTid h, v.regid, 0#64,
      hdrTextEnd h⟩
    Usable s core → (∀ r ∈ s.retiring, r.1 ≠ core / 256) → k.slot = .mapped → k.regid = v.regid → m ≠ 0#4 →
    (∀ n : Fin 4, m.getLsbD n.val = true → (s.strand core n).task = 0) → (∀ n, (s.strand core n).task ≠ v.key) →
    ((List.finRange 4).filter fun n => m.getLsbD n.val).length = (if h = [] then v.nstrands else hdrStrands h) →
    s.tasks.find? (fun t => t.hdr == hdr && t.regid == v.regid && t.waits) = some v →
    (∀ t ∈ s.tasks, t.hdr = hdr → t.regid = v.regid → t.st ≠ .dependent) → s.task? v.key = some v → v.st = .waiting →
    (∀ j, (s.core core).jobs.head? = some j → j.boot = true ∨ j.phase ≠ .done) →
    s.isNext (clusterOf core) core v.key = true →
    (s.headerBad v.key v.regid v.hdr h = true → ∃ t, exec (.bindStart core m hdr v.regid) s = .next t ∧
      Refused s t core v.key v.tid v.regid 5) ∧
    (s.headerBad v.key v.regid v.hdr h = false → ∃ t, exec (.bindStart core m hdr v.regid) s = .next t ∧ Bound s t core v m msg)) ∧
  (∀ (core hdr : Nat) (m : BitVec 4) (regid : Word) (s : State) (v : Task) (j : LoadJob) (l : List LoadJob) (n : Nat),
    Usable s core → (s.core core).jobs = j :: l → j.boot = false → j.phase = .done → j.resume = none → j.msg.mask = m →
    s.task? j.key = some v → v.hdr = hdr → v.regid = regid → FinalStatus s core j n →
    (n ≠ 0 → ∃ t, exec (.bindStart core m hdr regid) s = .next t ∧ Refused s t core v.key v.tid v.regid n ∧ (t.core core).jobs = l) ∧
    (n = 0 → ∃ t, exec (.bindStart core m hdr regid) s = .next t ∧ Started s t core v j.msg j.object ∧ (t.core core).jobs = l)) ∧
  ∀ (core : Nat) (s : State) (r : List Word) (p : Fin 2) (x n : Nat) (rest : List (List Word × Nat × Nat)) (j : LoadJob) (l : List LoadJob),
    (s.core core).loader = (r, p.val, x) :: rest → (s.core core).jobs = j :: l → j.boot = true →
    (j.phase ≠ .done → exec (.loaderMessage core) s = .next (s.res .stutter)) ∧
    (j.phase = .done → j.msg.reply = 0#64 → core < 4096 → FinalStatus s core j n →
      (n ≠ 0 → exec (.loaderMessage core) s = .next (((s.modCore core fun k => { k with jobs := l }).modCore core fun k =>
        { k with loader := rest }).modPort p fun q => { q with bootstatus := BitVec.ofNat 64 (n * 16) })) ∧
      ∀ v, n = 0 → s.task? j.key = some v →
        ∃ t, exec (.loaderMessage core) s = .next t ∧ Started s t core v j.msg j.object ∧ (t.core core).loader = rest ∧
          (t.core core).jobs = l ∧ (t.port p).bootstatus = 0#64)

namespace Sys2Proof.Claims

/-- The promotion of a waiting task at the next boundary of its cluster (R273): it has waited one tempo more, and its effective priority
has risen once for every eight, to at most 7. -/
def promoted (s : State) (cl : Nat) (v : Task) : Task :=
  let n := (s.cluster cl).boundary - v.since
  { v with waited := n, e := min (v.base + n / 8) 7 }

/-- The supervisor of the cluster runs (R25), no save for a due task is still to be made there, and no gang waits for the arbiter there. -/
def BoundaryRuns (s : State) (cl : Nat) : Prop :=
  cl < 64 ∧ (s.die (cl / 4)).health ∈ [.healthy, .degraded] ∧
  (∀ v ∈ s.tasks, v.st = .stopping → clusterOf v.core = cl → v.forTask = 0 ∨
    ∀ x, s.task? v.forTask = some x → ¬ (DueTask x ∧ x.st ∈ [.waiting, .saved] ∧ x.loading = false)) ∧
  ((∀ g ∈ s.gangs, g.st ≠ 0) ∨ (cl ≠ 0 ∧ cl ≠ 60))

/-- Task `u` may be pre-empted for the waiting task `v` (R274, R443): it runs on a core of the cluster that `v` could use, not one held
for another region, and it yields to one of `v`'s effective priority, or `v` is due, or it has a lower base priority and has run a
tempo. -/
def MayPreempt (s : State) (cl : Nat) (v u : Task) : Prop :=
  let k := s.core u.core
  u ∈ s.tasks ∧ u.st = .running ∧ clusterOf u.core = cl ∧ Usable s u.core ∧ (∀ r ∈ s.retiring, r.1 ≠ u.core / 256) ∧
  k.heldOk v.regid = true ∧
  (v.lcore ≠ 0xFFFF#16 → k.slot ≠ .free ∧ k.regid = v.regid ∧ k.lcore.zeroExtend 16 = v.lcore) ∧
  (v.lcore = 0xFFFF#16 → (k.slot = .mapped ∧ k.regid = v.regid) ∨ ∃ r, s.region? v.regid = some r ∧
    (s.inherit 3 r).clusters.getLsbD cl = true ∧ s.heldCores v.regid < (s.inherit 4 r).cores) ∧
  ((u.yielding = true ∧ u.base ≤ v.e) ∨ DueTask v ∨ (u.base < v.base ∧ 1 ≤ u.ran))

/-- Of two that may be pre-empted for `v`, `a` is (R274, R443): one that yields first, then the lowest base priority, then the longest
running, then the highest physical CORE. -/
def PreemptFirst (v a b : Task) : Prop :=
  let y (u : Task) : Prop := u.yielding = true ∧ u.base ≤ v.e
  (y a ∧ ¬ y b) ∨ ((y a ↔ y b) ∧
    (a.base < b.base ∨ (a.base = b.base ∧ (b.ran < a.ran ∨ (b.ran = a.ran ∧ b.core < a.core)))))

end Sys2Proof.Claims

/-- R274, R231, R273: at a boundary, the tasks that wait in the cluster having been promoted, the first of them in the order due, then e,
then earliest start of waiting, then TASKID goes where R231 places it; where it finds no core, one task is pre-empted for it, the best of
the candidates. The logical CORE of a core newly mapped is its own number, or the lowest that the region does not hold. -/
def Sys2Proof.Claims.BoundariesBindAndPreempt : Prop :=
  (∀ (cl : Nat) (s : State) (v : Task), BoundaryRuns s cl → Keyed s v → v.st = .waiting → FirstWaiting (promoted s cl) s cl v →
    let p := promoted s cl v
    ∃ t, exec (.tempoBoundary cl) s = .next t ∧
      (∀ c l new, Chosen s cl v c l new → HeaderGood s v c → BoundOn s t v c l ∧
        ∀ w, t.task? v.key = some w → (w.boundDue = true ↔ DueTask p)) ∧
      ((∀ c l new, ¬ Finds s cl v c l new) → (∀ x ∈ s.tasks, x.st = .stopping → x.forTask ≠ v.key) →
        ((∃ w, t.task? v.key = some w ∧ w.st = .waiting ∧ w.loading = false ∧ w.e = p.e ∧ w.waited = p.waited) ∧
        ∀ u, MayPreempt s cl p u → (∀ x, MayPreempt s cl p x → x.key ≠ u.key → PreemptFirst p u x) →
          (∃ w, t.task? u.key = some w ∧ w.st = .stopping ∧ w.forTask = v.key) ∧
          (∀ n, (s.strand u.core n).task = u.key → (t.strand u.core n).stopped = true) ∧
          (¬ DueTask p → ∀ w ∈ t.tasks, w.st = .stopping → w.forTask = v.key → w.key = u.key)))) ∧
  ∀ (s : State) (regid : Word) (c : Nat),
    (s.resolve regid (BitVec.ofNat 12 c) = none → s.newLcore regid c = BitVec.ofNat 12 c) ∧
    (s.resolve regid (BitVec.ofNat 12 c) ≠ none → ∀ l : BitVec 12, s.resolve regid l = none →
      (∀ i, i < l.toNat → s.resolve regid (BitVec.ofNat 12 i) ≠ none) → s.newLcore regid c = l)

/-- R276, R291: the boundary at which a gang has been still since the one before marks it stalemated and sends notice 2 with its GANGID;
the first at which it is still notes what its strands have passed, and one at which a strand of it does not wait clears the note. The
gang is still while every strand of it waits (R57) on more than its partner, no command, handler, delivery or collective of it is under
way, none of its tasks waits to be bound, and no producer outside it runs or waits; that this last holds of a task which has not entered
ring 0 as it does of a DWAIT is the model's choice (log entry 102). -/
def Sys2Proof.Claims.StalematesAreFound : Prop :=
  ∀ (cl k : Nat) (s : State) (g : Gang) (w : Task),
    let cores := s.tasks.filterMap fun v => if v.key ∈ g.tasks then some v.core else none
    let still : Prop :=
      (∀ v ∈ s.tasks, v.key ∈ g.tasks → v.st ∈ [.dependent, .running, .draining, .ended] ∧
        ∀ id ∈ v.prods, ∀ x ∈ s.tasks, x.tid = id → s.contextOf x.regid = s.contextOf v.regid → x.st = .ended ∨ x.key ∈ g.tasks) ∧
      (∃ v ∈ s.tasks, v.key ∈ g.tasks ∧ v.st ≠ .ended) ∧
      (∀ p ∈ s.gangStrands g, s.strandWaits p.1 p.2 = true) ∧
      (∀ c ∈ cores, (∀ x ∈ (s.core c).sq, x.task ∉ g.tasks) ∧ (s.core c).pending = [] ∧ (s.core c).ingress = [] ∧
        (∀ a ∈ (s.core c).arming, a.task ∉ g.tasks) ∧ ∀ n, (s.strand c n).handler = false) ∧
      s.colls = [] ∧ s.collDones = []
    BoundaryRuns s cl → (∀ v ∈ s.tasks, ¬ Waits cl v) → (s.tasks.map (·.key)).Nodup → s.gangs[k]? = some g → g.st ≠ 0 →
    g.tasks.head?.bind s.task? = some w → w.cluster = cl → (∀ key ∈ g.tasks, s.task? key ≠ none) →
    ∃ t, exec (.tempoBoundary cl) s = .next t ∧
      (still → g.suspect = some (s.gangPassed g) → g.st ≠ 2 → t.gangs[k]? = some { g with st := 2 } ∧
        ∃ r ∈ t.records, r.regid = g.regid ∧ r.words = noticeWords 0#64 g.regid 0 2 16#64 0#64 g.id) ∧
      (still → g.suspect = some (s.gangPassed g) → g.st = 2 → t.gangs[k]? = some g) ∧
      (still → g.suspect ≠ some (s.gangPassed g) → t.gangs[k]? = some { g with st := 1, suspect := some (s.gangPassed g) }) ∧
      ((∃ p ∈ s.gangStrands g, s.strandWaits p.1 p.2 = false) → t.gangs[k]? = some { g with st := 1, suspect := none })

/-- R272, R269, R443, R273: TEMPO_BOUNDARY sets event bit 4 and counts the boundary; the live tasks of the cluster have run one tempo
more and are no longer marked yielding; a task that still waits, here on a die whose retirement has begun, is promoted. On a die that is
retired or has failed no supervisor runs (R25), and a number outside the package names no agent (log entry 11). R275: a boundary comes after the saves for the due tasks of the one before (the model's
choice, log entry 9). The order of binding, pre-emption and stalemate are the parts before. -/
def Obligations.TempoBoundariesPromoteAndCount : Prop :=
  Claims.BoundariesBindAndPreempt ∧ Claims.StalematesAreFound ∧
  ∀ (cluster : Nat) (s : State),
    (64 ≤ cluster → exec (.tempoBoundary cluster) s = .fault .noSuchAgent) ∧
    (cluster < 64 → ∃ t, exec (.tempoBoundary cluster) s = .next t) ∧
    (cluster < 64 → (∀ g ∈ s.gangs, g.st ≠ 0) ∨ (cluster ≠ 0 ∧ cluster ≠ 60) → (s.die (cluster / 4)).health ∈ [.retired, .failed] →
      exec (.tempoBoundary cluster) s = .next (s.res .stutter)) ∧
    (∀ v x, cluster < 64 → (s.die (cluster / 4)).health ∈ [.healthy, .degraded] → v ∈ s.tasks → v.st = .stopping →
      clusterOf v.core = cluster → v.forTask ≠ 0 → s.task? v.forTask = some x → Waits x.cluster x → DueTask x →
      exec (.tempoBoundary cluster) s = .next (s.res .stutter)) ∧
    (BoundaryRuns s cluster →
      let here (v : Task) : Prop := v.st ∈ [.running, .draining, .stopping] ∧ clusterOf v.core = cluster
      ((∀ v ∈ s.tasks, ¬ Waits cluster v) ∨ ∃ r ∈ s.retiring, r.1 = cluster / 4) →
      ∃ t, exec (.tempoBoundary cluster) s = .next t ∧ SameMemory s t ∧ (∀ c n, t.strand c n = s.strand c n) ∧
        (t.cluster cluster).events = (s.cluster cluster).events ||| 0x10#8 ∧
        (t.cluster cluster).boundary = (s.cluster cluster).boundary + 1 ∧
        t.tasks.length = s.tasks.length ∧
        ∀ (i : Nat) (v : Task), s.tasks[i]? = some v → ∃ w, t.tasks[i]? = some w ∧
          (here v → w = { v with boundDue := false, yielding := false, ran := v.ran + 1 }) ∧
          (Waits cluster v → w = promoted s cluster v) ∧
          (¬ here v → ¬ Waits cluster v → w = v))

namespace Sys2Proof.Claims

/-- A port sends vector `n` (R305): its data goes to its address, or it stays pending while it is masked. -/
def sends (v : Port) (n : BitVec 6) : Port :=
  let x := v.vecs.get n.toFin
  if x.masked then { v with msix := v.msix ++ [n], vecs := v.vecs.set n.toFin { x with pending := true } }
  else { v with msix := v.msix ++ [n], host := writeCells v.host x.addr.toNat (natBytes 4 x.data.toNat) }

/-- Issued packet `k` of a queue, of a type. -/
def PacketAtHead (s : State) (p : Fin 2) (q : Fin 16) (k type : Nat) (x : Packet) : Prop :=
  PortUp s p ∧ ((s.ports.get p).queues.get q).issued[k]? = some x ∧ field x.bytes 0 1 = type

/-- `w` after packet `x` of a queue has completed (R251, R310, R311): a record of SEQ, type, status and DETAIL at CTAIL, lost where the
port cannot reach it (R25), the packet gone and CTAIL advanced by 16 in the ring, a vector when IRQ is set, and the queue halted at the
packet for status CHANGED (1) and FORMAT (2), with one more vector. -/
def completed (w : State) (p : Fin 2) (q : Fin 16) (x : Packet) (st detail : Nat) : State :=
  let v := w.ports.get p
  let u := v.queues.get q
  let bytes := natBytes 4 (field x.bytes 4 4) ++ natBytes 1 (field x.bytes 0 1) ++ natBytes 1 st ++ [0#8, 0#8] ++ natBytes 8 detail
  let a := u.cbase.toNat % 2 ^ 52 + u.ctail
  let far := u.cbase.getLsbD 63
  let halts : Bool := st = 1 || st = 2
  let u1 := { u with
    ctail := (u.ctail + 16) % 2 ^ (u.qsize.toNat / 2 ^ 8 % 32), issued := u.issued.filter fun y => y.id ≠ x.id,
    waiting := u.waiting && field x.bytes 0 1 ≠ 8 }
  let u2 := if halts then { u1 with halted := true, head := x.off, fetchAt := x.off, fetched := [] } else u1
  { w with
    hbm := if far || w.portLost p a then w.hbm else w.hbm.write a bytes
    ports := w.ports.set p
      (let v1 := { v with queues := v.queues.set q u2, host := if far then writeCells v.host a bytes else v.host }
       if u.irq then (if halts then sends (sends v1 u.vec) u.vec else sends v1 u.vec) else v1) }

/-- The progress of an issued packet becomes `n`. -/
def progressed (w : State) (p : Fin 2) (q : Fin 16) (id n : Nat) : State :=
  let v := w.ports.get p
  let u := v.queues.get q
  let u1 := { u with issued := u.issued.map fun y => if y.id = id then { y with done := n } else y }
  { w with ports := w.ports.set p { v with queues := v.queues.set q u1 } }

/-- The bytes of a command ring at an offset, unpoisoned and not lost with a die (R25): a ring in HBM. -/
def RingBytes (s : State) (p : Fin 2) (base : Word) (off : Nat) (l : List Byte) : Prop :=
  base.getLsbD 63 = false ∧ s.portLost p (base.toNat % 2 ^ 52 + off) = false ∧ Clean s.hbm (base.toNat % 2 ^ 52 + off) l.length ∧ l = readCells s.hbm.cells (base.toNat % 2 ^ 52 + off) l.length

/-- A queue whose fetcher may read (R250, R309). -/
def MayFetch (u : HostQueue) : Prop := u.en = true ∧ u.halted = false ∧ u.fetched.length < 16 ∧ u.fetchAt ≠ u.tail

end Sys2Proof.Claims

/-- R250, R309: PACKET_FETCH, and after a failed read FETCH_RETRY, reads the next packet of a ring in HBM whole; a poisoned word sets
FETCHERR instead and a good read clears it. R250, R251: PACKET_ISSUE reads the header again: another header completes the packet with
CHANGED, a packet that breaks its format with FORMAT, both halting the queue; else the packet issues and HEAD passes it. R249: a PAD
completes with status 0. That the fetcher takes 16 bytes of a packet whose SIZE is 0, above 64 or across the ring's end is the model's
deduction (log entry 50). -/
def Obligations.PacketsAreFetchedIssuedAndCompleted : Prop :=
  ∀ (p : Fin 2) (q : Fin 16) (k : Nat) (s : State), PortUp s p →
    let u := (s.ports.get p).queues.get q
    let setQueue (w : HostQueue) : State := { s with ports := s.ports.set p { s.ports.get p with queues := (s.ports.get p).queues.set q w } }
    let size := 2 ^ (u.qsize.toNat % 32)
    (∀ i ∈ [(Instr.packetFetch p q, false), (.fetchRetry p q, true)], MayFetch u → u.fetcherr = i.2 →
      (∀ h l, RingBytes s p u.qbase u.fetchAt h → RingBytes s p u.qbase u.fetchAt l → h.length = 16 →
        l.length = (if 1 ≤ field h 2 2 ∧ field h 2 2 ≤ 64 ∧ u.fetchAt + 16 * field h 2 2 ≤ size then 16 * field h 2 2 else 16) →
        l.length ≤ (u.tail + size - u.fetchAt) % size →
        exec i.1 s = .next (setQueue { u with
          fetcherr := false, fetched := u.fetched ++ [⟨u.nextId, u.fetchAt, l, 0, []⟩], nextId := u.nextId + 1,
          fetchAt := (u.fetchAt + l.length) % size })) ∧
      (u.qbase.getLsbD 63 = false → ¬ Clean s.hbm (u.qbase.toNat % 2 ^ 52 + u.fetchAt) 16 ∨
          s.portLost p (u.qbase.toNat % 2 ^ 52 + u.fetchAt) = true →
        exec i.1 s = .next (setQueue { u with fetcherr := true }))) ∧
    (∀ x l h, u.fetched = x :: l → u.mayIssue x = true → RingBytes s p u.qbase x.off h → h.length = 16 →
      let popped := setQueue { u with fetched := l }
      (h ≠ x.bytes.take 16 → exec (.packetIssue p q) s = .next (completed popped p q x 1 0)) ∧
      (h = x.bytes.take 16 → x.formatBad = true → exec (.packetIssue p q) s = .next (completed popped p q x 2 0)) ∧
      (h = x.bytes.take 16 → x.formatBad = false → exec (.packetIssue p q) s = .next (setQueue { u with
        fetched := l, head := (x.off + x.bytes.length) % size, issued := u.issued ++ [x],
        waiting := u.waiting || field x.bytes 0 1 = 8 }))) ∧
    ∀ x, PacketAtHead s p q k 0 x → exec (.pad p q k) s = .next (completed s p q x 0 0)

/-- R249, R254, R253: a REGION packet that the rules refuse completes with its status and changes nothing else. REGION_CREATE puts the
block of its image in force at its place in HBM; REGION_MODIFY replaces it, REGID, PARENT and DEPTH kept; REGION_DESTROY ends with status 3
where its block breaks a limit of R253 or a task of the subtree has been bound or waits, else takes away the regions of the subtree, their
handles and tasks, and frees their cores; a task that has fired in a context that stays is remembered there (R277), and one of which
something is still under way stays for the records of that (R222), for which the regions are remembered. A region that is not known
completes with status 4. The model's choices: FORMAT for a REGID that differs from the image's and the checks of a DESTROY's image (log
entry 44), and status 4 for a BLOCKPA that is not the region's (log entry 109). -/
def Obligations.RegionPacketsCreateModifyAndDestroy : Prop :=
  ∀ (p : Fin 2) (q : Fin 16) (k : Nat) (s : State) (x : Packet), PacketAtHead s p q k 2 x →
    let op := field x.bytes 0x18 1
    let img := (x.bytes.drop 0x20).take 128
    let pa := field x.bytes 0x10 8
    let regid : Word := BitVec.ofNat 64 (field x.bytes 8 8)
    (op = 0 →
      (∀ n w, s.createRegion p x = (n, w) → exec (.regionCreate p q k) s = .next (completed w p q x n 0) ∧
        (n ≠ 0 → w = s) ∧
        (n = 0 → s.region? regid = none ∧ w.hbm = s.hbm.write pa img ∧ ((∀ g ∈ s.gone, g.regid ≠ regid) → w.tasks = s.tasks) ∧
          (∀ c m, w.strand c m = s.strand c m) ∧ ∃ r ∈ w.regions, r.regid = regid ∧ r.pa = pa ∧ r.cores = field img 0x20 4)) ∧
      (BitVec.ofNat 64 (field img 0 8) ≠ regid ∨ s.region? regid ≠ none →
        exec (.regionCreate p q k) s = .next (completed s p q x 2 0))) ∧
    (op = 1 →
      (s.region? regid = none → exec (.regionModify p q k) s = .next (completed s p q x 4 0)) ∧
      ∀ n w, s.modifyRegion x = (n, w) → exec (.regionModify p q k) s = .next (completed w p q x n 0) ∧
        (n ≠ 0 → w = s) ∧
        ∀ old, n = 0 → s.region? regid = some old → x.bytes.length = 160 → old.parent < 2 ^ 64 → old.depth < 256 →
          (∀ c m, w.strand c m = s.strand c m) ∧ ∃ r ∈ w.regions,
            r.regid = regid ∧ r.parent = old.parent ∧ r.depth = old.depth ∧ r.cores = field img 0x20 4) ∧
    (op = 2 →
      (s.region? regid = none → exec (.regionDestroy p q k) s = .next (completed s p q x 4 0)) ∧
      ∀ r, s.region? regid = some r →
        let ids := (s.subtree r).map (·.regid)
        let ctxs := ((s.subtree r).filter fun y => y.ovr.getLsbD 2 && y.flags.getLsbD 1).map (·.regid)
        let bad := s.blockBad (regionOf (x.imageOf r) pa r.port) (x.imageOf r)
        (r.pa ≠ pa → exec (.regionDestroy p q k) s = .next (completed s p q x 4 0)) ∧
        (r.pa = pa → bad = true → exec (.regionDestroy p q k) s = .next (completed s p q x 2 0)) ∧
        let fits := s.packetLimits r (regionOf (x.imageOf r) pa r.port)
        let lost (v : Task) : Prop := s.contextOf v.regid ∈ ctxs
        (r.pa = pa → bad = false → fits = false ∨ (∃ v ∈ s.tasks, v.regid ∈ ids ∧ v.st ≠ .ended ∧ v.st ≠ .dependent) →
          exec (.regionDestroy p q k) s = .next (completed s p q x 3 0)) ∧
        (r.pa = pa → bad = false → fits = true → (∀ v ∈ s.tasks, v.regid ∈ ids → v.st = .ended ∨ v.st = .dependent) →
          ∃ w, exec (.regionDestroy p q k) s = .next (completed w p q x 0 0) ∧
            w.regions = s.regions.filter (fun y => y.regid ∉ ids) ∧
            (∀ v ∈ s.tasks, (v.regid ∉ ids → ¬ (v.st = .ended ∧ lost v) → v ∈ w.tasks) ∧
              (v.regid ∈ ids → v.st = .ended → v.fired = true → ¬ lost v → v ∈ w.tasks) ∧
              (v.st = .ended → lost v → s.working v.key = true → { v with fired := false } ∈ w.tasks)) ∧
            (∀ y ∈ w.tasks, y.regid ∈ ids → y.st = .ended ∧ (y.fired = true ∨ s.working y.key = true)) ∧
            (∀ y ∈ s.subtree r, ∃ g ∈ w.gone, g.regid = y.regid) ∧
            w.hbm = s.hbm ∧ (∀ c m, w.strand c m = s.strand c m) ∧
            (∀ c, (s.core c).slot ≠ .free → (s.core c).regid ∈ ids → (w.core c).slot = .free) ∧
            ∀ h ∈ w.handles, h ∈ s.handles ∧ h.context ∉ ctxs))

/-- R249, R208, R214, R202: MAP writes its entries to HBM; UNMAP writes zeros and sends an invalidation to every unit that holds
translations; INVALIDATION drops a unit's entries of the range, and the last one completes the UNMAP with the mask of the dies that
acknowledged; one that a supervisor's change of a leaf sent just ends. The units are those of cores, and 4,096 and 4,097 for those of the
command processors. BIND writes or removes a handle of the region's context. A region that is not known completes with status 4. The
model's deductions (log entry 70): status 5 for a range outside HBM, which units acknowledge, and a BIND that completes at once. -/
def Obligations.TablePacketsMapUnmapAndBind : Prop :=
  (∀ (p : Fin 2) (q : Fin 16) (k : Nat) (s : State) (x : Packet),
    let regid : Word := BitVec.ofNat 64 (field x.bytes 8 8)
    let num (o n : Nat) : Nat := field x.bytes o n
    (PacketAtHead s p q k 3 x →
      let pa := num 0x10 8
      let n := num 0x18 4
      (s.region? regid = none → exec (.map p q k) s = .next (completed s p q x 4 0)) ∧
      (s.region? regid ≠ none → 0x6000000000 < pa + 8 * n → exec (.map p q k) s = .next (completed s p q x 5 0)) ∧
      (s.region? regid ≠ none → tableRoom pa (8 * n) = true → s.portLost p pa = false → s.portLost p (pa + 8 * n - 1) = false →
        (∀ i, i < n → entryInWindow (num (0x20 + 8 * i) 8) = false) →
        exec (.map p q k) s =
          .next (completed { s with hbm := s.hbm.writeAll pa ((x.bytes.drop 0x20).take (8 * n)) } p q x 0 0))) ∧
    (PacketAtHead s p q k 4 x → x.done = 0 →
      let pa := num 0x20 8
      let n := num 0x28 4
      (s.region? regid = none → exec (.unmap p q k) s = .next (completed s p q x 4 0)) ∧
      (s.region? regid ≠ none → 0x6000000000 < pa + 8 * n → exec (.unmap p q k) s = .next (completed s p q x 5 0)) ∧
      (s.region? regid ≠ none → tableRoom pa (8 * n) = true → n = 0 ∨ s.portLost p pa = false ∧ s.portLost p (pa + 8 * n - 1) = false →
        exec (.unmap p q k) s = .next (progressed { s with
          hbm := s.hbm.writeAll pa (List.replicate (8 * n) 0#8)
          invals := s.invals ++ [⟨s.contextOf regid, num 0x10 8, num 0x10 8 + num 0x18 8, s.unitsToAck, some (p.val, q.val, x.id)⟩] }
          p q x.id 1))) ∧
    (PacketAtHead s p q k 5 x →
      (s.region? regid = none → exec (.bind p q k) s = .next (completed s p q x 4 0)) ∧
      ∀ r, s.region? regid = some r →
        (r.port ≠ p.val → exec (.bind p q k) s = .next (completed s p q x 4 0)) ∧
        (r.port = p.val →
          let rest := s.handles.filter fun h => ¬ (h.context = s.contextOf regid ∧ h.num = num 0x10 2)
          exec (.bind p q k) s = .next (completed { s with handles := if num 0x20 8 = 0 then rest
            else ⟨s.contextOf regid, num 0x10 2, num 0x18 8, num 0x20 8, p.val, (num 0x12 1).testBit 0⟩ :: rest } p q x 0 0)))) ∧
  ∀ (unit k : Nat) (s : State) (i : Inval), s.invals[k]? = some i → unit ∈ i.units →
    let kept (l : List TlbEntry) : List TlbEntry := l.filter fun e => ¬ (e.context = i.context ∧ e.va < i.hi ∧ i.lo < e.va + e.size)
    let cp : Fin 2 := Fin.ofNat 2 (unit - 4096)
    let w := if unit < 4096 then s.modCore unit fun c => { c with tlb := kept c.tlb }
      else { s with ports := s.ports.set cp { s.ports.get cp with tlb := kept (s.ports.get cp).tlb } }
    ((∃ y ∈ i.units, y ≠ unit) →
      exec (.invalidation unit k) s =
        .next { w with invals := s.invals.modify k fun i => { i with units := i.units.filter (· ≠ unit) } }) ∧
    (i.units = [unit] → i.pkt = none → exec (.invalidation unit k) s = .next { w with invals := s.invals.eraseIdx k }) ∧
    ∀ (p : Fin 2) (q : Fin 16) (x : Packet), i.units = [unit] → i.pkt = some (p.val, q.val, x.id) →
      ((s.ports.get p).queues.get q).issued.find? (fun y => y.id == x.id) = some x → (∀ d, (s.die d).health ≠ .failed) →
      exec (.invalidation unit k) s = .next (completed { w with invals := s.invals.eraseIdx k } p q x 0 0xFFFF)

/-- R249, R207, R179: HCOPY completes with status 0 once its bytes are copied, and performs stretch after stretch, from its end where it
copies onto a range above its source, the last one completing it; a range outside its space is status 5. HSIGNAL sends an increment and completes when it has been applied. HWAIT, and
HWAIT_POLL after it, completes once the word read is at least the value, with status 5 for a fault or a poisoned word. A region that is
not known is status 4. The stretches within words of the destination, their order, and status 5 on a poisoned word are the model's
deductions (log entry 69). -/
def Obligations.DataPacketsCopySignalAndWait : Prop :=
  ∀ (p : Fin 2) (q : Fin 16) (k : Nat) (s : State) (x : Packet),
    let regid : Word := BitVec.ofNat 64 (field x.bytes 8 8)
    let num (o n : Nat) : Nat := field x.bytes o n
    let sp := s.packetSpace p regid
    (PacketAtHead s p q k 6 x →
      let src := num 0x10 8
      let dst := num 0x18 8
      let n := num 0x20 8
      let back : Prop := src < dst ∧ dst < src + n
      let o := if back then (dst + (n - x.done) - 1) / 8 * 8 - dst else x.done
      let m := if back then n - x.done - o else min (n - x.done) (8 - (dst + x.done) % 8)
      (s.region? regid = none → exec (.hcopy p q k) s = .next (completed s p q x 4 0)) ∧
      (s.region? regid ≠ none → s.rangeOk sp src n false = false ∨ s.rangeOk sp dst n true = false →
        exec (.hcopy p q k) s = .next (completed s p q x 5 0)) ∧
      (s.region? regid ≠ none → s.rangeOk sp src n false = true → s.rangeOk sp dst n true = true →
        (n ≤ x.done → exec (.hcopy p q k) s = .next (completed s p q x 0 0)) ∧
        ∀ s1 s2 bs bad l, x.done < n → s.hostRead p sp (src + o) m = (s1, some (bs, bad)) →
          s1.hostReach p sp (dst + o) true = (s2, some l) →
          exec (.hcopy p q k) s = .next (if x.done + m = n then completed (s2.writeLoc l bs bad) p q x 0 0
            else progressed (s2.writeLoc l bs bad) p q x.id (x.done + m)))) ∧
    (PacketAtHead s p q k 7 x →
      (x.done = 0 → s.region? regid = none → exec (.hsignal p q k) s = .next (completed s p q x 4 0)) ∧
      (∀ c, x.done = 0 → s.region? regid ≠ none → s.target regid (BitVec.ofNat 12 (num 0x10 2)) = some (.live c) →
        exec (.hsignal p q k) s = .next ((progressed s p q x.id 1).modCore c fun v =>
          { v with incs := v.incs ++
            [⟨Fin.ofNat 64 (num 0x12 1), BitVec.ofNat 64 (num 0x18 8), none, some (p.val, q.val, x.id)⟩] })) ∧
      (x.done = 1 → exec (.hsignal p q k) s = .next (s.res .stutter)) ∧
      (2 ≤ x.done → exec (.hsignal p q k) s = .next (completed s p q x 0 0))) ∧
    ∀ i, PacketAtHead s p q k 8 x → (i = .hwait p q k ∧ x.done = 0 ∨
        i = .hwaitPoll p q ∧ x.done ≠ 0 ∧
          ((s.ports.get p).queues.get q).issued.find? (fun y => field y.bytes 0 1 == 8 && y.done != 0) = some x) →
      (s.region? regid = none → exec i s = .next (completed s p q x 4 0)) ∧
      (s.region? regid ≠ none → s.rangeOk sp (num 0x10 8) 8 false = false → exec i s = .next (completed s p q x 5 0)) ∧
      ∀ w a, s.region? regid ≠ none → s.rangeOk sp (num 0x10 8) 8 false = true →
        s.hostReach p sp (num 0x10 8) false = (w, some ⟨.hbm, a⟩) →
        (¬ Clean w.hbm a 8 → exec i s = .next (completed w p q x 5 0)) ∧
        (Clean w.hbm a 8 → num 0x18 8 ≤ leNat (readCells w.hbm.cells a 8) → exec i s = .next (completed w p q x 0 0)) ∧
        (Clean w.hbm a 8 → leNat (readCells w.hbm.cells a 8) < num 0x18 8 → exec i s = .next (progressed w p q x.id 1))

namespace Sys2Proof.Claims

/-- An attempt of gang `g`, number `k` of the waiting gangs of `w`, has ended (R257, R258, R259): granted, each core is mapped to the
LCORE of its task with its semaphores clear, the gang runs and its LAUNCH has completed; without cores it waits and holds none; with a status
it is gone and its LAUNCH has completed. -/
def Attempted (w t : State) (k : Nat) (g : Gang) : Prop :=
  let p : Fin 2 := Fin.ofNat 2 g.port
  let q : Fin 16 := Fin.ofNat 16 g.pkt.1
  let gone := ∀ y ∈ ((t.ports.get p).queues.get q).issued, y.id ≠ g.pkt.2
  let sp := w.packetSpace p g.regid
  ∀ r, w.region? g.regid = some r →
    match ((w.ring3 p sp r g 0).grantParts p sp r g.parts 0 []).2 with
    | .granted l => (l.map (·.core)).Nodup → gone ∧
        (∀ y ∈ l, (t.core y.core).slot = .mapped ∧ (t.core y.core).regid = g.regid ∧
          (t.core y.core).lcore = (hdrLcore y.header).truncate 12 ∧ (t.core y.core).sems = Vector.replicate 64 0#64) ∧
        (∀ c, (∀ y ∈ l, y.core ≠ c) → (t.core c).slot = (w.core c).slot) ∧
        ∃ v, t.gangs[k]? = some v ∧ v.id = g.id ∧ v.st = 1 ∧ v.tasks.length = l.length
    | .wait _ => t.gangs = w.gangs.modify k (fun v => { v with fresh := false }) ∧ ∀ c, (t.core c).slot = (w.core c).slot
    | .status _ _ => gone ∧ t.gangs = w.gangs.eraseIdx k ∧ ∀ c, (t.core c).slot = (w.core c).slot

end Sys2Proof.Claims

/-- R256, R257, R259: LAUNCH takes a gang to the arbiter, which attempts it at once while it is open and no earlier one waits for its
first attempt, and GANG_RETRY attempts the earliest such gang; while a RESYNC or a retirement holds the arbiter it waits; a region that is
not known completes with status 4. A TEMPO_BOUNDARY of the arbiter's die attempts a waiting gang again (R259). R260: GANG_END, once every
task has ended, adds 1 to the word at DONESIG and releases the gang's idle cores but for those that the region holds for RESERVED (R254,
R458). That DONESIG is checked at the LAUNCH, with status 5, and the order of attempts are the model's deductions (log entry 48). -/
def Obligations.GangsLaunchRetryAndEnd : Prop :=
  (∀ (p : Fin 2) (q : Fin 16) (k : Nat) (s : State) (x : Packet), PacketAtHead s p q k 1 x → x.done = 0 →
    let regid : Word := BitVec.ofNat 64 (field x.bytes 8 8)
    let g := gangOf p q x
    (s.region? regid = none → exec (.launch p q k) s = .next (completed s p q x 4 0)) ∧
    ∀ w ok, s.region? regid ≠ none → s.donesigOk p (s.packetSpace p regid) (BitVec.ofNat 64 (field x.bytes 0x18 8)) = (w, ok) →
      let w1 := { progressed w p q x.id 1 with gangs := w.gangs ++ [g] }
      (ok = false → exec (.launch p q k) s = .next (completed w p q x 5 0)) ∧
      (ok = true → w.resync ≠ 0 ∨ w.retiring ≠ [] ∨ (∃ y ∈ w.gangs, y.st = 0 ∧ y.fresh = true) →
        exec (.launch p q k) s = .next w1) ∧
      (ok = true → w.resync = 0 → w.retiring = [] → (∀ y ∈ w.gangs, y.st = 0 → y.fresh = false) → PortUp w p →
        ∃ t, exec (.launch p q k) s = .next t ∧ Attempted w1 t w.gangs.length g)) ∧
  (∀ (k : Nat) (s : State) (g : Gang), s.gangs[k]? = some g → g.st = 0 →
    let first := g.fresh = true ∧ ∀ y ∈ s.gangs.take k, y.st = 0 → y.fresh = false
    (s.resync ≠ 0 ∨ s.retiring ≠ [] ∨ ¬ first → exec (.gangRetry k) s = .next (s.res .stutter)) ∧
    (s.resync = 0 → s.retiring = [] → first → PortUp s 0 ∨ PortUp s 1 → ∃ t, exec (.gangRetry k) s = .next t ∧ Attempted s t k g)) ∧
  (∀ (cl : Nat) (s : State) (g : Gang), s.gangs = [g] → g.st = 0 → s.resync = 0 → s.retiring = [] →
    (PortUp s 0 → cl = 0) → (¬ PortUp s 0 → PortUp s 1 ∧ cl = 60) → (∀ v ∈ s.tasks, ¬ Waits cl v) →
    (∀ v ∈ s.tasks, v.st = .stopping → v.forTask = 0) → ∃ t, exec (.tempoBoundary cl) s = .next t ∧ Attempted s t 0 g) ∧
  ∀ (k : Nat) (s : State) (g : Gang), s.gangs[k]? = some g → g.st ≠ 0 →
    (∀ key ∈ g.tasks, ∀ v, s.task? key = some v → v.st = .ended) →
    let ends (w : State) : Prop := ∃ t, exec (.gangEnd k) s = .next t ∧ t.gangs = s.gangs.eraseIdx k ∧ t.hbm = w.hbm ∧
      (∀ c n, t.strand c n = s.strand c n) ∧
      ∀ key ∈ g.tasks, ∀ v c, s.task? key = some v → s.resolve v.regid (v.lcore.truncate 12) = some c →
        (∀ n, (s.strand c n).task = 0) → (v.regid ∉ (s.core c).heldFor → (t.core c).slot = .free) ∧
          (v.regid ∈ (s.core c).heldFor → t.core c = s.core c)
    (g.donesig = 0#64 → ends s) ∧
    ∀ w a, g.donesig ≠ 0#64 →
      s.hostReach (Fin.ofNat 2 g.port) (s.packetSpace (Fin.ofNat 2 g.port) g.regid) g.donesig.toNat true = (w, some ⟨.hbm, a⟩) →
      Clean w.hbm a 8 →
      ends { w with hbm := w.hbm.write a (natBytes 8 (leNat (readCells w.hbm.cells a 8) + 1)) }

namespace Sys2Proof.Claims

/-- A retirement of die `d` has begun (R303): it is listed, and every live task of the die stops. -/
def RetirementBegun (s t : State) (e : Nat × Nat × Nat × Nat) : Prop :=
  t.retiring = s.retiring ++ [e] ∧ SameMemory s t ∧
  ∀ v ∈ s.tasks, v.st ∈ [.running, .draining, .stopping] → v.core / 256 = e.1 →
    ∃ w ∈ t.tasks, w.key = v.key ∧ w.st = .stopping

/-- Die `d` is retired: no task was saved anywhere, and its cores are free. -/
def RetiredDie (w : State) (d : Nat) : Prop :=
  (w.die d).health = .retired ∧ (∀ e ∈ w.retiring, e.1 ≠ d) ∧ ∀ c, c / 256 = d → (w.core c).slot = .free

end Sys2Proof.Claims

/-- R303, R269: RETIRE and RETIREMENT_REQUEST begin a retirement, which stops the die's tasks, the second with signal 7 to the die's
supervisors and the die degraded; once none is live the die is retired with its cores free, and RETIRE completes. R304, R292: DIE_FAILURE marks
the die failed, its link failed, and ends the regions of the tasks on it. R279: RESYNC gathers with signal 6 to every supervisor and the
arbiter held and the summary as things stand then, and ends with the packet's SEQ in RESYNCST. RETIRE also waits for the tasks that it
moved and that resume. That RETIRE of a die which is retired or has failed completes with status 0 is the model's deduction (log entry 45),
as are the two events of RESYNC (log entry 68). -/
def Obligations.DiesRetireFailAndResync : Prop :=
  (∀ (p : Fin 2) (q : Fin 16) (k : Nat) (s : State) (x : Packet), PacketAtHead s p q k 9 x →
    let d := field x.bytes 0x10 1
    let quiet := (∀ v ∈ s.tasks, v.st ∈ [.running, .draining, .stopping, .saved] ∨ v.loading = true → False) ∧
      ∀ c, c / 256 = d → (s.core c).jobs = []
    (x.done = 2 → (∃ v ∈ s.tasks, v.st = .saved ∧ v.loading = true ∧ v.why = 1) → exec (.retire p q k) s = .next (s.res .stutter)) ∧
    (x.done = 2 → (∀ v ∈ s.tasks, ¬ (v.st = .saved ∧ v.loading = true ∧ v.why = 1)) →
      exec (.retire p q k) s = .next (completed s p q x 0 0)) ∧
    (x.done ≠ 2 → (s.die d).health ∈ [.retired, .failed] → exec (.retire p q k) s = .next (completed s p q x 0 0)) ∧
    ((s.die d).health ∈ [.healthy, .degraded] → x.done = 0 → (∀ e ∈ s.retiring, e.1 ≠ d) →
      ∃ w, exec (.retire p q k) s = .next (progressed w p q x.id 1) ∧ RetirementBegun s w (d, p.val, q.val, x.id)) ∧
    ((s.die d).health ∈ [.healthy, .degraded] → x.done = 1 → quiet →
      ∃ w, exec (.retire p q k) s = .next (completed w p q x 0 0) ∧ RetiredDie w d)) ∧
  (∀ (die : Fin 16) (s : State), (s.die die.val).health ∈ [.healthy, .degraded] →
    ((∀ e ∈ s.retiring, e.1 ≠ die.val) → ∃ t, exec (.retirementRequest die) s = .next t ∧
      RetirementBegun s t (die.val, 2, 0, 0) ∧ (t.die die.val).health = .degraded ∧
      ∀ c, c / 4 = die.val → (t.cluster c).events = (s.cluster c).events ||| 0x80#8) ∧
    ((∃ e ∈ s.retiring, e.1 = die.val) → (∀ v ∈ s.tasks, v.st ∈ [.running, .draining, .stopping, .saved] ∨ v.loading = true → False) →
      (∀ c, c / 256 = die.val → (s.core c).jobs = []) → ∃ t, exec (.retirementRequest die) s = .next t ∧ RetiredDie t die.val)) ∧
  (∀ (die : Fin 16) (s : State), (s.die die.val).health ≠ .failed →
    ∃ t, exec (.dieFailure die) s = .next t ∧ (t.die die.val).health = .failed ∧ (t.links.get die).st = 3#2 ∧
      SameMemory s t ∧ (∀ e ∈ t.retiring, e.1 ≠ die.val) ∧
      ∀ v ∈ s.tasks, v.st = .running → v.core / 256 = die.val → s.region? v.regid ≠ none →
        (∃ w ∈ t.tasks, w.key = v.key ∧ w.st = .ended) ∧
        ∃ r ∈ t.records, r.words = noticeWords 0#64 v.regid 0 5 18#64 0#64 (BitVec.ofNat 64 die.val)) ∧
  ∀ (p : Fin 2) (q : Fin 16) (k : Nat) (s : State) (x : Packet), PacketAtHead s p q k 10 x →
    (x.done = 0 → ∃ w, exec (.resync p q k) s = .next (progressed w p q x.id 1) ∧ w.resync = s.resync + 1 ∧
      (∀ y ∈ ((w.ports.get p).queues.get q).issued, y.id = x.id →
        ∃ v : State, y.gathered = v.summary (field x.bytes 0x18 8) ∧ v.tasks = s.tasks ∧ v.regions = s.regions ∧ v.gangs = s.gangs) ∧
      (w.ports.get p).resyncst = (s.ports.get p).resyncst ||| 1#64 ∧ SameMemory s w ∧
      ∀ c, c < 64 → (w.cluster c).events = (s.cluster c).events ||| 0x40#8) ∧
    (x.done ≠ 0 → ∃ w st, exec (.resync p q k) s = .next (completed w p q x st 0) ∧ st ∈ [0, 5] ∧ w.resync = s.resync - 1 ∧
      (w.ports.get p).resyncst = BitVec.ofNat 64 (field x.bytes 4 4 * 2 ^ 32))

namespace Sys2Proof.Claims

/-- A port's queue replaced. -/
def withQueue (s : State) (p : Fin 2) (q : Fin 16) (u : HostQueue) : State :=
  { s with ports := s.ports.set p { s.ports.get p with queues := (s.ports.get p).queues.set q u } }

/-- A port changed. -/
def withPort (s : State) (p : Fin 2) (f : Port → Port) : State := { s with ports := s.ports.set p (f (s.ports.get p)) }

/-- The window takes writes of the queue, boot and attestation registers: the port stands and STAGE is 4 (R316). -/
def Booted (s : State) (p : Fin 2) : Prop := PortUp s p ∧ 4 ≤ (s.bootstat.extractLsb' 0 4).toNat

/-- The fields of QCTL that a write sets (R308). -/
def ctlFields (u : HostQueue) (w : Word) : HostQueue :=
  { u with vec := w.extractLsb' 10 6, irq := w.getLsbD 9, skip := w.getLsbD 3 }

/-- A write of QCTL that sets no reserved bit (R308). -/
def CtlOk (w : Word) : Prop := w.toNat < 2 ^ 16 ∧ w.getLsbD 8 = false ∧ w.getLsbD 1 = false

end Sys2Proof.Claims

/-- R309, R310, R311, R308: DOORBELL moves the tail and CHEAD the consumer's head to a multiple of 16 inside the ring, any other value sets
DBERR; QCTL_ENABLE starts a queue of a good configuration at offset 0 and sets CFGERR for a bad one; QCTL_DISABLE stops it and drops what it
has fetched; RESTART takes a halted queue on from its head, past the packet there with SKIP = 1; a write with a reserved bit set is
discarded. That an enable leaves HALTED, and that SKIP passes 16 bytes of a packet whose SIZE is bad, are the model's deductions (log
entries 37 and 50). -/
def Obligations.QueueRegistersAreWritten : Prop :=
  ∀ (p : Fin 2) (q : Fin 16) (v : Word) (s : State), Booted s p →
    let u := (s.ports.get p).queues.get q
    let size := 2 ^ (u.qsize.toNat % 32)
    let recs := 2 ^ (u.qsize.toNat / 2 ^ 8 % 32)
    let set (w : HostQueue) : Host.Outcome State Fault Refusal := .next (withQueue s p q w)
    exec (.doorbell p q v) s = set (if v.toNat % 16 = 0 ∧ v.toNat < size then { u with tail := v.toNat } else { u with dberr := true }) ∧
    exec (.chead p q v) s = set (if v.toNat % 16 = 0 ∧ v.toNat < recs then { u with chead := v.toNat } else { u with dberr := true }) ∧
    (v.getLsbD 0 = true → u.en = false → CtlOk v → v.getLsbD 2 = false →
      exec (.qctlEnable p q v) s = set (if u.configOk then
        { ctlFields u v with
          en := true, head := 0, tail := 0, chead := 0, ctail := 0, cfgerr := false, dberr := false, fetcherr := false,
          fetchAt := 0, fetched := [] }
        else { ctlFields u v with en := false, cfgerr := true })) ∧
    (v.getLsbD 0 = false → u.en = true → CtlOk v → v.getLsbD 2 = false →
      exec (.qctlDisable p q v) s = set { ctlFields u v with en := false, fetched := [] }) ∧
    (v.getLsbD 0 = true → u.en = true → CtlOk v → v.getLsbD 2 = true → u.halted = true →
      (v.getLsbD 3 = false → u.qbase.getLsbD 63 = true ∨ s.portLost p (u.qbase.toNat % 2 ^ 52 + u.head) = false →
        exec (.restart p q v) s = set
        { ctlFields u v with en := true, halted := false, fetchAt := u.head, fetched := [] }) ∧
      (v.getLsbD 3 = true → u.qbase.getLsbD 63 = false → s.portLost p (u.qbase.toNat % 2 ^ 52 + u.head) = false →
        let n := field (readCells s.hbm.cells (u.qbase.toNat % 2 ^ 52 + u.head) 16) 2 2
        let next := (u.head + if 1 ≤ n ∧ n ≤ 64 ∧ u.head + 16 * n ≤ size then 16 * n else 16) % size
        exec (.restart p q v) s = set
          { ctlFields u v with en := true, halted := false, head := next, fetchAt := next, fetched := [] })) ∧
    (¬ CtlOk v →
      (v.getLsbD 0 = true → u.en = false → exec (.qctlEnable p q v) s = .next s) ∧
      (v.getLsbD 0 = false → u.en = true → exec (.qctlDisable p q v) s = .next s) ∧
      (v.getLsbD 2 = true → exec (.restart p q v) s = .next s))

/-- R313, R315, R305, R306, R316: DEVNUM takes its first write, LINKCTX a context whose root came through the same port, or 0; a register
write of 8 aligned bytes changes its register, one of 4 its half, one to a late register before STAGE 4 nothing, and any other is an
Unsupported Request, which only the error register of the port shows (a read of another width has no value); a port link trains to the
widest width and the fastest rate that both ends admit. The model's own: an NBASE that is not aligned and a DEVNUM with a higher bit set
are discarded (log entry 51), while NBASE is 0 notices are counted only (log entry 41), and the layout and bit of the error register are
presumed (log entry 92). -/
def Obligations.WindowRegistersAreWritten : Prop :=
  ∀ (p : Fin 2) (v : Word) (s : State), PortUp s p →
    (s.devnum.getLsbD 12 = false → v.toNat < 2 ^ 13 →
      exec (.devnum p v) s = .next { s with devnum := BitVec.ofNat 64 (0x1000 + v.toNat % 0x1000) }) ∧
    (s.devnum.getLsbD 12 = true ∨ 2 ^ 13 ≤ v.toNat → exec (.devnum p v) s = .next s) ∧
    (∀ n : Fin 16,
      let own (w : Word) : Prop := ∃ r, s.region? w = some r ∧ r.ovr.getLsbD 2 = true ∧ r.flags.getLsbD 1 = true ∧ r.port = p.val
      let cur := (s.links.get n).ctx
      ((cur = 0#64 ∧ own v) ∨ (own cur ∧ cur ≠ 0#64 ∧ (v = 0#64 ∨ own v)) →
        exec (.linkctx p n v) s = .next { s with links := s.links.set n { s.links.get n with ctx := v } }) ∧
      (¬ ((cur = 0#64 ∧ own v) ∨ (own cur ∧ cur ≠ 0#64 ∧ (v = 0#64 ∨ own v))) → exec (.linkctx p n v) s = .next s)) ∧
    (∀ off size, ¬ (size = 8 ∧ off % 8 = 0) → ¬ (size = 4 ∧ off % 4 = 0) →
      exec (.hostRegisterWrite p off size v) s = .next (withPort s p fun r => { r with errors := r.errors ||| 0x100000#32 }) ∧
        s.windowRead p off size = none) ∧
    s.windowRead p 0x18 8 = some s.pwrlim ∧
    (∀ i : Fin 8, s.windowRead p (0x204 + 8 * i.val) 4 = some ((s.ports.get p).bootmsg.get i >>> 32)) ∧
    (∀ i : Fin 8, 4 ≤ (s.bootstat.extractLsb' 0 4).toNat →
      exec (.hostRegisterWrite p (0x200 + 8 * i.val) 8 v) s =
        .next (withPort s p fun r => { r with bootmsg := r.bootmsg.set i v }) ∧
      exec (.hostRegisterWrite p (0x140 + 8 * i.val) 8 v) s =
        .next (withPort s p fun r => { r with attnonce := r.attnonce.set i v }) ∧
      exec (.hostRegisterWrite p (0x204 + 8 * i.val) 4 v) s = .next (withPort s p fun r =>
        { r with bootmsg := r.bootmsg.set i (BitVec.ofNat 64 ((r.bootmsg.get i).toNat % 2 ^ 32 + v.toNat % 2 ^ 32 * 2 ^ 32)) })) ∧
    (∀ i : Fin 8, (s.bootstat.extractLsb' 0 4).toNat < 4 → exec (.hostRegisterWrite p (0x200 + 8 * i.val) 8 v) s = .next s) ∧
    exec (.hostRegisterWrite p 0x20 8 v) s =
      .next (if v.toNat % 4096 = 0 then withPort s p fun r => { r with nbase := v } else s) ∧
    ∀ widths rates width rate, width ∈ [16, 8, 4, 1] → rate ∈ [640, 320, 160, 80, 50, 25] → width ∈ widths → rate ∈ rates →
      (∀ x ∈ [16, 8, 4, 1], x ∈ widths → x ≤ width) → (∀ x ∈ [640, 320, 160, 80, 50, 25], x ∈ rates → x ≤ rate) →
      exec (.hostPortLinkTraining p widths rates) s = .next (withPort s p fun r => { r with width := width, rate := rate })

/-- R326: PWRLIM resets to 2,400; a write that sets a bit above 11 leaves it unchanged and any other is clamped to 1,200 to 2,400,
through the register's event and as an 8-byte write of its address alike, and every bit above 11 is zero after a write that changes
it; no other register of the window changes. -/
def Obligations.PowerLimitIsClamped : Prop :=
  State.reset.pwrlim = 2400#64 ∧
  ∀ (p : Fin 2) (v : Word) (s : State), PortUp s p →
    ∀ i ∈ [Instr.pwrlim p v, .hostRegisterWrite p 0x18 8 v],
      (2 ^ 12 ≤ v.toNat → exec i s = .next s) ∧
      (v.toNat < 2 ^ 12 → exec i s = .next { s with pwrlim := BitVec.ofNat 64 (min (max v.toNat 1200) 2400) } ∧
        min (max v.toNat 1200) 2400 < 2 ^ 12)

/-- R319, R318: ATTCMD_REPORT and ATTCMD_CHAIN set BUSY, and a command while it is set is discarded; then the output lands at ATTADDR and
its length in ATTSTAT with DONE, or an error where MAXLEN is too small or the write fails; the report is a head of 256 bytes and its
signature under the identity key, the chain the root, device and identity certificates. R323, R320: BOOTGO = 1 sends the boot message, a6 replaced by BOOTREG, to
mailbox 0 of the core that BOOTCORE names in the region, with BUSY set, and reads status 3 where there is none. The model's own: DONE is
set beside ERR (log entry 72), BOOTGO of another value than 1 is discarded (log entry 93), and status 3 for a region that is not known
(log entry 52). -/
def Obligations.AttestationAndBootMessages : Prop :=
  ∀ (p : Fin 2) (v : Word) (s : State), Booted s p →
    let r := s.ports.get p
    let head := [0x41#8, 0x54#8, 0x54#8, 0x52#8] ++ natBytes 2 1 ++ natBytes 2 (s.devnum.toNat % 2 ^ 12) ++ natBytes 8 s.bootstat.toNat ++
      (r.attnonce.toList.flatMap fun w => natBytes 8 w.toNat) ++ (Config.romDigest ++ List.replicate 64 0#8).take 64 ++
      (s.firmware ++ List.replicate 64 0#8).take 64 ++ List.replicate 48 0#8
    let key := Config.identityKey Config.deviceSecret s.firmware
    let report := head ++ (Config.pssSign key head ++ List.replicate 512 0#8).take 512
    let chain := Config.rootCertificate ++ Config.deviceCertificate Config.deviceSecret ++ Config.identityCertificate Config.deviceSecret key
    let max := v.toNat / 2 ^ 16 % 2 ^ 16
    (∀ i ∈ [(Instr.attcmdReport p v, 1), (.attcmdChain p v, 2)], v.toNat = i.2 + max * 2 ^ 16 →
      (r.attstat.getLsbD 0 = false → exec i.1 s = .next (withPort s p fun r => { r with attcmd := v, attstat := 1#64 })) ∧
      (r.attstat.getLsbD 0 = true → exec i.1 s = .next s)) ∧
    (∀ l, s.turns = .attest p :: l → r.attstat.getLsbD 0 = true → ∀ i ∈ [(1#2, report), (2#2, chain)],
      r.attcmd.extractLsb' 0 2 = i.1 →
      ∃ t, step s = .next t ∧ (t.ports.get p).attcmd = r.attcmd ∧
        (((t.ports.get p).attstat = 6#64 ∧ (t.ports.get p).host = r.host) ∨
          (i.2.length ≤ 64 * (r.attcmd.extractLsb' 16 16).toNat ∧
            (t.ports.get p).attstat = BitVec.ofNat 64 (2 + i.2.length % 65536 * 2 ^ 32) ∧
            (t.ports.get p).host = writeCells r.host r.attaddr.toNat i.2))) ∧
    (r.bootstatus.getLsbD 0 = false →
      (∀ b c, s.region? r.bootreg = some b → b.port = p.val → s.resolve r.bootreg (r.bootcore.truncate 12) = some c →
        exec (.bootgo p 1#64) s = .next ((withPort s p fun r => { r with bootstatus := 1#64 }).modCore c fun k =>
          { k with loader := k.loader ++ [((r.bootmsg.set 5 r.bootreg).toList, p.val, 0)] })) ∧
      (s.region? r.bootreg = none → exec (.bootgo p 1#64) s = .next (withPort s p fun r => { r with bootstatus := 0x30#64 }))) ∧
    (v ≠ 1#64 ∨ r.bootstatus.getLsbD 0 = true → exec (.bootgo p v) s = .next s)

/-- R316, R317: BOOT takes the next stage on the die whose ROM boots: image A, else image B, verified, the dies that come up noted and the
others failed, the image's body from offset 0 of the supervisors' private SRAM on where they start (the model's assumption 7), the
fused SVN raised at stage 4; an error stops it. BOOT_FALLBACK hands the boot to die 15. R18, R139, R150, R178: DIE_RESET starts CYC at 0
with planes, semaphores and CONFLICTS clear; R325, R142: JUNCTION_LIMIT and SCRUB change no result. The model's own: ERROR of image B where
both fail, stage plus 3 for a later error, and ERROR 0 after BOOT_FALLBACK (log entry 71), the mark that idle clocks are inserted (log
entry 78), and a core number above 4,095 that names no agent (log entry 11). -/
def Obligations.DevicesBootResetAndScrub : Prop :=
  (∀ (die : Fin 16) (r : BootResult) (s : State),
    let stage := (s.bootstat.extractLsb' 0 4).toNat
    let dies := s.bootstat.extractLsb' 16 16
    let svn := (s.bootstat.extractLsb' 32 8).toNat
    let word (err sv : Nat) (ds : BitVec 16) (st : Nat) : Word := BitVec.ofNat 64 (err * 2 ^ 40 + sv * 2 ^ 32 + ds.toNat * 2 ^ 16 + st)
    let a := Config.flashImage false
    let b := Config.flashImage true
    (die ≠ s.bootDie ∨ s.bootstat.extractLsb' 40 8 ≠ 0#8 ∨ 4 ≤ stage → exec (.boot die r) s = .next (s.res .stutter)) ∧
    (die = s.bootDie → s.bootstat.extractLsb' 40 8 = 0#8 →
      (stage = 0 → imageError a svn = 0 → exec (.boot die r) s =
        .next { s with bootstat := word 0 svn dies 1, firmware := Config.sha512 (imageBody a), bootImageB := false }) ∧
      (stage = 0 → imageError a svn ≠ 0 → imageError b svn = 0 → exec (.boot die r) s =
        .next { s with bootstat := word 0 svn dies 1, firmware := Config.sha512 (imageBody b), bootImageB := true }) ∧
      (stage = 0 → imageError a svn ≠ 0 → imageError b svn ≠ 0 → exec (.boot die r) s =
        .next { s with bootstat := word (imageError b svn) svn dies 0 }) ∧
      (∀ ds, (stage = 1 ∨ stage = 2) → r = .passes ds →
        let now := if stage = 1 then ds else dies &&& ds
        ∃ t, exec (.boot die r) s = .next t ∧ t.bootstat = word 0 svn now (stage + 1) ∧
          (∀ d, d < 16 → (t.die d).health = if now.getLsbD d then (s.die d).health else .failed) ∧
          (stage = 2 → ∀ c, c < 64 → (t.cluster c).sup.sram = writeCells (s.cluster c).sup.sram 0
            ((imageBody (Config.flashImage s.bootImageB)).take 0x80000))) ∧
      (∀ ds, stage = 3 → r = .passes ds → exec (.boot die r) s = .next { s with
        bootstat := word 0 (max svn (field (Config.flashImage s.bootImageB) 6 1)) dies 4 }) ∧
      (∀ c, (stage = 1 ∨ stage = 2) → r = .error c → exec (.boot die r) s = .next { s with bootstat := word (stage + 3) svn dies stage })) ∧
    (s.bootDie = 0 → stage = 0 → exec .bootFallback s = .next { s with bootstat := word 0 svn dies 0, bootDie := 15 }) ∧
    (s.bootDie ≠ 0 ∨ stage ≠ 0 → exec .bootFallback s = .next (s.res .stutter))) ∧
  (∀ (die : Fin 16) (s : State),
    ((s.die die.val).up = false → ∃ t, exec (.dieReset die) s = .next t ∧ (t.die die.val).up = true ∧ (t.die die.val).cyc = 0#64 ∧
      (∀ c, (t.core c).sram = (s.core c).sram) ∧ ∀ c, c / 256 = die.val → (t.core c).sems = Vector.replicate 64 0#64 ∧
        (t.core c).planes = Vector.replicate 4 ⟨0#131072, 0#2, false⟩ ∧ (t.core c).conflicts = 0#64) ∧
    ((s.die die.val).up = true → exec (.dieReset die) s = .next (s.res .stutter)) ∧
    exec (.junctionLimit die) s = .next (s.modDie die.val fun v => { v with idle := true })) ∧
  ∀ (core : Nat) (group : Fin 4) (s : State),
    (4096 ≤ core → exec (.scrub core group) s = .fault .noSuchAgent) ∧
    (core < 4096 → ∃ t n, exec (.scrub core group) s = .next t ∧ SameMemory s t ∧ (∀ c m, t.strand c m = s.strand c m) ∧
      t.core core = { s.core core with scrub := (s.core core).scrub.set group n })

/-- R314: LINK_TRAINING begins at STAGE 3 or later with DEVNUM set, brings the link up with its peer's numbers, and fails after the
third failure in a row or where the peer's number is this device's own; a command that held since the link failed goes on when it is
up; a loss of lock trains again; R22: a link-level retry is counted,
saturating. R212, R213, R315: a piece from a peer is translated through the context bound to its link, the bytes of a write land in HBM, with
their poison, unless their route crosses a failed die (R25), and a refusal changes nothing. That the training of a failed link may begin again, and that a link
whose peer reports this device's own number fails, are the model's deductions (log entry 67), as is a peer's piece cut at its word (log
entry 74). -/
def Obligations.DeviceLinksTrainCountAndCarry : Prop :=
  ∀ (n : Fin 16) (s : State),
    let v := s.links.get n
    let set (w : Link) : Host.Outcome State Fault Refusal := .next { s with links := s.links.set n w }
    let begins := 3 ≤ (s.bootstat.extractLsb' 0 4).toNat ∧ s.devnum.getLsbD 12 = true ∧ (v.st = 0#2 ∨ v.st = 3#2) ∧
      (s.die n.val).health ≠ .failed
    (begins → exec (.linkTraining n .begins) s = set { v with st := 1#2, fails := 0 }) ∧
    (¬ begins → exec (.linkTraining n .begins) s = .next (s.res .stutter)) ∧
    (∀ dev link, v.st = 1#2 →
      (dev.toNat ≠ s.devnum.toNat % 4096 →
        ∃ t, exec (.linkTraining n (.comesUp dev link)) s = .next t ∧ SameMemory s t ∧
          t.links.get n = { v with st := 2#2, peerDev := dev, peerLink := link, fails := 0, known := true } ∧
          ∀ core slot c f, (s.core core).cmdAt slot = some c → c.phase = .held → c.fault = some f → f.lost = true →
            f.addr.extractLsb' 60 4 = 4#4 → f.addr.extractLsb' 56 4 = BitVec.ofNat 4 n.val →
            (t.core core).cmdAt slot = some { c with phase := .flight, fault := none }) ∧
      (dev.toNat = s.devnum.toNat % 4096 → ∃ t, exec (.linkTraining n (.comesUp dev link)) s = .next t ∧
        (t.links.get n).st = 3#2 ∧ SameMemory s t)) ∧
    (v.st = 1#2 → v.fails < 2 → exec (.linkTraining n .attemptFails) s = set { v with fails := v.fails + 1 }) ∧
    (v.st = 1#2 → 2 ≤ v.fails → ∃ t, exec (.linkTraining n .attemptFails) s = .next t ∧ (t.links.get n).st = 3#2 ∧ SameMemory s t ∧
      ∀ x ∈ s.packets, ∀ c, x.at_ = .link n → s.coll? x.coll = some c → s.region? c.regid ≠ none →
        ∀ y ∈ s.tasks, y.regid = c.regid → ∃ z ∈ t.tasks, z.key = y.key ∧ z.st = .ended) ∧
    (v.st = 2#2 → exec (.linkLossOfLock n) s = set { v with st := 1#2, fails := 0 }) ∧
    (v.st ≠ 2#2 → exec (.linkLossOfLock n) s = .next (s.res .stutter)) ∧
    exec (.linkLevelRetry n) s = set { v with retries := BitVec.ofNat 32 (min (v.retries.toNat + 1) (2 ^ 32 - 1)) } ∧
    ∀ (va : BitVec 52) (write : Bool) (data : PeerBytes),
      (v.st ≠ 2#2 → exec (.tag4PieceArrival n va write data) s = .next (s.res .stutter)) ∧
      (v.st = 2#2 → v.ctx = 0#64 ∨ (∃ k l e, s.walkVa v.ctx va.toNat write = .fault k l e) ∨ write = false →
        exec (.tag4PieceArrival n va write data) s = .next s) ∧
      ∀ pa size rd w, v.st = 2#2 → v.ctx ≠ 0#64 → s.walkVa v.ctx va.toNat true = .page pa size rd w → write = true →
        let a := pa + va.toNat % size
        let l := data.bytes.take (8 - a % 8)
        let lost := s.routeDead n.val (Loc.die ⟨.hbm, a⟩)
        (lost = true → exec (.tag4PieceArrival n va write data) s = .next s) ∧
        (lost = false → exec (.tag4PieceArrival n va write data) s =
          .next { s with hbm := if data.poison then s.hbm.writePoisoned a l else s.hbm.write a l })

namespace Sys2Proof.Claims

/-- The state in which counter `k` of strand `n` of core `c` acts, with `rest` of the schedule left (the model's assumption 1). -/
def acting (s : State) (rest : List Turn) (c : Nat) (n : Fin 4) (k : Ctr) : State :=
  { s with
    turns := rest, tick := s.tick + 1
    cur := { s.cur with core := c, strand := n, ctr := k, pc := (s.strand c n).pc k, phase := .single, ext := none, rotw := false,
                        numver := (s.strand c n).numver, ahead := 0, flags := (s.strand c n).fpPend.length, res := .none } }

/-- The four bytes at the counter's place, and the word they hold. -/
def bytesAt (s : State) (c : Nat) (n : Fin 4) (k : Ctr) : List Byte :=
  readCells (s.core c).sram.cells ((s.strand c n).pc k).toNat 4
def wordOf (s : State) (c : Nat) (n : Fin 4) (k : Ctr) : BitVec 32 := BitVec.ofNat 32 (leNat (bytesAt s c n k))

/-- The tag that makes a word the other counter's (R33). -/
def otherTag (k : Ctr) : BitVec 2 := match k with | .a => 2#2 | .x => 1#2

/-- passed of a counter less that of its partner. -/
def lead (u : Strand) (k : Ctr) : Int := match k with | .a => (u.passedA - u.passedX).toInt | .x => -(u.passedA - u.passedX).toInt

/-- The turn is that of counter `k`, which runs and stands where it may pass a word (R32, R36, R37). -/
def Runs (s : State) (rest : List Turn) (c : Nat) (n : Fin 4) (k : Ctr) : Prop :=
  let u := s.strand c n
  s.turns = .counter c n k :: rest ∧ c < 4096 ∧ u.task ≠ 0 ∧ u.stopped = false ∧ (k = .x → u.xstop = .no) ∧
    (k = .a → u.orgA = none) ∧ (k = .x → u.orgX = none) ∧ lead u k + 1 ≤ u.slipw.toNat

/-- Its place lies in its task's text, and the word there is not poisoned (R36, R141). -/
def Fetches (s : State) (c : Nat) (n : Fin 4) (k : Ctr) : Prop :=
  let u := s.strand c n
  (s.textOf u).1 ≤ (u.pc k).toNat ∧ (u.pc k).toNat < (s.textOf u).2 ∧ Clean (s.core c).sram (u.pc k).toNat 4

/-- The words that change bytes of local SRAM, HBM or a pool themselves: AMO, CAS and, by clearing or loading a core, DISP. -/
def storesNow : Instr → Bool
  | .amo _ _ _ _ _ _ _ => true
  | .cas _ _ _ _ _ => true
  | .disp _ _ _ => true
  | _ => false

/-- PWRLIM between 1,200 and 2,400 (R326); DEVNUM in 13 bits, and 0 until it is set (R313); a ROM of die 0 or 15 boots (R316). -/
def LegalRegisters (s : State) : Prop :=
  1200 ≤ s.pwrlim.toNat ∧ s.pwrlim.toNat ≤ 2400 ∧ s.devnum.toNat < 2 ^ 13 ∧ (s.devnum.getLsbD 12 = false → s.devnum = 0#64) ∧
    (s.bootDie = 0 ∨ s.bootDie = 15)

end Sys2Proof.Claims

/-- R59 to R82, R265: the word of every well-formed instruction that has one decodes to that instruction, with every operand at every
value that its row admits. -/
def Obligations.EveryWellFormedWordIsReadBack : Prop :=
  ∀ (i : Instr) (w : BitVec 32), i.WellFormed → encode i = some w → decodeTableWord 32 w.toNat = some i

/-- R60, R72, R1: bytes that decode hold the word of a well-formed instruction, lowest byte first, so each word has one meaning and every
other word is refused; the same for the supervisor's words. -/
def Obligations.DecodedBytesAreTheInstructionsWord : Prop :=
  ∀ (l : List Byte) (i : Instr) (rest : List Byte), decode l = .ok (i, rest) ∨ decodeSup l = .ok (i, rest) →
    i.WellFormed ∧ ∃ w, encode i = some w ∧
      l = [w.extractLsb' 0 8, w.extractLsb' 8 8, w.extractLsb' 16 8, w.extractLsb' 24 8] ++ rest

/-- R333, R340, R375, R396, R356, R359, R441, R399, R389, R397, R430: words that the spec writes out in the entries of these rules decode
to the instruction that it names: ADD, ADDI, BRKL, LD, QSND, EXIT, FADD, XRCV, SEMINC, MZERO, RESIDE and VMOVI. -/
def Obligations.WorkedWordsDecode : Prop :=
  decodeTableWord 32 0x02321401 = some (.add 3 4 5 .both 1) ∧
  decodeTableWord 32 0x0463000B = some (.addi 6 6 1 .acc 1) ∧
  decodeTableWord 32 0x34000001 = some (.brkl 0 .both 1) ∧
  decodeTableWord 32 0x8050841B = some (.ld 5 1 16 3 1) ∧
  decodeTableWord 32 0x94028003 = some (.qsnd 0 5 1) ∧
  decodeTableWord 32 0xC200001B = some .exit ∧
  decodeTableWord 32 0x80319005 = some (.fadd 3 3 4 0 0 1) ∧
  decodeTableWord 32 0x8C300005 = some (.xrcv 3 0 1) ∧
  decodeTableWord 32 0xA000802B = some (.seminc 1 5 1) ∧
  decodeTableWord 32 0xB000001B = some (.mzero 3 1) ∧
  decodeTableWord 32 0xBA321403 = some (.reside 3 4 5 1) ∧
  decodeTableWord 32 0xCE100005 = some (.vmovi 1 0 1)

/-- R33, R34, R56: a turn of a counter whose next word decodes to an instruction of its own, and holds no earlier word of a group, runs
that instruction; a turn of a supervisor of a die in service runs the word of its extension at its pc in private SRAM, and one whose pc
lies beyond takes an instruction access fault (R17; the model's log entries 7 and 8); a turn of any other agent runs its event; with an empty schedule the
arbiter names the turn (the model's assumption 1). -/
def Obligations.StepRunsTheDecodedInstruction : Prop :=
  (∀ (s : State) (rest : List Turn) (c : Nat) (n : Fin 4) (k : Ctr) (i : Instr),
    let u := s.strand c n
    Runs s rest c n k → Fetches s c n k → decode (bytesAt s c n k) = .ok (i, []) →
    (wordOf s c n k).extractLsb' 1 2 ≠ otherTag k → u.held k = none →
    endsGroup i = true ∨ firstIllegal u k (u.pc k) i = false →
    step s = exec i (acting s rest c n k)) ∧
  (∀ (s : State) (rest : List Turn) (c : Nat) (i : Instr),
    let u := (s.cluster c).sup
    SupRuns s rest c → decodeSup (readCells u.sram u.pc.toNat 4) = .ok (i, []) → step s = exec i (supActing s rest c)) ∧
  (∀ (s : State) (rest : List Turn) (c : Nat),
    let u := (s.cluster c).sup
    s.turns = .supervisor c :: rest → c < 64 → (s.die (c / 4)).health ∈ [.healthy, .degraded] → 0x80000 ≤ u.pc.toNat →
    u.mode = .m ∨ u.medeleg.getLsbD 1 = false → SupStepTraps s rest c 1 u.pc) ∧
  (∀ (s : State) (rest : List Turn) (i : Instr), s.turns = .event i :: rest → encode i = none →
    step s = exec i { s with turns := rest, tick := s.tick + 1, cur := { s.cur with res := .none } }) ∧
  ∀ s : State, s.turns = [] → step s = step { s with turns := [Config.arbiter s.tick] }

/-- R33, R71, R67: at the second word of a group both words take effect, the first before the second, or neither: a cause of either is
taken in the state before the group, and while either waits nothing of the machine changes; a QUEUE-FAULT of the first waits with the
second (R39, R413). A read of the group goes back, should it meet POISON, to the state before the group (R368), or behind a word whose
effect others see to the point between the two, which the model deduces (log entry 20). -/
def Obligations.GroupsOfTwoIssueWholeOrNotAtAll : Prop :=
  ∀ (s : State) (rest : List Turn) (c : Nat) (n : Fin 4) (k : Ctr) (pc1 : BitVec 22) (i1 i : Instr),
    let u := s.strand c n
    let s0 := acting s rest c n k
    let first := exec i1 { s0 with cur := { s0.cur with
      pc := pc1, phase := .first, ahead := if readsLate i = true ∧ solid i1 = false then 1 else 0 } }
    let second (s1 : State) := exec i { s1 with cur := { s1.cur with pc := u.pc k, phase := .second, ahead := 0, res := .none } }
    Runs s rest c n k → Fetches s c n k → decode (bytesAt s c n k) = .ok (i, []) →
    (wordOf s c n k).extractLsb' 1 2 ≠ otherTag k → u.held k = some (pc1, i1) →
    (secondIllegal u i1 i = true → step s = .next (s0.deliver (u.pc k) 1 0#16)) ∧
    (secondIllegal u i1 i = false → lead u k + 2 ≤ u.slipw.toNat →
      (∀ s1 s2, first = .next s1 → s1.cur.res = .issued → second s1 = .next s2 → s2.cur.res = .issued →
        ∃ m : Strand, m.uncounted = (u.restamp s2.me).uncounted ∧ step s = .next ((s2.setMe m).res .issued)) ∧
      (∀ s1 s2 to_, first = .next s1 → s1.cur.res = .issued → second s1 = .next s2 → s2.cur.res = .jump to_ →
        ∃ m : Strand, m.uncounted = (u.restamp s2.me).uncounted ∧ step s = .next ((s2.setMe m).res .issued)) ∧
      (∀ s1 p x d, first = .next s1 → s1.cur.res = .trapped p x d →
        (x ≠ 5 ∨ ∀ s2, second s1 = .next s2 → s2.cur.res ≠ .waiting) → step s = .next (s0.deliver p x d)) ∧
      (∀ s1 s2 p d, first = .next s1 → s1.cur.res = .trapped p 5 d → second s1 = .next s2 → s2.cur.res = .waiting →
        step s = .next (s0.res .waiting)) ∧
      (∀ s1 s2 p x d, first = .next s1 → s1.cur.res = .issued → second s1 = .next s2 → s2.cur.res = .trapped p x d →
        step s = .next (s0.deliver p x d)) ∧
      (∀ s1, first = .next s1 → s1.cur.res = .waiting → step s = .next (s0.res .waiting)) ∧
      ∀ s1 s2, first = .next s1 → s1.cur.res = .issued → second s1 = .next s2 → s2.cur.res = .waiting →
        step s = .next (s0.res .waiting))

/-- R33, R44, R60, R36, R141, R32: a counter passes over a word of the other counter, which changes nothing but its place, its count
and its loop levels; an execute counter stops at a word holding EXIT or ERET; a word that no row admits, and a place outside the text,
raise ILLEGAL-ENCODING at it, and a poisoned word POISON. That a gathered word held at the stop is dropped, and that the trap outside
the text waits for slip room as a word does, are the model's choices (log entry 94). -/
def Obligations.WordsThatAreNotExecuted : Prop :=
  ∀ (s : State) (rest : List Turn) (c : Nat) (n : Fin 4) (k : Ctr),
    let u := s.strand c n
    let s0 := acting s rest c n k
    let w := wordOf s c n k
    Runs s rest c n k →
    (Fetches s c n k → w.extractLsb' 1 2 = otherTag k → u.held k = none →
      (k = .x → w >>> 1 ≠ 0xC200001B#32 >>> 1 ∧ w >>> 1 ≠ 0xC200002B#32 >>> 1) →
      ∃ m : Strand, m.uncounted = u.uncounted ∧ m.passed k = u.passed k + 1#64 ∧ (∀ j, j ≠ k → m.pc j = u.pc j) ∧
        step s = .next ((s0.setMe m).res .issued)) ∧
    (Fetches s c n k → k = .x →
      (w >>> 1 = 0xC200001B#32 >>> 1 → step s = .next ((s0.modMe fun v => { v with xstop := .exit, heldX := none }).res .waiting)) ∧
      (w >>> 1 = 0xC200002B#32 >>> 1 → step s = .next ((s0.modMe fun v => { v with xstop := .eret, heldX := none }).res .waiting))) ∧
    (∀ r, Fetches s c n k → w.extractLsb' 1 2 ≠ otherTag k → decode (bytesAt s c n k) = .error r →
      step s = .next (s0.deliver (u.pc k) 1 0#16)) ∧
    (¬ ((s.textOf u).1 ≤ (u.pc k).toNat ∧ (u.pc k).toNat < (s.textOf u).2) → step s = .next (s0.deliver (u.pc k) 1 0#16)) ∧
    ((s.textOf u).1 ≤ (u.pc k).toNat → (u.pc k).toNat < (s.textOf u).2 → ¬ Clean (s.core c).sram (u.pc k).toNat 4 →
      step s = .next (s0.deliver (u.pc k) 4 0#16))

/-- R316, R313, R326, R314, R18, R150, R178, R139, R223, R262: what reset leaves where the spec says it: STAGE and ERROR 0 and the fused
SVN, DEVNUM 0, PWRLIM 2,400, links down, CYC, planes, semaphores, CONFLICTS and INJECT zero, and every slot free; the registers' legal ranges
hold there. -/
def Obligations.ResetLeavesTheStatedValues : Prop :=
  State.reset.bootstat = BitVec.ofNat 64 (Config.fusedSvn.toNat * 2 ^ 32) ∧ State.reset.devnum = 0#64 ∧ State.reset.pwrlim = 2400#64 ∧
    (∀ n, (State.reset.links.get n).st = 0#2) ∧ (∀ d, (State.reset.die d).cyc = 0#64) ∧
    (∀ c, (State.reset.core c).sems = Vector.replicate 64 0#64 ∧ (State.reset.core c).conflicts = 0#64 ∧
      (State.reset.core c).inject = 0#64 ∧ (State.reset.core c).slot = .free ∧
      ∀ p, ((State.reset.core c).planes.get p).bits = 0#131072 ∧ ((State.reset.core c).planes.get p).poisoned = false) ∧
    LegalRegisters State.reset

/-- R184, R185, R138: no instruction word but AMO, CAS and DISP changes a byte of local SRAM, HBM or a pool when it runs: stores wait in the store buffer
and commands in the queues of their engines. -/
def Obligations.InstructionWordsChangeNoByteThemselves : Prop :=
  ∀ (i : Instr) (w : BitVec 32) (s t : State), encode i = some w → storesNow i = false → exec i s = .next t → SameMemory s t

/-- R326, R313, R316: every step keeps PWRLIM between 1,200 and 2,400, DEVNUM in its 13 bits and 0 until it is set, and the boot on die
0 or 15. -/
def Obligations.EveryStepKeepsTheLegalRegisters : Prop :=
  ∀ s t : State, LegalRegisters s → step s = .next t → LegalRegisters t
end

