-- ==== Sys2Proof/Laws/Exec.lean ====
section
/-! SUPPORT. Sys2Proof/Laws/Exec.lean: exec of each constructor is its meaning. -/

set_option Elab.async false

namespace Sys2Proof.Machine

@[simp] theorem exec_nop (g : Tag) (e : BitVec 1) (s : State) :
    exec (.nop g e) s = execNop g e s := rfl
@[simp] theorem exec_add (d a b : BitVec 5) (g : Tag) (e : BitVec 1) (s : State) :
    exec (.add d a b g e) s = execAdd d a b g e s := rfl
@[simp] theorem exec_sub (d a b : BitVec 5) (g : Tag) (e : BitVec 1) (s : State) :
    exec (.sub d a b g e) s = execSub d a b g e s := rfl
@[simp] theorem exec_and (d a b : BitVec 5) (g : Tag) (e : BitVec 1) (s : State) :
    exec (.and d a b g e) s = execAnd d a b g e s := rfl
@[simp] theorem exec_or (d a b : BitVec 5) (g : Tag) (e : BitVec 1) (s : State) :
    exec (.or d a b g e) s = execOr d a b g e s := rfl
@[simp] theorem exec_xor (d a b : BitVec 5) (g : Tag) (e : BitVec 1) (s : State) :
    exec (.xor d a b g e) s = execXor d a b g e s := rfl
@[simp] theorem exec_shl (d a b : BitVec 5) (g : Tag) (e : BitVec 1) (s : State) :
    exec (.shl d a b g e) s = execShl d a b g e s := rfl
@[simp] theorem exec_shr (d a b : BitVec 5) (g : Tag) (e : BitVec 1) (s : State) :
    exec (.shr d a b g e) s = execShr d a b g e s := rfl
@[simp] theorem exec_sra (d a b : BitVec 5) (g : Tag) (e : BitVec 1) (s : State) :
    exec (.sra d a b g e) s = execSra d a b g e s := rfl
@[simp] theorem exec_slt (d a b : BitVec 5) (g : Tag) (e : BitVec 1) (s : State) :
    exec (.slt d a b g e) s = execSlt d a b g e s := rfl
@[simp] theorem exec_sltu (d a b : BitVec 5) (g : Tag) (e : BitVec 1) (s : State) :
    exec (.sltu d a b g e) s = execSltu d a b g e s := rfl
@[simp] theorem exec_minS64 (d a b : BitVec 5) (g : Tag) (e : BitVec 1) (s : State) :
    exec (.minS64 d a b g e) s = execMinS64 d a b g e s := rfl
@[simp] theorem exec_minZ64 (d a b : BitVec 5) (g : Tag) (e : BitVec 1) (s : State) :
    exec (.minZ64 d a b g e) s = execMinZ64 d a b g e s := rfl
@[simp] theorem exec_maxS64 (d a b : BitVec 5) (g : Tag) (e : BitVec 1) (s : State) :
    exec (.maxS64 d a b g e) s = execMaxS64 d a b g e s := rfl
@[simp] theorem exec_maxZ64 (d a b : BitVec 5) (g : Tag) (e : BitVec 1) (s : State) :
    exec (.maxZ64 d a b g e) s = execMaxZ64 d a b g e s := rfl
@[simp] theorem exec_mul (d a b : BitVec 5) (g : Tag) (e : BitVec 1) (s : State) :
    exec (.mul d a b g e) s = execMul d a b g e s := rfl
@[simp] theorem exec_mulhS64 (d a b : BitVec 5) (g : Tag) (e : BitVec 1) (s : State) :
    exec (.mulhS64 d a b g e) s = execMulhS64 d a b g e s := rfl
@[simp] theorem exec_mulhZ64 (d a b : BitVec 5) (g : Tag) (e : BitVec 1) (s : State) :
    exec (.mulhZ64 d a b g e) s = execMulhZ64 d a b g e s := rfl
@[simp] theorem exec_madd (d a b : BitVec 5) (g : Tag) (e : BitVec 1) (s : State) :
    exec (.madd d a b g e) s = execMadd d a b g e s := rfl
@[simp] theorem exec_addi (d a : BitVec 5) (imm : BitVec 12) (g : Tag) (e : BitVec 1) (s : State) :
    exec (.addi d a imm g e) s = execAddi d a imm g e s := rfl
@[simp] theorem exec_andi (d a : BitVec 5) (imm : BitVec 12) (g : Tag) (e : BitVec 1) (s : State) :
    exec (.andi d a imm g e) s = execAndi d a imm g e s := rfl
@[simp] theorem exec_ori (d a : BitVec 5) (imm : BitVec 12) (g : Tag) (e : BitVec 1) (s : State) :
    exec (.ori d a imm g e) s = execOri d a imm g e s := rfl
@[simp] theorem exec_xori (d a : BitVec 5) (imm : BitVec 12) (g : Tag) (e : BitVec 1) (s : State) :
    exec (.xori d a imm g e) s = execXori d a imm g e s := rfl
@[simp] theorem exec_shlImm (d a : BitVec 5) (c : BitVec 6) (g : Tag) (e : BitVec 1) (s : State) :
    exec (.shlImm d a c g e) s = execShlImm d a c g e s := rfl
@[simp] theorem exec_shrImm (d a : BitVec 5) (c : BitVec 6) (g : Tag) (e : BitVec 1) (s : State) :
    exec (.shrImm d a c g e) s = execShrImm d a c g e s := rfl
@[simp] theorem exec_sraImm (d a : BitVec 5) (c : BitVec 6) (g : Tag) (e : BitVec 1) (s : State) :
    exec (.sraImm d a c g e) s = execSraImm d a c g e s := rfl
@[simp] theorem exec_bfxZ64 (d a : BitVec 5) (w l : BitVec 6) (g : Tag) (e : BitVec 1) (s : State) :
    exec (.bfxZ64 d a w l g e) s = execBfxZ64 d a w l g e s := rfl
@[simp] theorem exec_bfxS64 (d a : BitVec 5) (w l : BitVec 6) (g : Tag) (e : BitVec 1) (s : State) :
    exec (.bfxS64 d a w l g e) s = execBfxS64 d a w l g e s := rfl
@[simp] theorem exec_bfi (d a : BitVec 5) (w l : BitVec 6) (g : Tag) (e : BitVec 1) (s : State) :
    exec (.bfi d a w l g e) s = execBfi d a w l g e s := rfl
@[simp] theorem exec_lui (d : BitVec 5) (imm : BitVec 17) (g : Tag) (e : BitVec 1) (s : State) :
    exec (.lui d imm g e) s = execLui d imm g e s := rfl
@[simp] theorem exec_limm (x : BitVec 22) (g : Tag) (s : State) :
    exec (.limm x g) s = execLimm x g s := rfl
@[simp] theorem exec_csrr (d : BitVec 5) (c : BitVec 12) (g : Tag) (e : BitVec 1) (s : State) :
    exec (.csrr d c g e) s = execCsrr d c g e s := rfl
@[simp] theorem exec_csrw (a : BitVec 5) (c : BitVec 12) (g : Tag) (e : BitVec 1) (s : State) :
    exec (.csrw a c g e) s = execCsrw a c g e s := rfl
@[simp] theorem exec_br (o : BitVec 22) (g : Tag) (e : BitVec 1) (s : State) :
    exec (.br o g e) s = execBr o g e s := rfl
@[simp] theorem exec_call (o : BitVec 22) (g : Tag) (e : BitVec 1) (s : State) :
    exec (.call o g e) s = execCall o g e s := rfl
@[simp] theorem exec_ret (g : Tag) (e : BitVec 1) (s : State) :
    exec (.ret g e) s = execRet g e s := rfl
@[simp] theorem exec_beq (a b : BitVec 5) (o : BitVec 12) (g : Tag) (e : BitVec 1) (s : State) :
    exec (.beq a b o g e) s = execBeq a b o g e s := rfl
@[simp] theorem exec_bne (a b : BitVec 5) (o : BitVec 12) (g : Tag) (e : BitVec 1) (s : State) :
    exec (.bne a b o g e) s = execBne a b o g e s := rfl
@[simp] theorem exec_blt (a b : BitVec 5) (o : BitVec 12) (g : Tag) (e : BitVec 1) (s : State) :
    exec (.blt a b o g e) s = execBlt a b o g e s := rfl
@[simp] theorem exec_bge (a b : BitVec 5) (o : BitVec 12) (g : Tag) (e : BitVec 1) (s : State) :
    exec (.bge a b o g e) s = execBge a b o g e s := rfl
@[simp] theorem exec_bltu (a b : BitVec 5) (o : BitVec 12) (g : Tag) (e : BitVec 1) (s : State) :
    exec (.bltu a b o g e) s = execBltu a b o g e s := rfl
@[simp] theorem exec_bgeu (a b : BitVec 5) (o : BitVec 12) (g : Tag) (e : BitVec 1) (s : State) :
    exec (.bgeu a b o g e) s = execBgeu a b o g e s := rfl
@[simp] theorem exec_loop (l : BitVec 2) (a : BitVec 5) (n : BitVec 12) (g : Tag) (e : BitVec 1) (s : State) :
    exec (.loop l a n g e) s = execLoop l a n g e s := rfl
@[simp] theorem exec_brkl (l : BitVec 2) (g : Tag) (e : BitVec 1) (s : State) :
    exec (.brkl l g e) s = execBrkl l g e s := rfl
@[simp] theorem exec_ld (d a : BitVec 5) (o : BitVec 9) (t : BitVec 3) (e : BitVec 1) (s : State) :
    exec (.ld d a o t e) s = execLd d a o t e s := rfl
@[simp] theorem exec_ldAcq (d a : BitVec 5) (o : BitVec 9) (t : BitVec 3) (e : BitVec 1) (s : State) :
    exec (.ldAcq d a o t e) s = execLdAcq d a o t e s := rfl
@[simp] theorem exec_st (d a : BitVec 5) (o : BitVec 9) (t : BitVec 2) (e : BitVec 1) (s : State) :
    exec (.st d a o t e) s = execSt d a o t e s := rfl
@[simp] theorem exec_stRel (d a : BitVec 5) (o : BitVec 9) (t : BitVec 2) (e : BitVec 1) (s : State) :
    exec (.stRel d a o t e) s = execStRel d a o t e s := rfl
@[simp] theorem exec_amo (d a b : BitVec 5) (u z : BitVec 1) (p : BitVec 3) (e : BitVec 1) (s : State) :
    exec (.amo d a b u z p e) s = execAmo d a b u z p e s := rfl
@[simp] theorem exec_cas (d a b : BitVec 5) (z e : BitVec 1) (s : State) :
    exec (.cas d a b z e) s = execCas d a b z e s := rfl
@[simp] theorem exec_pld (q : BitVec 2) (a r : BitVec 5) (e : BitVec 1) (s : State) :
    exec (.pld q a r e) s = execPld q a r e s := rfl
@[simp] theorem exec_pst (q : BitVec 2) (a r : BitVec 5) (e : BitVec 1) (s : State) :
    exec (.pst q a r e) s = execPst q a r e s := rfl
@[simp] theorem exec_gath (q : BitVec 2) (a : BitVec 5) (j : BitVec 2) (r : BitVec 5) (sc : BitVec 2) (e : BitVec 1) (s : State) :
    exec (.gath q a j r sc e) s = execGath q a j r sc e s := rfl
@[simp] theorem exec_scat (q : BitVec 2) (a : BitVec 5) (j : BitVec 2) (r : BitVec 5) (sc : BitVec 2) (e : BitVec 1) (s : State) :
    exec (.scat q a j r sc e) s = execScat q a j r sc e s := rfl
@[simp] theorem exec_qsnd (q : BitVec 2) (a : BitVec 5) (e : BitVec 1) (s : State) :
    exec (.qsnd q a e) s = execQsnd q a e s := rfl
@[simp] theorem exec_qrcv (d : BitVec 5) (q : BitVec 2) (e : BitVec 1) (s : State) :
    exec (.qrcv d q e) s = execQrcv d q e s := rfl
@[simp] theorem exec_copy (d a : BitVec 5) (e : BitVec 1) (s : State) :
    exec (.copy d a e) s = execCopy d a e s := rfl
@[simp] theorem exec_dcmp (d a : BitVec 5) (e : BitVec 1) (s : State) :
    exec (.dcmp d a e) s = execDcmp d a e s := rfl
@[simp] theorem exec_fill (d a : BitVec 5) (e : BitVec 1) (s : State) :
    exec (.fill d a e) s = execFill d a e s := rfl
@[simp] theorem exec_csum (d a : BitVec 5) (e : BitVec 1) (s : State) :
    exec (.csum d a e) s = execCsum d a e s := rfl
@[simp] theorem exec_seminc (a : BitVec 5) (sc : BitVec 6) (e : BitVec 1) (s : State) :
    exec (.seminc a sc e) s = execSeminc a sc e s := rfl
@[simp] theorem exec_semset (a : BitVec 5) (sc : BitVec 6) (e : BitVec 1) (s : State) :
    exec (.semset a sc e) s = execSemset a sc e s := rfl
@[simp] theorem exec_semwait (a : BitVec 5) (sc : BitVec 6) (e : BitVec 1) (s : State) :
    exec (.semwait a sc e) s = execSemwait a sc e s := rfl
@[simp] theorem exec_send (d a b : BitVec 5) (l : BitVec 6) (e : BitVec 1) (s : State) :
    exec (.send d a b l e) s = execSend d a b l e s := rfl
@[simp] theorem exec_mbreg (d a b : BitVec 5) (m : BitVec 4) (e : BitVec 1) (s : State) :
    exec (.mbreg d a b m e) s = execMbreg d a b m e s := rfl
@[simp] theorem exec_mma (f a b k : BitVec 5) (p : BitVec 2) (e : BitVec 1) (s : State) :
    exec (.mma f a b k p e) s = execMma f a b k p e s := rfl
@[simp] theorem exec_mmaSat (f a b k : BitVec 5) (p : BitVec 2) (e : BitVec 1) (s : State) :
    exec (.mmaSat f a b k p e) s = execMmaSat f a b k p e s := rfl
@[simp] theorem exec_mmas (f a b k : BitVec 5) (p : BitVec 2) (e : BitVec 1) (s : State) :
    exec (.mmas f a b k p e) s = execMmas f a b k p e s := rfl
@[simp] theorem exec_mzero (p : BitVec 2) (e : BitVec 1) (s : State) :
    exec (.mzero p e) s = execMzero p e s := rfl
@[simp] theorem exec_mld (a : BitVec 5) (p : BitVec 2) (e : BitVec 1) (s : State) :
    exec (.mld a p e) s = execMld a p e s := rfl
@[simp] theorem exec_mst (d a b k : BitVec 5) (p : BitVec 2) (e : BitVec 1) (s : State) :
    exec (.mst d a b k p e) s = execMst d a b k p e s := rfl
@[simp] theorem exec_mstSat (d a b k : BitVec 5) (p : BitVec 2) (e : BitVec 1) (s : State) :
    exec (.mstSat d a b k p e) s = execMstSat d a b k p e s := rfl
@[simp] theorem exec_coll (d a : BitVec 5) (e : BitVec 1) (s : State) :
    exec (.coll d a e) s = execColl d a e s := rfl
@[simp] theorem exec_reside (d a b : BitVec 5) (e : BitVec 1) (s : State) :
    exec (.reside d a b e) s = execReside d a b e s := rfl
@[simp] theorem exec_evict (d a : BitVec 5) (e : BitVec 1) (s : State) :
    exec (.evict d a e) s = execEvict d a e s := rfl
@[simp] theorem exec_rquery (d a : BitVec 5) (e : BitVec 1) (s : State) :
    exec (.rquery d a e) s = execRquery d a e s := rfl
@[simp] theorem exec_spawn (d a : BitVec 5) (e : BitVec 1) (s : State) :
    exec (.spawn d a e) s = execSpawn d a e s := rfl
@[simp] theorem exec_fence (s : State) :
    exec (.fence) s = execFence s := rfl
@[simp] theorem exec_trig (e : BitVec 1) (s : State) :
    exec (.trig e) s = execTrig e s := rfl
@[simp] theorem exec_dwait (s : State) :
    exec (.dwait) s = execDwait s := rfl
@[simp] theorem exec_exit (s : State) :
    exec (.exit) s = execExit s := rfl
@[simp] theorem exec_yield (s : State) :
    exec (.yield) s = execYield s := rfl
@[simp] theorem exec_eret (s : State) :
    exec (.eret) s = execEret s := rfl
@[simp] theorem exec_trap (c : BitVec 12) (s : State) :
    exec (.trap c) s = execTrap c s := rfl
@[simp] theorem exec_fadd (d a b : BitVec 5) (r t : BitVec 2) (e : BitVec 1) (s : State) :
    exec (.fadd d a b r t e) s = execFadd d a b r t e s := rfl
@[simp] theorem exec_fsub (d a b : BitVec 5) (r t : BitVec 2) (e : BitVec 1) (s : State) :
    exec (.fsub d a b r t e) s = execFsub d a b r t e s := rfl
@[simp] theorem exec_fmul (d a b : BitVec 5) (r t : BitVec 2) (e : BitVec 1) (s : State) :
    exec (.fmul d a b r t e) s = execFmul d a b r t e s := rfl
@[simp] theorem exec_fmin (d a b : BitVec 5) (t : BitVec 2) (e : BitVec 1) (s : State) :
    exec (.fmin d a b t e) s = execFmin d a b t e s := rfl
@[simp] theorem exec_fmax (d a b : BitVec 5) (t : BitVec 2) (e : BitVec 1) (s : State) :
    exec (.fmax d a b t e) s = execFmax d a b t e s := rfl
@[simp] theorem exec_fdiv (d a b : BitVec 5) (r t : BitVec 2) (e : BitVec 1) (s : State) :
    exec (.fdiv d a b r t e) s = execFdiv d a b r t e s := rfl
@[simp] theorem exec_fsqrt (d a : BitVec 5) (r t : BitVec 2) (e : BitVec 1) (s : State) :
    exec (.fsqrt d a r t e) s = execFsqrt d a r t e s := rfl
@[simp] theorem exec_fma (d a b : BitVec 5) (c n : BitVec 1) (r t : BitVec 2) (e : BitVec 1) (s : State) :
    exec (.fma d a b c n r t e) s = execFma d a b c n r t e s := rfl
@[simp] theorem exec_fcmp (d a b : BitVec 5) (c t : BitVec 2) (e : BitVec 1) (s : State) :
    exec (.fcmp d a b c t e) s = execFcmp d a b c t e s := rfl
@[simp] theorem exec_fcvt (d a : BitVec 5) (sc : BitVec 3) (u : BitVec 1) (r : BitVec 2) (k : BitVec 3) (e : BitVec 1) (s : State) :
    exec (.fcvt d a sc u r k e) s = execFcvt d a sc u r k e s := rfl
@[simp] theorem exec_div (d a b : BitVec 5) (sc e : BitVec 1) (s : State) :
    exec (.div d a b sc e) s = execDiv d a b sc e s := rfl
@[simp] theorem exec_divRem (d a b : BitVec 5) (sc e : BitVec 1) (s : State) :
    exec (.divRem d a b sc e) s = execDivRem d a b sc e s := rfl
@[simp] theorem exec_xsndScalar (q : BitVec 2) (a : BitVec 5) (e : BitVec 1) (s : State) :
    exec (.xsndScalar q a e) s = execXsndScalar q a e s := rfl
@[simp] theorem exec_xsndPanel (q : BitVec 2) (p : BitVec 5) (r f : BitVec 4) (e : BitVec 1) (s : State) :
    exec (.xsndPanel q p r f e) s = execXsndPanel q p r f e s := rfl
@[simp] theorem exec_xrcv (d : BitVec 5) (q : BitVec 2) (e : BitVec 1) (s : State) :
    exec (.xrcv d q e) s = execXrcv d q e s := rfl
@[simp] theorem exec_vadd (d a b : BitVec 5) (m : BitVec 2) (t : BitVec 5) (e : BitVec 1) (s : State) :
    exec (.vadd d a b m t e) s = execVadd d a b m t e s := rfl
@[simp] theorem exec_vsub (d a b : BitVec 5) (m : BitVec 2) (t : BitVec 5) (e : BitVec 1) (s : State) :
    exec (.vsub d a b m t e) s = execVsub d a b m t e s := rfl
@[simp] theorem exec_vmul (d a b : BitVec 5) (m : BitVec 2) (t : BitVec 5) (e : BitVec 1) (s : State) :
    exec (.vmul d a b m t e) s = execVmul d a b m t e s := rfl
@[simp] theorem exec_vfma (d a b : BitVec 5) (m : BitVec 2) (t : BitVec 5) (e : BitVec 1) (s : State) :
    exec (.vfma d a b m t e) s = execVfma d a b m t e s := rfl
@[simp] theorem exec_vmin (d a b t : BitVec 5) (e : BitVec 1) (s : State) :
    exec (.vmin d a b t e) s = execVmin d a b t e s := rfl
@[simp] theorem exec_vmax (d a b t : BitVec 5) (e : BitVec 1) (s : State) :
    exec (.vmax d a b t e) s = execVmax d a b t e s := rfl
@[simp] theorem exec_vabs (d a t : BitVec 5) (e : BitVec 1) (s : State) :
    exec (.vabs d a t e) s = execVabs d a t e s := rfl
@[simp] theorem exec_vneg (d a t : BitVec 5) (e : BitVec 1) (s : State) :
    exec (.vneg d a t e) s = execVneg d a t e s := rfl
@[simp] theorem exec_vand (d a b t : BitVec 5) (e : BitVec 1) (s : State) :
    exec (.vand d a b t e) s = execVand d a b t e s := rfl
@[simp] theorem exec_vor (d a b t : BitVec 5) (e : BitVec 1) (s : State) :
    exec (.vor d a b t e) s = execVor d a b t e s := rfl
@[simp] theorem exec_vxor (d a b t : BitVec 5) (e : BitVec 1) (s : State) :
    exec (.vxor d a b t e) s = execVxor d a b t e s := rfl
@[simp] theorem exec_vnot (d a t : BitVec 5) (e : BitVec 1) (s : State) :
    exec (.vnot d a t e) s = execVnot d a t e s := rfl
@[simp] theorem exec_vshl (d a b t : BitVec 5) (e : BitVec 1) (s : State) :
    exec (.vshl d a b t e) s = execVshl d a b t e s := rfl
@[simp] theorem exec_vshr (d a b t : BitVec 5) (e : BitVec 1) (s : State) :
    exec (.vshr d a b t e) s = execVshr d a b t e s := rfl
@[simp] theorem exec_vsra (d a b t : BitVec 5) (e : BitVec 1) (s : State) :
    exec (.vsra d a b t e) s = execVsra d a b t e s := rfl
@[simp] theorem exec_vcmp (d a b : BitVec 5) (c : BitVec 2) (t : BitVec 5) (e : BitVec 1) (s : State) :
    exec (.vcmp d a b c t e) s = execVcmp d a b c t e s := rfl
@[simp] theorem exec_vsel (d a b t : BitVec 5) (e : BitVec 1) (s : State) :
    exec (.vsel d a b t e) s = execVsel d a b t e s := rfl
@[simp] theorem exec_vcvt (d a sc : BitVec 5) (m : BitVec 2) (t : BitVec 5) (e : BitVec 1) (s : State) :
    exec (.vcvt d a sc m t e) s = execVcvt d a sc m t e s := rfl
@[simp] theorem exec_vcvtSat (d a sc : BitVec 5) (m : BitVec 2) (t : BitVec 5) (e : BitVec 1) (s : State) :
    exec (.vcvtSat d a sc m t e) s = execVcvtSat d a sc m t e s := rfl
@[simp] theorem exec_vrshr (d a b t : BitVec 5) (e : BitVec 1) (s : State) :
    exec (.vrshr d a b t e) s = execVrshr d a b t e s := rfl
@[simp] theorem exec_vexp2 (d a : BitVec 5) (m : BitVec 2) (t : BitVec 5) (e : BitVec 1) (s : State) :
    exec (.vexp2 d a m t e) s = execVexp2 d a m t e s := rfl
@[simp] theorem exec_vlog2 (d a : BitVec 5) (m : BitVec 2) (t : BitVec 5) (e : BitVec 1) (s : State) :
    exec (.vlog2 d a m t e) s = execVlog2 d a m t e s := rfl
@[simp] theorem exec_vrcp (d a : BitVec 5) (m : BitVec 2) (t : BitVec 5) (e : BitVec 1) (s : State) :
    exec (.vrcp d a m t e) s = execVrcp d a m t e s := rfl
@[simp] theorem exec_vrsq (d a : BitVec 5) (m : BitVec 2) (t : BitVec 5) (e : BitVec 1) (s : State) :
    exec (.vrsq d a m t e) s = execVrsq d a m t e s := rfl
@[simp] theorem exec_vredr (d a o : BitVec 5) (m : BitVec 2) (t : BitVec 5) (e : BitVec 1) (s : State) :
    exec (.vredr d a o m t e) s = execVredr d a o m t e s := rfl
@[simp] theorem exec_vredc (d a o : BitVec 5) (m : BitVec 2) (t : BitVec 5) (e : BitVec 1) (s : State) :
    exec (.vredc d a o m t e) s = execVredc d a o m t e s := rfl
@[simp] theorem exec_vbcr (d a b t : BitVec 5) (e : BitVec 1) (s : State) :
    exec (.vbcr d a b t e) s = execVbcr d a b t e s := rfl
@[simp] theorem exec_vbcc (d a b t : BitVec 5) (e : BitVec 1) (s : State) :
    exec (.vbcc d a b t e) s = execVbcc d a b t e s := rfl
@[simp] theorem exec_vrotr (d a b t : BitVec 5) (e : BitVec 1) (s : State) :
    exec (.vrotr d a b t e) s = execVrotr d a b t e s := rfl
@[simp] theorem exec_vrotc (d a b t : BitVec 5) (e : BitVec 1) (s : State) :
    exec (.vrotc d a b t e) s = execVrotc d a b t e s := rfl
@[simp] theorem exec_vscan (d a o : BitVec 5) (m : BitVec 2) (t : BitVec 5) (e : BitVec 1) (s : State) :
    exec (.vscan d a o m t e) s = execVscan d a o m t e s := rfl
@[simp] theorem exec_vperm (d a b t : BitVec 5) (e : BitVec 1) (s : State) :
    exec (.vperm d a b t e) s = execVperm d a b t e s := rfl
@[simp] theorem exec_part (d a b t : BitVec 5) (e : BitVec 1) (s : State) :
    exec (.part d a b t e) s = execPart d a b t e s := rfl
@[simp] theorem exec_vtopk (d a b t : BitVec 5) (e : BitVec 1) (s : State) :
    exec (.vtopk d a b t e) s = execVtopk d a b t e s := rfl
@[simp] theorem exec_vmov (d a : BitVec 5) (e : BitVec 1) (s : State) :
    exec (.vmov d a e) s = execVmov d a e s := rfl
@[simp] theorem exec_vmovi (d : BitVec 5) (imm : BitVec 17) (e : BitVec 1) (s : State) :
    exec (.vmovi d imm e) s = execVmovi d imm e s := rfl
@[simp] theorem exec_vins (d a b t : BitVec 5) (e : BitVec 1) (s : State) :
    exec (.vins d a b t e) s = execVins d a b t e s := rfl
@[simp] theorem exec_vext (d a b t : BitVec 5) (e : BitVec 1) (s : State) :
    exec (.vext d a b t e) s = execVext d a b t e s := rfl
@[simp] theorem exec_wrot (n : BitVec 1) (b : BitVec 3) (e : BitVec 1) (s : State) :
    exec (.wrot n b e) s = execWrot n b e s := rfl
@[simp] theorem exec_fmtset (a : BitVec 5) (k : BitVec 4) (e : BitVec 1) (s : State) :
    exec (.fmtset a k e) s = execFmtset a k e s := rfl
@[simp] theorem exec_fmtsel (l : BitVec 2) (n e : BitVec 1) (s : State) :
    exec (.fmtsel l n e) s = execFmtsel l n e s := rfl
@[simp] theorem exec_rfch (b a d : BitVec 5) (s : State) :
    exec (.rfch b a d) s = execRfch b a d s := rfl
@[simp] theorem exec_xfld (b a d : BitVec 5) (s : State) :
    exec (.xfld b a d) s = execXfld b a d s := rfl
@[simp] theorem exec_sgwt (b a d : BitVec 5) (s : State) :
    exec (.sgwt b a d) s = execSgwt b a d s := rfl
@[simp] theorem exec_disp (b a d : BitVec 5) (s : State) :
    exec (.disp b a d) s = execDisp b a d s := rfl
@[simp] theorem exec_bindStart (core : Nat) (strands : BitVec 4) (hdr : Nat) (regid : BitVec 64) (s : State) :
    exec (.bindStart core strands hdr regid) s = execBindStart core strands hdr regid s := rfl
@[simp] theorem exec_bindPreempt (core : Nat) (strands : BitVec 4) (s : State) :
    exec (.bindPreempt core strands) s = execBindPreempt core strands s := rfl
@[simp] theorem exec_bindMap (core : Nat) (lcore : BitVec 12) (regid : BitVec 64) (s : State) :
    exec (.bindMap core lcore regid) s = execBindMap core lcore regid s := rfl
@[simp] theorem exec_bindFree (core : Nat) (s : State) :
    exec (.bindFree core) s = execBindFree core s := rfl
@[simp] theorem exec_translationRetry (cluster : Nat) (word : BitVec 64) (s : State) :
    exec (.translationRetry cluster word) s = execTranslationRetry cluster word s := rfl
@[simp] theorem exec_translationKill (cluster : Nat) (word : BitVec 64) (s : State) :
    exec (.translationKill cluster word) s = execTranslationKill cluster word s := rfl
@[simp] theorem exec_pad (port : Fin 2) (q : Fin 16) (k : Nat) (s : State) :
    exec (.pad port q k) s = execPad port q k s := rfl
@[simp] theorem exec_launch (port : Fin 2) (q : Fin 16) (k : Nat) (s : State) :
    exec (.launch port q k) s = execLaunch port q k s := rfl
@[simp] theorem exec_regionCreate (port : Fin 2) (q : Fin 16) (k : Nat) (s : State) :
    exec (.regionCreate port q k) s = execRegionCreate port q k s := rfl
@[simp] theorem exec_regionModify (port : Fin 2) (q : Fin 16) (k : Nat) (s : State) :
    exec (.regionModify port q k) s = execRegionModify port q k s := rfl
@[simp] theorem exec_regionDestroy (port : Fin 2) (q : Fin 16) (k : Nat) (s : State) :
    exec (.regionDestroy port q k) s = execRegionDestroy port q k s := rfl
@[simp] theorem exec_map (port : Fin 2) (q : Fin 16) (k : Nat) (s : State) :
    exec (.map port q k) s = execMap port q k s := rfl
@[simp] theorem exec_unmap (port : Fin 2) (q : Fin 16) (k : Nat) (s : State) :
    exec (.unmap port q k) s = execUnmap port q k s := rfl
@[simp] theorem exec_bind (port : Fin 2) (q : Fin 16) (k : Nat) (s : State) :
    exec (.bind port q k) s = execBind port q k s := rfl
@[simp] theorem exec_hcopy (port : Fin 2) (q : Fin 16) (k : Nat) (s : State) :
    exec (.hcopy port q k) s = execHcopy port q k s := rfl
@[simp] theorem exec_hsignal (port : Fin 2) (q : Fin 16) (k : Nat) (s : State) :
    exec (.hsignal port q k) s = execHsignal port q k s := rfl
@[simp] theorem exec_hwait (port : Fin 2) (q : Fin 16) (k : Nat) (s : State) :
    exec (.hwait port q k) s = execHwait port q k s := rfl
@[simp] theorem exec_retire (port : Fin 2) (q : Fin 16) (k : Nat) (s : State) :
    exec (.retire port q k) s = execRetire port q k s := rfl
@[simp] theorem exec_resync (port : Fin 2) (q : Fin 16) (k : Nat) (s : State) :
    exec (.resync port q k) s = execResync port q k s := rfl
@[simp] theorem exec_packetFetch (port : Fin 2) (q : Fin 16) (s : State) :
    exec (.packetFetch port q) s = execPacketFetch port q s := rfl
@[simp] theorem exec_packetIssue (port : Fin 2) (q : Fin 16) (s : State) :
    exec (.packetIssue port q) s = execPacketIssue port q s := rfl
@[simp] theorem exec_fetchRetry (port : Fin 2) (q : Fin 16) (s : State) :
    exec (.fetchRetry port q) s = execFetchRetry port q s := rfl
@[simp] theorem exec_hwaitPoll (port : Fin 2) (q : Fin 16) (s : State) :
    exec (.hwaitPoll port q) s = execHwaitPoll port q s := rfl
@[simp] theorem exec_doorbell (port : Fin 2) (q : Fin 16) (v : BitVec 64) (s : State) :
    exec (.doorbell port q v) s = execDoorbell port q v s := rfl
@[simp] theorem exec_qctlEnable (port : Fin 2) (q : Fin 16) (v : BitVec 64) (s : State) :
    exec (.qctlEnable port q v) s = execQctlEnable port q v s := rfl
@[simp] theorem exec_qctlDisable (port : Fin 2) (q : Fin 16) (v : BitVec 64) (s : State) :
    exec (.qctlDisable port q v) s = execQctlDisable port q v s := rfl
@[simp] theorem exec_restart (port : Fin 2) (q : Fin 16) (v : BitVec 64) (s : State) :
    exec (.restart port q v) s = execRestart port q v s := rfl
@[simp] theorem exec_chead (port : Fin 2) (q : Fin 16) (v : BitVec 64) (s : State) :
    exec (.chead port q v) s = execChead port q v s := rfl
@[simp] theorem exec_devnum (port : Fin 2) (v : BitVec 64) (s : State) :
    exec (.devnum port v) s = execDevnum port v s := rfl
@[simp] theorem exec_pwrlim (port : Fin 2) (v : BitVec 64) (s : State) :
    exec (.pwrlim port v) s = execPwrlim port v s := rfl
@[simp] theorem exec_linkctx (port : Fin 2) (n : Fin 16) (v : BitVec 64) (s : State) :
    exec (.linkctx port n v) s = execLinkctx port n v s := rfl
@[simp] theorem exec_attcmdReport (port : Fin 2) (v : BitVec 64) (s : State) :
    exec (.attcmdReport port v) s = execAttcmdReport port v s := rfl
@[simp] theorem exec_attcmdChain (port : Fin 2) (v : BitVec 64) (s : State) :
    exec (.attcmdChain port v) s = execAttcmdChain port v s := rfl
@[simp] theorem exec_bootgo (port : Fin 2) (v : BitVec 64) (s : State) :
    exec (.bootgo port v) s = execBootgo port v s := rfl
@[simp] theorem exec_hostRegisterWrite (port : Fin 2) (off size : Nat) (v : BitVec 64) (s : State) :
    exec (.hostRegisterWrite port off size v) s = execHostRegisterWrite port off size v s := rfl
@[simp] theorem exec_loaderMessage (core : Nat) (s : State) :
    exec (.loaderMessage core) s = execLoaderMessage core s := rfl
@[simp] theorem exec_streamCommandStart (core : Nat) (s : State) :
    exec (.streamCommandStart core) s = execStreamCommandStart core s := rfl
@[simp] theorem exec_copyLand (core slot : Nat) (p : CopyPiece) (s : State) :
    exec (.copyLand core slot p) s = execCopyLand core slot p s := rfl
@[simp] theorem exec_copyComplete (core slot : Nat) (s : State) :
    exec (.copyComplete core slot) s = execCopyComplete core slot s := rfl
@[simp] theorem exec_followOnEntry (core slot : Nat) (s : State) :
    exec (.followOnEntry core slot) s = execFollowOnEntry core slot s := rfl
@[simp] theorem exec_dcmpComplete (core slot : Nat) (s : State) :
    exec (.dcmpComplete core slot) s = execDcmpComplete core slot s := rfl
@[simp] theorem exec_fillComplete (core slot k : Nat) (s : State) :
    exec (.fillComplete core slot k) s = execFillComplete core slot k s := rfl
@[simp] theorem exec_csumComplete (core slot k : Nat) (s : State) :
    exec (.csumComplete core slot k) s = execCsumComplete core slot k s := rfl
@[simp] theorem exec_sendAccept (core k : Nat) (s : State) :
    exec (.sendAccept core k) s = execSendAccept core k s := rfl
@[simp] theorem exec_spawnStore (core slot : Nat) (s : State) :
    exec (.spawnStore core slot) s = execSpawnStore core slot s := rfl
@[simp] theorem exec_spawnRingEntry (task : Nat) (s : State) :
    exec (.spawnRingEntry task) s = execSpawnRingEntry task s := rfl
@[simp] theorem exec_matrixCommandPerform (core k : Nat) (s : State) :
    exec (.matrixCommandPerform core k) s = execMatrixCommandPerform core k s := rfl
@[simp] theorem exec_mstComplete (core : Nat) (s : State) :
    exec (.mstComplete core) s = execMstComplete core s := rfl
@[simp] theorem exec_storeDrain (core : Nat) (strand : Fin 4) (k : Nat) (s : State) :
    exec (.storeDrain core strand k) s = execStoreDrain core strand k s := rfl
@[simp] theorem exec_loadPerform (core : Nat) (strand : Fin 4) (k : Nat) (s : State) :
    exec (.loadPerform core strand k) s = execLoadPerform core strand k s := rfl
@[simp] theorem exec_rowComplete (core : Nat) (strand q : Fin 4) (s : State) :
    exec (.rowComplete core strand q) s = execRowComplete core strand q s := rfl
@[simp] theorem exec_semincApply (core : Nat) (strand : Fin 4) (s : State) :
    exec (.semincApply core strand) s = execSemincApply core strand s := rfl
@[simp] theorem exec_semIncrementArrival (core k : Nat) (s : State) :
    exec (.semIncrementArrival core k) s = execSemIncrementArrival core k s := rfl
@[simp] theorem exec_residencyOpPerform (core : Nat) (strand : Fin 4) (s : State) :
    exec (.residencyOpPerform core strand) s = execResidencyOpPerform core strand s := rfl
@[simp] theorem exec_translationFault (core slot : Nat) (p : CopyPiece) (s : State) :
    exec (.translationFault core slot p) s = execTranslationFault core slot p s := rfl
@[simp] theorem exec_invalidation (unit k : Nat) (s : State) :
    exec (.invalidation unit k) s = execInvalidation unit k s := rfl
@[simp] theorem exec_handlerStart (core : Nat) (strand : Fin 4) (s : State) :
    exec (.handlerStart core strand) s = execHandlerStart core strand s := rfl
@[simp] theorem exec_taskEnd (task : Nat) (s : State) :
    exec (.taskEnd task) s = execTaskEnd task s := rfl
@[simp] theorem exec_asyncCauseDelivery (core : Nat) (strand : Fin 4) (s : State) :
    exec (.asyncCauseDelivery core strand) s = execAsyncCauseDelivery core strand s := rfl
@[simp] theorem exec_errorRecord (k : Nat) (s : State) :
    exec (.errorRecord k) s = execErrorRecord k s := rfl
@[simp] theorem exec_collHop (k : Nat) (s : State) :
    exec (.collHop k) s = execCollHop k s := rfl
@[simp] theorem exec_collCompletion (core k : Nat) (s : State) :
    exec (.collCompletion core k) s = execCollCompletion core k s := rfl
@[simp] theorem exec_gangRetry (k : Nat) (s : State) :
    exec (.gangRetry k) s = execGangRetry k s := rfl
@[simp] theorem exec_gangEnd (gang : Nat) (s : State) :
    exec (.gangEnd gang) s = execGangEnd gang s := rfl
@[simp] theorem exec_tempoBoundary (cluster : Nat) (s : State) :
    exec (.tempoBoundary cluster) s = execTempoBoundary cluster s := rfl
@[simp] theorem exec_firingArrival (core k : Nat) (s : State) :
    exec (.firingArrival core k) s = execFiringArrival core k s := rfl
@[simp] theorem exec_preemptSave (task : Nat) (s : State) :
    exec (.preemptSave task) s = execPreemptSave task s := rfl
@[simp] theorem exec_saveUnitApply (core k : Nat) (s : State) :
    exec (.saveUnitApply core k) s = execSaveUnitApply core k s := rfl
@[simp] theorem exec_retirementRequest (die : Fin 16) (s : State) :
    exec (.retirementRequest die) s = execRetirementRequest die s := rfl
@[simp] theorem exec_dieFailure (die : Fin 16) (s : State) :
    exec (.dieFailure die) s = execDieFailure die s := rfl
@[simp] theorem exec_linkTraining (n : Fin 16) (r : LinkResult) (s : State) :
    exec (.linkTraining n r) s = execLinkTraining n r s := rfl
@[simp] theorem exec_linkLossOfLock (n : Fin 16) (s : State) :
    exec (.linkLossOfLock n) s = execLinkLossOfLock n s := rfl
@[simp] theorem exec_scrub (core : Nat) (group : Fin 4) (s : State) :
    exec (.scrub core group) s = execScrub core group s := rfl
@[simp] theorem exec_boot (die : Fin 16) (r : BootResult) (s : State) :
    exec (.boot die r) s = execBoot die r s := rfl
@[simp] theorem exec_bootFallback (s : State) :
    exec (.bootFallback) s = execBootFallback s := rfl
@[simp] theorem exec_dieReset (die : Fin 16) (s : State) :
    exec (.dieReset die) s = execDieReset die s := rfl
@[simp] theorem exec_completionTimeout (core slot : Nat) (p : CopyPiece) (s : State) :
    exec (.completionTimeout core slot p) s = execCompletionTimeout core slot p s := rfl
@[simp] theorem exec_tag4PieceArrival (n : Fin 16) (va : BitVec 52) (write : Bool) (data : PeerBytes) (s : State) :
    exec (.tag4PieceArrival n va write data) s = execTag4PieceArrival n va write data s := rfl
@[simp] theorem exec_linkLevelRetry (n : Fin 16) (s : State) :
    exec (.linkLevelRetry n) s = execLinkLevelRetry n s := rfl
@[simp] theorem exec_junctionLimit (die : Fin 16) (s : State) :
    exec (.junctionLimit die) s = execJunctionLimit die s := rfl
@[simp] theorem exec_hostPortLinkTraining (port : Fin 2) (widths rates : List Nat) (s : State) :
    exec (.hostPortLinkTraining port widths rates) s = execHostPortLinkTraining port widths rates s := rfl

end Sys2Proof.Machine
end

