-- ==== Sys2Proof/Laws/Mem.lean ====
section
/-! SUPPORT. Sys2Proof/Laws/Mem.lean: reading after writing, and the canonical form that every memory operation keeps. -/

namespace Sys2Proof.Machine

/-! ## Reading after writing -/

theorem readCell_below {m : List Host.Cell} {lo a : Nat} (h : cellsFrom lo m = true) (k : a < lo) : readCell m a = 0#8 := by
  cases m with
  | nil => rfl
  | cons c l =>
    simp only [cellsFrom, Bool.and_eq_true, decide_eq_true_eq] at h
    simp [readCell, show c.1 ≠ a by omega, show a < c.1 by omega]

theorem readCell_mono {m : List Host.Cell} {lo lo' : Nat} (h : cellsFrom lo m = true) (k : lo' ≤ lo) :
    cellsFrom lo' m = true := by
  cases m with
  | nil => rfl
  | cons c l =>
    simp only [cellsFrom, Bool.and_eq_true, decide_eq_true_eq] at h ⊢
    exact ⟨⟨by omega, h.1.2⟩, h.2⟩

/-- A byte written at its address reads back, and every other address reads as before. -/
theorem readCell_writeCell {m : List Host.Cell} {lo : Nat} (h : cellsFrom lo m = true) (a b : Nat) (v : Byte) :
    readCell (writeCell m a v) b = if b = a then v else readCell m b := by
  induction m generalizing lo with
  | nil =>
    simp only [writeCell]
    split
    · split <;> simp [readCell, *]
    · simp only [readCell]
      split
      · simp [*]
      · split <;> simp [Ne.symm, *]
  | cons c l ih =>
    obtain ⟨k, w⟩ := c
    simp only [cellsFrom, Bool.and_eq_true, decide_eq_true_eq] at h
    have ih := ih h.2
    have z := @readCell_below l (k + 1) b h.2
    simp only [writeCell]
    split
    · subst_vars
      split
      · subst_vars
        simp only [readCell]
        by_cases e : b = k
        · rw [if_pos e, z (by omega)]
        · rw [if_neg e, if_neg (Ne.symm e)]
          split
          · exact z (by omega)
          · rfl
      · simp only [readCell]
        by_cases e : k = b
        · simp [e]
        · simp [e, Ne.symm e]
    · split
      · split
        · subst_vars
          by_cases e : b = a
          · subst e
            simp [readCell, show k ≠ b by omega, *]
          · simp [e]
        · simp only [readCell]
          by_cases e : a = b
          · simp [e]
          · rw [if_neg e, if_neg (Ne.symm e)]
            split
            · rw [if_neg (by omega), if_pos (by omega)]
            · rfl
      · simp only [readCell]
        by_cases e : k = b
        · simp [e, show b ≠ a by omega]
        · rw [if_neg e, if_neg e]
          split
          · rw [if_neg (by omega)]
          · exact ih

/-! ## The canonical form -/

theorem cellsFrom_writeCell {m : List Host.Cell} {lo : Nat} (h : cellsFrom lo m = true) (a : Nat) (v : Byte) (k : lo ≤ a) :
    cellsFrom lo (writeCell m a v) = true := by
  induction m generalizing lo with
  | nil =>
    simp only [writeCell]
    split <;> simp [cellsFrom, *]
  | cons c l ih =>
    obtain ⟨j, w⟩ := c
    have h' := h
    simp only [cellsFrom, Bool.and_eq_true, decide_eq_true_eq, bne_iff_ne, ne_eq] at h'
    simp only [writeCell]
    split
    · split
      · exact readCell_mono h'.2 (by omega)
      · subst_vars
        simp [cellsFrom, *]
    · split
      · split
        · exact h
        · simp only [cellsFrom, Bool.and_eq_true, decide_eq_true_eq, bne_iff_ne, ne_eq]
          exact ⟨⟨k, ‹_›⟩, ⟨by omega, h'.1.2⟩, h'.2⟩
      · simp only [cellsFrom, Bool.and_eq_true, decide_eq_true_eq, bne_iff_ne, ne_eq]
        exact ⟨h'.1, ih h'.2 (by omega)⟩

theorem cellsFrom_writeCells {m : List Host.Cell} (h : cellsFrom 0 m = true) (a : Nat) (l : List Byte) :
    cellsFrom 0 (writeCells m a l) = true := by
  induction l generalizing m a with
  | nil => exact h
  | cons v l ih => exact ih (cellsFrom_writeCell h a v (Nat.zero_le _)) (a + 1)

theorem cellsFrom_storeCells {m : List Host.Cell} (h : cellsFrom 0 m = true) (l : List Host.Cell) :
    cellsFrom 0 (storeCells m l) = true := by
  induction l generalizing m with
  | nil => exact h
  | cons c l ih => exact ih (cellsFrom_writeCell h c.1 c.2 (Nat.zero_le _))

theorem cellsFrom_filter {m : List Host.Cell} {lo : Nat} (h : cellsFrom lo m = true) (p : Host.Cell → Bool) :
    cellsFrom lo (m.filter p) = true := by
  induction m generalizing lo with
  | nil => rfl
  | cons c l ih =>
    simp only [cellsFrom, Bool.and_eq_true, decide_eq_true_eq] at h
    simp only [List.filter]
    split
    · simp only [cellsFrom, Bool.and_eq_true, decide_eq_true_eq]
      exact ⟨h.1, ih h.2⟩
    · exact readCell_mono (ih h.2) (by omega)

theorem Ram.wf_empty : Ram.empty.wf = true := rfl

theorem Ram.wf_mark {r : Ram} (h : r.wf = true) (w : Nat) : (r.mark w).wf = true := by
  unfold Ram.mark
  split <;> exact h

theorem Ram.wf_write {r : Ram} (h : r.wf = true) (a : Nat) (v : List Byte) : (r.write a v).wf = true :=
  cellsFrom_writeCells h a v

theorem Ram.wf_store {r : Ram} (h : r.wf = true) (p : List Host.Cell) : (r.store p).wf = true :=
  cellsFrom_storeCells h p

theorem Ram.wf_clear {r : Ram} (h : r.wf = true) (lo hi : Nat) : (r.clear lo hi).wf = true := cellsFrom_filter h _

theorem Ram.wf_foldl_mark {r : Ram} (h : r.wf = true) (l : List Nat) : (l.foldl Ram.mark r).wf = true := by
  induction l generalizing r with
  | nil => exact h
  | cons w l ih => exact ih (Ram.wf_mark h w)

theorem Ram.wf_writePoisoned {r : Ram} (h : r.wf = true) (a : Nat) (v : List Byte) : (r.writePoisoned a v).wf = true :=
  Ram.wf_foldl_mark (r := { r with cells := writeCells r.cells a v }) (cellsFrom_writeCells h a v) _

/-- A byte of a write piece reads back; every other address reads as before. -/
theorem readCell_writeCells {m : List Host.Cell} (h : cellsFrom 0 m = true) (a b : Nat) (l : List Byte) :
    readCell (writeCells m a l) b = if a ≤ b ∧ b < a + l.length then l.getD (b - a) 0#8 else readCell m b := by
  induction l generalizing m a with
  | nil => rw [writeCells, if_neg (by simp)]
  | cons v l ih =>
    rw [writeCells, ih (cellsFrom_writeCell h a v (Nat.zero_le _)), readCell_writeCell h]
    simp only [List.length_cons]
    by_cases e : b = a
    · subst e
      simp
    · by_cases i : a ≤ b ∧ b < a + (l.length + 1)
      · rw [if_pos ⟨by omega, by omega⟩, if_pos i, show b - a = (b - (a + 1)) + 1 by omega]
        rfl
      · rw [if_neg (by omega), if_neg i, if_neg e]

/-! ## Sparse tables -/

/-- An entry set reads back, and every other key as before. -/
@[simp] theorem lookupD_insertD {α : Type} (d : α) (l : List (Nat × α)) (a b : Nat) (v : α) :
    lookupD d (insertD l a v) b = if a = b then v else lookupD d l b := by
  induction l with
  | nil => simp [insertD, lookupD]
  | cons c l ih =>
    obtain ⟨k, w⟩ := c
    simp only [insertD]
    split
    · subst_vars
      simp only [lookupD]
      split <;> rfl
    · split
      · simp only [lookupD]
      · simp only [lookupD, ih]
        split
        · subst_vars
          rw [if_neg (Ne.symm ‹_›)]
        · rfl

end Sys2Proof.Machine
end

