-- ==== Sys2Proof/Laws/State.lean ====
section
/-! SUPPORT. Sys2Proof/Laws/State.lean: what each update of the state leaves, and what it reads back. -/

set_option Elab.async false

namespace Sys2Proof.Machine

/-! ## The fields that an update of the state leaves -/

@[simp] theorem State.setCore_clusters (s : State) (c : Nat) (k : Core) :
    (s.setCore c k).clusters = s.clusters := rfl
@[simp] theorem State.setCore_dies (s : State) (c : Nat) (k : Core) :
    (s.setCore c k).dies = s.dies := rfl
@[simp] theorem State.setCore_hbm (s : State) (c : Nat) (k : Core) :
    (s.setCore c k).hbm = s.hbm := rfl
@[simp] theorem State.setCore_regions (s : State) (c : Nat) (k : Core) :
    (s.setCore c k).regions = s.regions := rfl
@[simp] theorem State.setCore_handles (s : State) (c : Nat) (k : Core) :
    (s.setCore c k).handles = s.handles := rfl
@[simp] theorem State.setCore_tasks (s : State) (c : Nat) (k : Core) :
    (s.setCore c k).tasks = s.tasks := rfl
@[simp] theorem State.setCore_nextTask (s : State) (c : Nat) (k : Core) :
    (s.setCore c k).nextTask = s.nextTask := rfl
@[simp] theorem State.setCore_gangs (s : State) (c : Nat) (k : Core) :
    (s.setCore c k).gangs = s.gangs := rfl
@[simp] theorem State.setCore_records (s : State) (c : Nat) (k : Core) :
    (s.setCore c k).records = s.records := rfl
@[simp] theorem State.setCore_packets (s : State) (c : Nat) (k : Core) :
    (s.setCore c k).packets = s.packets := rfl
@[simp] theorem State.setCore_colls (s : State) (c : Nat) (k : Core) :
    (s.setCore c k).colls = s.colls := rfl
@[simp] theorem State.setCore_collDones (s : State) (c : Nat) (k : Core) :
    (s.setCore c k).collDones = s.collDones := rfl
@[simp] theorem State.setCore_nextColl (s : State) (c : Nat) (k : Core) :
    (s.setCore c k).nextColl = s.nextColl := rfl
@[simp] theorem State.setCore_invals (s : State) (c : Nat) (k : Core) :
    (s.setCore c k).invals = s.invals := rfl
@[simp] theorem State.setCore_links (s : State) (c : Nat) (k : Core) :
    (s.setCore c k).links = s.links := rfl
@[simp] theorem State.setCore_ports (s : State) (c : Nat) (k : Core) :
    (s.setCore c k).ports = s.ports := rfl
@[simp] theorem State.setCore_bootstat (s : State) (c : Nat) (k : Core) :
    (s.setCore c k).bootstat = s.bootstat := rfl
@[simp] theorem State.setCore_devnum (s : State) (c : Nat) (k : Core) :
    (s.setCore c k).devnum = s.devnum := rfl
@[simp] theorem State.setCore_pwrlim (s : State) (c : Nat) (k : Core) :
    (s.setCore c k).pwrlim = s.pwrlim := rfl
@[simp] theorem State.setCore_firmware (s : State) (c : Nat) (k : Core) :
    (s.setCore c k).firmware = s.firmware := rfl
@[simp] theorem State.setCore_bootDie (s : State) (c : Nat) (k : Core) :
    (s.setCore c k).bootDie = s.bootDie := rfl
@[simp] theorem State.setCore_bootImageB (s : State) (c : Nat) (k : Core) :
    (s.setCore c k).bootImageB = s.bootImageB := rfl
@[simp] theorem State.setCore_resync (s : State) (c : Nat) (k : Core) :
    (s.setCore c k).resync = s.resync := rfl
@[simp] theorem State.setCore_retiring (s : State) (c : Nat) (k : Core) :
    (s.setCore c k).retiring = s.retiring := rfl
@[simp] theorem State.setCore_cur (s : State) (c : Nat) (k : Core) :
    (s.setCore c k).cur = s.cur := rfl
@[simp] theorem State.setCore_turns (s : State) (c : Nat) (k : Core) :
    (s.setCore c k).turns = s.turns := rfl
@[simp] theorem State.setCore_tick (s : State) (c : Nat) (k : Core) :
    (s.setCore c k).tick = s.tick := rfl
@[simp] theorem State.setCore_free (s : State) (c : Nat) (k : Core) :
    (s.setCore c k).free = s.free := rfl
@[simp] theorem State.modCore_clusters (s : State) (c : Nat) (f : Core → Core) :
    (s.modCore c f).clusters = s.clusters := rfl
@[simp] theorem State.modCore_dies (s : State) (c : Nat) (f : Core → Core) :
    (s.modCore c f).dies = s.dies := rfl
@[simp] theorem State.modCore_hbm (s : State) (c : Nat) (f : Core → Core) :
    (s.modCore c f).hbm = s.hbm := rfl
@[simp] theorem State.modCore_regions (s : State) (c : Nat) (f : Core → Core) :
    (s.modCore c f).regions = s.regions := rfl
@[simp] theorem State.modCore_handles (s : State) (c : Nat) (f : Core → Core) :
    (s.modCore c f).handles = s.handles := rfl
@[simp] theorem State.modCore_tasks (s : State) (c : Nat) (f : Core → Core) :
    (s.modCore c f).tasks = s.tasks := rfl
@[simp] theorem State.modCore_nextTask (s : State) (c : Nat) (f : Core → Core) :
    (s.modCore c f).nextTask = s.nextTask := rfl
@[simp] theorem State.modCore_gangs (s : State) (c : Nat) (f : Core → Core) :
    (s.modCore c f).gangs = s.gangs := rfl
@[simp] theorem State.modCore_records (s : State) (c : Nat) (f : Core → Core) :
    (s.modCore c f).records = s.records := rfl
@[simp] theorem State.modCore_packets (s : State) (c : Nat) (f : Core → Core) :
    (s.modCore c f).packets = s.packets := rfl
@[simp] theorem State.modCore_colls (s : State) (c : Nat) (f : Core → Core) :
    (s.modCore c f).colls = s.colls := rfl
@[simp] theorem State.modCore_collDones (s : State) (c : Nat) (f : Core → Core) :
    (s.modCore c f).collDones = s.collDones := rfl
@[simp] theorem State.modCore_nextColl (s : State) (c : Nat) (f : Core → Core) :
    (s.modCore c f).nextColl = s.nextColl := rfl
@[simp] theorem State.modCore_invals (s : State) (c : Nat) (f : Core → Core) :
    (s.modCore c f).invals = s.invals := rfl
@[simp] theorem State.modCore_links (s : State) (c : Nat) (f : Core → Core) :
    (s.modCore c f).links = s.links := rfl
@[simp] theorem State.modCore_ports (s : State) (c : Nat) (f : Core → Core) :
    (s.modCore c f).ports = s.ports := rfl
@[simp] theorem State.modCore_bootstat (s : State) (c : Nat) (f : Core → Core) :
    (s.modCore c f).bootstat = s.bootstat := rfl
@[simp] theorem State.modCore_devnum (s : State) (c : Nat) (f : Core → Core) :
    (s.modCore c f).devnum = s.devnum := rfl
@[simp] theorem State.modCore_pwrlim (s : State) (c : Nat) (f : Core → Core) :
    (s.modCore c f).pwrlim = s.pwrlim := rfl
@[simp] theorem State.modCore_firmware (s : State) (c : Nat) (f : Core → Core) :
    (s.modCore c f).firmware = s.firmware := rfl
@[simp] theorem State.modCore_bootDie (s : State) (c : Nat) (f : Core → Core) :
    (s.modCore c f).bootDie = s.bootDie := rfl
@[simp] theorem State.modCore_bootImageB (s : State) (c : Nat) (f : Core → Core) :
    (s.modCore c f).bootImageB = s.bootImageB := rfl
@[simp] theorem State.modCore_resync (s : State) (c : Nat) (f : Core → Core) :
    (s.modCore c f).resync = s.resync := rfl
@[simp] theorem State.modCore_retiring (s : State) (c : Nat) (f : Core → Core) :
    (s.modCore c f).retiring = s.retiring := rfl
@[simp] theorem State.modCore_cur (s : State) (c : Nat) (f : Core → Core) :
    (s.modCore c f).cur = s.cur := rfl
@[simp] theorem State.modCore_turns (s : State) (c : Nat) (f : Core → Core) :
    (s.modCore c f).turns = s.turns := rfl
@[simp] theorem State.modCore_tick (s : State) (c : Nat) (f : Core → Core) :
    (s.modCore c f).tick = s.tick := rfl
@[simp] theorem State.modCore_free (s : State) (c : Nat) (f : Core → Core) :
    (s.modCore c f).free = s.free := rfl
@[simp] theorem State.modCluster_cores (s : State) (c : Nat) (f : Cluster → Cluster) :
    (s.modCluster c f).cores = s.cores := rfl
@[simp] theorem State.modCluster_dies (s : State) (c : Nat) (f : Cluster → Cluster) :
    (s.modCluster c f).dies = s.dies := rfl
@[simp] theorem State.modCluster_hbm (s : State) (c : Nat) (f : Cluster → Cluster) :
    (s.modCluster c f).hbm = s.hbm := rfl
@[simp] theorem State.modCluster_regions (s : State) (c : Nat) (f : Cluster → Cluster) :
    (s.modCluster c f).regions = s.regions := rfl
@[simp] theorem State.modCluster_handles (s : State) (c : Nat) (f : Cluster → Cluster) :
    (s.modCluster c f).handles = s.handles := rfl
@[simp] theorem State.modCluster_tasks (s : State) (c : Nat) (f : Cluster → Cluster) :
    (s.modCluster c f).tasks = s.tasks := rfl
@[simp] theorem State.modCluster_nextTask (s : State) (c : Nat) (f : Cluster → Cluster) :
    (s.modCluster c f).nextTask = s.nextTask := rfl
@[simp] theorem State.modCluster_gangs (s : State) (c : Nat) (f : Cluster → Cluster) :
    (s.modCluster c f).gangs = s.gangs := rfl
@[simp] theorem State.modCluster_records (s : State) (c : Nat) (f : Cluster → Cluster) :
    (s.modCluster c f).records = s.records := rfl
@[simp] theorem State.modCluster_packets (s : State) (c : Nat) (f : Cluster → Cluster) :
    (s.modCluster c f).packets = s.packets := rfl
@[simp] theorem State.modCluster_colls (s : State) (c : Nat) (f : Cluster → Cluster) :
    (s.modCluster c f).colls = s.colls := rfl
@[simp] theorem State.modCluster_collDones (s : State) (c : Nat) (f : Cluster → Cluster) :
    (s.modCluster c f).collDones = s.collDones := rfl
@[simp] theorem State.modCluster_nextColl (s : State) (c : Nat) (f : Cluster → Cluster) :
    (s.modCluster c f).nextColl = s.nextColl := rfl
@[simp] theorem State.modCluster_invals (s : State) (c : Nat) (f : Cluster → Cluster) :
    (s.modCluster c f).invals = s.invals := rfl
@[simp] theorem State.modCluster_links (s : State) (c : Nat) (f : Cluster → Cluster) :
    (s.modCluster c f).links = s.links := rfl
@[simp] theorem State.modCluster_ports (s : State) (c : Nat) (f : Cluster → Cluster) :
    (s.modCluster c f).ports = s.ports := rfl
@[simp] theorem State.modCluster_bootstat (s : State) (c : Nat) (f : Cluster → Cluster) :
    (s.modCluster c f).bootstat = s.bootstat := rfl
@[simp] theorem State.modCluster_devnum (s : State) (c : Nat) (f : Cluster → Cluster) :
    (s.modCluster c f).devnum = s.devnum := rfl
@[simp] theorem State.modCluster_pwrlim (s : State) (c : Nat) (f : Cluster → Cluster) :
    (s.modCluster c f).pwrlim = s.pwrlim := rfl
@[simp] theorem State.modCluster_firmware (s : State) (c : Nat) (f : Cluster → Cluster) :
    (s.modCluster c f).firmware = s.firmware := rfl
@[simp] theorem State.modCluster_bootDie (s : State) (c : Nat) (f : Cluster → Cluster) :
    (s.modCluster c f).bootDie = s.bootDie := rfl
@[simp] theorem State.modCluster_bootImageB (s : State) (c : Nat) (f : Cluster → Cluster) :
    (s.modCluster c f).bootImageB = s.bootImageB := rfl
@[simp] theorem State.modCluster_resync (s : State) (c : Nat) (f : Cluster → Cluster) :
    (s.modCluster c f).resync = s.resync := rfl
@[simp] theorem State.modCluster_retiring (s : State) (c : Nat) (f : Cluster → Cluster) :
    (s.modCluster c f).retiring = s.retiring := rfl
@[simp] theorem State.modCluster_cur (s : State) (c : Nat) (f : Cluster → Cluster) :
    (s.modCluster c f).cur = s.cur := rfl
@[simp] theorem State.modCluster_turns (s : State) (c : Nat) (f : Cluster → Cluster) :
    (s.modCluster c f).turns = s.turns := rfl
@[simp] theorem State.modCluster_tick (s : State) (c : Nat) (f : Cluster → Cluster) :
    (s.modCluster c f).tick = s.tick := rfl
@[simp] theorem State.modCluster_free (s : State) (c : Nat) (f : Cluster → Cluster) :
    (s.modCluster c f).free = s.free := rfl
@[simp] theorem State.modDie_cores (s : State) (d : Nat) (f : Die → Die) :
    (s.modDie d f).cores = s.cores := rfl
@[simp] theorem State.modDie_clusters (s : State) (d : Nat) (f : Die → Die) :
    (s.modDie d f).clusters = s.clusters := rfl
@[simp] theorem State.modDie_hbm (s : State) (d : Nat) (f : Die → Die) :
    (s.modDie d f).hbm = s.hbm := rfl
@[simp] theorem State.modDie_regions (s : State) (d : Nat) (f : Die → Die) :
    (s.modDie d f).regions = s.regions := rfl
@[simp] theorem State.modDie_handles (s : State) (d : Nat) (f : Die → Die) :
    (s.modDie d f).handles = s.handles := rfl
@[simp] theorem State.modDie_tasks (s : State) (d : Nat) (f : Die → Die) :
    (s.modDie d f).tasks = s.tasks := rfl
@[simp] theorem State.modDie_nextTask (s : State) (d : Nat) (f : Die → Die) :
    (s.modDie d f).nextTask = s.nextTask := rfl
@[simp] theorem State.modDie_gangs (s : State) (d : Nat) (f : Die → Die) :
    (s.modDie d f).gangs = s.gangs := rfl
@[simp] theorem State.modDie_records (s : State) (d : Nat) (f : Die → Die) :
    (s.modDie d f).records = s.records := rfl
@[simp] theorem State.modDie_packets (s : State) (d : Nat) (f : Die → Die) :
    (s.modDie d f).packets = s.packets := rfl
@[simp] theorem State.modDie_colls (s : State) (d : Nat) (f : Die → Die) :
    (s.modDie d f).colls = s.colls := rfl
@[simp] theorem State.modDie_collDones (s : State) (d : Nat) (f : Die → Die) :
    (s.modDie d f).collDones = s.collDones := rfl
@[simp] theorem State.modDie_nextColl (s : State) (d : Nat) (f : Die → Die) :
    (s.modDie d f).nextColl = s.nextColl := rfl
@[simp] theorem State.modDie_invals (s : State) (d : Nat) (f : Die → Die) :
    (s.modDie d f).invals = s.invals := rfl
@[simp] theorem State.modDie_links (s : State) (d : Nat) (f : Die → Die) :
    (s.modDie d f).links = s.links := rfl
@[simp] theorem State.modDie_ports (s : State) (d : Nat) (f : Die → Die) :
    (s.modDie d f).ports = s.ports := rfl
@[simp] theorem State.modDie_bootstat (s : State) (d : Nat) (f : Die → Die) :
    (s.modDie d f).bootstat = s.bootstat := rfl
@[simp] theorem State.modDie_devnum (s : State) (d : Nat) (f : Die → Die) :
    (s.modDie d f).devnum = s.devnum := rfl
@[simp] theorem State.modDie_pwrlim (s : State) (d : Nat) (f : Die → Die) :
    (s.modDie d f).pwrlim = s.pwrlim := rfl
@[simp] theorem State.modDie_firmware (s : State) (d : Nat) (f : Die → Die) :
    (s.modDie d f).firmware = s.firmware := rfl
@[simp] theorem State.modDie_bootDie (s : State) (d : Nat) (f : Die → Die) :
    (s.modDie d f).bootDie = s.bootDie := rfl
@[simp] theorem State.modDie_bootImageB (s : State) (d : Nat) (f : Die → Die) :
    (s.modDie d f).bootImageB = s.bootImageB := rfl
@[simp] theorem State.modDie_resync (s : State) (d : Nat) (f : Die → Die) :
    (s.modDie d f).resync = s.resync := rfl
@[simp] theorem State.modDie_retiring (s : State) (d : Nat) (f : Die → Die) :
    (s.modDie d f).retiring = s.retiring := rfl
@[simp] theorem State.modDie_cur (s : State) (d : Nat) (f : Die → Die) :
    (s.modDie d f).cur = s.cur := rfl
@[simp] theorem State.modDie_turns (s : State) (d : Nat) (f : Die → Die) :
    (s.modDie d f).turns = s.turns := rfl
@[simp] theorem State.modDie_tick (s : State) (d : Nat) (f : Die → Die) :
    (s.modDie d f).tick = s.tick := rfl
@[simp] theorem State.modDie_free (s : State) (d : Nat) (f : Die → Die) :
    (s.modDie d f).free = s.free := rfl
@[simp] theorem State.setPort_cores (s : State) (p : Fin 2) (v : Port) :
    (s.setPort p v).cores = s.cores := rfl
@[simp] theorem State.setPort_clusters (s : State) (p : Fin 2) (v : Port) :
    (s.setPort p v).clusters = s.clusters := rfl
@[simp] theorem State.setPort_dies (s : State) (p : Fin 2) (v : Port) :
    (s.setPort p v).dies = s.dies := rfl
@[simp] theorem State.setPort_hbm (s : State) (p : Fin 2) (v : Port) :
    (s.setPort p v).hbm = s.hbm := rfl
@[simp] theorem State.setPort_regions (s : State) (p : Fin 2) (v : Port) :
    (s.setPort p v).regions = s.regions := rfl
@[simp] theorem State.setPort_handles (s : State) (p : Fin 2) (v : Port) :
    (s.setPort p v).handles = s.handles := rfl
@[simp] theorem State.setPort_tasks (s : State) (p : Fin 2) (v : Port) :
    (s.setPort p v).tasks = s.tasks := rfl
@[simp] theorem State.setPort_nextTask (s : State) (p : Fin 2) (v : Port) :
    (s.setPort p v).nextTask = s.nextTask := rfl
@[simp] theorem State.setPort_gangs (s : State) (p : Fin 2) (v : Port) :
    (s.setPort p v).gangs = s.gangs := rfl
@[simp] theorem State.setPort_records (s : State) (p : Fin 2) (v : Port) :
    (s.setPort p v).records = s.records := rfl
@[simp] theorem State.setPort_packets (s : State) (p : Fin 2) (v : Port) :
    (s.setPort p v).packets = s.packets := rfl
@[simp] theorem State.setPort_colls (s : State) (p : Fin 2) (v : Port) :
    (s.setPort p v).colls = s.colls := rfl
@[simp] theorem State.setPort_collDones (s : State) (p : Fin 2) (v : Port) :
    (s.setPort p v).collDones = s.collDones := rfl
@[simp] theorem State.setPort_nextColl (s : State) (p : Fin 2) (v : Port) :
    (s.setPort p v).nextColl = s.nextColl := rfl
@[simp] theorem State.setPort_invals (s : State) (p : Fin 2) (v : Port) :
    (s.setPort p v).invals = s.invals := rfl
@[simp] theorem State.setPort_links (s : State) (p : Fin 2) (v : Port) :
    (s.setPort p v).links = s.links := rfl
@[simp] theorem State.setPort_bootstat (s : State) (p : Fin 2) (v : Port) :
    (s.setPort p v).bootstat = s.bootstat := rfl
@[simp] theorem State.setPort_devnum (s : State) (p : Fin 2) (v : Port) :
    (s.setPort p v).devnum = s.devnum := rfl
@[simp] theorem State.setPort_pwrlim (s : State) (p : Fin 2) (v : Port) :
    (s.setPort p v).pwrlim = s.pwrlim := rfl
@[simp] theorem State.setPort_firmware (s : State) (p : Fin 2) (v : Port) :
    (s.setPort p v).firmware = s.firmware := rfl
@[simp] theorem State.setPort_bootDie (s : State) (p : Fin 2) (v : Port) :
    (s.setPort p v).bootDie = s.bootDie := rfl
@[simp] theorem State.setPort_bootImageB (s : State) (p : Fin 2) (v : Port) :
    (s.setPort p v).bootImageB = s.bootImageB := rfl
@[simp] theorem State.setPort_resync (s : State) (p : Fin 2) (v : Port) :
    (s.setPort p v).resync = s.resync := rfl
@[simp] theorem State.setPort_retiring (s : State) (p : Fin 2) (v : Port) :
    (s.setPort p v).retiring = s.retiring := rfl
@[simp] theorem State.setPort_cur (s : State) (p : Fin 2) (v : Port) :
    (s.setPort p v).cur = s.cur := rfl
@[simp] theorem State.setPort_turns (s : State) (p : Fin 2) (v : Port) :
    (s.setPort p v).turns = s.turns := rfl
@[simp] theorem State.setPort_tick (s : State) (p : Fin 2) (v : Port) :
    (s.setPort p v).tick = s.tick := rfl
@[simp] theorem State.setPort_free (s : State) (p : Fin 2) (v : Port) :
    (s.setPort p v).free = s.free := rfl
@[simp] theorem State.modPort_cores (s : State) (p : Fin 2) (f : Port → Port) :
    (s.modPort p f).cores = s.cores := rfl
@[simp] theorem State.modPort_clusters (s : State) (p : Fin 2) (f : Port → Port) :
    (s.modPort p f).clusters = s.clusters := rfl
@[simp] theorem State.modPort_dies (s : State) (p : Fin 2) (f : Port → Port) :
    (s.modPort p f).dies = s.dies := rfl
@[simp] theorem State.modPort_hbm (s : State) (p : Fin 2) (f : Port → Port) :
    (s.modPort p f).hbm = s.hbm := rfl
@[simp] theorem State.modPort_regions (s : State) (p : Fin 2) (f : Port → Port) :
    (s.modPort p f).regions = s.regions := rfl
@[simp] theorem State.modPort_handles (s : State) (p : Fin 2) (f : Port → Port) :
    (s.modPort p f).handles = s.handles := rfl
@[simp] theorem State.modPort_tasks (s : State) (p : Fin 2) (f : Port → Port) :
    (s.modPort p f).tasks = s.tasks := rfl
@[simp] theorem State.modPort_nextTask (s : State) (p : Fin 2) (f : Port → Port) :
    (s.modPort p f).nextTask = s.nextTask := rfl
@[simp] theorem State.modPort_gangs (s : State) (p : Fin 2) (f : Port → Port) :
    (s.modPort p f).gangs = s.gangs := rfl
@[simp] theorem State.modPort_records (s : State) (p : Fin 2) (f : Port → Port) :
    (s.modPort p f).records = s.records := rfl
@[simp] theorem State.modPort_packets (s : State) (p : Fin 2) (f : Port → Port) :
    (s.modPort p f).packets = s.packets := rfl
@[simp] theorem State.modPort_colls (s : State) (p : Fin 2) (f : Port → Port) :
    (s.modPort p f).colls = s.colls := rfl
@[simp] theorem State.modPort_collDones (s : State) (p : Fin 2) (f : Port → Port) :
    (s.modPort p f).collDones = s.collDones := rfl
@[simp] theorem State.modPort_nextColl (s : State) (p : Fin 2) (f : Port → Port) :
    (s.modPort p f).nextColl = s.nextColl := rfl
@[simp] theorem State.modPort_invals (s : State) (p : Fin 2) (f : Port → Port) :
    (s.modPort p f).invals = s.invals := rfl
@[simp] theorem State.modPort_links (s : State) (p : Fin 2) (f : Port → Port) :
    (s.modPort p f).links = s.links := rfl
@[simp] theorem State.modPort_bootstat (s : State) (p : Fin 2) (f : Port → Port) :
    (s.modPort p f).bootstat = s.bootstat := rfl
@[simp] theorem State.modPort_devnum (s : State) (p : Fin 2) (f : Port → Port) :
    (s.modPort p f).devnum = s.devnum := rfl
@[simp] theorem State.modPort_pwrlim (s : State) (p : Fin 2) (f : Port → Port) :
    (s.modPort p f).pwrlim = s.pwrlim := rfl
@[simp] theorem State.modPort_firmware (s : State) (p : Fin 2) (f : Port → Port) :
    (s.modPort p f).firmware = s.firmware := rfl
@[simp] theorem State.modPort_bootDie (s : State) (p : Fin 2) (f : Port → Port) :
    (s.modPort p f).bootDie = s.bootDie := rfl
@[simp] theorem State.modPort_bootImageB (s : State) (p : Fin 2) (f : Port → Port) :
    (s.modPort p f).bootImageB = s.bootImageB := rfl
@[simp] theorem State.modPort_resync (s : State) (p : Fin 2) (f : Port → Port) :
    (s.modPort p f).resync = s.resync := rfl
@[simp] theorem State.modPort_retiring (s : State) (p : Fin 2) (f : Port → Port) :
    (s.modPort p f).retiring = s.retiring := rfl
@[simp] theorem State.modPort_cur (s : State) (p : Fin 2) (f : Port → Port) :
    (s.modPort p f).cur = s.cur := rfl
@[simp] theorem State.modPort_turns (s : State) (p : Fin 2) (f : Port → Port) :
    (s.modPort p f).turns = s.turns := rfl
@[simp] theorem State.modPort_tick (s : State) (p : Fin 2) (f : Port → Port) :
    (s.modPort p f).tick = s.tick := rfl
@[simp] theorem State.modPort_free (s : State) (p : Fin 2) (f : Port → Port) :
    (s.modPort p f).free = s.free := rfl
@[simp] theorem State.modQueue_cores (s : State) (p : Fin 2) (q : Fin 16) (f : HostQueue → HostQueue) :
    (s.modQueue p q f).cores = s.cores := rfl
@[simp] theorem State.modQueue_clusters (s : State) (p : Fin 2) (q : Fin 16) (f : HostQueue → HostQueue) :
    (s.modQueue p q f).clusters = s.clusters := rfl
@[simp] theorem State.modQueue_dies (s : State) (p : Fin 2) (q : Fin 16) (f : HostQueue → HostQueue) :
    (s.modQueue p q f).dies = s.dies := rfl
@[simp] theorem State.modQueue_hbm (s : State) (p : Fin 2) (q : Fin 16) (f : HostQueue → HostQueue) :
    (s.modQueue p q f).hbm = s.hbm := rfl
@[simp] theorem State.modQueue_regions (s : State) (p : Fin 2) (q : Fin 16) (f : HostQueue → HostQueue) :
    (s.modQueue p q f).regions = s.regions := rfl
@[simp] theorem State.modQueue_handles (s : State) (p : Fin 2) (q : Fin 16) (f : HostQueue → HostQueue) :
    (s.modQueue p q f).handles = s.handles := rfl
@[simp] theorem State.modQueue_tasks (s : State) (p : Fin 2) (q : Fin 16) (f : HostQueue → HostQueue) :
    (s.modQueue p q f).tasks = s.tasks := rfl
@[simp] theorem State.modQueue_nextTask (s : State) (p : Fin 2) (q : Fin 16) (f : HostQueue → HostQueue) :
    (s.modQueue p q f).nextTask = s.nextTask := rfl
@[simp] theorem State.modQueue_gangs (s : State) (p : Fin 2) (q : Fin 16) (f : HostQueue → HostQueue) :
    (s.modQueue p q f).gangs = s.gangs := rfl
@[simp] theorem State.modQueue_records (s : State) (p : Fin 2) (q : Fin 16) (f : HostQueue → HostQueue) :
    (s.modQueue p q f).records = s.records := rfl
@[simp] theorem State.modQueue_packets (s : State) (p : Fin 2) (q : Fin 16) (f : HostQueue → HostQueue) :
    (s.modQueue p q f).packets = s.packets := rfl
@[simp] theorem State.modQueue_colls (s : State) (p : Fin 2) (q : Fin 16) (f : HostQueue → HostQueue) :
    (s.modQueue p q f).colls = s.colls := rfl
@[simp] theorem State.modQueue_collDones (s : State) (p : Fin 2) (q : Fin 16) (f : HostQueue → HostQueue) :
    (s.modQueue p q f).collDones = s.collDones := rfl
@[simp] theorem State.modQueue_nextColl (s : State) (p : Fin 2) (q : Fin 16) (f : HostQueue → HostQueue) :
    (s.modQueue p q f).nextColl = s.nextColl := rfl
@[simp] theorem State.modQueue_invals (s : State) (p : Fin 2) (q : Fin 16) (f : HostQueue → HostQueue) :
    (s.modQueue p q f).invals = s.invals := rfl
@[simp] theorem State.modQueue_links (s : State) (p : Fin 2) (q : Fin 16) (f : HostQueue → HostQueue) :
    (s.modQueue p q f).links = s.links := rfl
@[simp] theorem State.modQueue_bootstat (s : State) (p : Fin 2) (q : Fin 16) (f : HostQueue → HostQueue) :
    (s.modQueue p q f).bootstat = s.bootstat := rfl
@[simp] theorem State.modQueue_devnum (s : State) (p : Fin 2) (q : Fin 16) (f : HostQueue → HostQueue) :
    (s.modQueue p q f).devnum = s.devnum := rfl
@[simp] theorem State.modQueue_pwrlim (s : State) (p : Fin 2) (q : Fin 16) (f : HostQueue → HostQueue) :
    (s.modQueue p q f).pwrlim = s.pwrlim := rfl
@[simp] theorem State.modQueue_firmware (s : State) (p : Fin 2) (q : Fin 16) (f : HostQueue → HostQueue) :
    (s.modQueue p q f).firmware = s.firmware := rfl
@[simp] theorem State.modQueue_bootDie (s : State) (p : Fin 2) (q : Fin 16) (f : HostQueue → HostQueue) :
    (s.modQueue p q f).bootDie = s.bootDie := rfl
@[simp] theorem State.modQueue_bootImageB (s : State) (p : Fin 2) (q : Fin 16) (f : HostQueue → HostQueue) :
    (s.modQueue p q f).bootImageB = s.bootImageB := rfl
@[simp] theorem State.modQueue_resync (s : State) (p : Fin 2) (q : Fin 16) (f : HostQueue → HostQueue) :
    (s.modQueue p q f).resync = s.resync := rfl
@[simp] theorem State.modQueue_retiring (s : State) (p : Fin 2) (q : Fin 16) (f : HostQueue → HostQueue) :
    (s.modQueue p q f).retiring = s.retiring := rfl
@[simp] theorem State.modQueue_cur (s : State) (p : Fin 2) (q : Fin 16) (f : HostQueue → HostQueue) :
    (s.modQueue p q f).cur = s.cur := rfl
@[simp] theorem State.modQueue_turns (s : State) (p : Fin 2) (q : Fin 16) (f : HostQueue → HostQueue) :
    (s.modQueue p q f).turns = s.turns := rfl
@[simp] theorem State.modQueue_tick (s : State) (p : Fin 2) (q : Fin 16) (f : HostQueue → HostQueue) :
    (s.modQueue p q f).tick = s.tick := rfl
@[simp] theorem State.modQueue_free (s : State) (p : Fin 2) (q : Fin 16) (f : HostQueue → HostQueue) :
    (s.modQueue p q f).free = s.free := rfl
@[simp] theorem State.modLink_cores (s : State) (n : Fin 16) (f : Link → Link) :
    (s.modLink n f).cores = s.cores := rfl
@[simp] theorem State.modLink_clusters (s : State) (n : Fin 16) (f : Link → Link) :
    (s.modLink n f).clusters = s.clusters := rfl
@[simp] theorem State.modLink_dies (s : State) (n : Fin 16) (f : Link → Link) :
    (s.modLink n f).dies = s.dies := rfl
@[simp] theorem State.modLink_hbm (s : State) (n : Fin 16) (f : Link → Link) :
    (s.modLink n f).hbm = s.hbm := rfl
@[simp] theorem State.modLink_regions (s : State) (n : Fin 16) (f : Link → Link) :
    (s.modLink n f).regions = s.regions := rfl
@[simp] theorem State.modLink_handles (s : State) (n : Fin 16) (f : Link → Link) :
    (s.modLink n f).handles = s.handles := rfl
@[simp] theorem State.modLink_tasks (s : State) (n : Fin 16) (f : Link → Link) :
    (s.modLink n f).tasks = s.tasks := rfl
@[simp] theorem State.modLink_nextTask (s : State) (n : Fin 16) (f : Link → Link) :
    (s.modLink n f).nextTask = s.nextTask := rfl
@[simp] theorem State.modLink_gangs (s : State) (n : Fin 16) (f : Link → Link) :
    (s.modLink n f).gangs = s.gangs := rfl
@[simp] theorem State.modLink_records (s : State) (n : Fin 16) (f : Link → Link) :
    (s.modLink n f).records = s.records := rfl
@[simp] theorem State.modLink_packets (s : State) (n : Fin 16) (f : Link → Link) :
    (s.modLink n f).packets = s.packets := rfl
@[simp] theorem State.modLink_colls (s : State) (n : Fin 16) (f : Link → Link) :
    (s.modLink n f).colls = s.colls := rfl
@[simp] theorem State.modLink_collDones (s : State) (n : Fin 16) (f : Link → Link) :
    (s.modLink n f).collDones = s.collDones := rfl
@[simp] theorem State.modLink_nextColl (s : State) (n : Fin 16) (f : Link → Link) :
    (s.modLink n f).nextColl = s.nextColl := rfl
@[simp] theorem State.modLink_invals (s : State) (n : Fin 16) (f : Link → Link) :
    (s.modLink n f).invals = s.invals := rfl
@[simp] theorem State.modLink_ports (s : State) (n : Fin 16) (f : Link → Link) :
    (s.modLink n f).ports = s.ports := rfl
@[simp] theorem State.modLink_bootstat (s : State) (n : Fin 16) (f : Link → Link) :
    (s.modLink n f).bootstat = s.bootstat := rfl
@[simp] theorem State.modLink_devnum (s : State) (n : Fin 16) (f : Link → Link) :
    (s.modLink n f).devnum = s.devnum := rfl
@[simp] theorem State.modLink_pwrlim (s : State) (n : Fin 16) (f : Link → Link) :
    (s.modLink n f).pwrlim = s.pwrlim := rfl
@[simp] theorem State.modLink_firmware (s : State) (n : Fin 16) (f : Link → Link) :
    (s.modLink n f).firmware = s.firmware := rfl
@[simp] theorem State.modLink_bootDie (s : State) (n : Fin 16) (f : Link → Link) :
    (s.modLink n f).bootDie = s.bootDie := rfl
@[simp] theorem State.modLink_bootImageB (s : State) (n : Fin 16) (f : Link → Link) :
    (s.modLink n f).bootImageB = s.bootImageB := rfl
@[simp] theorem State.modLink_resync (s : State) (n : Fin 16) (f : Link → Link) :
    (s.modLink n f).resync = s.resync := rfl
@[simp] theorem State.modLink_retiring (s : State) (n : Fin 16) (f : Link → Link) :
    (s.modLink n f).retiring = s.retiring := rfl
@[simp] theorem State.modLink_cur (s : State) (n : Fin 16) (f : Link → Link) :
    (s.modLink n f).cur = s.cur := rfl
@[simp] theorem State.modLink_turns (s : State) (n : Fin 16) (f : Link → Link) :
    (s.modLink n f).turns = s.turns := rfl
@[simp] theorem State.modLink_tick (s : State) (n : Fin 16) (f : Link → Link) :
    (s.modLink n f).tick = s.tick := rfl
@[simp] theorem State.modLink_free (s : State) (n : Fin 16) (f : Link → Link) :
    (s.modLink n f).free = s.free := rfl
@[simp] theorem State.setStrand_clusters (s : State) (c : Nat) (n : Fin 4) (t : Strand) :
    (s.setStrand c n t).clusters = s.clusters := rfl
@[simp] theorem State.setStrand_dies (s : State) (c : Nat) (n : Fin 4) (t : Strand) :
    (s.setStrand c n t).dies = s.dies := rfl
@[simp] theorem State.setStrand_hbm (s : State) (c : Nat) (n : Fin 4) (t : Strand) :
    (s.setStrand c n t).hbm = s.hbm := rfl
@[simp] theorem State.setStrand_regions (s : State) (c : Nat) (n : Fin 4) (t : Strand) :
    (s.setStrand c n t).regions = s.regions := rfl
@[simp] theorem State.setStrand_handles (s : State) (c : Nat) (n : Fin 4) (t : Strand) :
    (s.setStrand c n t).handles = s.handles := rfl
@[simp] theorem State.setStrand_tasks (s : State) (c : Nat) (n : Fin 4) (t : Strand) :
    (s.setStrand c n t).tasks = s.tasks := rfl
@[simp] theorem State.setStrand_nextTask (s : State) (c : Nat) (n : Fin 4) (t : Strand) :
    (s.setStrand c n t).nextTask = s.nextTask := rfl
@[simp] theorem State.setStrand_gangs (s : State) (c : Nat) (n : Fin 4) (t : Strand) :
    (s.setStrand c n t).gangs = s.gangs := rfl
@[simp] theorem State.setStrand_records (s : State) (c : Nat) (n : Fin 4) (t : Strand) :
    (s.setStrand c n t).records = s.records := rfl
@[simp] theorem State.setStrand_packets (s : State) (c : Nat) (n : Fin 4) (t : Strand) :
    (s.setStrand c n t).packets = s.packets := rfl
@[simp] theorem State.setStrand_colls (s : State) (c : Nat) (n : Fin 4) (t : Strand) :
    (s.setStrand c n t).colls = s.colls := rfl
@[simp] theorem State.setStrand_collDones (s : State) (c : Nat) (n : Fin 4) (t : Strand) :
    (s.setStrand c n t).collDones = s.collDones := rfl
@[simp] theorem State.setStrand_nextColl (s : State) (c : Nat) (n : Fin 4) (t : Strand) :
    (s.setStrand c n t).nextColl = s.nextColl := rfl
@[simp] theorem State.setStrand_invals (s : State) (c : Nat) (n : Fin 4) (t : Strand) :
    (s.setStrand c n t).invals = s.invals := rfl
@[simp] theorem State.setStrand_links (s : State) (c : Nat) (n : Fin 4) (t : Strand) :
    (s.setStrand c n t).links = s.links := rfl
@[simp] theorem State.setStrand_ports (s : State) (c : Nat) (n : Fin 4) (t : Strand) :
    (s.setStrand c n t).ports = s.ports := rfl
@[simp] theorem State.setStrand_bootstat (s : State) (c : Nat) (n : Fin 4) (t : Strand) :
    (s.setStrand c n t).bootstat = s.bootstat := rfl
@[simp] theorem State.setStrand_devnum (s : State) (c : Nat) (n : Fin 4) (t : Strand) :
    (s.setStrand c n t).devnum = s.devnum := rfl
@[simp] theorem State.setStrand_pwrlim (s : State) (c : Nat) (n : Fin 4) (t : Strand) :
    (s.setStrand c n t).pwrlim = s.pwrlim := rfl
@[simp] theorem State.setStrand_firmware (s : State) (c : Nat) (n : Fin 4) (t : Strand) :
    (s.setStrand c n t).firmware = s.firmware := rfl
@[simp] theorem State.setStrand_bootDie (s : State) (c : Nat) (n : Fin 4) (t : Strand) :
    (s.setStrand c n t).bootDie = s.bootDie := rfl
@[simp] theorem State.setStrand_bootImageB (s : State) (c : Nat) (n : Fin 4) (t : Strand) :
    (s.setStrand c n t).bootImageB = s.bootImageB := rfl
@[simp] theorem State.setStrand_resync (s : State) (c : Nat) (n : Fin 4) (t : Strand) :
    (s.setStrand c n t).resync = s.resync := rfl
@[simp] theorem State.setStrand_retiring (s : State) (c : Nat) (n : Fin 4) (t : Strand) :
    (s.setStrand c n t).retiring = s.retiring := rfl
@[simp] theorem State.setStrand_cur (s : State) (c : Nat) (n : Fin 4) (t : Strand) :
    (s.setStrand c n t).cur = s.cur := rfl
@[simp] theorem State.setStrand_turns (s : State) (c : Nat) (n : Fin 4) (t : Strand) :
    (s.setStrand c n t).turns = s.turns := rfl
@[simp] theorem State.setStrand_tick (s : State) (c : Nat) (n : Fin 4) (t : Strand) :
    (s.setStrand c n t).tick = s.tick := rfl
@[simp] theorem State.setStrand_free (s : State) (c : Nat) (n : Fin 4) (t : Strand) :
    (s.setStrand c n t).free = s.free := rfl
@[simp] theorem State.modStrand_clusters (s : State) (c : Nat) (n : Fin 4) (f : Strand → Strand) :
    (s.modStrand c n f).clusters = s.clusters := rfl
@[simp] theorem State.modStrand_dies (s : State) (c : Nat) (n : Fin 4) (f : Strand → Strand) :
    (s.modStrand c n f).dies = s.dies := rfl
@[simp] theorem State.modStrand_hbm (s : State) (c : Nat) (n : Fin 4) (f : Strand → Strand) :
    (s.modStrand c n f).hbm = s.hbm := rfl
@[simp] theorem State.modStrand_regions (s : State) (c : Nat) (n : Fin 4) (f : Strand → Strand) :
    (s.modStrand c n f).regions = s.regions := rfl
@[simp] theorem State.modStrand_handles (s : State) (c : Nat) (n : Fin 4) (f : Strand → Strand) :
    (s.modStrand c n f).handles = s.handles := rfl
@[simp] theorem State.modStrand_tasks (s : State) (c : Nat) (n : Fin 4) (f : Strand → Strand) :
    (s.modStrand c n f).tasks = s.tasks := rfl
@[simp] theorem State.modStrand_nextTask (s : State) (c : Nat) (n : Fin 4) (f : Strand → Strand) :
    (s.modStrand c n f).nextTask = s.nextTask := rfl
@[simp] theorem State.modStrand_gangs (s : State) (c : Nat) (n : Fin 4) (f : Strand → Strand) :
    (s.modStrand c n f).gangs = s.gangs := rfl
@[simp] theorem State.modStrand_records (s : State) (c : Nat) (n : Fin 4) (f : Strand → Strand) :
    (s.modStrand c n f).records = s.records := rfl
@[simp] theorem State.modStrand_packets (s : State) (c : Nat) (n : Fin 4) (f : Strand → Strand) :
    (s.modStrand c n f).packets = s.packets := rfl
@[simp] theorem State.modStrand_colls (s : State) (c : Nat) (n : Fin 4) (f : Strand → Strand) :
    (s.modStrand c n f).colls = s.colls := rfl
@[simp] theorem State.modStrand_collDones (s : State) (c : Nat) (n : Fin 4) (f : Strand → Strand) :
    (s.modStrand c n f).collDones = s.collDones := rfl
@[simp] theorem State.modStrand_nextColl (s : State) (c : Nat) (n : Fin 4) (f : Strand → Strand) :
    (s.modStrand c n f).nextColl = s.nextColl := rfl
@[simp] theorem State.modStrand_invals (s : State) (c : Nat) (n : Fin 4) (f : Strand → Strand) :
    (s.modStrand c n f).invals = s.invals := rfl
@[simp] theorem State.modStrand_links (s : State) (c : Nat) (n : Fin 4) (f : Strand → Strand) :
    (s.modStrand c n f).links = s.links := rfl
@[simp] theorem State.modStrand_ports (s : State) (c : Nat) (n : Fin 4) (f : Strand → Strand) :
    (s.modStrand c n f).ports = s.ports := rfl
@[simp] theorem State.modStrand_bootstat (s : State) (c : Nat) (n : Fin 4) (f : Strand → Strand) :
    (s.modStrand c n f).bootstat = s.bootstat := rfl
@[simp] theorem State.modStrand_devnum (s : State) (c : Nat) (n : Fin 4) (f : Strand → Strand) :
    (s.modStrand c n f).devnum = s.devnum := rfl
@[simp] theorem State.modStrand_pwrlim (s : State) (c : Nat) (n : Fin 4) (f : Strand → Strand) :
    (s.modStrand c n f).pwrlim = s.pwrlim := rfl
@[simp] theorem State.modStrand_firmware (s : State) (c : Nat) (n : Fin 4) (f : Strand → Strand) :
    (s.modStrand c n f).firmware = s.firmware := rfl
@[simp] theorem State.modStrand_bootDie (s : State) (c : Nat) (n : Fin 4) (f : Strand → Strand) :
    (s.modStrand c n f).bootDie = s.bootDie := rfl
@[simp] theorem State.modStrand_bootImageB (s : State) (c : Nat) (n : Fin 4) (f : Strand → Strand) :
    (s.modStrand c n f).bootImageB = s.bootImageB := rfl
@[simp] theorem State.modStrand_resync (s : State) (c : Nat) (n : Fin 4) (f : Strand → Strand) :
    (s.modStrand c n f).resync = s.resync := rfl
@[simp] theorem State.modStrand_retiring (s : State) (c : Nat) (n : Fin 4) (f : Strand → Strand) :
    (s.modStrand c n f).retiring = s.retiring := rfl
@[simp] theorem State.modStrand_cur (s : State) (c : Nat) (n : Fin 4) (f : Strand → Strand) :
    (s.modStrand c n f).cur = s.cur := rfl
@[simp] theorem State.modStrand_turns (s : State) (c : Nat) (n : Fin 4) (f : Strand → Strand) :
    (s.modStrand c n f).turns = s.turns := rfl
@[simp] theorem State.modStrand_tick (s : State) (c : Nat) (n : Fin 4) (f : Strand → Strand) :
    (s.modStrand c n f).tick = s.tick := rfl
@[simp] theorem State.modStrand_free (s : State) (c : Nat) (n : Fin 4) (f : Strand → Strand) :
    (s.modStrand c n f).free = s.free := rfl
@[simp] theorem State.setMe_clusters (s : State) (t : Strand) :
    (s.setMe t).clusters = s.clusters := rfl
@[simp] theorem State.setMe_dies (s : State) (t : Strand) :
    (s.setMe t).dies = s.dies := rfl
@[simp] theorem State.setMe_hbm (s : State) (t : Strand) :
    (s.setMe t).hbm = s.hbm := rfl
@[simp] theorem State.setMe_regions (s : State) (t : Strand) :
    (s.setMe t).regions = s.regions := rfl
@[simp] theorem State.setMe_handles (s : State) (t : Strand) :
    (s.setMe t).handles = s.handles := rfl
@[simp] theorem State.setMe_tasks (s : State) (t : Strand) :
    (s.setMe t).tasks = s.tasks := rfl
@[simp] theorem State.setMe_nextTask (s : State) (t : Strand) :
    (s.setMe t).nextTask = s.nextTask := rfl
@[simp] theorem State.setMe_gangs (s : State) (t : Strand) :
    (s.setMe t).gangs = s.gangs := rfl
@[simp] theorem State.setMe_records (s : State) (t : Strand) :
    (s.setMe t).records = s.records := rfl
@[simp] theorem State.setMe_packets (s : State) (t : Strand) :
    (s.setMe t).packets = s.packets := rfl
@[simp] theorem State.setMe_colls (s : State) (t : Strand) :
    (s.setMe t).colls = s.colls := rfl
@[simp] theorem State.setMe_collDones (s : State) (t : Strand) :
    (s.setMe t).collDones = s.collDones := rfl
@[simp] theorem State.setMe_nextColl (s : State) (t : Strand) :
    (s.setMe t).nextColl = s.nextColl := rfl
@[simp] theorem State.setMe_invals (s : State) (t : Strand) :
    (s.setMe t).invals = s.invals := rfl
@[simp] theorem State.setMe_links (s : State) (t : Strand) :
    (s.setMe t).links = s.links := rfl
@[simp] theorem State.setMe_ports (s : State) (t : Strand) :
    (s.setMe t).ports = s.ports := rfl
@[simp] theorem State.setMe_bootstat (s : State) (t : Strand) :
    (s.setMe t).bootstat = s.bootstat := rfl
@[simp] theorem State.setMe_devnum (s : State) (t : Strand) :
    (s.setMe t).devnum = s.devnum := rfl
@[simp] theorem State.setMe_pwrlim (s : State) (t : Strand) :
    (s.setMe t).pwrlim = s.pwrlim := rfl
@[simp] theorem State.setMe_firmware (s : State) (t : Strand) :
    (s.setMe t).firmware = s.firmware := rfl
@[simp] theorem State.setMe_bootDie (s : State) (t : Strand) :
    (s.setMe t).bootDie = s.bootDie := rfl
@[simp] theorem State.setMe_bootImageB (s : State) (t : Strand) :
    (s.setMe t).bootImageB = s.bootImageB := rfl
@[simp] theorem State.setMe_resync (s : State) (t : Strand) :
    (s.setMe t).resync = s.resync := rfl
@[simp] theorem State.setMe_retiring (s : State) (t : Strand) :
    (s.setMe t).retiring = s.retiring := rfl
@[simp] theorem State.setMe_cur (s : State) (t : Strand) :
    (s.setMe t).cur = s.cur := rfl
@[simp] theorem State.setMe_turns (s : State) (t : Strand) :
    (s.setMe t).turns = s.turns := rfl
@[simp] theorem State.setMe_tick (s : State) (t : Strand) :
    (s.setMe t).tick = s.tick := rfl
@[simp] theorem State.setMe_free (s : State) (t : Strand) :
    (s.setMe t).free = s.free := rfl
@[simp] theorem State.modMe_clusters (s : State) (f : Strand → Strand) :
    (s.modMe f).clusters = s.clusters := rfl
@[simp] theorem State.modMe_dies (s : State) (f : Strand → Strand) :
    (s.modMe f).dies = s.dies := rfl
@[simp] theorem State.modMe_hbm (s : State) (f : Strand → Strand) :
    (s.modMe f).hbm = s.hbm := rfl
@[simp] theorem State.modMe_regions (s : State) (f : Strand → Strand) :
    (s.modMe f).regions = s.regions := rfl
@[simp] theorem State.modMe_handles (s : State) (f : Strand → Strand) :
    (s.modMe f).handles = s.handles := rfl
@[simp] theorem State.modMe_tasks (s : State) (f : Strand → Strand) :
    (s.modMe f).tasks = s.tasks := rfl
@[simp] theorem State.modMe_nextTask (s : State) (f : Strand → Strand) :
    (s.modMe f).nextTask = s.nextTask := rfl
@[simp] theorem State.modMe_gangs (s : State) (f : Strand → Strand) :
    (s.modMe f).gangs = s.gangs := rfl
@[simp] theorem State.modMe_records (s : State) (f : Strand → Strand) :
    (s.modMe f).records = s.records := rfl
@[simp] theorem State.modMe_packets (s : State) (f : Strand → Strand) :
    (s.modMe f).packets = s.packets := rfl
@[simp] theorem State.modMe_colls (s : State) (f : Strand → Strand) :
    (s.modMe f).colls = s.colls := rfl
@[simp] theorem State.modMe_collDones (s : State) (f : Strand → Strand) :
    (s.modMe f).collDones = s.collDones := rfl
@[simp] theorem State.modMe_nextColl (s : State) (f : Strand → Strand) :
    (s.modMe f).nextColl = s.nextColl := rfl
@[simp] theorem State.modMe_invals (s : State) (f : Strand → Strand) :
    (s.modMe f).invals = s.invals := rfl
@[simp] theorem State.modMe_links (s : State) (f : Strand → Strand) :
    (s.modMe f).links = s.links := rfl
@[simp] theorem State.modMe_ports (s : State) (f : Strand → Strand) :
    (s.modMe f).ports = s.ports := rfl
@[simp] theorem State.modMe_bootstat (s : State) (f : Strand → Strand) :
    (s.modMe f).bootstat = s.bootstat := rfl
@[simp] theorem State.modMe_devnum (s : State) (f : Strand → Strand) :
    (s.modMe f).devnum = s.devnum := rfl
@[simp] theorem State.modMe_pwrlim (s : State) (f : Strand → Strand) :
    (s.modMe f).pwrlim = s.pwrlim := rfl
@[simp] theorem State.modMe_firmware (s : State) (f : Strand → Strand) :
    (s.modMe f).firmware = s.firmware := rfl
@[simp] theorem State.modMe_bootDie (s : State) (f : Strand → Strand) :
    (s.modMe f).bootDie = s.bootDie := rfl
@[simp] theorem State.modMe_bootImageB (s : State) (f : Strand → Strand) :
    (s.modMe f).bootImageB = s.bootImageB := rfl
@[simp] theorem State.modMe_resync (s : State) (f : Strand → Strand) :
    (s.modMe f).resync = s.resync := rfl
@[simp] theorem State.modMe_retiring (s : State) (f : Strand → Strand) :
    (s.modMe f).retiring = s.retiring := rfl
@[simp] theorem State.modMe_cur (s : State) (f : Strand → Strand) :
    (s.modMe f).cur = s.cur := rfl
@[simp] theorem State.modMe_turns (s : State) (f : Strand → Strand) :
    (s.modMe f).turns = s.turns := rfl
@[simp] theorem State.modMe_tick (s : State) (f : Strand → Strand) :
    (s.modMe f).tick = s.tick := rfl
@[simp] theorem State.modMe_free (s : State) (f : Strand → Strand) :
    (s.modMe f).free = s.free := rfl
@[simp] theorem State.modMyCore_clusters (s : State) (f : Core → Core) :
    (s.modMyCore f).clusters = s.clusters := rfl
@[simp] theorem State.modMyCore_dies (s : State) (f : Core → Core) :
    (s.modMyCore f).dies = s.dies := rfl
@[simp] theorem State.modMyCore_hbm (s : State) (f : Core → Core) :
    (s.modMyCore f).hbm = s.hbm := rfl
@[simp] theorem State.modMyCore_regions (s : State) (f : Core → Core) :
    (s.modMyCore f).regions = s.regions := rfl
@[simp] theorem State.modMyCore_handles (s : State) (f : Core → Core) :
    (s.modMyCore f).handles = s.handles := rfl
@[simp] theorem State.modMyCore_tasks (s : State) (f : Core → Core) :
    (s.modMyCore f).tasks = s.tasks := rfl
@[simp] theorem State.modMyCore_nextTask (s : State) (f : Core → Core) :
    (s.modMyCore f).nextTask = s.nextTask := rfl
@[simp] theorem State.modMyCore_gangs (s : State) (f : Core → Core) :
    (s.modMyCore f).gangs = s.gangs := rfl
@[simp] theorem State.modMyCore_records (s : State) (f : Core → Core) :
    (s.modMyCore f).records = s.records := rfl
@[simp] theorem State.modMyCore_packets (s : State) (f : Core → Core) :
    (s.modMyCore f).packets = s.packets := rfl
@[simp] theorem State.modMyCore_colls (s : State) (f : Core → Core) :
    (s.modMyCore f).colls = s.colls := rfl
@[simp] theorem State.modMyCore_collDones (s : State) (f : Core → Core) :
    (s.modMyCore f).collDones = s.collDones := rfl
@[simp] theorem State.modMyCore_nextColl (s : State) (f : Core → Core) :
    (s.modMyCore f).nextColl = s.nextColl := rfl
@[simp] theorem State.modMyCore_invals (s : State) (f : Core → Core) :
    (s.modMyCore f).invals = s.invals := rfl
@[simp] theorem State.modMyCore_links (s : State) (f : Core → Core) :
    (s.modMyCore f).links = s.links := rfl
@[simp] theorem State.modMyCore_ports (s : State) (f : Core → Core) :
    (s.modMyCore f).ports = s.ports := rfl
@[simp] theorem State.modMyCore_bootstat (s : State) (f : Core → Core) :
    (s.modMyCore f).bootstat = s.bootstat := rfl
@[simp] theorem State.modMyCore_devnum (s : State) (f : Core → Core) :
    (s.modMyCore f).devnum = s.devnum := rfl
@[simp] theorem State.modMyCore_pwrlim (s : State) (f : Core → Core) :
    (s.modMyCore f).pwrlim = s.pwrlim := rfl
@[simp] theorem State.modMyCore_firmware (s : State) (f : Core → Core) :
    (s.modMyCore f).firmware = s.firmware := rfl
@[simp] theorem State.modMyCore_bootDie (s : State) (f : Core → Core) :
    (s.modMyCore f).bootDie = s.bootDie := rfl
@[simp] theorem State.modMyCore_bootImageB (s : State) (f : Core → Core) :
    (s.modMyCore f).bootImageB = s.bootImageB := rfl
@[simp] theorem State.modMyCore_resync (s : State) (f : Core → Core) :
    (s.modMyCore f).resync = s.resync := rfl
@[simp] theorem State.modMyCore_retiring (s : State) (f : Core → Core) :
    (s.modMyCore f).retiring = s.retiring := rfl
@[simp] theorem State.modMyCore_cur (s : State) (f : Core → Core) :
    (s.modMyCore f).cur = s.cur := rfl
@[simp] theorem State.modMyCore_turns (s : State) (f : Core → Core) :
    (s.modMyCore f).turns = s.turns := rfl
@[simp] theorem State.modMyCore_tick (s : State) (f : Core → Core) :
    (s.modMyCore f).tick = s.tick := rfl
@[simp] theorem State.modMyCore_free (s : State) (f : Core → Core) :
    (s.modMyCore f).free = s.free := rfl
@[simp] theorem State.modTask_cores (s : State) (k : Nat) (f : Task → Task) :
    (s.modTask k f).cores = s.cores := rfl
@[simp] theorem State.modTask_clusters (s : State) (k : Nat) (f : Task → Task) :
    (s.modTask k f).clusters = s.clusters := rfl
@[simp] theorem State.modTask_dies (s : State) (k : Nat) (f : Task → Task) :
    (s.modTask k f).dies = s.dies := rfl
@[simp] theorem State.modTask_hbm (s : State) (k : Nat) (f : Task → Task) :
    (s.modTask k f).hbm = s.hbm := rfl
@[simp] theorem State.modTask_regions (s : State) (k : Nat) (f : Task → Task) :
    (s.modTask k f).regions = s.regions := rfl
@[simp] theorem State.modTask_handles (s : State) (k : Nat) (f : Task → Task) :
    (s.modTask k f).handles = s.handles := rfl
@[simp] theorem State.modTask_nextTask (s : State) (k : Nat) (f : Task → Task) :
    (s.modTask k f).nextTask = s.nextTask := rfl
@[simp] theorem State.modTask_gangs (s : State) (k : Nat) (f : Task → Task) :
    (s.modTask k f).gangs = s.gangs := rfl
@[simp] theorem State.modTask_records (s : State) (k : Nat) (f : Task → Task) :
    (s.modTask k f).records = s.records := rfl
@[simp] theorem State.modTask_packets (s : State) (k : Nat) (f : Task → Task) :
    (s.modTask k f).packets = s.packets := rfl
@[simp] theorem State.modTask_colls (s : State) (k : Nat) (f : Task → Task) :
    (s.modTask k f).colls = s.colls := rfl
@[simp] theorem State.modTask_collDones (s : State) (k : Nat) (f : Task → Task) :
    (s.modTask k f).collDones = s.collDones := rfl
@[simp] theorem State.modTask_nextColl (s : State) (k : Nat) (f : Task → Task) :
    (s.modTask k f).nextColl = s.nextColl := rfl
@[simp] theorem State.modTask_invals (s : State) (k : Nat) (f : Task → Task) :
    (s.modTask k f).invals = s.invals := rfl
@[simp] theorem State.modTask_links (s : State) (k : Nat) (f : Task → Task) :
    (s.modTask k f).links = s.links := rfl
@[simp] theorem State.modTask_ports (s : State) (k : Nat) (f : Task → Task) :
    (s.modTask k f).ports = s.ports := rfl
@[simp] theorem State.modTask_bootstat (s : State) (k : Nat) (f : Task → Task) :
    (s.modTask k f).bootstat = s.bootstat := rfl
@[simp] theorem State.modTask_devnum (s : State) (k : Nat) (f : Task → Task) :
    (s.modTask k f).devnum = s.devnum := rfl
@[simp] theorem State.modTask_pwrlim (s : State) (k : Nat) (f : Task → Task) :
    (s.modTask k f).pwrlim = s.pwrlim := rfl
@[simp] theorem State.modTask_firmware (s : State) (k : Nat) (f : Task → Task) :
    (s.modTask k f).firmware = s.firmware := rfl
@[simp] theorem State.modTask_bootDie (s : State) (k : Nat) (f : Task → Task) :
    (s.modTask k f).bootDie = s.bootDie := rfl
@[simp] theorem State.modTask_bootImageB (s : State) (k : Nat) (f : Task → Task) :
    (s.modTask k f).bootImageB = s.bootImageB := rfl
@[simp] theorem State.modTask_resync (s : State) (k : Nat) (f : Task → Task) :
    (s.modTask k f).resync = s.resync := rfl
@[simp] theorem State.modTask_retiring (s : State) (k : Nat) (f : Task → Task) :
    (s.modTask k f).retiring = s.retiring := rfl
@[simp] theorem State.modTask_cur (s : State) (k : Nat) (f : Task → Task) :
    (s.modTask k f).cur = s.cur := rfl
@[simp] theorem State.modTask_turns (s : State) (k : Nat) (f : Task → Task) :
    (s.modTask k f).turns = s.turns := rfl
@[simp] theorem State.modTask_tick (s : State) (k : Nat) (f : Task → Task) :
    (s.modTask k f).tick = s.tick := rfl
@[simp] theorem State.modTask_free (s : State) (k : Nat) (f : Task → Task) :
    (s.modTask k f).free = s.free := rfl
@[simp] theorem State.pushRing_cores (s : State) (c : Nat) (r : Fin 4) (e : BitVec 256) :
    (s.pushRing c r e).cores = s.cores := rfl
@[simp] theorem State.pushRing_dies (s : State) (c : Nat) (r : Fin 4) (e : BitVec 256) :
    (s.pushRing c r e).dies = s.dies := rfl
@[simp] theorem State.pushRing_hbm (s : State) (c : Nat) (r : Fin 4) (e : BitVec 256) :
    (s.pushRing c r e).hbm = s.hbm := rfl
@[simp] theorem State.pushRing_regions (s : State) (c : Nat) (r : Fin 4) (e : BitVec 256) :
    (s.pushRing c r e).regions = s.regions := rfl
@[simp] theorem State.pushRing_handles (s : State) (c : Nat) (r : Fin 4) (e : BitVec 256) :
    (s.pushRing c r e).handles = s.handles := rfl
@[simp] theorem State.pushRing_tasks (s : State) (c : Nat) (r : Fin 4) (e : BitVec 256) :
    (s.pushRing c r e).tasks = s.tasks := rfl
@[simp] theorem State.pushRing_nextTask (s : State) (c : Nat) (r : Fin 4) (e : BitVec 256) :
    (s.pushRing c r e).nextTask = s.nextTask := rfl
@[simp] theorem State.pushRing_gangs (s : State) (c : Nat) (r : Fin 4) (e : BitVec 256) :
    (s.pushRing c r e).gangs = s.gangs := rfl
@[simp] theorem State.pushRing_records (s : State) (c : Nat) (r : Fin 4) (e : BitVec 256) :
    (s.pushRing c r e).records = s.records := rfl
@[simp] theorem State.pushRing_packets (s : State) (c : Nat) (r : Fin 4) (e : BitVec 256) :
    (s.pushRing c r e).packets = s.packets := rfl
@[simp] theorem State.pushRing_colls (s : State) (c : Nat) (r : Fin 4) (e : BitVec 256) :
    (s.pushRing c r e).colls = s.colls := rfl
@[simp] theorem State.pushRing_collDones (s : State) (c : Nat) (r : Fin 4) (e : BitVec 256) :
    (s.pushRing c r e).collDones = s.collDones := rfl
@[simp] theorem State.pushRing_nextColl (s : State) (c : Nat) (r : Fin 4) (e : BitVec 256) :
    (s.pushRing c r e).nextColl = s.nextColl := rfl
@[simp] theorem State.pushRing_invals (s : State) (c : Nat) (r : Fin 4) (e : BitVec 256) :
    (s.pushRing c r e).invals = s.invals := rfl
@[simp] theorem State.pushRing_links (s : State) (c : Nat) (r : Fin 4) (e : BitVec 256) :
    (s.pushRing c r e).links = s.links := rfl
@[simp] theorem State.pushRing_ports (s : State) (c : Nat) (r : Fin 4) (e : BitVec 256) :
    (s.pushRing c r e).ports = s.ports := rfl
@[simp] theorem State.pushRing_bootstat (s : State) (c : Nat) (r : Fin 4) (e : BitVec 256) :
    (s.pushRing c r e).bootstat = s.bootstat := rfl
@[simp] theorem State.pushRing_devnum (s : State) (c : Nat) (r : Fin 4) (e : BitVec 256) :
    (s.pushRing c r e).devnum = s.devnum := rfl
@[simp] theorem State.pushRing_pwrlim (s : State) (c : Nat) (r : Fin 4) (e : BitVec 256) :
    (s.pushRing c r e).pwrlim = s.pwrlim := rfl
@[simp] theorem State.pushRing_firmware (s : State) (c : Nat) (r : Fin 4) (e : BitVec 256) :
    (s.pushRing c r e).firmware = s.firmware := rfl
@[simp] theorem State.pushRing_bootDie (s : State) (c : Nat) (r : Fin 4) (e : BitVec 256) :
    (s.pushRing c r e).bootDie = s.bootDie := rfl
@[simp] theorem State.pushRing_bootImageB (s : State) (c : Nat) (r : Fin 4) (e : BitVec 256) :
    (s.pushRing c r e).bootImageB = s.bootImageB := rfl
@[simp] theorem State.pushRing_resync (s : State) (c : Nat) (r : Fin 4) (e : BitVec 256) :
    (s.pushRing c r e).resync = s.resync := rfl
@[simp] theorem State.pushRing_retiring (s : State) (c : Nat) (r : Fin 4) (e : BitVec 256) :
    (s.pushRing c r e).retiring = s.retiring := rfl
@[simp] theorem State.pushRing_cur (s : State) (c : Nat) (r : Fin 4) (e : BitVec 256) :
    (s.pushRing c r e).cur = s.cur := rfl
@[simp] theorem State.pushRing_turns (s : State) (c : Nat) (r : Fin 4) (e : BitVec 256) :
    (s.pushRing c r e).turns = s.turns := rfl
@[simp] theorem State.pushRing_tick (s : State) (c : Nat) (r : Fin 4) (e : BitVec 256) :
    (s.pushRing c r e).tick = s.tick := rfl
@[simp] theorem State.pushRing_free (s : State) (c : Nat) (r : Fin 4) (e : BitVec 256) :
    (s.pushRing c r e).free = s.free := rfl
@[simp] theorem State.report_cores (s : State) (i : Word) (ws : List Word) :
    (s.report i ws).cores = s.cores := rfl
@[simp] theorem State.report_clusters (s : State) (i : Word) (ws : List Word) :
    (s.report i ws).clusters = s.clusters := rfl
@[simp] theorem State.report_dies (s : State) (i : Word) (ws : List Word) :
    (s.report i ws).dies = s.dies := rfl
@[simp] theorem State.report_hbm (s : State) (i : Word) (ws : List Word) :
    (s.report i ws).hbm = s.hbm := rfl
@[simp] theorem State.report_regions (s : State) (i : Word) (ws : List Word) :
    (s.report i ws).regions = s.regions := rfl
@[simp] theorem State.report_handles (s : State) (i : Word) (ws : List Word) :
    (s.report i ws).handles = s.handles := rfl
@[simp] theorem State.report_tasks (s : State) (i : Word) (ws : List Word) :
    (s.report i ws).tasks = s.tasks := rfl
@[simp] theorem State.report_nextTask (s : State) (i : Word) (ws : List Word) :
    (s.report i ws).nextTask = s.nextTask := rfl
@[simp] theorem State.report_gangs (s : State) (i : Word) (ws : List Word) :
    (s.report i ws).gangs = s.gangs := rfl
@[simp] theorem State.report_packets (s : State) (i : Word) (ws : List Word) :
    (s.report i ws).packets = s.packets := rfl
@[simp] theorem State.report_colls (s : State) (i : Word) (ws : List Word) :
    (s.report i ws).colls = s.colls := rfl
@[simp] theorem State.report_collDones (s : State) (i : Word) (ws : List Word) :
    (s.report i ws).collDones = s.collDones := rfl
@[simp] theorem State.report_nextColl (s : State) (i : Word) (ws : List Word) :
    (s.report i ws).nextColl = s.nextColl := rfl
@[simp] theorem State.report_invals (s : State) (i : Word) (ws : List Word) :
    (s.report i ws).invals = s.invals := rfl
@[simp] theorem State.report_links (s : State) (i : Word) (ws : List Word) :
    (s.report i ws).links = s.links := rfl
@[simp] theorem State.report_ports (s : State) (i : Word) (ws : List Word) :
    (s.report i ws).ports = s.ports := rfl
@[simp] theorem State.report_bootstat (s : State) (i : Word) (ws : List Word) :
    (s.report i ws).bootstat = s.bootstat := rfl
@[simp] theorem State.report_devnum (s : State) (i : Word) (ws : List Word) :
    (s.report i ws).devnum = s.devnum := rfl
@[simp] theorem State.report_pwrlim (s : State) (i : Word) (ws : List Word) :
    (s.report i ws).pwrlim = s.pwrlim := rfl
@[simp] theorem State.report_firmware (s : State) (i : Word) (ws : List Word) :
    (s.report i ws).firmware = s.firmware := rfl
@[simp] theorem State.report_bootDie (s : State) (i : Word) (ws : List Word) :
    (s.report i ws).bootDie = s.bootDie := rfl
@[simp] theorem State.report_bootImageB (s : State) (i : Word) (ws : List Word) :
    (s.report i ws).bootImageB = s.bootImageB := rfl
@[simp] theorem State.report_resync (s : State) (i : Word) (ws : List Word) :
    (s.report i ws).resync = s.resync := rfl
@[simp] theorem State.report_retiring (s : State) (i : Word) (ws : List Word) :
    (s.report i ws).retiring = s.retiring := rfl
@[simp] theorem State.report_cur (s : State) (i : Word) (ws : List Word) :
    (s.report i ws).cur = s.cur := rfl
@[simp] theorem State.report_turns (s : State) (i : Word) (ws : List Word) :
    (s.report i ws).turns = s.turns := rfl
@[simp] theorem State.report_tick (s : State) (i : Word) (ws : List Word) :
    (s.report i ws).tick = s.tick := rfl
@[simp] theorem State.report_free (s : State) (i : Word) (ws : List Word) :
    (s.report i ws).free = s.free := rfl
@[simp] theorem State.res_cores (s : State) (r : Res) :
    (s.res r).cores = s.cores := rfl
@[simp] theorem State.res_clusters (s : State) (r : Res) :
    (s.res r).clusters = s.clusters := rfl
@[simp] theorem State.res_dies (s : State) (r : Res) :
    (s.res r).dies = s.dies := rfl
@[simp] theorem State.res_hbm (s : State) (r : Res) :
    (s.res r).hbm = s.hbm := rfl
@[simp] theorem State.res_regions (s : State) (r : Res) :
    (s.res r).regions = s.regions := rfl
@[simp] theorem State.res_handles (s : State) (r : Res) :
    (s.res r).handles = s.handles := rfl
@[simp] theorem State.res_tasks (s : State) (r : Res) :
    (s.res r).tasks = s.tasks := rfl
@[simp] theorem State.res_nextTask (s : State) (r : Res) :
    (s.res r).nextTask = s.nextTask := rfl
@[simp] theorem State.res_gangs (s : State) (r : Res) :
    (s.res r).gangs = s.gangs := rfl
@[simp] theorem State.res_records (s : State) (r : Res) :
    (s.res r).records = s.records := rfl
@[simp] theorem State.res_packets (s : State) (r : Res) :
    (s.res r).packets = s.packets := rfl
@[simp] theorem State.res_colls (s : State) (r : Res) :
    (s.res r).colls = s.colls := rfl
@[simp] theorem State.res_collDones (s : State) (r : Res) :
    (s.res r).collDones = s.collDones := rfl
@[simp] theorem State.res_nextColl (s : State) (r : Res) :
    (s.res r).nextColl = s.nextColl := rfl
@[simp] theorem State.res_invals (s : State) (r : Res) :
    (s.res r).invals = s.invals := rfl
@[simp] theorem State.res_links (s : State) (r : Res) :
    (s.res r).links = s.links := rfl
@[simp] theorem State.res_ports (s : State) (r : Res) :
    (s.res r).ports = s.ports := rfl
@[simp] theorem State.res_bootstat (s : State) (r : Res) :
    (s.res r).bootstat = s.bootstat := rfl
@[simp] theorem State.res_devnum (s : State) (r : Res) :
    (s.res r).devnum = s.devnum := rfl
@[simp] theorem State.res_pwrlim (s : State) (r : Res) :
    (s.res r).pwrlim = s.pwrlim := rfl
@[simp] theorem State.res_firmware (s : State) (r : Res) :
    (s.res r).firmware = s.firmware := rfl
@[simp] theorem State.res_bootDie (s : State) (r : Res) :
    (s.res r).bootDie = s.bootDie := rfl
@[simp] theorem State.res_bootImageB (s : State) (r : Res) :
    (s.res r).bootImageB = s.bootImageB := rfl
@[simp] theorem State.res_resync (s : State) (r : Res) :
    (s.res r).resync = s.resync := rfl
@[simp] theorem State.res_retiring (s : State) (r : Res) :
    (s.res r).retiring = s.retiring := rfl
@[simp] theorem State.res_turns (s : State) (r : Res) :
    (s.res r).turns = s.turns := rfl
@[simp] theorem State.res_tick (s : State) (r : Res) :
    (s.res r).tick = s.tick := rfl
@[simp] theorem State.res_free (s : State) (r : Res) :
    (s.res r).free = s.free := rfl
@[simp] theorem State.actAs_cores (s : State) (k : Ctr) :
    (s.actAs k).cores = s.cores := rfl
@[simp] theorem State.actAs_clusters (s : State) (k : Ctr) :
    (s.actAs k).clusters = s.clusters := rfl
@[simp] theorem State.actAs_dies (s : State) (k : Ctr) :
    (s.actAs k).dies = s.dies := rfl
@[simp] theorem State.actAs_hbm (s : State) (k : Ctr) :
    (s.actAs k).hbm = s.hbm := rfl
@[simp] theorem State.actAs_regions (s : State) (k : Ctr) :
    (s.actAs k).regions = s.regions := rfl
@[simp] theorem State.actAs_handles (s : State) (k : Ctr) :
    (s.actAs k).handles = s.handles := rfl
@[simp] theorem State.actAs_tasks (s : State) (k : Ctr) :
    (s.actAs k).tasks = s.tasks := rfl
@[simp] theorem State.actAs_nextTask (s : State) (k : Ctr) :
    (s.actAs k).nextTask = s.nextTask := rfl
@[simp] theorem State.actAs_gangs (s : State) (k : Ctr) :
    (s.actAs k).gangs = s.gangs := rfl
@[simp] theorem State.actAs_records (s : State) (k : Ctr) :
    (s.actAs k).records = s.records := rfl
@[simp] theorem State.actAs_packets (s : State) (k : Ctr) :
    (s.actAs k).packets = s.packets := rfl
@[simp] theorem State.actAs_colls (s : State) (k : Ctr) :
    (s.actAs k).colls = s.colls := rfl
@[simp] theorem State.actAs_collDones (s : State) (k : Ctr) :
    (s.actAs k).collDones = s.collDones := rfl
@[simp] theorem State.actAs_nextColl (s : State) (k : Ctr) :
    (s.actAs k).nextColl = s.nextColl := rfl
@[simp] theorem State.actAs_invals (s : State) (k : Ctr) :
    (s.actAs k).invals = s.invals := rfl
@[simp] theorem State.actAs_links (s : State) (k : Ctr) :
    (s.actAs k).links = s.links := rfl
@[simp] theorem State.actAs_ports (s : State) (k : Ctr) :
    (s.actAs k).ports = s.ports := rfl
@[simp] theorem State.actAs_bootstat (s : State) (k : Ctr) :
    (s.actAs k).bootstat = s.bootstat := rfl
@[simp] theorem State.actAs_devnum (s : State) (k : Ctr) :
    (s.actAs k).devnum = s.devnum := rfl
@[simp] theorem State.actAs_pwrlim (s : State) (k : Ctr) :
    (s.actAs k).pwrlim = s.pwrlim := rfl
@[simp] theorem State.actAs_firmware (s : State) (k : Ctr) :
    (s.actAs k).firmware = s.firmware := rfl
@[simp] theorem State.actAs_bootDie (s : State) (k : Ctr) :
    (s.actAs k).bootDie = s.bootDie := rfl
@[simp] theorem State.actAs_bootImageB (s : State) (k : Ctr) :
    (s.actAs k).bootImageB = s.bootImageB := rfl
@[simp] theorem State.actAs_resync (s : State) (k : Ctr) :
    (s.actAs k).resync = s.resync := rfl
@[simp] theorem State.actAs_retiring (s : State) (k : Ctr) :
    (s.actAs k).retiring = s.retiring := rfl
@[simp] theorem State.actAs_turns (s : State) (k : Ctr) :
    (s.actAs k).turns = s.turns := rfl
@[simp] theorem State.actAs_tick (s : State) (k : Ctr) :
    (s.actAs k).tick = s.tick := rfl
@[simp] theorem State.actAs_free (s : State) (k : Ctr) :
    (s.actAs k).free = s.free := rfl

/-! ## The fields that an update of a core leaves -/

@[simp] theorem Core.setStrand_sram (s : Core) (n : Fin 4) (t : Strand) :
    (s.setStrand n t).sram = s.sram := rfl
@[simp] theorem Core.setStrand_planes (s : Core) (n : Fin 4) (t : Strand) :
    (s.setStrand n t).planes = s.planes := rfl
@[simp] theorem Core.setStrand_sems (s : Core) (n : Fin 4) (t : Strand) :
    (s.setStrand n t).sems = s.sems := rfl
@[simp] theorem Core.setStrand_mailboxes (s : Core) (n : Fin 4) (t : Strand) :
    (s.setStrand n t).mailboxes = s.mailboxes := rfl
@[simp] theorem Core.setStrand_pending (s : Core) (n : Fin 4) (t : Strand) :
    (s.setStrand n t).pending = s.pending := rfl
@[simp] theorem Core.setStrand_ingress (s : Core) (n : Fin 4) (t : Strand) :
    (s.setStrand n t).ingress = s.ingress := rfl
@[simp] theorem Core.setStrand_loader (s : Core) (n : Fin 4) (t : Strand) :
    (s.setStrand n t).loader = s.loader := rfl
@[simp] theorem Core.setStrand_arming (s : Core) (n : Fin 4) (t : Strand) :
    (s.setStrand n t).arming = s.arming := rfl
@[simp] theorem Core.setStrand_mq (s : Core) (n : Fin 4) (t : Strand) :
    (s.setStrand n t).mq = s.mq := rfl
@[simp] theorem Core.setStrand_sq (s : Core) (n : Fin 4) (t : Strand) :
    (s.setStrand n t).sq = s.sq := rfl
@[simp] theorem Core.setStrand_served (s : Core) (n : Fin 4) (t : Strand) :
    (s.setStrand n t).served = s.served := rfl
@[simp] theorem Core.setStrand_incs (s : Core) (n : Fin 4) (t : Strand) :
    (s.setStrand n t).incs = s.incs := rfl
@[simp] theorem Core.setStrand_firings (s : Core) (n : Fin 4) (t : Strand) :
    (s.setStrand n t).firings = s.firings := rfl
@[simp] theorem Core.setStrand_conflicts (s : Core) (n : Fin 4) (t : Strand) :
    (s.setStrand n t).conflicts = s.conflicts := rfl
@[simp] theorem Core.setStrand_inject (s : Core) (n : Fin 4) (t : Strand) :
    (s.setStrand n t).inject = s.inject := rfl
@[simp] theorem Core.setStrand_chosen (s : Core) (n : Fin 4) (t : Strand) :
    (s.setStrand n t).chosen = s.chosen := rfl
@[simp] theorem Core.setStrand_tlb (s : Core) (n : Fin 4) (t : Strand) :
    (s.setStrand n t).tlb = s.tlb := rfl
@[simp] theorem Core.setStrand_slot (s : Core) (n : Fin 4) (t : Strand) :
    (s.setStrand n t).slot = s.slot := rfl
@[simp] theorem Core.setStrand_regid (s : Core) (n : Fin 4) (t : Strand) :
    (s.setStrand n t).regid = s.regid := rfl
@[simp] theorem Core.setStrand_lcore (s : Core) (n : Fin 4) (t : Strand) :
    (s.setStrand n t).lcore = s.lcore := rfl
@[simp] theorem Core.setStrand_heldFor (s : Core) (n : Fin 4) (t : Strand) :
    (s.setStrand n t).heldFor = s.heldFor := rfl
@[simp] theorem Core.setStrand_spareFor (s : Core) (n : Fin 4) (t : Strand) :
    (s.setStrand n t).spareFor = s.spareFor := rfl
@[simp] theorem Core.setStrand_lastCtx (s : Core) (n : Fin 4) (t : Strand) :
    (s.setStrand n t).lastCtx = s.lastCtx := rfl
@[simp] theorem Core.setStrand_loaded (s : Core) (n : Fin 4) (t : Strand) :
    (s.setStrand n t).loaded = s.loaded := rfl
@[simp] theorem Core.setStrand_scrub (s : Core) (n : Fin 4) (t : Strand) :
    (s.setStrand n t).scrub = s.scrub := rfl

/-! ## The fields that an update of a strand leaves -/

@[simp] theorem Strand.setA_xreg (s : Strand) (r : BitVec 5) (v : Word) :
    (s.setA r v).xreg = s.xreg := by unfold setA; split <;> rfl
@[simp] theorem Strand.setA_panels (s : Strand) (r : BitVec 5) (v : Word) :
    (s.setA r v).panels = s.panels := by unfold setA; split <;> rfl
@[simp] theorem Strand.setA_qax (s : Strand) (r : BitVec 5) (v : Word) :
    (s.setA r v).qax = s.qax := by unfold setA; split <;> rfl
@[simp] theorem Strand.setA_qxa (s : Strand) (r : BitVec 5) (v : Word) :
    (s.setA r v).qxa = s.qxa := by unfold setA; split <;> rfl
@[simp] theorem Strand.setA_loopsA (s : Strand) (r : BitVec 5) (v : Word) :
    (s.setA r v).loopsA = s.loopsA := by unfold setA; split <;> rfl
@[simp] theorem Strand.setA_loopsX (s : Strand) (r : BitVec 5) (v : Word) :
    (s.setA r v).loopsX = s.loopsX := by unfold setA; split <;> rfl
@[simp] theorem Strand.setA_passedA (s : Strand) (r : BitVec 5) (v : Word) :
    (s.setA r v).passedA = s.passedA := by unfold setA; split <;> rfl
@[simp] theorem Strand.setA_passedX (s : Strand) (r : BitVec 5) (v : Word) :
    (s.setA r v).passedX = s.passedX := by unfold setA; split <;> rfl
@[simp] theorem Strand.setA_pcA (s : Strand) (r : BitVec 5) (v : Word) :
    (s.setA r v).pcA = s.pcA := by unfold setA; split <;> rfl
@[simp] theorem Strand.setA_pcX (s : Strand) (r : BitVec 5) (v : Word) :
    (s.setA r v).pcX = s.pcX := by unfold setA; split <;> rfl
@[simp] theorem Strand.setA_heldA (s : Strand) (r : BitVec 5) (v : Word) :
    (s.setA r v).heldA = s.heldA := by unfold setA; split <;> rfl
@[simp] theorem Strand.setA_heldX (s : Strand) (r : BitVec 5) (v : Word) :
    (s.setA r v).heldX = s.heldX := by unfold setA; split <;> rfl
@[simp] theorem Strand.setA_orgA (s : Strand) (r : BitVec 5) (v : Word) :
    (s.setA r v).orgA = s.orgA := by unfold setA; split <;> rfl
@[simp] theorem Strand.setA_orgX (s : Strand) (r : BitVec 5) (v : Word) :
    (s.setA r v).orgX = s.orgX := by unfold setA; split <;> rfl
@[simp] theorem Strand.setA_xstop (s : Strand) (r : BitVec 5) (v : Word) :
    (s.setA r v).xstop = s.xstop := by unfold setA; split <;> rfl
@[simp] theorem Strand.setA_busy (s : Strand) (r : BitVec 5) (v : Word) :
    (s.setA r v).busy = s.busy := by unfold setA; split <;> rfl
@[simp] theorem Strand.setA_fmt (s : Strand) (r : BitVec 5) (v : Word) :
    (s.setA r v).fmt = s.fmt := by unfold setA; split <;> rfl
@[simp] theorem Strand.setA_slipw (s : Strand) (r : BitVec 5) (v : Word) :
    (s.setA r v).slipw = s.slipw := by unfold setA; split <;> rfl
@[simp] theorem Strand.setA_rotbase (s : Strand) (r : BitVec 5) (v : Word) :
    (s.setA r v).rotbase = s.rotbase := by unfold setA; split <;> rfl
@[simp] theorem Strand.setA_fmtidx (s : Strand) (r : BitVec 5) (v : Word) :
    (s.setA r v).fmtidx = s.fmtidx := by unfold setA; split <;> rfl
@[simp] theorem Strand.setA_fpstat (s : Strand) (r : BitVec 5) (v : Word) :
    (s.setA r v).fpstat = s.fpstat := by unfold setA; split <;> rfl
@[simp] theorem Strand.setA_fpPend (s : Strand) (r : BitVec 5) (v : Word) :
    (s.setA r v).fpPend = s.fpPend := by unfold setA; split <;> rfl
@[simp] theorem Strand.setA_numver (s : Strand) (r : BitVec 5) (v : Word) :
    (s.setA r v).numver = s.numver := by unfold setA; split <;> rfl
@[simp] theorem Strand.setA_strandCsr (s : Strand) (r : BitVec 5) (v : Word) :
    (s.setA r v).strandCsr = s.strandCsr := by unfold setA; split <;> rfl
@[simp] theorem Strand.setA_taskid (s : Strand) (r : BitVec 5) (v : Word) :
    (s.setA r v).taskid = s.taskid := by unfold setA; split <;> rfl
@[simp] theorem Strand.setA_trapcause (s : Strand) (r : BitVec 5) (v : Word) :
    (s.setA r v).trapcause = s.trapcause := by unfold setA; split <;> rfl
@[simp] theorem Strand.setA_trappc (s : Strand) (r : BitVec 5) (v : Word) :
    (s.setA r v).trappc = s.trappc := by unfold setA; split <;> rfl
@[simp] theorem Strand.setA_trapvec (s : Strand) (r : BitVec 5) (v : Word) :
    (s.setA r v).trapvec = s.trapvec := by unfold setA; split <;> rfl
@[simp] theorem Strand.setA_sbuf (s : Strand) (r : BitVec 5) (v : Word) :
    (s.setA r v).sbuf = s.sbuf := by unfold setA; split <;> rfl
@[simp] theorem Strand.setA_sbNext (s : Strand) (r : BitVec 5) (v : Word) :
    (s.setA r v).sbNext = s.sbNext := by unfold setA; split <;> rfl
@[simp] theorem Strand.setA_fence (s : Strand) (r : BitVec 5) (v : Word) :
    (s.setA r v).fence = s.fence := by unfold setA; split <;> rfl
@[simp] theorem Strand.setA_reads (s : Strand) (r : BitVec 5) (v : Word) :
    (s.setA r v).reads = s.reads := by unfold setA; split <;> rfl
@[simp] theorem Strand.setA_rdNext (s : Strand) (r : BitVec 5) (v : Word) :
    (s.setA r v).rdNext = s.rdNext := by unfold setA; split <;> rfl
@[simp] theorem Strand.setA_hid (s : Strand) (r : BitVec 5) (v : Word) :
    (s.setA r v).hid = s.hid := by unfold setA; split <;> rfl
@[simp] theorem Strand.setA_took (s : Strand) (r : BitVec 5) (v : Word) :
    (s.setA r v).took = s.took := by unfold setA; split <;> rfl
@[simp] theorem Strand.setA_semops (s : Strand) (r : BitVec 5) (v : Word) :
    (s.setA r v).semops = s.semops := by unfold setA; split <;> rfl
@[simp] theorem Strand.setA_resops (s : Strand) (r : BitVec 5) (v : Word) :
    (s.setA r v).resops = s.resops := by unfold setA; split <;> rfl
@[simp] theorem Strand.setA_async (s : Strand) (r : BitVec 5) (v : Word) :
    (s.setA r v).async = s.async := by unfold setA; split <;> rfl
@[simp] theorem Strand.setA_streamCount (s : Strand) (r : BitVec 5) (v : Word) :
    (s.setA r v).streamCount = s.streamCount := by unfold setA; split <;> rfl
@[simp] theorem Strand.setA_matrixCount (s : Strand) (r : BitVec 5) (v : Word) :
    (s.setA r v).matrixCount = s.matrixCount := by unfold setA; split <;> rfl
@[simp] theorem Strand.setA_task (s : Strand) (r : BitVec 5) (v : Word) :
    (s.setA r v).task = s.task := by unfold setA; split <;> rfl
@[simp] theorem Strand.setA_handler (s : Strand) (r : BitVec 5) (v : Word) :
    (s.setA r v).handler = s.handler := by unfold setA; split <;> rfl
@[simp] theorem Strand.setA_stopped (s : Strand) (r : BitVec 5) (v : Word) :
    (s.setA r v).stopped = s.stopped := by unfold setA; split <;> rfl
@[simp] theorem Strand.setX_areg (s : Strand) (r : BitVec 5) (v : Word) :
    (s.setX r v).areg = s.areg := by unfold setX; split <;> rfl
@[simp] theorem Strand.setX_panels (s : Strand) (r : BitVec 5) (v : Word) :
    (s.setX r v).panels = s.panels := by unfold setX; split <;> rfl
@[simp] theorem Strand.setX_qax (s : Strand) (r : BitVec 5) (v : Word) :
    (s.setX r v).qax = s.qax := by unfold setX; split <;> rfl
@[simp] theorem Strand.setX_qxa (s : Strand) (r : BitVec 5) (v : Word) :
    (s.setX r v).qxa = s.qxa := by unfold setX; split <;> rfl
@[simp] theorem Strand.setX_loopsA (s : Strand) (r : BitVec 5) (v : Word) :
    (s.setX r v).loopsA = s.loopsA := by unfold setX; split <;> rfl
@[simp] theorem Strand.setX_loopsX (s : Strand) (r : BitVec 5) (v : Word) :
    (s.setX r v).loopsX = s.loopsX := by unfold setX; split <;> rfl
@[simp] theorem Strand.setX_passedA (s : Strand) (r : BitVec 5) (v : Word) :
    (s.setX r v).passedA = s.passedA := by unfold setX; split <;> rfl
@[simp] theorem Strand.setX_passedX (s : Strand) (r : BitVec 5) (v : Word) :
    (s.setX r v).passedX = s.passedX := by unfold setX; split <;> rfl
@[simp] theorem Strand.setX_pcA (s : Strand) (r : BitVec 5) (v : Word) :
    (s.setX r v).pcA = s.pcA := by unfold setX; split <;> rfl
@[simp] theorem Strand.setX_pcX (s : Strand) (r : BitVec 5) (v : Word) :
    (s.setX r v).pcX = s.pcX := by unfold setX; split <;> rfl
@[simp] theorem Strand.setX_heldA (s : Strand) (r : BitVec 5) (v : Word) :
    (s.setX r v).heldA = s.heldA := by unfold setX; split <;> rfl
@[simp] theorem Strand.setX_heldX (s : Strand) (r : BitVec 5) (v : Word) :
    (s.setX r v).heldX = s.heldX := by unfold setX; split <;> rfl
@[simp] theorem Strand.setX_orgA (s : Strand) (r : BitVec 5) (v : Word) :
    (s.setX r v).orgA = s.orgA := by unfold setX; split <;> rfl
@[simp] theorem Strand.setX_orgX (s : Strand) (r : BitVec 5) (v : Word) :
    (s.setX r v).orgX = s.orgX := by unfold setX; split <;> rfl
@[simp] theorem Strand.setX_xstop (s : Strand) (r : BitVec 5) (v : Word) :
    (s.setX r v).xstop = s.xstop := by unfold setX; split <;> rfl
@[simp] theorem Strand.setX_busy (s : Strand) (r : BitVec 5) (v : Word) :
    (s.setX r v).busy = s.busy := by unfold setX; split <;> rfl
@[simp] theorem Strand.setX_fmt (s : Strand) (r : BitVec 5) (v : Word) :
    (s.setX r v).fmt = s.fmt := by unfold setX; split <;> rfl
@[simp] theorem Strand.setX_slipw (s : Strand) (r : BitVec 5) (v : Word) :
    (s.setX r v).slipw = s.slipw := by unfold setX; split <;> rfl
@[simp] theorem Strand.setX_rotbase (s : Strand) (r : BitVec 5) (v : Word) :
    (s.setX r v).rotbase = s.rotbase := by unfold setX; split <;> rfl
@[simp] theorem Strand.setX_fmtidx (s : Strand) (r : BitVec 5) (v : Word) :
    (s.setX r v).fmtidx = s.fmtidx := by unfold setX; split <;> rfl
@[simp] theorem Strand.setX_fpstat (s : Strand) (r : BitVec 5) (v : Word) :
    (s.setX r v).fpstat = s.fpstat := by unfold setX; split <;> rfl
@[simp] theorem Strand.setX_fpPend (s : Strand) (r : BitVec 5) (v : Word) :
    (s.setX r v).fpPend = s.fpPend := by unfold setX; split <;> rfl
@[simp] theorem Strand.setX_numver (s : Strand) (r : BitVec 5) (v : Word) :
    (s.setX r v).numver = s.numver := by unfold setX; split <;> rfl
@[simp] theorem Strand.setX_strandCsr (s : Strand) (r : BitVec 5) (v : Word) :
    (s.setX r v).strandCsr = s.strandCsr := by unfold setX; split <;> rfl
@[simp] theorem Strand.setX_taskid (s : Strand) (r : BitVec 5) (v : Word) :
    (s.setX r v).taskid = s.taskid := by unfold setX; split <;> rfl
@[simp] theorem Strand.setX_trapcause (s : Strand) (r : BitVec 5) (v : Word) :
    (s.setX r v).trapcause = s.trapcause := by unfold setX; split <;> rfl
@[simp] theorem Strand.setX_trappc (s : Strand) (r : BitVec 5) (v : Word) :
    (s.setX r v).trappc = s.trappc := by unfold setX; split <;> rfl
@[simp] theorem Strand.setX_trapvec (s : Strand) (r : BitVec 5) (v : Word) :
    (s.setX r v).trapvec = s.trapvec := by unfold setX; split <;> rfl
@[simp] theorem Strand.setX_sbuf (s : Strand) (r : BitVec 5) (v : Word) :
    (s.setX r v).sbuf = s.sbuf := by unfold setX; split <;> rfl
@[simp] theorem Strand.setX_sbNext (s : Strand) (r : BitVec 5) (v : Word) :
    (s.setX r v).sbNext = s.sbNext := by unfold setX; split <;> rfl
@[simp] theorem Strand.setX_fence (s : Strand) (r : BitVec 5) (v : Word) :
    (s.setX r v).fence = s.fence := by unfold setX; split <;> rfl
@[simp] theorem Strand.setX_reads (s : Strand) (r : BitVec 5) (v : Word) :
    (s.setX r v).reads = s.reads := by unfold setX; split <;> rfl
@[simp] theorem Strand.setX_rdNext (s : Strand) (r : BitVec 5) (v : Word) :
    (s.setX r v).rdNext = s.rdNext := by unfold setX; split <;> rfl
@[simp] theorem Strand.setX_hid (s : Strand) (r : BitVec 5) (v : Word) :
    (s.setX r v).hid = s.hid := by unfold setX; split <;> rfl
@[simp] theorem Strand.setX_took (s : Strand) (r : BitVec 5) (v : Word) :
    (s.setX r v).took = s.took := by unfold setX; split <;> rfl
@[simp] theorem Strand.setX_semops (s : Strand) (r : BitVec 5) (v : Word) :
    (s.setX r v).semops = s.semops := by unfold setX; split <;> rfl
@[simp] theorem Strand.setX_resops (s : Strand) (r : BitVec 5) (v : Word) :
    (s.setX r v).resops = s.resops := by unfold setX; split <;> rfl
@[simp] theorem Strand.setX_async (s : Strand) (r : BitVec 5) (v : Word) :
    (s.setX r v).async = s.async := by unfold setX; split <;> rfl
@[simp] theorem Strand.setX_streamCount (s : Strand) (r : BitVec 5) (v : Word) :
    (s.setX r v).streamCount = s.streamCount := by unfold setX; split <;> rfl
@[simp] theorem Strand.setX_matrixCount (s : Strand) (r : BitVec 5) (v : Word) :
    (s.setX r v).matrixCount = s.matrixCount := by unfold setX; split <;> rfl
@[simp] theorem Strand.setX_task (s : Strand) (r : BitVec 5) (v : Word) :
    (s.setX r v).task = s.task := by unfold setX; split <;> rfl
@[simp] theorem Strand.setX_handler (s : Strand) (r : BitVec 5) (v : Word) :
    (s.setX r v).handler = s.handler := by unfold setX; split <;> rfl
@[simp] theorem Strand.setX_stopped (s : Strand) (r : BitVec 5) (v : Word) :
    (s.setX r v).stopped = s.stopped := by unfold setX; split <;> rfl
@[simp] theorem Strand.setReg_panels (s : Strand) (k : Ctr) (r : BitVec 5) (v : Word) :
    (s.setReg k r v).panels = s.panels := by cases k <;> simp [setReg]
@[simp] theorem Strand.setReg_qax (s : Strand) (k : Ctr) (r : BitVec 5) (v : Word) :
    (s.setReg k r v).qax = s.qax := by cases k <;> simp [setReg]
@[simp] theorem Strand.setReg_qxa (s : Strand) (k : Ctr) (r : BitVec 5) (v : Word) :
    (s.setReg k r v).qxa = s.qxa := by cases k <;> simp [setReg]
@[simp] theorem Strand.setReg_loopsA (s : Strand) (k : Ctr) (r : BitVec 5) (v : Word) :
    (s.setReg k r v).loopsA = s.loopsA := by cases k <;> simp [setReg]
@[simp] theorem Strand.setReg_loopsX (s : Strand) (k : Ctr) (r : BitVec 5) (v : Word) :
    (s.setReg k r v).loopsX = s.loopsX := by cases k <;> simp [setReg]
@[simp] theorem Strand.setReg_passedA (s : Strand) (k : Ctr) (r : BitVec 5) (v : Word) :
    (s.setReg k r v).passedA = s.passedA := by cases k <;> simp [setReg]
@[simp] theorem Strand.setReg_passedX (s : Strand) (k : Ctr) (r : BitVec 5) (v : Word) :
    (s.setReg k r v).passedX = s.passedX := by cases k <;> simp [setReg]
@[simp] theorem Strand.setReg_pcA (s : Strand) (k : Ctr) (r : BitVec 5) (v : Word) :
    (s.setReg k r v).pcA = s.pcA := by cases k <;> simp [setReg]
@[simp] theorem Strand.setReg_pcX (s : Strand) (k : Ctr) (r : BitVec 5) (v : Word) :
    (s.setReg k r v).pcX = s.pcX := by cases k <;> simp [setReg]
@[simp] theorem Strand.setReg_heldA (s : Strand) (k : Ctr) (r : BitVec 5) (v : Word) :
    (s.setReg k r v).heldA = s.heldA := by cases k <;> simp [setReg]
@[simp] theorem Strand.setReg_heldX (s : Strand) (k : Ctr) (r : BitVec 5) (v : Word) :
    (s.setReg k r v).heldX = s.heldX := by cases k <;> simp [setReg]
@[simp] theorem Strand.setReg_orgA (s : Strand) (k : Ctr) (r : BitVec 5) (v : Word) :
    (s.setReg k r v).orgA = s.orgA := by cases k <;> simp [setReg]
@[simp] theorem Strand.setReg_orgX (s : Strand) (k : Ctr) (r : BitVec 5) (v : Word) :
    (s.setReg k r v).orgX = s.orgX := by cases k <;> simp [setReg]
@[simp] theorem Strand.setReg_xstop (s : Strand) (k : Ctr) (r : BitVec 5) (v : Word) :
    (s.setReg k r v).xstop = s.xstop := by cases k <;> simp [setReg]
@[simp] theorem Strand.setReg_busy (s : Strand) (k : Ctr) (r : BitVec 5) (v : Word) :
    (s.setReg k r v).busy = s.busy := by cases k <;> simp [setReg]
@[simp] theorem Strand.setReg_fmt (s : Strand) (k : Ctr) (r : BitVec 5) (v : Word) :
    (s.setReg k r v).fmt = s.fmt := by cases k <;> simp [setReg]
@[simp] theorem Strand.setReg_slipw (s : Strand) (k : Ctr) (r : BitVec 5) (v : Word) :
    (s.setReg k r v).slipw = s.slipw := by cases k <;> simp [setReg]
@[simp] theorem Strand.setReg_rotbase (s : Strand) (k : Ctr) (r : BitVec 5) (v : Word) :
    (s.setReg k r v).rotbase = s.rotbase := by cases k <;> simp [setReg]
@[simp] theorem Strand.setReg_fmtidx (s : Strand) (k : Ctr) (r : BitVec 5) (v : Word) :
    (s.setReg k r v).fmtidx = s.fmtidx := by cases k <;> simp [setReg]
@[simp] theorem Strand.setReg_fpstat (s : Strand) (k : Ctr) (r : BitVec 5) (v : Word) :
    (s.setReg k r v).fpstat = s.fpstat := by cases k <;> simp [setReg]
@[simp] theorem Strand.setReg_fpPend (s : Strand) (k : Ctr) (r : BitVec 5) (v : Word) :
    (s.setReg k r v).fpPend = s.fpPend := by cases k <;> simp [setReg]
@[simp] theorem Strand.setReg_numver (s : Strand) (k : Ctr) (r : BitVec 5) (v : Word) :
    (s.setReg k r v).numver = s.numver := by cases k <;> simp [setReg]
@[simp] theorem Strand.setReg_strandCsr (s : Strand) (k : Ctr) (r : BitVec 5) (v : Word) :
    (s.setReg k r v).strandCsr = s.strandCsr := by cases k <;> simp [setReg]
@[simp] theorem Strand.setReg_taskid (s : Strand) (k : Ctr) (r : BitVec 5) (v : Word) :
    (s.setReg k r v).taskid = s.taskid := by cases k <;> simp [setReg]
@[simp] theorem Strand.setReg_trapcause (s : Strand) (k : Ctr) (r : BitVec 5) (v : Word) :
    (s.setReg k r v).trapcause = s.trapcause := by cases k <;> simp [setReg]
@[simp] theorem Strand.setReg_trappc (s : Strand) (k : Ctr) (r : BitVec 5) (v : Word) :
    (s.setReg k r v).trappc = s.trappc := by cases k <;> simp [setReg]
@[simp] theorem Strand.setReg_trapvec (s : Strand) (k : Ctr) (r : BitVec 5) (v : Word) :
    (s.setReg k r v).trapvec = s.trapvec := by cases k <;> simp [setReg]
@[simp] theorem Strand.setReg_sbuf (s : Strand) (k : Ctr) (r : BitVec 5) (v : Word) :
    (s.setReg k r v).sbuf = s.sbuf := by cases k <;> simp [setReg]
@[simp] theorem Strand.setReg_sbNext (s : Strand) (k : Ctr) (r : BitVec 5) (v : Word) :
    (s.setReg k r v).sbNext = s.sbNext := by cases k <;> simp [setReg]
@[simp] theorem Strand.setReg_fence (s : Strand) (k : Ctr) (r : BitVec 5) (v : Word) :
    (s.setReg k r v).fence = s.fence := by cases k <;> simp [setReg]
@[simp] theorem Strand.setReg_reads (s : Strand) (k : Ctr) (r : BitVec 5) (v : Word) :
    (s.setReg k r v).reads = s.reads := by cases k <;> simp [setReg]
@[simp] theorem Strand.setReg_rdNext (s : Strand) (k : Ctr) (r : BitVec 5) (v : Word) :
    (s.setReg k r v).rdNext = s.rdNext := by cases k <;> simp [setReg]
@[simp] theorem Strand.setReg_hid (s : Strand) (k : Ctr) (r : BitVec 5) (v : Word) :
    (s.setReg k r v).hid = s.hid := by cases k <;> simp [setReg]
@[simp] theorem Strand.setReg_took (s : Strand) (k : Ctr) (r : BitVec 5) (v : Word) :
    (s.setReg k r v).took = s.took := by cases k <;> simp [setReg]
@[simp] theorem Strand.setReg_semops (s : Strand) (k : Ctr) (r : BitVec 5) (v : Word) :
    (s.setReg k r v).semops = s.semops := by cases k <;> simp [setReg]
@[simp] theorem Strand.setReg_resops (s : Strand) (k : Ctr) (r : BitVec 5) (v : Word) :
    (s.setReg k r v).resops = s.resops := by cases k <;> simp [setReg]
@[simp] theorem Strand.setReg_async (s : Strand) (k : Ctr) (r : BitVec 5) (v : Word) :
    (s.setReg k r v).async = s.async := by cases k <;> simp [setReg]
@[simp] theorem Strand.setReg_streamCount (s : Strand) (k : Ctr) (r : BitVec 5) (v : Word) :
    (s.setReg k r v).streamCount = s.streamCount := by cases k <;> simp [setReg]
@[simp] theorem Strand.setReg_matrixCount (s : Strand) (k : Ctr) (r : BitVec 5) (v : Word) :
    (s.setReg k r v).matrixCount = s.matrixCount := by cases k <;> simp [setReg]
@[simp] theorem Strand.setReg_task (s : Strand) (k : Ctr) (r : BitVec 5) (v : Word) :
    (s.setReg k r v).task = s.task := by cases k <;> simp [setReg]
@[simp] theorem Strand.setReg_handler (s : Strand) (k : Ctr) (r : BitVec 5) (v : Word) :
    (s.setReg k r v).handler = s.handler := by cases k <;> simp [setReg]
@[simp] theorem Strand.setReg_stopped (s : Strand) (k : Ctr) (r : BitVec 5) (v : Word) :
    (s.setReg k r v).stopped = s.stopped := by cases k <;> simp [setReg]
@[simp] theorem Strand.setBusy_areg (s : Strand) (r : BitVec 5) :
    (s.setBusy r).areg = s.areg := by unfold setBusy; split <;> rfl
@[simp] theorem Strand.setBusy_xreg (s : Strand) (r : BitVec 5) :
    (s.setBusy r).xreg = s.xreg := by unfold setBusy; split <;> rfl
@[simp] theorem Strand.setBusy_panels (s : Strand) (r : BitVec 5) :
    (s.setBusy r).panels = s.panels := by unfold setBusy; split <;> rfl
@[simp] theorem Strand.setBusy_qax (s : Strand) (r : BitVec 5) :
    (s.setBusy r).qax = s.qax := by unfold setBusy; split <;> rfl
@[simp] theorem Strand.setBusy_qxa (s : Strand) (r : BitVec 5) :
    (s.setBusy r).qxa = s.qxa := by unfold setBusy; split <;> rfl
@[simp] theorem Strand.setBusy_loopsA (s : Strand) (r : BitVec 5) :
    (s.setBusy r).loopsA = s.loopsA := by unfold setBusy; split <;> rfl
@[simp] theorem Strand.setBusy_loopsX (s : Strand) (r : BitVec 5) :
    (s.setBusy r).loopsX = s.loopsX := by unfold setBusy; split <;> rfl
@[simp] theorem Strand.setBusy_passedA (s : Strand) (r : BitVec 5) :
    (s.setBusy r).passedA = s.passedA := by unfold setBusy; split <;> rfl
@[simp] theorem Strand.setBusy_passedX (s : Strand) (r : BitVec 5) :
    (s.setBusy r).passedX = s.passedX := by unfold setBusy; split <;> rfl
@[simp] theorem Strand.setBusy_pcA (s : Strand) (r : BitVec 5) :
    (s.setBusy r).pcA = s.pcA := by unfold setBusy; split <;> rfl
@[simp] theorem Strand.setBusy_pcX (s : Strand) (r : BitVec 5) :
    (s.setBusy r).pcX = s.pcX := by unfold setBusy; split <;> rfl
@[simp] theorem Strand.setBusy_heldA (s : Strand) (r : BitVec 5) :
    (s.setBusy r).heldA = s.heldA := by unfold setBusy; split <;> rfl
@[simp] theorem Strand.setBusy_heldX (s : Strand) (r : BitVec 5) :
    (s.setBusy r).heldX = s.heldX := by unfold setBusy; split <;> rfl
@[simp] theorem Strand.setBusy_orgA (s : Strand) (r : BitVec 5) :
    (s.setBusy r).orgA = s.orgA := by unfold setBusy; split <;> rfl
@[simp] theorem Strand.setBusy_orgX (s : Strand) (r : BitVec 5) :
    (s.setBusy r).orgX = s.orgX := by unfold setBusy; split <;> rfl
@[simp] theorem Strand.setBusy_xstop (s : Strand) (r : BitVec 5) :
    (s.setBusy r).xstop = s.xstop := by unfold setBusy; split <;> rfl
@[simp] theorem Strand.setBusy_fmt (s : Strand) (r : BitVec 5) :
    (s.setBusy r).fmt = s.fmt := by unfold setBusy; split <;> rfl
@[simp] theorem Strand.setBusy_slipw (s : Strand) (r : BitVec 5) :
    (s.setBusy r).slipw = s.slipw := by unfold setBusy; split <;> rfl
@[simp] theorem Strand.setBusy_rotbase (s : Strand) (r : BitVec 5) :
    (s.setBusy r).rotbase = s.rotbase := by unfold setBusy; split <;> rfl
@[simp] theorem Strand.setBusy_fmtidx (s : Strand) (r : BitVec 5) :
    (s.setBusy r).fmtidx = s.fmtidx := by unfold setBusy; split <;> rfl
@[simp] theorem Strand.setBusy_fpstat (s : Strand) (r : BitVec 5) :
    (s.setBusy r).fpstat = s.fpstat := by unfold setBusy; split <;> rfl
@[simp] theorem Strand.setBusy_fpPend (s : Strand) (r : BitVec 5) :
    (s.setBusy r).fpPend = s.fpPend := by unfold setBusy; split <;> rfl
@[simp] theorem Strand.setBusy_numver (s : Strand) (r : BitVec 5) :
    (s.setBusy r).numver = s.numver := by unfold setBusy; split <;> rfl
@[simp] theorem Strand.setBusy_strandCsr (s : Strand) (r : BitVec 5) :
    (s.setBusy r).strandCsr = s.strandCsr := by unfold setBusy; split <;> rfl
@[simp] theorem Strand.setBusy_taskid (s : Strand) (r : BitVec 5) :
    (s.setBusy r).taskid = s.taskid := by unfold setBusy; split <;> rfl
@[simp] theorem Strand.setBusy_trapcause (s : Strand) (r : BitVec 5) :
    (s.setBusy r).trapcause = s.trapcause := by unfold setBusy; split <;> rfl
@[simp] theorem Strand.setBusy_trappc (s : Strand) (r : BitVec 5) :
    (s.setBusy r).trappc = s.trappc := by unfold setBusy; split <;> rfl
@[simp] theorem Strand.setBusy_trapvec (s : Strand) (r : BitVec 5) :
    (s.setBusy r).trapvec = s.trapvec := by unfold setBusy; split <;> rfl
@[simp] theorem Strand.setBusy_sbuf (s : Strand) (r : BitVec 5) :
    (s.setBusy r).sbuf = s.sbuf := by unfold setBusy; split <;> rfl
@[simp] theorem Strand.setBusy_sbNext (s : Strand) (r : BitVec 5) :
    (s.setBusy r).sbNext = s.sbNext := by unfold setBusy; split <;> rfl
@[simp] theorem Strand.setBusy_fence (s : Strand) (r : BitVec 5) :
    (s.setBusy r).fence = s.fence := by unfold setBusy; split <;> rfl
@[simp] theorem Strand.setBusy_reads (s : Strand) (r : BitVec 5) :
    (s.setBusy r).reads = s.reads := by unfold setBusy; split <;> rfl
@[simp] theorem Strand.setBusy_rdNext (s : Strand) (r : BitVec 5) :
    (s.setBusy r).rdNext = s.rdNext := by unfold setBusy; split <;> rfl
@[simp] theorem Strand.setBusy_hid (s : Strand) (r : BitVec 5) :
    (s.setBusy r).hid = s.hid := by unfold setBusy; split <;> rfl
@[simp] theorem Strand.setBusy_took (s : Strand) (r : BitVec 5) :
    (s.setBusy r).took = s.took := by unfold setBusy; split <;> rfl
@[simp] theorem Strand.setBusy_semops (s : Strand) (r : BitVec 5) :
    (s.setBusy r).semops = s.semops := by unfold setBusy; split <;> rfl
@[simp] theorem Strand.setBusy_resops (s : Strand) (r : BitVec 5) :
    (s.setBusy r).resops = s.resops := by unfold setBusy; split <;> rfl
@[simp] theorem Strand.setBusy_async (s : Strand) (r : BitVec 5) :
    (s.setBusy r).async = s.async := by unfold setBusy; split <;> rfl
@[simp] theorem Strand.setBusy_streamCount (s : Strand) (r : BitVec 5) :
    (s.setBusy r).streamCount = s.streamCount := by unfold setBusy; split <;> rfl
@[simp] theorem Strand.setBusy_matrixCount (s : Strand) (r : BitVec 5) :
    (s.setBusy r).matrixCount = s.matrixCount := by unfold setBusy; split <;> rfl
@[simp] theorem Strand.setBusy_task (s : Strand) (r : BitVec 5) :
    (s.setBusy r).task = s.task := by unfold setBusy; split <;> rfl
@[simp] theorem Strand.setBusy_handler (s : Strand) (r : BitVec 5) :
    (s.setBusy r).handler = s.handler := by unfold setBusy; split <;> rfl
@[simp] theorem Strand.setBusy_stopped (s : Strand) (r : BitVec 5) :
    (s.setBusy r).stopped = s.stopped := by unfold setBusy; split <;> rfl
@[simp] theorem Strand.clearBusy_areg (s : Strand) (r : BitVec 5) :
    (s.clearBusy r).areg = s.areg := rfl
@[simp] theorem Strand.clearBusy_xreg (s : Strand) (r : BitVec 5) :
    (s.clearBusy r).xreg = s.xreg := rfl
@[simp] theorem Strand.clearBusy_panels (s : Strand) (r : BitVec 5) :
    (s.clearBusy r).panels = s.panels := rfl
@[simp] theorem Strand.clearBusy_qax (s : Strand) (r : BitVec 5) :
    (s.clearBusy r).qax = s.qax := rfl
@[simp] theorem Strand.clearBusy_qxa (s : Strand) (r : BitVec 5) :
    (s.clearBusy r).qxa = s.qxa := rfl
@[simp] theorem Strand.clearBusy_loopsA (s : Strand) (r : BitVec 5) :
    (s.clearBusy r).loopsA = s.loopsA := rfl
@[simp] theorem Strand.clearBusy_loopsX (s : Strand) (r : BitVec 5) :
    (s.clearBusy r).loopsX = s.loopsX := rfl
@[simp] theorem Strand.clearBusy_passedA (s : Strand) (r : BitVec 5) :
    (s.clearBusy r).passedA = s.passedA := rfl
@[simp] theorem Strand.clearBusy_passedX (s : Strand) (r : BitVec 5) :
    (s.clearBusy r).passedX = s.passedX := rfl
@[simp] theorem Strand.clearBusy_pcA (s : Strand) (r : BitVec 5) :
    (s.clearBusy r).pcA = s.pcA := rfl
@[simp] theorem Strand.clearBusy_pcX (s : Strand) (r : BitVec 5) :
    (s.clearBusy r).pcX = s.pcX := rfl
@[simp] theorem Strand.clearBusy_heldA (s : Strand) (r : BitVec 5) :
    (s.clearBusy r).heldA = s.heldA := rfl
@[simp] theorem Strand.clearBusy_heldX (s : Strand) (r : BitVec 5) :
    (s.clearBusy r).heldX = s.heldX := rfl
@[simp] theorem Strand.clearBusy_orgA (s : Strand) (r : BitVec 5) :
    (s.clearBusy r).orgA = s.orgA := rfl
@[simp] theorem Strand.clearBusy_orgX (s : Strand) (r : BitVec 5) :
    (s.clearBusy r).orgX = s.orgX := rfl
@[simp] theorem Strand.clearBusy_xstop (s : Strand) (r : BitVec 5) :
    (s.clearBusy r).xstop = s.xstop := rfl
@[simp] theorem Strand.clearBusy_fmt (s : Strand) (r : BitVec 5) :
    (s.clearBusy r).fmt = s.fmt := rfl
@[simp] theorem Strand.clearBusy_slipw (s : Strand) (r : BitVec 5) :
    (s.clearBusy r).slipw = s.slipw := rfl
@[simp] theorem Strand.clearBusy_rotbase (s : Strand) (r : BitVec 5) :
    (s.clearBusy r).rotbase = s.rotbase := rfl
@[simp] theorem Strand.clearBusy_fmtidx (s : Strand) (r : BitVec 5) :
    (s.clearBusy r).fmtidx = s.fmtidx := rfl
@[simp] theorem Strand.clearBusy_fpstat (s : Strand) (r : BitVec 5) :
    (s.clearBusy r).fpstat = s.fpstat := rfl
@[simp] theorem Strand.clearBusy_fpPend (s : Strand) (r : BitVec 5) :
    (s.clearBusy r).fpPend = s.fpPend := rfl
@[simp] theorem Strand.clearBusy_numver (s : Strand) (r : BitVec 5) :
    (s.clearBusy r).numver = s.numver := rfl
@[simp] theorem Strand.clearBusy_strandCsr (s : Strand) (r : BitVec 5) :
    (s.clearBusy r).strandCsr = s.strandCsr := rfl
@[simp] theorem Strand.clearBusy_taskid (s : Strand) (r : BitVec 5) :
    (s.clearBusy r).taskid = s.taskid := rfl
@[simp] theorem Strand.clearBusy_trapcause (s : Strand) (r : BitVec 5) :
    (s.clearBusy r).trapcause = s.trapcause := rfl
@[simp] theorem Strand.clearBusy_trappc (s : Strand) (r : BitVec 5) :
    (s.clearBusy r).trappc = s.trappc := rfl
@[simp] theorem Strand.clearBusy_trapvec (s : Strand) (r : BitVec 5) :
    (s.clearBusy r).trapvec = s.trapvec := rfl
@[simp] theorem Strand.clearBusy_sbuf (s : Strand) (r : BitVec 5) :
    (s.clearBusy r).sbuf = s.sbuf := rfl
@[simp] theorem Strand.clearBusy_sbNext (s : Strand) (r : BitVec 5) :
    (s.clearBusy r).sbNext = s.sbNext := rfl
@[simp] theorem Strand.clearBusy_fence (s : Strand) (r : BitVec 5) :
    (s.clearBusy r).fence = s.fence := rfl
@[simp] theorem Strand.clearBusy_reads (s : Strand) (r : BitVec 5) :
    (s.clearBusy r).reads = s.reads := rfl
@[simp] theorem Strand.clearBusy_rdNext (s : Strand) (r : BitVec 5) :
    (s.clearBusy r).rdNext = s.rdNext := rfl
@[simp] theorem Strand.clearBusy_hid (s : Strand) (r : BitVec 5) :
    (s.clearBusy r).hid = s.hid := rfl
@[simp] theorem Strand.clearBusy_took (s : Strand) (r : BitVec 5) :
    (s.clearBusy r).took = s.took := rfl
@[simp] theorem Strand.clearBusy_semops (s : Strand) (r : BitVec 5) :
    (s.clearBusy r).semops = s.semops := rfl
@[simp] theorem Strand.clearBusy_resops (s : Strand) (r : BitVec 5) :
    (s.clearBusy r).resops = s.resops := rfl
@[simp] theorem Strand.clearBusy_async (s : Strand) (r : BitVec 5) :
    (s.clearBusy r).async = s.async := rfl
@[simp] theorem Strand.clearBusy_streamCount (s : Strand) (r : BitVec 5) :
    (s.clearBusy r).streamCount = s.streamCount := rfl
@[simp] theorem Strand.clearBusy_matrixCount (s : Strand) (r : BitVec 5) :
    (s.clearBusy r).matrixCount = s.matrixCount := rfl
@[simp] theorem Strand.clearBusy_task (s : Strand) (r : BitVec 5) :
    (s.clearBusy r).task = s.task := rfl
@[simp] theorem Strand.clearBusy_handler (s : Strand) (r : BitVec 5) :
    (s.clearBusy r).handler = s.handler := rfl
@[simp] theorem Strand.clearBusy_stopped (s : Strand) (r : BitVec 5) :
    (s.clearBusy r).stopped = s.stopped := rfl
@[simp] theorem Strand.setPc_areg (s : Strand) (k : Ctr) (v : BitVec 22) :
    (s.setPc k v).areg = s.areg := by cases k <;> rfl
@[simp] theorem Strand.setPc_xreg (s : Strand) (k : Ctr) (v : BitVec 22) :
    (s.setPc k v).xreg = s.xreg := by cases k <;> rfl
@[simp] theorem Strand.setPc_panels (s : Strand) (k : Ctr) (v : BitVec 22) :
    (s.setPc k v).panels = s.panels := by cases k <;> rfl
@[simp] theorem Strand.setPc_qax (s : Strand) (k : Ctr) (v : BitVec 22) :
    (s.setPc k v).qax = s.qax := by cases k <;> rfl
@[simp] theorem Strand.setPc_qxa (s : Strand) (k : Ctr) (v : BitVec 22) :
    (s.setPc k v).qxa = s.qxa := by cases k <;> rfl
@[simp] theorem Strand.setPc_loopsA (s : Strand) (k : Ctr) (v : BitVec 22) :
    (s.setPc k v).loopsA = s.loopsA := by cases k <;> rfl
@[simp] theorem Strand.setPc_loopsX (s : Strand) (k : Ctr) (v : BitVec 22) :
    (s.setPc k v).loopsX = s.loopsX := by cases k <;> rfl
@[simp] theorem Strand.setPc_passedA (s : Strand) (k : Ctr) (v : BitVec 22) :
    (s.setPc k v).passedA = s.passedA := by cases k <;> rfl
@[simp] theorem Strand.setPc_passedX (s : Strand) (k : Ctr) (v : BitVec 22) :
    (s.setPc k v).passedX = s.passedX := by cases k <;> rfl
@[simp] theorem Strand.setPc_heldA (s : Strand) (k : Ctr) (v : BitVec 22) :
    (s.setPc k v).heldA = s.heldA := by cases k <;> rfl
@[simp] theorem Strand.setPc_heldX (s : Strand) (k : Ctr) (v : BitVec 22) :
    (s.setPc k v).heldX = s.heldX := by cases k <;> rfl
@[simp] theorem Strand.setPc_xstop (s : Strand) (k : Ctr) (v : BitVec 22) :
    (s.setPc k v).xstop = s.xstop := by cases k <;> rfl
@[simp] theorem Strand.setPc_busy (s : Strand) (k : Ctr) (v : BitVec 22) :
    (s.setPc k v).busy = s.busy := by cases k <;> rfl
@[simp] theorem Strand.setPc_fmt (s : Strand) (k : Ctr) (v : BitVec 22) :
    (s.setPc k v).fmt = s.fmt := by cases k <;> rfl
@[simp] theorem Strand.setPc_slipw (s : Strand) (k : Ctr) (v : BitVec 22) :
    (s.setPc k v).slipw = s.slipw := by cases k <;> rfl
@[simp] theorem Strand.setPc_rotbase (s : Strand) (k : Ctr) (v : BitVec 22) :
    (s.setPc k v).rotbase = s.rotbase := by cases k <;> rfl
@[simp] theorem Strand.setPc_fmtidx (s : Strand) (k : Ctr) (v : BitVec 22) :
    (s.setPc k v).fmtidx = s.fmtidx := by cases k <;> rfl
@[simp] theorem Strand.setPc_fpstat (s : Strand) (k : Ctr) (v : BitVec 22) :
    (s.setPc k v).fpstat = s.fpstat := by cases k <;> rfl
@[simp] theorem Strand.setPc_fpPend (s : Strand) (k : Ctr) (v : BitVec 22) :
    (s.setPc k v).fpPend = s.fpPend := by cases k <;> rfl
@[simp] theorem Strand.setPc_numver (s : Strand) (k : Ctr) (v : BitVec 22) :
    (s.setPc k v).numver = s.numver := by cases k <;> rfl
@[simp] theorem Strand.setPc_strandCsr (s : Strand) (k : Ctr) (v : BitVec 22) :
    (s.setPc k v).strandCsr = s.strandCsr := by cases k <;> rfl
@[simp] theorem Strand.setPc_taskid (s : Strand) (k : Ctr) (v : BitVec 22) :
    (s.setPc k v).taskid = s.taskid := by cases k <;> rfl
@[simp] theorem Strand.setPc_trapcause (s : Strand) (k : Ctr) (v : BitVec 22) :
    (s.setPc k v).trapcause = s.trapcause := by cases k <;> rfl
@[simp] theorem Strand.setPc_trappc (s : Strand) (k : Ctr) (v : BitVec 22) :
    (s.setPc k v).trappc = s.trappc := by cases k <;> rfl
@[simp] theorem Strand.setPc_trapvec (s : Strand) (k : Ctr) (v : BitVec 22) :
    (s.setPc k v).trapvec = s.trapvec := by cases k <;> rfl
@[simp] theorem Strand.setPc_sbuf (s : Strand) (k : Ctr) (v : BitVec 22) :
    (s.setPc k v).sbuf = s.sbuf := by cases k <;> rfl
@[simp] theorem Strand.setPc_sbNext (s : Strand) (k : Ctr) (v : BitVec 22) :
    (s.setPc k v).sbNext = s.sbNext := by cases k <;> rfl
@[simp] theorem Strand.setPc_fence (s : Strand) (k : Ctr) (v : BitVec 22) :
    (s.setPc k v).fence = s.fence := by cases k <;> rfl
@[simp] theorem Strand.setPc_reads (s : Strand) (k : Ctr) (v : BitVec 22) :
    (s.setPc k v).reads = s.reads := by cases k <;> rfl
@[simp] theorem Strand.setPc_rdNext (s : Strand) (k : Ctr) (v : BitVec 22) :
    (s.setPc k v).rdNext = s.rdNext := by cases k <;> rfl
@[simp] theorem Strand.setPc_hid (s : Strand) (k : Ctr) (v : BitVec 22) :
    (s.setPc k v).hid = s.hid := by cases k <;> rfl
@[simp] theorem Strand.setPc_took (s : Strand) (k : Ctr) (v : BitVec 22) :
    (s.setPc k v).took = s.took := by cases k <;> rfl
@[simp] theorem Strand.setPc_semops (s : Strand) (k : Ctr) (v : BitVec 22) :
    (s.setPc k v).semops = s.semops := by cases k <;> rfl
@[simp] theorem Strand.setPc_resops (s : Strand) (k : Ctr) (v : BitVec 22) :
    (s.setPc k v).resops = s.resops := by cases k <;> rfl
@[simp] theorem Strand.setPc_async (s : Strand) (k : Ctr) (v : BitVec 22) :
    (s.setPc k v).async = s.async := by cases k <;> rfl
@[simp] theorem Strand.setPc_streamCount (s : Strand) (k : Ctr) (v : BitVec 22) :
    (s.setPc k v).streamCount = s.streamCount := by cases k <;> rfl
@[simp] theorem Strand.setPc_matrixCount (s : Strand) (k : Ctr) (v : BitVec 22) :
    (s.setPc k v).matrixCount = s.matrixCount := by cases k <;> rfl
@[simp] theorem Strand.setPc_task (s : Strand) (k : Ctr) (v : BitVec 22) :
    (s.setPc k v).task = s.task := by cases k <;> rfl
@[simp] theorem Strand.setPc_handler (s : Strand) (k : Ctr) (v : BitVec 22) :
    (s.setPc k v).handler = s.handler := by cases k <;> rfl
@[simp] theorem Strand.setPc_stopped (s : Strand) (k : Ctr) (v : BitVec 22) :
    (s.setPc k v).stopped = s.stopped := by cases k <;> rfl
@[simp] theorem Strand.addPassed_areg (s : Strand) (k : Ctr) (n : Nat) :
    (s.addPassed k n).areg = s.areg := by cases k <;> rfl
@[simp] theorem Strand.addPassed_xreg (s : Strand) (k : Ctr) (n : Nat) :
    (s.addPassed k n).xreg = s.xreg := by cases k <;> rfl
@[simp] theorem Strand.addPassed_panels (s : Strand) (k : Ctr) (n : Nat) :
    (s.addPassed k n).panels = s.panels := by cases k <;> rfl
@[simp] theorem Strand.addPassed_qax (s : Strand) (k : Ctr) (n : Nat) :
    (s.addPassed k n).qax = s.qax := by cases k <;> rfl
@[simp] theorem Strand.addPassed_qxa (s : Strand) (k : Ctr) (n : Nat) :
    (s.addPassed k n).qxa = s.qxa := by cases k <;> rfl
@[simp] theorem Strand.addPassed_loopsA (s : Strand) (k : Ctr) (n : Nat) :
    (s.addPassed k n).loopsA = s.loopsA := by cases k <;> rfl
@[simp] theorem Strand.addPassed_loopsX (s : Strand) (k : Ctr) (n : Nat) :
    (s.addPassed k n).loopsX = s.loopsX := by cases k <;> rfl
@[simp] theorem Strand.addPassed_pcA (s : Strand) (k : Ctr) (n : Nat) :
    (s.addPassed k n).pcA = s.pcA := by cases k <;> rfl
@[simp] theorem Strand.addPassed_pcX (s : Strand) (k : Ctr) (n : Nat) :
    (s.addPassed k n).pcX = s.pcX := by cases k <;> rfl
@[simp] theorem Strand.addPassed_heldA (s : Strand) (k : Ctr) (n : Nat) :
    (s.addPassed k n).heldA = s.heldA := by cases k <;> rfl
@[simp] theorem Strand.addPassed_heldX (s : Strand) (k : Ctr) (n : Nat) :
    (s.addPassed k n).heldX = s.heldX := by cases k <;> rfl
@[simp] theorem Strand.addPassed_orgA (s : Strand) (k : Ctr) (n : Nat) :
    (s.addPassed k n).orgA = s.orgA := by cases k <;> rfl
@[simp] theorem Strand.addPassed_orgX (s : Strand) (k : Ctr) (n : Nat) :
    (s.addPassed k n).orgX = s.orgX := by cases k <;> rfl
@[simp] theorem Strand.addPassed_xstop (s : Strand) (k : Ctr) (n : Nat) :
    (s.addPassed k n).xstop = s.xstop := by cases k <;> rfl
@[simp] theorem Strand.addPassed_busy (s : Strand) (k : Ctr) (n : Nat) :
    (s.addPassed k n).busy = s.busy := by cases k <;> rfl
@[simp] theorem Strand.addPassed_fmt (s : Strand) (k : Ctr) (n : Nat) :
    (s.addPassed k n).fmt = s.fmt := by cases k <;> rfl
@[simp] theorem Strand.addPassed_slipw (s : Strand) (k : Ctr) (n : Nat) :
    (s.addPassed k n).slipw = s.slipw := by cases k <;> rfl
@[simp] theorem Strand.addPassed_rotbase (s : Strand) (k : Ctr) (n : Nat) :
    (s.addPassed k n).rotbase = s.rotbase := by cases k <;> rfl
@[simp] theorem Strand.addPassed_fmtidx (s : Strand) (k : Ctr) (n : Nat) :
    (s.addPassed k n).fmtidx = s.fmtidx := by cases k <;> rfl
@[simp] theorem Strand.addPassed_fpstat (s : Strand) (k : Ctr) (n : Nat) :
    (s.addPassed k n).fpstat = s.fpstat := by cases k <;> rfl
@[simp] theorem Strand.addPassed_fpPend (s : Strand) (k : Ctr) (n : Nat) :
    (s.addPassed k n).fpPend = s.fpPend := by cases k <;> rfl
@[simp] theorem Strand.addPassed_numver (s : Strand) (k : Ctr) (n : Nat) :
    (s.addPassed k n).numver = s.numver := by cases k <;> rfl
@[simp] theorem Strand.addPassed_strandCsr (s : Strand) (k : Ctr) (n : Nat) :
    (s.addPassed k n).strandCsr = s.strandCsr := by cases k <;> rfl
@[simp] theorem Strand.addPassed_taskid (s : Strand) (k : Ctr) (n : Nat) :
    (s.addPassed k n).taskid = s.taskid := by cases k <;> rfl
@[simp] theorem Strand.addPassed_trapcause (s : Strand) (k : Ctr) (n : Nat) :
    (s.addPassed k n).trapcause = s.trapcause := by cases k <;> rfl
@[simp] theorem Strand.addPassed_trappc (s : Strand) (k : Ctr) (n : Nat) :
    (s.addPassed k n).trappc = s.trappc := by cases k <;> rfl
@[simp] theorem Strand.addPassed_trapvec (s : Strand) (k : Ctr) (n : Nat) :
    (s.addPassed k n).trapvec = s.trapvec := by cases k <;> rfl
@[simp] theorem Strand.addPassed_sbuf (s : Strand) (k : Ctr) (n : Nat) :
    (s.addPassed k n).sbuf = s.sbuf := by cases k <;> rfl
@[simp] theorem Strand.addPassed_sbNext (s : Strand) (k : Ctr) (n : Nat) :
    (s.addPassed k n).sbNext = s.sbNext := by cases k <;> rfl
@[simp] theorem Strand.addPassed_fence (s : Strand) (k : Ctr) (n : Nat) :
    (s.addPassed k n).fence = s.fence := by cases k <;> rfl
@[simp] theorem Strand.addPassed_reads (s : Strand) (k : Ctr) (n : Nat) :
    (s.addPassed k n).reads = s.reads := by cases k <;> rfl
@[simp] theorem Strand.addPassed_rdNext (s : Strand) (k : Ctr) (n : Nat) :
    (s.addPassed k n).rdNext = s.rdNext := by cases k <;> rfl
@[simp] theorem Strand.addPassed_hid (s : Strand) (k : Ctr) (n : Nat) :
    (s.addPassed k n).hid = s.hid := by cases k <;> rfl
@[simp] theorem Strand.addPassed_took (s : Strand) (k : Ctr) (n : Nat) :
    (s.addPassed k n).took = s.took := by cases k <;> rfl
@[simp] theorem Strand.addPassed_semops (s : Strand) (k : Ctr) (n : Nat) :
    (s.addPassed k n).semops = s.semops := by cases k <;> rfl
@[simp] theorem Strand.addPassed_resops (s : Strand) (k : Ctr) (n : Nat) :
    (s.addPassed k n).resops = s.resops := by cases k <;> rfl
@[simp] theorem Strand.addPassed_async (s : Strand) (k : Ctr) (n : Nat) :
    (s.addPassed k n).async = s.async := by cases k <;> rfl
@[simp] theorem Strand.addPassed_streamCount (s : Strand) (k : Ctr) (n : Nat) :
    (s.addPassed k n).streamCount = s.streamCount := by cases k <;> rfl
@[simp] theorem Strand.addPassed_matrixCount (s : Strand) (k : Ctr) (n : Nat) :
    (s.addPassed k n).matrixCount = s.matrixCount := by cases k <;> rfl
@[simp] theorem Strand.addPassed_task (s : Strand) (k : Ctr) (n : Nat) :
    (s.addPassed k n).task = s.task := by cases k <;> rfl
@[simp] theorem Strand.addPassed_handler (s : Strand) (k : Ctr) (n : Nat) :
    (s.addPassed k n).handler = s.handler := by cases k <;> rfl
@[simp] theorem Strand.addPassed_stopped (s : Strand) (k : Ctr) (n : Nat) :
    (s.addPassed k n).stopped = s.stopped := by cases k <;> rfl
@[simp] theorem Strand.setHeld_areg (s : Strand) (k : Ctr) (h : Option (BitVec 22 × Instr)) :
    (s.setHeld k h).areg = s.areg := by cases k <;> rfl
@[simp] theorem Strand.setHeld_xreg (s : Strand) (k : Ctr) (h : Option (BitVec 22 × Instr)) :
    (s.setHeld k h).xreg = s.xreg := by cases k <;> rfl
@[simp] theorem Strand.setHeld_panels (s : Strand) (k : Ctr) (h : Option (BitVec 22 × Instr)) :
    (s.setHeld k h).panels = s.panels := by cases k <;> rfl
@[simp] theorem Strand.setHeld_qax (s : Strand) (k : Ctr) (h : Option (BitVec 22 × Instr)) :
    (s.setHeld k h).qax = s.qax := by cases k <;> rfl
@[simp] theorem Strand.setHeld_qxa (s : Strand) (k : Ctr) (h : Option (BitVec 22 × Instr)) :
    (s.setHeld k h).qxa = s.qxa := by cases k <;> rfl
@[simp] theorem Strand.setHeld_loopsA (s : Strand) (k : Ctr) (h : Option (BitVec 22 × Instr)) :
    (s.setHeld k h).loopsA = s.loopsA := by cases k <;> rfl
@[simp] theorem Strand.setHeld_loopsX (s : Strand) (k : Ctr) (h : Option (BitVec 22 × Instr)) :
    (s.setHeld k h).loopsX = s.loopsX := by cases k <;> rfl
@[simp] theorem Strand.setHeld_passedA (s : Strand) (k : Ctr) (h : Option (BitVec 22 × Instr)) :
    (s.setHeld k h).passedA = s.passedA := by cases k <;> rfl
@[simp] theorem Strand.setHeld_passedX (s : Strand) (k : Ctr) (h : Option (BitVec 22 × Instr)) :
    (s.setHeld k h).passedX = s.passedX := by cases k <;> rfl
@[simp] theorem Strand.setHeld_pcA (s : Strand) (k : Ctr) (h : Option (BitVec 22 × Instr)) :
    (s.setHeld k h).pcA = s.pcA := by cases k <;> rfl
@[simp] theorem Strand.setHeld_pcX (s : Strand) (k : Ctr) (h : Option (BitVec 22 × Instr)) :
    (s.setHeld k h).pcX = s.pcX := by cases k <;> rfl
@[simp] theorem Strand.setHeld_orgA (s : Strand) (k : Ctr) (h : Option (BitVec 22 × Instr)) :
    (s.setHeld k h).orgA = s.orgA := by cases k <;> rfl
@[simp] theorem Strand.setHeld_orgX (s : Strand) (k : Ctr) (h : Option (BitVec 22 × Instr)) :
    (s.setHeld k h).orgX = s.orgX := by cases k <;> rfl
@[simp] theorem Strand.setHeld_xstop (s : Strand) (k : Ctr) (h : Option (BitVec 22 × Instr)) :
    (s.setHeld k h).xstop = s.xstop := by cases k <;> rfl
@[simp] theorem Strand.setHeld_busy (s : Strand) (k : Ctr) (h : Option (BitVec 22 × Instr)) :
    (s.setHeld k h).busy = s.busy := by cases k <;> rfl
@[simp] theorem Strand.setHeld_fmt (s : Strand) (k : Ctr) (h : Option (BitVec 22 × Instr)) :
    (s.setHeld k h).fmt = s.fmt := by cases k <;> rfl
@[simp] theorem Strand.setHeld_slipw (s : Strand) (k : Ctr) (h : Option (BitVec 22 × Instr)) :
    (s.setHeld k h).slipw = s.slipw := by cases k <;> rfl
@[simp] theorem Strand.setHeld_rotbase (s : Strand) (k : Ctr) (h : Option (BitVec 22 × Instr)) :
    (s.setHeld k h).rotbase = s.rotbase := by cases k <;> rfl
@[simp] theorem Strand.setHeld_fmtidx (s : Strand) (k : Ctr) (h : Option (BitVec 22 × Instr)) :
    (s.setHeld k h).fmtidx = s.fmtidx := by cases k <;> rfl
@[simp] theorem Strand.setHeld_fpstat (s : Strand) (k : Ctr) (h : Option (BitVec 22 × Instr)) :
    (s.setHeld k h).fpstat = s.fpstat := by cases k <;> rfl
@[simp] theorem Strand.setHeld_fpPend (s : Strand) (k : Ctr) (h : Option (BitVec 22 × Instr)) :
    (s.setHeld k h).fpPend = s.fpPend := by cases k <;> rfl
@[simp] theorem Strand.setHeld_numver (s : Strand) (k : Ctr) (h : Option (BitVec 22 × Instr)) :
    (s.setHeld k h).numver = s.numver := by cases k <;> rfl
@[simp] theorem Strand.setHeld_strandCsr (s : Strand) (k : Ctr) (h : Option (BitVec 22 × Instr)) :
    (s.setHeld k h).strandCsr = s.strandCsr := by cases k <;> rfl
@[simp] theorem Strand.setHeld_taskid (s : Strand) (k : Ctr) (h : Option (BitVec 22 × Instr)) :
    (s.setHeld k h).taskid = s.taskid := by cases k <;> rfl
@[simp] theorem Strand.setHeld_trapcause (s : Strand) (k : Ctr) (h : Option (BitVec 22 × Instr)) :
    (s.setHeld k h).trapcause = s.trapcause := by cases k <;> rfl
@[simp] theorem Strand.setHeld_trappc (s : Strand) (k : Ctr) (h : Option (BitVec 22 × Instr)) :
    (s.setHeld k h).trappc = s.trappc := by cases k <;> rfl
@[simp] theorem Strand.setHeld_trapvec (s : Strand) (k : Ctr) (h : Option (BitVec 22 × Instr)) :
    (s.setHeld k h).trapvec = s.trapvec := by cases k <;> rfl
@[simp] theorem Strand.setHeld_sbuf (s : Strand) (k : Ctr) (h : Option (BitVec 22 × Instr)) :
    (s.setHeld k h).sbuf = s.sbuf := by cases k <;> rfl
@[simp] theorem Strand.setHeld_sbNext (s : Strand) (k : Ctr) (h : Option (BitVec 22 × Instr)) :
    (s.setHeld k h).sbNext = s.sbNext := by cases k <;> rfl
@[simp] theorem Strand.setHeld_fence (s : Strand) (k : Ctr) (h : Option (BitVec 22 × Instr)) :
    (s.setHeld k h).fence = s.fence := by cases k <;> rfl
@[simp] theorem Strand.setHeld_reads (s : Strand) (k : Ctr) (h : Option (BitVec 22 × Instr)) :
    (s.setHeld k h).reads = s.reads := by cases k <;> rfl
@[simp] theorem Strand.setHeld_rdNext (s : Strand) (k : Ctr) (h : Option (BitVec 22 × Instr)) :
    (s.setHeld k h).rdNext = s.rdNext := by cases k <;> rfl
@[simp] theorem Strand.setHeld_hid (s : Strand) (k : Ctr) (h : Option (BitVec 22 × Instr)) :
    (s.setHeld k h).hid = s.hid := by cases k <;> rfl
@[simp] theorem Strand.setHeld_took (s : Strand) (k : Ctr) (h : Option (BitVec 22 × Instr)) :
    (s.setHeld k h).took = s.took := by cases k <;> rfl
@[simp] theorem Strand.setHeld_semops (s : Strand) (k : Ctr) (h : Option (BitVec 22 × Instr)) :
    (s.setHeld k h).semops = s.semops := by cases k <;> rfl
@[simp] theorem Strand.setHeld_resops (s : Strand) (k : Ctr) (h : Option (BitVec 22 × Instr)) :
    (s.setHeld k h).resops = s.resops := by cases k <;> rfl
@[simp] theorem Strand.setHeld_async (s : Strand) (k : Ctr) (h : Option (BitVec 22 × Instr)) :
    (s.setHeld k h).async = s.async := by cases k <;> rfl
@[simp] theorem Strand.setHeld_streamCount (s : Strand) (k : Ctr) (h : Option (BitVec 22 × Instr)) :
    (s.setHeld k h).streamCount = s.streamCount := by cases k <;> rfl
@[simp] theorem Strand.setHeld_matrixCount (s : Strand) (k : Ctr) (h : Option (BitVec 22 × Instr)) :
    (s.setHeld k h).matrixCount = s.matrixCount := by cases k <;> rfl
@[simp] theorem Strand.setHeld_task (s : Strand) (k : Ctr) (h : Option (BitVec 22 × Instr)) :
    (s.setHeld k h).task = s.task := by cases k <;> rfl
@[simp] theorem Strand.setHeld_handler (s : Strand) (k : Ctr) (h : Option (BitVec 22 × Instr)) :
    (s.setHeld k h).handler = s.handler := by cases k <;> rfl
@[simp] theorem Strand.setHeld_stopped (s : Strand) (k : Ctr) (h : Option (BitVec 22 × Instr)) :
    (s.setHeld k h).stopped = s.stopped := by cases k <;> rfl
@[simp] theorem Strand.setLoops_areg (s : Strand) (k : Ctr) (l : Vector Level 3) :
    (s.setLoops k l).areg = s.areg := by cases k <;> rfl
@[simp] theorem Strand.setLoops_xreg (s : Strand) (k : Ctr) (l : Vector Level 3) :
    (s.setLoops k l).xreg = s.xreg := by cases k <;> rfl
@[simp] theorem Strand.setLoops_panels (s : Strand) (k : Ctr) (l : Vector Level 3) :
    (s.setLoops k l).panels = s.panels := by cases k <;> rfl
@[simp] theorem Strand.setLoops_qax (s : Strand) (k : Ctr) (l : Vector Level 3) :
    (s.setLoops k l).qax = s.qax := by cases k <;> rfl
@[simp] theorem Strand.setLoops_qxa (s : Strand) (k : Ctr) (l : Vector Level 3) :
    (s.setLoops k l).qxa = s.qxa := by cases k <;> rfl
@[simp] theorem Strand.setLoops_passedA (s : Strand) (k : Ctr) (l : Vector Level 3) :
    (s.setLoops k l).passedA = s.passedA := by cases k <;> rfl
@[simp] theorem Strand.setLoops_passedX (s : Strand) (k : Ctr) (l : Vector Level 3) :
    (s.setLoops k l).passedX = s.passedX := by cases k <;> rfl
@[simp] theorem Strand.setLoops_pcA (s : Strand) (k : Ctr) (l : Vector Level 3) :
    (s.setLoops k l).pcA = s.pcA := by cases k <;> rfl
@[simp] theorem Strand.setLoops_pcX (s : Strand) (k : Ctr) (l : Vector Level 3) :
    (s.setLoops k l).pcX = s.pcX := by cases k <;> rfl
@[simp] theorem Strand.setLoops_heldA (s : Strand) (k : Ctr) (l : Vector Level 3) :
    (s.setLoops k l).heldA = s.heldA := by cases k <;> rfl
@[simp] theorem Strand.setLoops_heldX (s : Strand) (k : Ctr) (l : Vector Level 3) :
    (s.setLoops k l).heldX = s.heldX := by cases k <;> rfl
@[simp] theorem Strand.setLoops_orgA (s : Strand) (k : Ctr) (l : Vector Level 3) :
    (s.setLoops k l).orgA = s.orgA := by cases k <;> rfl
@[simp] theorem Strand.setLoops_orgX (s : Strand) (k : Ctr) (l : Vector Level 3) :
    (s.setLoops k l).orgX = s.orgX := by cases k <;> rfl
@[simp] theorem Strand.setLoops_xstop (s : Strand) (k : Ctr) (l : Vector Level 3) :
    (s.setLoops k l).xstop = s.xstop := by cases k <;> rfl
@[simp] theorem Strand.setLoops_busy (s : Strand) (k : Ctr) (l : Vector Level 3) :
    (s.setLoops k l).busy = s.busy := by cases k <;> rfl
@[simp] theorem Strand.setLoops_fmt (s : Strand) (k : Ctr) (l : Vector Level 3) :
    (s.setLoops k l).fmt = s.fmt := by cases k <;> rfl
@[simp] theorem Strand.setLoops_slipw (s : Strand) (k : Ctr) (l : Vector Level 3) :
    (s.setLoops k l).slipw = s.slipw := by cases k <;> rfl
@[simp] theorem Strand.setLoops_rotbase (s : Strand) (k : Ctr) (l : Vector Level 3) :
    (s.setLoops k l).rotbase = s.rotbase := by cases k <;> rfl
@[simp] theorem Strand.setLoops_fmtidx (s : Strand) (k : Ctr) (l : Vector Level 3) :
    (s.setLoops k l).fmtidx = s.fmtidx := by cases k <;> rfl
@[simp] theorem Strand.setLoops_fpstat (s : Strand) (k : Ctr) (l : Vector Level 3) :
    (s.setLoops k l).fpstat = s.fpstat := by cases k <;> rfl
@[simp] theorem Strand.setLoops_fpPend (s : Strand) (k : Ctr) (l : Vector Level 3) :
    (s.setLoops k l).fpPend = s.fpPend := by cases k <;> rfl
@[simp] theorem Strand.setLoops_numver (s : Strand) (k : Ctr) (l : Vector Level 3) :
    (s.setLoops k l).numver = s.numver := by cases k <;> rfl
@[simp] theorem Strand.setLoops_strandCsr (s : Strand) (k : Ctr) (l : Vector Level 3) :
    (s.setLoops k l).strandCsr = s.strandCsr := by cases k <;> rfl
@[simp] theorem Strand.setLoops_taskid (s : Strand) (k : Ctr) (l : Vector Level 3) :
    (s.setLoops k l).taskid = s.taskid := by cases k <;> rfl
@[simp] theorem Strand.setLoops_trapcause (s : Strand) (k : Ctr) (l : Vector Level 3) :
    (s.setLoops k l).trapcause = s.trapcause := by cases k <;> rfl
@[simp] theorem Strand.setLoops_trappc (s : Strand) (k : Ctr) (l : Vector Level 3) :
    (s.setLoops k l).trappc = s.trappc := by cases k <;> rfl
@[simp] theorem Strand.setLoops_trapvec (s : Strand) (k : Ctr) (l : Vector Level 3) :
    (s.setLoops k l).trapvec = s.trapvec := by cases k <;> rfl
@[simp] theorem Strand.setLoops_sbuf (s : Strand) (k : Ctr) (l : Vector Level 3) :
    (s.setLoops k l).sbuf = s.sbuf := by cases k <;> rfl
@[simp] theorem Strand.setLoops_sbNext (s : Strand) (k : Ctr) (l : Vector Level 3) :
    (s.setLoops k l).sbNext = s.sbNext := by cases k <;> rfl
@[simp] theorem Strand.setLoops_fence (s : Strand) (k : Ctr) (l : Vector Level 3) :
    (s.setLoops k l).fence = s.fence := by cases k <;> rfl
@[simp] theorem Strand.setLoops_reads (s : Strand) (k : Ctr) (l : Vector Level 3) :
    (s.setLoops k l).reads = s.reads := by cases k <;> rfl
@[simp] theorem Strand.setLoops_rdNext (s : Strand) (k : Ctr) (l : Vector Level 3) :
    (s.setLoops k l).rdNext = s.rdNext := by cases k <;> rfl
@[simp] theorem Strand.setLoops_hid (s : Strand) (k : Ctr) (l : Vector Level 3) :
    (s.setLoops k l).hid = s.hid := by cases k <;> rfl
@[simp] theorem Strand.setLoops_took (s : Strand) (k : Ctr) (l : Vector Level 3) :
    (s.setLoops k l).took = s.took := by cases k <;> rfl
@[simp] theorem Strand.setLoops_semops (s : Strand) (k : Ctr) (l : Vector Level 3) :
    (s.setLoops k l).semops = s.semops := by cases k <;> rfl
@[simp] theorem Strand.setLoops_resops (s : Strand) (k : Ctr) (l : Vector Level 3) :
    (s.setLoops k l).resops = s.resops := by cases k <;> rfl
@[simp] theorem Strand.setLoops_async (s : Strand) (k : Ctr) (l : Vector Level 3) :
    (s.setLoops k l).async = s.async := by cases k <;> rfl
@[simp] theorem Strand.setLoops_streamCount (s : Strand) (k : Ctr) (l : Vector Level 3) :
    (s.setLoops k l).streamCount = s.streamCount := by cases k <;> rfl
@[simp] theorem Strand.setLoops_matrixCount (s : Strand) (k : Ctr) (l : Vector Level 3) :
    (s.setLoops k l).matrixCount = s.matrixCount := by cases k <;> rfl
@[simp] theorem Strand.setLoops_task (s : Strand) (k : Ctr) (l : Vector Level 3) :
    (s.setLoops k l).task = s.task := by cases k <;> rfl
@[simp] theorem Strand.setLoops_handler (s : Strand) (k : Ctr) (l : Vector Level 3) :
    (s.setLoops k l).handler = s.handler := by cases k <;> rfl
@[simp] theorem Strand.setLoops_stopped (s : Strand) (k : Ctr) (l : Vector Level 3) :
    (s.setLoops k l).stopped = s.stopped := by cases k <;> rfl
@[simp] theorem Strand.setPanel_areg (s : Strand) (n : BitVec 5) (v : Panel) :
    (s.setPanel n v).areg = s.areg := rfl
@[simp] theorem Strand.setPanel_xreg (s : Strand) (n : BitVec 5) (v : Panel) :
    (s.setPanel n v).xreg = s.xreg := rfl
@[simp] theorem Strand.setPanel_qax (s : Strand) (n : BitVec 5) (v : Panel) :
    (s.setPanel n v).qax = s.qax := rfl
@[simp] theorem Strand.setPanel_qxa (s : Strand) (n : BitVec 5) (v : Panel) :
    (s.setPanel n v).qxa = s.qxa := rfl
@[simp] theorem Strand.setPanel_loopsA (s : Strand) (n : BitVec 5) (v : Panel) :
    (s.setPanel n v).loopsA = s.loopsA := rfl
@[simp] theorem Strand.setPanel_loopsX (s : Strand) (n : BitVec 5) (v : Panel) :
    (s.setPanel n v).loopsX = s.loopsX := rfl
@[simp] theorem Strand.setPanel_passedA (s : Strand) (n : BitVec 5) (v : Panel) :
    (s.setPanel n v).passedA = s.passedA := rfl
@[simp] theorem Strand.setPanel_passedX (s : Strand) (n : BitVec 5) (v : Panel) :
    (s.setPanel n v).passedX = s.passedX := rfl
@[simp] theorem Strand.setPanel_pcA (s : Strand) (n : BitVec 5) (v : Panel) :
    (s.setPanel n v).pcA = s.pcA := rfl
@[simp] theorem Strand.setPanel_pcX (s : Strand) (n : BitVec 5) (v : Panel) :
    (s.setPanel n v).pcX = s.pcX := rfl
@[simp] theorem Strand.setPanel_heldA (s : Strand) (n : BitVec 5) (v : Panel) :
    (s.setPanel n v).heldA = s.heldA := rfl
@[simp] theorem Strand.setPanel_heldX (s : Strand) (n : BitVec 5) (v : Panel) :
    (s.setPanel n v).heldX = s.heldX := rfl
@[simp] theorem Strand.setPanel_orgA (s : Strand) (n : BitVec 5) (v : Panel) :
    (s.setPanel n v).orgA = s.orgA := rfl
@[simp] theorem Strand.setPanel_orgX (s : Strand) (n : BitVec 5) (v : Panel) :
    (s.setPanel n v).orgX = s.orgX := rfl
@[simp] theorem Strand.setPanel_xstop (s : Strand) (n : BitVec 5) (v : Panel) :
    (s.setPanel n v).xstop = s.xstop := rfl
@[simp] theorem Strand.setPanel_busy (s : Strand) (n : BitVec 5) (v : Panel) :
    (s.setPanel n v).busy = s.busy := rfl
@[simp] theorem Strand.setPanel_fmt (s : Strand) (n : BitVec 5) (v : Panel) :
    (s.setPanel n v).fmt = s.fmt := rfl
@[simp] theorem Strand.setPanel_slipw (s : Strand) (n : BitVec 5) (v : Panel) :
    (s.setPanel n v).slipw = s.slipw := rfl
@[simp] theorem Strand.setPanel_rotbase (s : Strand) (n : BitVec 5) (v : Panel) :
    (s.setPanel n v).rotbase = s.rotbase := rfl
@[simp] theorem Strand.setPanel_fmtidx (s : Strand) (n : BitVec 5) (v : Panel) :
    (s.setPanel n v).fmtidx = s.fmtidx := rfl
@[simp] theorem Strand.setPanel_fpstat (s : Strand) (n : BitVec 5) (v : Panel) :
    (s.setPanel n v).fpstat = s.fpstat := rfl
@[simp] theorem Strand.setPanel_fpPend (s : Strand) (n : BitVec 5) (v : Panel) :
    (s.setPanel n v).fpPend = s.fpPend := rfl
@[simp] theorem Strand.setPanel_numver (s : Strand) (n : BitVec 5) (v : Panel) :
    (s.setPanel n v).numver = s.numver := rfl
@[simp] theorem Strand.setPanel_strandCsr (s : Strand) (n : BitVec 5) (v : Panel) :
    (s.setPanel n v).strandCsr = s.strandCsr := rfl
@[simp] theorem Strand.setPanel_taskid (s : Strand) (n : BitVec 5) (v : Panel) :
    (s.setPanel n v).taskid = s.taskid := rfl
@[simp] theorem Strand.setPanel_trapcause (s : Strand) (n : BitVec 5) (v : Panel) :
    (s.setPanel n v).trapcause = s.trapcause := rfl
@[simp] theorem Strand.setPanel_trappc (s : Strand) (n : BitVec 5) (v : Panel) :
    (s.setPanel n v).trappc = s.trappc := rfl
@[simp] theorem Strand.setPanel_trapvec (s : Strand) (n : BitVec 5) (v : Panel) :
    (s.setPanel n v).trapvec = s.trapvec := rfl
@[simp] theorem Strand.setPanel_sbuf (s : Strand) (n : BitVec 5) (v : Panel) :
    (s.setPanel n v).sbuf = s.sbuf := rfl
@[simp] theorem Strand.setPanel_sbNext (s : Strand) (n : BitVec 5) (v : Panel) :
    (s.setPanel n v).sbNext = s.sbNext := rfl
@[simp] theorem Strand.setPanel_fence (s : Strand) (n : BitVec 5) (v : Panel) :
    (s.setPanel n v).fence = s.fence := rfl
@[simp] theorem Strand.setPanel_reads (s : Strand) (n : BitVec 5) (v : Panel) :
    (s.setPanel n v).reads = s.reads := rfl
@[simp] theorem Strand.setPanel_rdNext (s : Strand) (n : BitVec 5) (v : Panel) :
    (s.setPanel n v).rdNext = s.rdNext := rfl
@[simp] theorem Strand.setPanel_hid (s : Strand) (n : BitVec 5) (v : Panel) :
    (s.setPanel n v).hid = s.hid := rfl
@[simp] theorem Strand.setPanel_took (s : Strand) (n : BitVec 5) (v : Panel) :
    (s.setPanel n v).took = s.took := rfl
@[simp] theorem Strand.setPanel_semops (s : Strand) (n : BitVec 5) (v : Panel) :
    (s.setPanel n v).semops = s.semops := rfl
@[simp] theorem Strand.setPanel_resops (s : Strand) (n : BitVec 5) (v : Panel) :
    (s.setPanel n v).resops = s.resops := rfl
@[simp] theorem Strand.setPanel_async (s : Strand) (n : BitVec 5) (v : Panel) :
    (s.setPanel n v).async = s.async := rfl
@[simp] theorem Strand.setPanel_streamCount (s : Strand) (n : BitVec 5) (v : Panel) :
    (s.setPanel n v).streamCount = s.streamCount := rfl
@[simp] theorem Strand.setPanel_matrixCount (s : Strand) (n : BitVec 5) (v : Panel) :
    (s.setPanel n v).matrixCount = s.matrixCount := rfl
@[simp] theorem Strand.setPanel_task (s : Strand) (n : BitVec 5) (v : Panel) :
    (s.setPanel n v).task = s.task := rfl
@[simp] theorem Strand.setPanel_handler (s : Strand) (n : BitVec 5) (v : Panel) :
    (s.setPanel n v).handler = s.handler := rfl
@[simp] theorem Strand.setPanel_stopped (s : Strand) (n : BitVec 5) (v : Panel) :
    (s.setPanel n v).stopped = s.stopped := rfl
@[simp] theorem Strand.raise_areg (s : Strand) (f : Flags) :
    (s.raise f).areg = s.areg := by unfold raise; split <;> rfl
@[simp] theorem Strand.raise_xreg (s : Strand) (f : Flags) :
    (s.raise f).xreg = s.xreg := by unfold raise; split <;> rfl
@[simp] theorem Strand.raise_panels (s : Strand) (f : Flags) :
    (s.raise f).panels = s.panels := by unfold raise; split <;> rfl
@[simp] theorem Strand.raise_qax (s : Strand) (f : Flags) :
    (s.raise f).qax = s.qax := by unfold raise; split <;> rfl
@[simp] theorem Strand.raise_qxa (s : Strand) (f : Flags) :
    (s.raise f).qxa = s.qxa := by unfold raise; split <;> rfl
@[simp] theorem Strand.raise_loopsA (s : Strand) (f : Flags) :
    (s.raise f).loopsA = s.loopsA := by unfold raise; split <;> rfl
@[simp] theorem Strand.raise_loopsX (s : Strand) (f : Flags) :
    (s.raise f).loopsX = s.loopsX := by unfold raise; split <;> rfl
@[simp] theorem Strand.raise_passedA (s : Strand) (f : Flags) :
    (s.raise f).passedA = s.passedA := by unfold raise; split <;> rfl
@[simp] theorem Strand.raise_passedX (s : Strand) (f : Flags) :
    (s.raise f).passedX = s.passedX := by unfold raise; split <;> rfl
@[simp] theorem Strand.raise_pcA (s : Strand) (f : Flags) :
    (s.raise f).pcA = s.pcA := by unfold raise; split <;> rfl
@[simp] theorem Strand.raise_pcX (s : Strand) (f : Flags) :
    (s.raise f).pcX = s.pcX := by unfold raise; split <;> rfl
@[simp] theorem Strand.raise_heldA (s : Strand) (f : Flags) :
    (s.raise f).heldA = s.heldA := by unfold raise; split <;> rfl
@[simp] theorem Strand.raise_heldX (s : Strand) (f : Flags) :
    (s.raise f).heldX = s.heldX := by unfold raise; split <;> rfl
@[simp] theorem Strand.raise_orgA (s : Strand) (f : Flags) :
    (s.raise f).orgA = s.orgA := by unfold raise; split <;> rfl
@[simp] theorem Strand.raise_orgX (s : Strand) (f : Flags) :
    (s.raise f).orgX = s.orgX := by unfold raise; split <;> rfl
@[simp] theorem Strand.raise_xstop (s : Strand) (f : Flags) :
    (s.raise f).xstop = s.xstop := by unfold raise; split <;> rfl
@[simp] theorem Strand.raise_busy (s : Strand) (f : Flags) :
    (s.raise f).busy = s.busy := by unfold raise; split <;> rfl
@[simp] theorem Strand.raise_fmt (s : Strand) (f : Flags) :
    (s.raise f).fmt = s.fmt := by unfold raise; split <;> rfl
@[simp] theorem Strand.raise_slipw (s : Strand) (f : Flags) :
    (s.raise f).slipw = s.slipw := by unfold raise; split <;> rfl
@[simp] theorem Strand.raise_rotbase (s : Strand) (f : Flags) :
    (s.raise f).rotbase = s.rotbase := by unfold raise; split <;> rfl
@[simp] theorem Strand.raise_fmtidx (s : Strand) (f : Flags) :
    (s.raise f).fmtidx = s.fmtidx := by unfold raise; split <;> rfl
@[simp] theorem Strand.raise_fpstat (s : Strand) (f : Flags) :
    (s.raise f).fpstat = s.fpstat := by unfold raise; split <;> rfl
@[simp] theorem Strand.raise_numver (s : Strand) (f : Flags) :
    (s.raise f).numver = s.numver := by unfold raise; split <;> rfl
@[simp] theorem Strand.raise_strandCsr (s : Strand) (f : Flags) :
    (s.raise f).strandCsr = s.strandCsr := by unfold raise; split <;> rfl
@[simp] theorem Strand.raise_taskid (s : Strand) (f : Flags) :
    (s.raise f).taskid = s.taskid := by unfold raise; split <;> rfl
@[simp] theorem Strand.raise_trapcause (s : Strand) (f : Flags) :
    (s.raise f).trapcause = s.trapcause := by unfold raise; split <;> rfl
@[simp] theorem Strand.raise_trappc (s : Strand) (f : Flags) :
    (s.raise f).trappc = s.trappc := by unfold raise; split <;> rfl
@[simp] theorem Strand.raise_trapvec (s : Strand) (f : Flags) :
    (s.raise f).trapvec = s.trapvec := by unfold raise; split <;> rfl
@[simp] theorem Strand.raise_sbuf (s : Strand) (f : Flags) :
    (s.raise f).sbuf = s.sbuf := by unfold raise; split <;> rfl
@[simp] theorem Strand.raise_sbNext (s : Strand) (f : Flags) :
    (s.raise f).sbNext = s.sbNext := by unfold raise; split <;> rfl
@[simp] theorem Strand.raise_fence (s : Strand) (f : Flags) :
    (s.raise f).fence = s.fence := by unfold raise; split <;> rfl
@[simp] theorem Strand.raise_reads (s : Strand) (f : Flags) :
    (s.raise f).reads = s.reads := by unfold raise; split <;> rfl
@[simp] theorem Strand.raise_rdNext (s : Strand) (f : Flags) :
    (s.raise f).rdNext = s.rdNext := by unfold raise; split <;> rfl
@[simp] theorem Strand.raise_hid (s : Strand) (f : Flags) :
    (s.raise f).hid = s.hid := by unfold raise; split <;> rfl
@[simp] theorem Strand.raise_took (s : Strand) (f : Flags) :
    (s.raise f).took = s.took := by unfold raise; split <;> rfl
@[simp] theorem Strand.raise_semops (s : Strand) (f : Flags) :
    (s.raise f).semops = s.semops := by unfold raise; split <;> rfl
@[simp] theorem Strand.raise_resops (s : Strand) (f : Flags) :
    (s.raise f).resops = s.resops := by unfold raise; split <;> rfl
@[simp] theorem Strand.raise_async (s : Strand) (f : Flags) :
    (s.raise f).async = s.async := by unfold raise; split <;> rfl
@[simp] theorem Strand.raise_streamCount (s : Strand) (f : Flags) :
    (s.raise f).streamCount = s.streamCount := by unfold raise; split <;> rfl
@[simp] theorem Strand.raise_matrixCount (s : Strand) (f : Flags) :
    (s.raise f).matrixCount = s.matrixCount := by unfold raise; split <;> rfl
@[simp] theorem Strand.raise_task (s : Strand) (f : Flags) :
    (s.raise f).task = s.task := by unfold raise; split <;> rfl
@[simp] theorem Strand.raise_handler (s : Strand) (f : Flags) :
    (s.raise f).handler = s.handler := by unfold raise; split <;> rfl
@[simp] theorem Strand.raise_stopped (s : Strand) (f : Flags) :
    (s.raise f).stopped = s.stopped := by unfold raise; split <;> rfl
@[simp] theorem Strand.landFlags_areg (s : Strand) (k : Nat) :
    (s.landFlags k).areg = s.areg := rfl
@[simp] theorem Strand.landFlags_xreg (s : Strand) (k : Nat) :
    (s.landFlags k).xreg = s.xreg := rfl
@[simp] theorem Strand.landFlags_panels (s : Strand) (k : Nat) :
    (s.landFlags k).panels = s.panels := rfl
@[simp] theorem Strand.landFlags_qax (s : Strand) (k : Nat) :
    (s.landFlags k).qax = s.qax := rfl
@[simp] theorem Strand.landFlags_qxa (s : Strand) (k : Nat) :
    (s.landFlags k).qxa = s.qxa := rfl
@[simp] theorem Strand.landFlags_loopsA (s : Strand) (k : Nat) :
    (s.landFlags k).loopsA = s.loopsA := rfl
@[simp] theorem Strand.landFlags_loopsX (s : Strand) (k : Nat) :
    (s.landFlags k).loopsX = s.loopsX := rfl
@[simp] theorem Strand.landFlags_passedA (s : Strand) (k : Nat) :
    (s.landFlags k).passedA = s.passedA := rfl
@[simp] theorem Strand.landFlags_passedX (s : Strand) (k : Nat) :
    (s.landFlags k).passedX = s.passedX := rfl
@[simp] theorem Strand.landFlags_pcA (s : Strand) (k : Nat) :
    (s.landFlags k).pcA = s.pcA := rfl
@[simp] theorem Strand.landFlags_pcX (s : Strand) (k : Nat) :
    (s.landFlags k).pcX = s.pcX := rfl
@[simp] theorem Strand.landFlags_heldA (s : Strand) (k : Nat) :
    (s.landFlags k).heldA = s.heldA := rfl
@[simp] theorem Strand.landFlags_heldX (s : Strand) (k : Nat) :
    (s.landFlags k).heldX = s.heldX := rfl
@[simp] theorem Strand.landFlags_orgA (s : Strand) (k : Nat) :
    (s.landFlags k).orgA = s.orgA := rfl
@[simp] theorem Strand.landFlags_orgX (s : Strand) (k : Nat) :
    (s.landFlags k).orgX = s.orgX := rfl
@[simp] theorem Strand.landFlags_xstop (s : Strand) (k : Nat) :
    (s.landFlags k).xstop = s.xstop := rfl
@[simp] theorem Strand.landFlags_busy (s : Strand) (k : Nat) :
    (s.landFlags k).busy = s.busy := rfl
@[simp] theorem Strand.landFlags_fmt (s : Strand) (k : Nat) :
    (s.landFlags k).fmt = s.fmt := rfl
@[simp] theorem Strand.landFlags_slipw (s : Strand) (k : Nat) :
    (s.landFlags k).slipw = s.slipw := rfl
@[simp] theorem Strand.landFlags_rotbase (s : Strand) (k : Nat) :
    (s.landFlags k).rotbase = s.rotbase := rfl
@[simp] theorem Strand.landFlags_fmtidx (s : Strand) (k : Nat) :
    (s.landFlags k).fmtidx = s.fmtidx := rfl
@[simp] theorem Strand.landFlags_numver (s : Strand) (k : Nat) :
    (s.landFlags k).numver = s.numver := rfl
@[simp] theorem Strand.landFlags_strandCsr (s : Strand) (k : Nat) :
    (s.landFlags k).strandCsr = s.strandCsr := rfl
@[simp] theorem Strand.landFlags_taskid (s : Strand) (k : Nat) :
    (s.landFlags k).taskid = s.taskid := rfl
@[simp] theorem Strand.landFlags_trapcause (s : Strand) (k : Nat) :
    (s.landFlags k).trapcause = s.trapcause := rfl
@[simp] theorem Strand.landFlags_trappc (s : Strand) (k : Nat) :
    (s.landFlags k).trappc = s.trappc := rfl
@[simp] theorem Strand.landFlags_trapvec (s : Strand) (k : Nat) :
    (s.landFlags k).trapvec = s.trapvec := rfl
@[simp] theorem Strand.landFlags_sbuf (s : Strand) (k : Nat) :
    (s.landFlags k).sbuf = s.sbuf := rfl
@[simp] theorem Strand.landFlags_sbNext (s : Strand) (k : Nat) :
    (s.landFlags k).sbNext = s.sbNext := rfl
@[simp] theorem Strand.landFlags_fence (s : Strand) (k : Nat) :
    (s.landFlags k).fence = s.fence := rfl
@[simp] theorem Strand.landFlags_reads (s : Strand) (k : Nat) :
    (s.landFlags k).reads = s.reads := rfl
@[simp] theorem Strand.landFlags_rdNext (s : Strand) (k : Nat) :
    (s.landFlags k).rdNext = s.rdNext := rfl
@[simp] theorem Strand.landFlags_hid (s : Strand) (k : Nat) :
    (s.landFlags k).hid = s.hid := rfl
@[simp] theorem Strand.landFlags_took (s : Strand) (k : Nat) :
    (s.landFlags k).took = s.took := rfl
@[simp] theorem Strand.landFlags_semops (s : Strand) (k : Nat) :
    (s.landFlags k).semops = s.semops := rfl
@[simp] theorem Strand.landFlags_resops (s : Strand) (k : Nat) :
    (s.landFlags k).resops = s.resops := rfl
@[simp] theorem Strand.landFlags_async (s : Strand) (k : Nat) :
    (s.landFlags k).async = s.async := rfl
@[simp] theorem Strand.landFlags_streamCount (s : Strand) (k : Nat) :
    (s.landFlags k).streamCount = s.streamCount := rfl
@[simp] theorem Strand.landFlags_matrixCount (s : Strand) (k : Nat) :
    (s.landFlags k).matrixCount = s.matrixCount := rfl
@[simp] theorem Strand.landFlags_task (s : Strand) (k : Nat) :
    (s.landFlags k).task = s.task := rfl
@[simp] theorem Strand.landFlags_handler (s : Strand) (k : Nat) :
    (s.landFlags k).handler = s.handler := rfl
@[simp] theorem Strand.landFlags_stopped (s : Strand) (k : Nat) :
    (s.landFlags k).stopped = s.stopped := rfl

/-! ## Reading back -/

@[simp] theorem State.core_setCore (s : State) (c d : Nat) (k : Core) :
    (s.setCore c k).core d = if c = d then k else s.core d := by
  simp [State.core, State.setCore]

@[simp] theorem State.core_modCore (s : State) (c d : Nat) (f : Core → Core) :
    (s.modCore c f).core d = if c = d then f (s.core c) else s.core d := by
  simp [State.modCore]

@[simp] theorem State.cluster_modCluster (s : State) (c d : Nat) (f : Cluster → Cluster) :
    (s.modCluster c f).cluster d = if c = d then f (s.cluster c) else s.cluster d := by
  simp [State.cluster, State.modCluster]

@[simp] theorem State.die_modDie (s : State) (c d : Nat) (f : Die → Die) :
    (s.modDie c f).die d = if c = d then f (s.die c) else s.die d := by
  simp [State.die, State.modDie]

theorem State.core_eq {s t : State} (h : t.cores = s.cores) (c : Nat) : t.core c = s.core c := by
  simp [State.core, h]

@[simp] theorem State.core_res (s : State) (r : Res) (c : Nat) : (s.res r).core c = s.core c := rfl
@[simp] theorem State.core_actAs (s : State) (k : Ctr) (c : Nat) : (s.actAs k).core c = s.core c := rfl
@[simp] theorem State.strand_res (s : State) (r : Res) (c : Nat) (n : Fin 4) : (s.res r).strand c n = s.strand c n := rfl
@[simp] theorem State.strand_actAs (s : State) (k : Ctr) (c : Nat) (n : Fin 4) : (s.actAs k).strand c n = s.strand c n := rfl
@[simp] theorem State.me_res (s : State) (r : Res) : (s.res r).me = s.me := rfl
@[simp] theorem State.me_actAs (s : State) (k : Ctr) : (s.actAs k).me = s.me := rfl
@[simp] theorem State.myCore_actAs (s : State) (k : Ctr) : (s.actAs k).myCore = s.myCore := rfl
@[simp] theorem State.actAs_ctr (s : State) (k : Ctr) : (s.actAs k).cur.ctr = k := rfl
@[simp] theorem State.actAs_phase (s : State) (k : Ctr) : (s.actAs k).cur.phase = s.cur.phase := rfl
@[simp] theorem State.actAs_pc (s : State) (k : Ctr) : (s.actAs k).cur.pc = s.cur.pc := rfl
@[simp] theorem State.actAs_core (s : State) (k : Ctr) : (s.actAs k).cur.core = s.cur.core := rfl
@[simp] theorem State.actAs_strand (s : State) (k : Ctr) : (s.actAs k).cur.strand = s.cur.strand := rfl
@[simp] theorem State.actAs_ext (s : State) (k : Ctr) : (s.actAs k).cur.ext = s.cur.ext := rfl
@[simp] theorem State.imm_actAs (s : State) (k : Ctr) {w : Nat} (i : BitVec w) : (s.actAs k).imm i = s.imm i := rfl

@[simp] theorem Core.strand_setStrand (k : Core) (n m : Fin 4) (t : Strand) :
    (k.setStrand n t).strand m = if n = m then t else k.strand m := by
  simp only [Core.strand, Core.setStrand, Vector.get_eq_getElem, Vector.getElem_set, Fin.ext_iff]

@[simp] theorem State.strand_setStrand (s : State) (c d : Nat) (n m : Fin 4) (t : Strand) :
    (s.setStrand c n t).strand d m = if c = d ∧ n = m then t else s.strand d m := by
  simp only [State.strand, State.setStrand, State.core_modCore]
  by_cases h : c = d <;> simp [h]

@[simp] theorem State.me_setMe (s : State) (t : Strand) : (s.setMe t).me = t := by
  simp [State.me, State.setMe]

@[simp] theorem State.me_modMe (s : State) (f : Strand → Strand) : (s.modMe f).me = f s.me := by
  simp [State.modMe]

@[simp] theorem State.strand_setMe (s : State) (t : Strand) (c : Nat) (n : Fin 4) :
    (s.setMe t).strand c n = if s.cur.core = c ∧ s.cur.strand = n then t else s.strand c n := by
  simp [State.setMe]

@[simp] theorem State.strand_modMe (s : State) (f : Strand → Strand) (c : Nat) (n : Fin 4) :
    (s.modMe f).strand c n = if s.cur.core = c ∧ s.cur.strand = n then f s.me else s.strand c n := by
  simp [State.modMe]

@[simp] theorem State.core_setMe (s : State) (t : Strand) (c : Nat) :
    (s.setMe t).core c = if s.cur.core = c then (s.core c).setStrand s.cur.strand t else s.core c := by
  simp only [State.setMe, State.setStrand, State.core_modCore]
  split <;> simp [*]

@[simp] theorem State.sram_setMe (s : State) (t : Strand) (c : Nat) : ((s.setMe t).core c).sram = (s.core c).sram := by
  rw [State.core_setMe]
  split <;> rfl

@[simp] theorem State.sram_modMe (s : State) (f : Strand → Strand) (c : Nat) : ((s.modMe f).core c).sram = (s.core c).sram :=
  State.sram_setMe s _ c

/-! ## Registers (R35) -/

/-- Register 0 of each file reads 0, whatever is written to it. -/
@[simp] theorem Strand.reg_zero (t : Strand) (k : Ctr) : t.reg k 0#5 = 0#64 := by cases k <;> rfl

@[simp] theorem Strand.setReg_zero (t : Strand) (k : Ctr) (v : Word) : t.setReg k 0#5 v = t := by cases k <;> rfl

theorem Strand.reg_setReg (t : Strand) (k : Ctr) (r q : BitVec 5) (v : Word) (h : r ≠ 0#5) :
    (t.setReg k r v).reg k q = if q = r then v else t.reg k q := by
  cases k <;>
  · simp only [reg, setReg, setA, setX, a, x, if_neg h]
    by_cases e : q = r
    · subst e
      simp [h, Vector.get_eq_getElem]
    · have n : ¬ r.toNat = q.toNat := fun x => e (BitVec.eq_of_toNat_eq x.symm)
      simp [e, n, Vector.get_eq_getElem]

theorem Strand.setReg_other (t : Strand) (k j : Ctr) (r q : BitVec 5) (v : Word) (h : j ≠ k) :
    (t.setReg k r v).reg j q = t.reg j q := by
  cases k <;> cases j <;> simp_all [reg, setReg, a, x]

end Sys2Proof.Machine
end

