-- ==== Sys2Proof/Laws/Issue.lean ====
section
/-! SUPPORT. Sys2Proof/Laws/Issue.lean: everything that issuing a word can do, once for every word. -/

namespace Sys2Proof.Machine

/-! ## Setting twice -/

@[simp] theorem insertD_insertD {α : Type} (l : List (Nat × α)) (a : Nat) (v w : α) :
    insertD (insertD l a v) a w = insertD l a w := by
  induction l with
  | nil => simp [insertD]
  | cons c l ih =>
    obtain ⟨k, u⟩ := c
    simp only [insertD]
    split
    · simp [insertD]
    · split
      · simp [insertD]
      · simp [insertD, *]

@[simp] theorem Core.setStrand_setStrand (k : Core) (n : Fin 4) (t u : Strand) :
    (k.setStrand n t).setStrand n u = k.setStrand n u := by
  simp [Core.setStrand]

@[simp] theorem State.setMe_setMe (s : State) (t u : Strand) : (s.setMe t).setMe u = s.setMe u := by
  simp only [State.setMe, State.setStrand, State.modCore, State.setCore]
  simp [State.core]

@[simp] theorem State.setMe_modMe (s : State) (f : Strand → Strand) (u : Strand) : (s.modMe f).setMe u = s.setMe u := by
  simp [State.modMe]

/-! ## What passing a word moves -/

theorem advanceRot_high (r : Word) : advanceRot r &&& ~~~7#64 = r &&& ~~~7#64 := by
  unfold advanceRot
  split
  · ext i hi
    simp only [BitVec.getElem_and, BitVec.getElem_or, BitVec.getElem_not]
    cases (7#64)[i] <;> simp
  · rfl

@[simp] theorem Strand.uncounted_setPc (t : Strand) (k : Ctr) (v : BitVec 22) : (t.setPc k v).uncounted = t.uncounted := by
  cases k <;> rfl
@[simp] theorem Strand.uncounted_setLoops (t : Strand) (k : Ctr) (l : Vector Level 3) :
    (t.setLoops k l).uncounted = t.uncounted := by
  cases k <;> rfl
@[simp] theorem Strand.uncounted_setHeld (t : Strand) (k : Ctr) (h : Option (BitVec 22 × Instr)) :
    (t.setHeld k h).uncounted = t.uncounted := by
  cases k <;> rfl
@[simp] theorem Strand.uncounted_addPassed (t : Strand) (k : Ctr) (n : Nat) : (t.addPassed k n).uncounted = t.uncounted := by
  cases k <;> rfl

@[simp] theorem Strand.uncounted_syncIdx (t : Strand) : t.syncIdx.uncounted = t.uncounted := by
  have h (r v : Word) : (r &&& ~~~15#64 ||| v &&& 15#64) &&& ~~~15#64 = r &&& ~~~15#64 := by
    ext i hi
    simp only [BitVec.getElem_and, BitVec.getElem_or, BitVec.getElem_not]
    cases (15#64)[i] <;> simp
  unfold syncIdx
  split
  · simp only
    split
    · simp only [uncounted, h]
    · rfl
  · rfl

@[simp] theorem Strand.uncounted_rotbase (t : Strand) :
    ({ t with rotbase := advanceRot t.rotbase } : Strand).uncounted = t.uncounted := by
  simp only [uncounted, advanceRot_high]

@[simp] theorem Strand.uncounted_advance (t : Strand) (k : Ctr) (pc : BitVec 22) (r : Bool) :
    (t.advance k pc r).uncounted = t.uncounted := by
  unfold advance
  cases k
  · simp
  · dsimp only
    split
    · rw [uncounted_syncIdx, uncounted_rotbase, uncounted_setPc, uncounted_setLoops]
    · simp

@[simp] theorem Strand.uncounted_goto (t : Strand) (k : Ctr) (pc : BitVec 22) (n : Int) :
    (t.goto k pc n).uncounted = t.uncounted := by
  unfold goto
  cases k
  · dsimp only
    split
    · simp
    · rfl
  · dsimp only
    split
    · simp
    · exact (Strand.uncounted_syncIdx _).trans rfl

theorem Strand.goto_pc (t : Strand) (k : Ctr) (a : BitVec 22) (n : Int) (h : 0 ≤ n) (h' : n < 2 ^ 22) :
    (t.goto k a n).pc k = BitVec.ofInt 22 n := by
  have e (u : Strand) : u.syncIdx.pcX = u.pcX := by
    unfold syncIdx
    split
    · simp only
      split <;> rfl
    · rfl
  unfold goto
  rw [if_pos (by simp only [Bool.and_eq_true, decide_eq_true_eq]; exact ⟨h, h'⟩)]
  cases k
  · rfl
  · exact e _

/-! ## Issuing -/

theorem State.issued_eq (s : State) (n : Nat) (pc : BitVec 22) :
    ∃ m : Strand, m.uncounted = s.me.uncounted ∧ s.issued n pc = (s.setMe m).res .issued :=
  ⟨_, by simp, rfl⟩

theorem State.jumped_eq (s : State) (n : Nat) (pc : BitVec 22) (target : Int) :
    ∃ m : Strand, m.uncounted = s.me.uncounted ∧ s.jumped n pc target = (s.setMe m).res .issued := by
  unfold jumped
  split
  · exact s.issued_eq n pc
  · exact ⟨_, by simp, rfl⟩

/-- A word whose effect is `w` issues with that effect. -/
theorem issueWord_done {i : Instr} {e : BitVec 1} {body : State → Act} {s w : State} (hb : body s = .done w)
    (he : Issues s e) :
    issueWord i e body s = .next (if s.cur.phase = .single then w.issued 1 s.cur.pc else w.res .issued) := by
  unfold issueWord
  split
  · rw [if_neg (by rw [he ‹_›]; decide), hb, if_pos ‹_›]
  · rw [hb, if_neg ‹_›]

/-- A word whose effect is `w` and that names its next word issues with that effect and goes there. -/
theorem issueWord_jump {i : Instr} {e : BitVec 1} {body : State → Act} {s w : State} {target : Int}
    (hb : body s = .jump w target) (he : Issues s e) :
    issueWord i e body s = .next (if s.cur.phase = .single then w.jumped 1 s.cur.pc target else w.res (.jump target)) := by
  unfold issueWord
  split
  · rw [if_neg (by rw [he ‹_›]; decide), hb, if_pos ‹_›]
  · rw [hb, if_neg ‹_›]

/-- A word that must wait answers a state in which nothing but the note of it differs. -/
theorem issueWord_wait {i : Instr} {e : BitVec 1} {body : State → Act} {s : State} (hb : body s = .wait) (he : Issues s e) :
    issueWord i e body s = .next (s.res .waiting) := by
  unfold issueWord
  split
  · rw [if_neg (by rw [he ‹_›]; decide), hb]
  · rw [hb]

/-- A word that raises a cause: alone in its group it takes the exception; in a group of two it is noted, and the pair's
turn takes it with neither word's effect. -/
theorem issueWord_trap {i : Instr} {e : BitVec 1} {body : State → Act} {s : State} {c : Nat} {d : BitVec 16}
    (hb : body s = .trap c d) (he : Issues s e) :
    issueWord i e body s = .next (if s.cur.phase = .single then s.deliver s.cur.pc c d else s.res (.trapped s.cur.pc c d)) := by
  unfold issueWord
  split
  · rw [if_neg (by rw [he ‹_›]; decide), hb, if_pos ‹_›]
  · rw [hb, if_neg ‹_›]

/-- A word with E = 0 that begins a group is gathered (R33). -/
theorem issueWord_gather {i : Instr} {body : State → Act} {s : State} (h : s.cur.phase = .single) :
    issueWord i 0#1 body s = .next (s.gather i) := by
  simp [issueWord, h]

end Sys2Proof.Machine
end

