-- ==== Sys2Proof/Laws/PerInstr.lean ====
section
/-! SUPPORT. Sys2Proof/Laws/PerInstr.lean: the word of every instruction is read back by the map its H, G and major
select. One lemma per constructor; the obligations about whole decoding cite them. -/

set_option Elab.async false
set_option linter.unusedSimpArgs false
set_option linter.unusedVariables false

namespace Sys2Proof

/-- Bits of the upper part of an append. -/
theorem Bits.up {v w s l : Nat} {x : BitVec v} {y : BitVec w} {z : BitVec l} (r : x.extractLsb' (s - w) l = z)
    (h : w ≤ s := by decide) : (x ++ y).extractLsb' s l = z := (BitVec.extractLsb'_append_eq_of_le h).trans r

/-- Bits of the lower part of an append. -/
theorem Bits.low {v w s l : Nat} {x : BitVec v} {y : BitVec w} {z : BitVec l} (r : y.extractLsb' s l = z)
    (h : s + l ≤ w := by decide) : (x ++ y).extractLsb' s l = z := (BitVec.extractLsb'_append_eq_of_add_le h).trans r

/-- A field differs from a value when a part of it does. -/
theorem Bits.ne_of_part {n t m : Nat} {w : BitVec n} {s l : Nat} {v : BitVec m} {z : BitVec l}
    (h : w.extractLsb' (t + s) l = z) (k : s + l ≤ m) (d : v.extractLsb' s l ≠ z) : w.extractLsb' t m ≠ v := by
  rintro rfl
  refine d (Eq.trans ?_ h)
  ext i hi
  simp only [BitVec.getElem_extractLsb', BitVec.getLsbD_extractLsb', Nat.add_assoc]
  simp [show s + i < m by omega]

/-- A word laid in four bytes, lowest first, is read back (R1). -/
theorem wordOfBytes_bytesOfWord (w : BitVec 32) :
    wordOfBytes (w.extractLsb' 0 8) (w.extractLsb' 8 8) (w.extractLsb' 16 8) (w.extractLsb' 24 8) = w := by
  unfold wordOfBytes
  apply BitVec.eq_of_getLsbD_eq
  intro i hi
  simp only [BitVec.getLsbD_append, BitVec.getLsbD_extractLsb']
  split
  · simp [*]
  split
  · rw [show 8 + (i - 8) = i by omega]; simp; intro; omega
  split
  · rw [show 16 + (i - 8 - 8) = i by omega]; simp; intro; omega
  · rw [show 24 + (i - 8 - 8 - 8) = i by omega]; simp; intro; omega

/-! The layouts of R59 to R82 and R265: what each field of a word holds. -/

theorem Bits.layout0 (p0 : BitVec 7) (p1 : BitVec 5) (p2 : BitVec 3) (p3 : BitVec 2) (p4 : BitVec 14) (p5 : BitVec 1)
    (w : BitVec 32) (h : w = p0 ++ p1 ++ p2 ++ p3 ++ p4 ++ p5) :
    w.extractLsb' 0 1 = p5 ∧
    w.extractLsb' 1 2 = p4.extractLsb' 0 2 ∧
    w.extractLsb' 3 12 = p4.extractLsb' 2 12 ∧
    w.extractLsb' 15 2 = p3 ∧
    w.extractLsb' 17 3 = p2 ∧
    w.extractLsb' 20 5 = p1 ∧
    w.extractLsb' 25 6 = p0.extractLsb' 0 6 ∧
    w.extractLsb' 31 1 = p0.extractLsb' 6 1 := by
  subst h
  exact ⟨Bits.low BitVec.extractLsb'_eq_self,
    Bits.up (Bits.low rfl),
    Bits.up (Bits.low rfl),
    Bits.up (Bits.up (Bits.low BitVec.extractLsb'_eq_self)),
    Bits.up (Bits.up (Bits.up (Bits.low BitVec.extractLsb'_eq_self))),
    Bits.up (Bits.up (Bits.up (Bits.up (Bits.low BitVec.extractLsb'_eq_self)))),
    Bits.up (Bits.up (Bits.up (Bits.up (Bits.up rfl)))),
    Bits.up (Bits.up (Bits.up (Bits.up (Bits.up rfl))))⟩

theorem Bits.layout1 (p0 : BitVec 7) (p1 : BitVec 5) (p2 : BitVec 5) (p3 : BitVec 2) (p4 : BitVec 3) (p5 : BitVec 1) (p6 : BitVec 1) (p7 : BitVec 2) (p8 : BitVec 3) (p9 : BitVec 2) (p10 : BitVec 1)
    (w : BitVec 32) (h : w = p0 ++ p1 ++ p2 ++ p3 ++ p4 ++ p5 ++ p6 ++ p7 ++ p8 ++ p9 ++ p10) :
    w.extractLsb' 0 1 = p10 ∧
    w.extractLsb' 1 2 = p9 ∧
    w.extractLsb' 3 3 = p8 ∧
    w.extractLsb' 6 2 = p7 ∧
    w.extractLsb' 8 1 = p6 ∧
    w.extractLsb' 9 1 = p5 ∧
    w.extractLsb' 10 3 = p4 ∧
    w.extractLsb' 13 2 = p3 ∧
    w.extractLsb' 15 5 = p2 ∧
    w.extractLsb' 20 5 = p1 ∧
    w.extractLsb' 25 6 = p0.extractLsb' 0 6 ∧
    w.extractLsb' 31 1 = p0.extractLsb' 6 1 := by
  subst h
  exact ⟨Bits.low BitVec.extractLsb'_eq_self,
    Bits.up (Bits.low BitVec.extractLsb'_eq_self),
    Bits.up (Bits.up (Bits.low BitVec.extractLsb'_eq_self)),
    Bits.up (Bits.up (Bits.up (Bits.low BitVec.extractLsb'_eq_self))),
    Bits.up (Bits.up (Bits.up (Bits.up (Bits.low BitVec.extractLsb'_eq_self)))),
    Bits.up (Bits.up (Bits.up (Bits.up (Bits.up (Bits.low BitVec.extractLsb'_eq_self))))),
    Bits.up (Bits.up (Bits.up (Bits.up (Bits.up (Bits.up (Bits.low BitVec.extractLsb'_eq_self)))))),
    Bits.up (Bits.up (Bits.up (Bits.up (Bits.up (Bits.up (Bits.up (Bits.low BitVec.extractLsb'_eq_self))))))),
    Bits.up (Bits.up (Bits.up (Bits.up (Bits.up (Bits.up (Bits.up (Bits.up (Bits.low BitVec.extractLsb'_eq_self)))))))),
    Bits.up (Bits.up (Bits.up (Bits.up (Bits.up (Bits.up (Bits.up (Bits.up (Bits.up (Bits.low BitVec.extractLsb'_eq_self))))))))),
    Bits.up (Bits.up (Bits.up (Bits.up (Bits.up (Bits.up (Bits.up (Bits.up (Bits.up (Bits.up rfl))))))))),
    Bits.up (Bits.up (Bits.up (Bits.up (Bits.up (Bits.up (Bits.up (Bits.up (Bits.up (Bits.up rfl)))))))))⟩

theorem Bits.layout2 (p0 : BitVec 7) (p1 : BitVec 5) (p2 : BitVec 5) (p3 : BitVec 3) (p4 : BitVec 5) (p5 : BitVec 7)
    (w : BitVec 32) (h : w = p0 ++ p1 ++ p2 ++ p3 ++ p4 ++ p5) :
    w.extractLsb' 0 7 = p5 ∧
    w.extractLsb' 1 2 = p5.extractLsb' 1 2 ∧
    w.extractLsb' 3 1 = p5.extractLsb' 3 1 ∧
    w.extractLsb' 7 5 = p4 ∧
    w.extractLsb' 12 3 = p3 ∧
    w.extractLsb' 15 5 = p2 ∧
    w.extractLsb' 20 5 = p1 ∧
    w.extractLsb' 25 6 = p0.extractLsb' 0 6 ∧
    w.extractLsb' 25 7 = p0 ∧
    w.extractLsb' 31 1 = p0.extractLsb' 6 1 := by
  subst h
  exact ⟨Bits.low BitVec.extractLsb'_eq_self,
    Bits.low rfl,
    Bits.low rfl,
    Bits.up (Bits.low BitVec.extractLsb'_eq_self),
    Bits.up (Bits.up (Bits.low BitVec.extractLsb'_eq_self)),
    Bits.up (Bits.up (Bits.up (Bits.low BitVec.extractLsb'_eq_self))),
    Bits.up (Bits.up (Bits.up (Bits.up (Bits.low BitVec.extractLsb'_eq_self)))),
    Bits.up (Bits.up (Bits.up (Bits.up (Bits.up rfl)))),
    Bits.up (Bits.up (Bits.up (Bits.up (Bits.up BitVec.extractLsb'_eq_self)))),
    Bits.up (Bits.up (Bits.up (Bits.up (Bits.up rfl))))⟩

theorem Bits.layout3 (p0 : BitVec 7) (p1 : BitVec 5) (p2 : BitVec 5) (p3 : BitVec 5) (p4 : BitVec 1) (p5 : BitVec 1) (p6 : BitVec 1) (p7 : BitVec 2) (p8 : BitVec 2) (p9 : BitVec 2) (p10 : BitVec 1)
    (w : BitVec 32) (h : w = p0 ++ p1 ++ p2 ++ p3 ++ p4 ++ p5 ++ p6 ++ p7 ++ p8 ++ p9 ++ p10) :
    w.extractLsb' 0 1 = p10 ∧
    w.extractLsb' 1 2 = p9 ∧
    w.extractLsb' 3 2 = p8 ∧
    w.extractLsb' 5 2 = p7 ∧
    w.extractLsb' 7 1 = p6 ∧
    w.extractLsb' 8 1 = p5 ∧
    w.extractLsb' 9 1 = p4 ∧
    w.extractLsb' 10 5 = p3 ∧
    w.extractLsb' 15 5 = p2 ∧
    w.extractLsb' 20 5 = p1 ∧
    w.extractLsb' 25 6 = p0.extractLsb' 0 6 ∧
    w.extractLsb' 31 1 = p0.extractLsb' 6 1 := by
  subst h
  exact ⟨Bits.low BitVec.extractLsb'_eq_self,
    Bits.up (Bits.low BitVec.extractLsb'_eq_self),
    Bits.up (Bits.up (Bits.low BitVec.extractLsb'_eq_self)),
    Bits.up (Bits.up (Bits.up (Bits.low BitVec.extractLsb'_eq_self))),
    Bits.up (Bits.up (Bits.up (Bits.up (Bits.low BitVec.extractLsb'_eq_self)))),
    Bits.up (Bits.up (Bits.up (Bits.up (Bits.up (Bits.low BitVec.extractLsb'_eq_self))))),
    Bits.up (Bits.up (Bits.up (Bits.up (Bits.up (Bits.up (Bits.low BitVec.extractLsb'_eq_self)))))),
    Bits.up (Bits.up (Bits.up (Bits.up (Bits.up (Bits.up (Bits.up (Bits.low BitVec.extractLsb'_eq_self))))))),
    Bits.up (Bits.up (Bits.up (Bits.up (Bits.up (Bits.up (Bits.up (Bits.up (Bits.low BitVec.extractLsb'_eq_self)))))))),
    Bits.up (Bits.up (Bits.up (Bits.up (Bits.up (Bits.up (Bits.up (Bits.up (Bits.up (Bits.low BitVec.extractLsb'_eq_self))))))))),
    Bits.up (Bits.up (Bits.up (Bits.up (Bits.up (Bits.up (Bits.up (Bits.up (Bits.up (Bits.up rfl))))))))),
    Bits.up (Bits.up (Bits.up (Bits.up (Bits.up (Bits.up (Bits.up (Bits.up (Bits.up (Bits.up rfl)))))))))⟩

theorem Bits.layout4 (p0 : BitVec 7) (p1 : BitVec 5) (p2 : BitVec 5) (p3 : BitVec 5) (p4 : BitVec 1) (p5 : BitVec 2) (p6 : BitVec 2) (p7 : BitVec 2) (p8 : BitVec 2) (p9 : BitVec 1)
    (w : BitVec 32) (h : w = p0 ++ p1 ++ p2 ++ p3 ++ p4 ++ p5 ++ p6 ++ p7 ++ p8 ++ p9) :
    w.extractLsb' 0 1 = p9 ∧
    w.extractLsb' 1 2 = p8 ∧
    w.extractLsb' 3 2 = p7 ∧
    w.extractLsb' 5 2 = p6 ∧
    w.extractLsb' 7 2 = p5 ∧
    w.extractLsb' 9 1 = p4 ∧
    w.extractLsb' 10 5 = p3 ∧
    w.extractLsb' 15 5 = p2 ∧
    w.extractLsb' 20 5 = p1 ∧
    w.extractLsb' 25 6 = p0.extractLsb' 0 6 ∧
    w.extractLsb' 31 1 = p0.extractLsb' 6 1 := by
  subst h
  exact ⟨Bits.low BitVec.extractLsb'_eq_self,
    Bits.up (Bits.low BitVec.extractLsb'_eq_self),
    Bits.up (Bits.up (Bits.low BitVec.extractLsb'_eq_self)),
    Bits.up (Bits.up (Bits.up (Bits.low BitVec.extractLsb'_eq_self))),
    Bits.up (Bits.up (Bits.up (Bits.up (Bits.low BitVec.extractLsb'_eq_self)))),
    Bits.up (Bits.up (Bits.up (Bits.up (Bits.up (Bits.low BitVec.extractLsb'_eq_self))))),
    Bits.up (Bits.up (Bits.up (Bits.up (Bits.up (Bits.up (Bits.low BitVec.extractLsb'_eq_self)))))),
    Bits.up (Bits.up (Bits.up (Bits.up (Bits.up (Bits.up (Bits.up (Bits.low BitVec.extractLsb'_eq_self))))))),
    Bits.up (Bits.up (Bits.up (Bits.up (Bits.up (Bits.up (Bits.up (Bits.up (Bits.low BitVec.extractLsb'_eq_self)))))))),
    Bits.up (Bits.up (Bits.up (Bits.up (Bits.up (Bits.up (Bits.up (Bits.up (Bits.up rfl)))))))),
    Bits.up (Bits.up (Bits.up (Bits.up (Bits.up (Bits.up (Bits.up (Bits.up (Bits.up rfl))))))))⟩

theorem Bits.layout5 (p0 : BitVec 7) (p1 : BitVec 5) (p2 : BitVec 5) (p3 : BitVec 5) (p4 : BitVec 1) (p5 : BitVec 6) (p6 : BitVec 2) (p7 : BitVec 1)
    (w : BitVec 32) (h : w = p0 ++ p1 ++ p2 ++ p3 ++ p4 ++ p5 ++ p6 ++ p7) :
    w.extractLsb' 0 1 = p7 ∧
    w.extractLsb' 1 2 = p6 ∧
    w.extractLsb' 3 6 = p5 ∧
    w.extractLsb' 9 1 = p4 ∧
    w.extractLsb' 10 5 = p3 ∧
    w.extractLsb' 15 5 = p2 ∧
    w.extractLsb' 20 5 = p1 ∧
    w.extractLsb' 25 6 = p0.extractLsb' 0 6 ∧
    w.extractLsb' 31 1 = p0.extractLsb' 6 1 := by
  subst h
  exact ⟨Bits.low BitVec.extractLsb'_eq_self,
    Bits.up (Bits.low BitVec.extractLsb'_eq_self),
    Bits.up (Bits.up (Bits.low BitVec.extractLsb'_eq_self)),
    Bits.up (Bits.up (Bits.up (Bits.low BitVec.extractLsb'_eq_self))),
    Bits.up (Bits.up (Bits.up (Bits.up (Bits.low BitVec.extractLsb'_eq_self)))),
    Bits.up (Bits.up (Bits.up (Bits.up (Bits.up (Bits.low BitVec.extractLsb'_eq_self))))),
    Bits.up (Bits.up (Bits.up (Bits.up (Bits.up (Bits.up (Bits.low BitVec.extractLsb'_eq_self)))))),
    Bits.up (Bits.up (Bits.up (Bits.up (Bits.up (Bits.up (Bits.up rfl)))))),
    Bits.up (Bits.up (Bits.up (Bits.up (Bits.up (Bits.up (Bits.up rfl))))))⟩

theorem Bits.layout6 (p0 : BitVec 7) (p1 : BitVec 5) (p2 : BitVec 5) (p3 : BitVec 5) (p4 : BitVec 2) (p5 : BitVec 1) (p6 : BitVec 1) (p7 : BitVec 3) (p8 : BitVec 2) (p9 : BitVec 1)
    (w : BitVec 32) (h : w = p0 ++ p1 ++ p2 ++ p3 ++ p4 ++ p5 ++ p6 ++ p7 ++ p8 ++ p9) :
    w.extractLsb' 0 1 = p9 ∧
    w.extractLsb' 1 2 = p8 ∧
    w.extractLsb' 3 3 = p7 ∧
    w.extractLsb' 6 1 = p6 ∧
    w.extractLsb' 7 1 = p5 ∧
    w.extractLsb' 8 2 = p4 ∧
    w.extractLsb' 10 5 = p3 ∧
    w.extractLsb' 15 5 = p2 ∧
    w.extractLsb' 20 5 = p1 ∧
    w.extractLsb' 25 6 = p0.extractLsb' 0 6 ∧
    w.extractLsb' 31 1 = p0.extractLsb' 6 1 := by
  subst h
  exact ⟨Bits.low BitVec.extractLsb'_eq_self,
    Bits.up (Bits.low BitVec.extractLsb'_eq_self),
    Bits.up (Bits.up (Bits.low BitVec.extractLsb'_eq_self)),
    Bits.up (Bits.up (Bits.up (Bits.low BitVec.extractLsb'_eq_self))),
    Bits.up (Bits.up (Bits.up (Bits.up (Bits.low BitVec.extractLsb'_eq_self)))),
    Bits.up (Bits.up (Bits.up (Bits.up (Bits.up (Bits.low BitVec.extractLsb'_eq_self))))),
    Bits.up (Bits.up (Bits.up (Bits.up (Bits.up (Bits.up (Bits.low BitVec.extractLsb'_eq_self)))))),
    Bits.up (Bits.up (Bits.up (Bits.up (Bits.up (Bits.up (Bits.up (Bits.low BitVec.extractLsb'_eq_self))))))),
    Bits.up (Bits.up (Bits.up (Bits.up (Bits.up (Bits.up (Bits.up (Bits.up (Bits.low BitVec.extractLsb'_eq_self)))))))),
    Bits.up (Bits.up (Bits.up (Bits.up (Bits.up (Bits.up (Bits.up (Bits.up (Bits.up rfl)))))))),
    Bits.up (Bits.up (Bits.up (Bits.up (Bits.up (Bits.up (Bits.up (Bits.up (Bits.up rfl))))))))⟩

theorem Bits.layout7 (p0 : BitVec 7) (p1 : BitVec 5) (p2 : BitVec 5) (p3 : BitVec 5) (p4 : BitVec 2) (p5 : BitVec 5) (p6 : BitVec 2) (p7 : BitVec 1)
    (w : BitVec 32) (h : w = p0 ++ p1 ++ p2 ++ p3 ++ p4 ++ p5 ++ p6 ++ p7) :
    w.extractLsb' 0 1 = p7 ∧
    w.extractLsb' 1 2 = p6 ∧
    w.extractLsb' 3 5 = p5 ∧
    w.extractLsb' 8 2 = p4 ∧
    w.extractLsb' 10 5 = p3 ∧
    w.extractLsb' 15 5 = p2 ∧
    w.extractLsb' 20 5 = p1 ∧
    w.extractLsb' 25 6 = p0.extractLsb' 0 6 ∧
    w.extractLsb' 31 1 = p0.extractLsb' 6 1 := by
  subst h
  exact ⟨Bits.low BitVec.extractLsb'_eq_self,
    Bits.up (Bits.low BitVec.extractLsb'_eq_self),
    Bits.up (Bits.up (Bits.low BitVec.extractLsb'_eq_self)),
    Bits.up (Bits.up (Bits.up (Bits.low BitVec.extractLsb'_eq_self))),
    Bits.up (Bits.up (Bits.up (Bits.up (Bits.low BitVec.extractLsb'_eq_self)))),
    Bits.up (Bits.up (Bits.up (Bits.up (Bits.up (Bits.low BitVec.extractLsb'_eq_self))))),
    Bits.up (Bits.up (Bits.up (Bits.up (Bits.up (Bits.up (Bits.low BitVec.extractLsb'_eq_self)))))),
    Bits.up (Bits.up (Bits.up (Bits.up (Bits.up (Bits.up (Bits.up rfl)))))),
    Bits.up (Bits.up (Bits.up (Bits.up (Bits.up (Bits.up (Bits.up rfl))))))⟩

theorem Bits.layout8 (p0 : BitVec 7) (p1 : BitVec 5) (p2 : BitVec 5) (p3 : BitVec 5) (p4 : BitVec 3) (p5 : BitVec 2) (p6 : BitVec 2) (p7 : BitVec 2) (p8 : BitVec 1)
    (w : BitVec 32) (h : w = p0 ++ p1 ++ p2 ++ p3 ++ p4 ++ p5 ++ p6 ++ p7 ++ p8) :
    w.extractLsb' 0 1 = p8 ∧
    w.extractLsb' 1 2 = p7 ∧
    w.extractLsb' 3 2 = p6 ∧
    w.extractLsb' 5 2 = p5 ∧
    w.extractLsb' 7 3 = p4 ∧
    w.extractLsb' 10 5 = p3 ∧
    w.extractLsb' 15 5 = p2 ∧
    w.extractLsb' 20 5 = p1 ∧
    w.extractLsb' 25 6 = p0.extractLsb' 0 6 ∧
    w.extractLsb' 31 1 = p0.extractLsb' 6 1 := by
  subst h
  exact ⟨Bits.low BitVec.extractLsb'_eq_self,
    Bits.up (Bits.low BitVec.extractLsb'_eq_self),
    Bits.up (Bits.up (Bits.low BitVec.extractLsb'_eq_self)),
    Bits.up (Bits.up (Bits.up (Bits.low BitVec.extractLsb'_eq_self))),
    Bits.up (Bits.up (Bits.up (Bits.up (Bits.low BitVec.extractLsb'_eq_self)))),
    Bits.up (Bits.up (Bits.up (Bits.up (Bits.up (Bits.low BitVec.extractLsb'_eq_self))))),
    Bits.up (Bits.up (Bits.up (Bits.up (Bits.up (Bits.up (Bits.low BitVec.extractLsb'_eq_self)))))),
    Bits.up (Bits.up (Bits.up (Bits.up (Bits.up (Bits.up (Bits.up (Bits.low BitVec.extractLsb'_eq_self))))))),
    Bits.up (Bits.up (Bits.up (Bits.up (Bits.up (Bits.up (Bits.up (Bits.up rfl))))))),
    Bits.up (Bits.up (Bits.up (Bits.up (Bits.up (Bits.up (Bits.up (Bits.up rfl)))))))⟩

theorem Bits.layout9 (p0 : BitVec 7) (p1 : BitVec 5) (p2 : BitVec 5) (p3 : BitVec 5) (p4 : BitVec 3) (p5 : BitVec 4) (p6 : BitVec 2) (p7 : BitVec 1)
    (w : BitVec 32) (h : w = p0 ++ p1 ++ p2 ++ p3 ++ p4 ++ p5 ++ p6 ++ p7) :
    w.extractLsb' 0 1 = p7 ∧
    w.extractLsb' 1 2 = p6 ∧
    w.extractLsb' 3 4 = p5 ∧
    w.extractLsb' 7 3 = p4 ∧
    w.extractLsb' 10 5 = p3 ∧
    w.extractLsb' 15 5 = p2 ∧
    w.extractLsb' 20 5 = p1 ∧
    w.extractLsb' 25 6 = p0.extractLsb' 0 6 ∧
    w.extractLsb' 31 1 = p0.extractLsb' 6 1 := by
  subst h
  exact ⟨Bits.low BitVec.extractLsb'_eq_self,
    Bits.up (Bits.low BitVec.extractLsb'_eq_self),
    Bits.up (Bits.up (Bits.low BitVec.extractLsb'_eq_self)),
    Bits.up (Bits.up (Bits.up (Bits.low BitVec.extractLsb'_eq_self))),
    Bits.up (Bits.up (Bits.up (Bits.up (Bits.low BitVec.extractLsb'_eq_self)))),
    Bits.up (Bits.up (Bits.up (Bits.up (Bits.up (Bits.low BitVec.extractLsb'_eq_self))))),
    Bits.up (Bits.up (Bits.up (Bits.up (Bits.up (Bits.up (Bits.low BitVec.extractLsb'_eq_self)))))),
    Bits.up (Bits.up (Bits.up (Bits.up (Bits.up (Bits.up (Bits.up rfl)))))),
    Bits.up (Bits.up (Bits.up (Bits.up (Bits.up (Bits.up (Bits.up rfl))))))⟩

theorem Bits.layout10 (p0 : BitVec 7) (p1 : BitVec 5) (p2 : BitVec 5) (p3 : BitVec 5) (p4 : BitVec 5) (p5 : BitVec 2) (p6 : BitVec 2) (p7 : BitVec 1)
    (w : BitVec 32) (h : w = p0 ++ p1 ++ p2 ++ p3 ++ p4 ++ p5 ++ p6 ++ p7) :
    w.extractLsb' 0 1 = p7 ∧
    w.extractLsb' 1 2 = p6 ∧
    w.extractLsb' 3 2 = p5 ∧
    w.extractLsb' 5 5 = p4 ∧
    w.extractLsb' 7 3 = p4.extractLsb' 2 3 ∧
    w.extractLsb' 10 5 = p3 ∧
    w.extractLsb' 15 5 = p2 ∧
    w.extractLsb' 20 5 = p1 ∧
    w.extractLsb' 25 6 = p0.extractLsb' 0 6 ∧
    w.extractLsb' 31 1 = p0.extractLsb' 6 1 := by
  subst h
  exact ⟨Bits.low BitVec.extractLsb'_eq_self,
    Bits.up (Bits.low BitVec.extractLsb'_eq_self),
    Bits.up (Bits.up (Bits.low BitVec.extractLsb'_eq_self)),
    Bits.up (Bits.up (Bits.up (Bits.low BitVec.extractLsb'_eq_self))),
    Bits.up (Bits.up (Bits.up (Bits.low rfl))),
    Bits.up (Bits.up (Bits.up (Bits.up (Bits.low BitVec.extractLsb'_eq_self)))),
    Bits.up (Bits.up (Bits.up (Bits.up (Bits.up (Bits.low BitVec.extractLsb'_eq_self))))),
    Bits.up (Bits.up (Bits.up (Bits.up (Bits.up (Bits.up (Bits.low BitVec.extractLsb'_eq_self)))))),
    Bits.up (Bits.up (Bits.up (Bits.up (Bits.up (Bits.up (Bits.up rfl)))))),
    Bits.up (Bits.up (Bits.up (Bits.up (Bits.up (Bits.up (Bits.up rfl))))))⟩

theorem Bits.layout11 (p0 : BitVec 7) (p1 : BitVec 5) (p2 : BitVec 5) (p3 : BitVec 5) (p4 : BitVec 6) (p5 : BitVec 1) (p6 : BitVec 2) (p7 : BitVec 1)
    (w : BitVec 32) (h : w = p0 ++ p1 ++ p2 ++ p3 ++ p4 ++ p5 ++ p6 ++ p7) :
    w.extractLsb' 0 1 = p7 ∧
    w.extractLsb' 1 2 = p6 ∧
    w.extractLsb' 3 1 = p5 ∧
    w.extractLsb' 4 6 = p4 ∧
    w.extractLsb' 10 5 = p3 ∧
    w.extractLsb' 15 5 = p2 ∧
    w.extractLsb' 20 5 = p1 ∧
    w.extractLsb' 25 6 = p0.extractLsb' 0 6 ∧
    w.extractLsb' 31 1 = p0.extractLsb' 6 1 := by
  subst h
  exact ⟨Bits.low BitVec.extractLsb'_eq_self,
    Bits.up (Bits.low BitVec.extractLsb'_eq_self),
    Bits.up (Bits.up (Bits.low BitVec.extractLsb'_eq_self)),
    Bits.up (Bits.up (Bits.up (Bits.low BitVec.extractLsb'_eq_self))),
    Bits.up (Bits.up (Bits.up (Bits.up (Bits.low BitVec.extractLsb'_eq_self)))),
    Bits.up (Bits.up (Bits.up (Bits.up (Bits.up (Bits.low BitVec.extractLsb'_eq_self))))),
    Bits.up (Bits.up (Bits.up (Bits.up (Bits.up (Bits.up (Bits.low BitVec.extractLsb'_eq_self)))))),
    Bits.up (Bits.up (Bits.up (Bits.up (Bits.up (Bits.up (Bits.up rfl)))))),
    Bits.up (Bits.up (Bits.up (Bits.up (Bits.up (Bits.up (Bits.up rfl))))))⟩

theorem Bits.layout12 (p0 : BitVec 7) (p1 : BitVec 5) (p2 : BitVec 5) (p3 : BitVec 5) (p4 : BitVec 7) (p5 : BitVec 2) (p6 : BitVec 1)
    (w : BitVec 32) (h : w = p0 ++ p1 ++ p2 ++ p3 ++ p4 ++ p5 ++ p6) :
    w.extractLsb' 0 1 = p6 ∧
    w.extractLsb' 1 2 = p5 ∧
    w.extractLsb' 3 7 = p4 ∧
    w.extractLsb' 10 5 = p3 ∧
    w.extractLsb' 15 5 = p2 ∧
    w.extractLsb' 20 5 = p1 ∧
    w.extractLsb' 25 6 = p0.extractLsb' 0 6 ∧
    w.extractLsb' 31 1 = p0.extractLsb' 6 1 := by
  subst h
  exact ⟨Bits.low BitVec.extractLsb'_eq_self,
    Bits.up (Bits.low BitVec.extractLsb'_eq_self),
    Bits.up (Bits.up (Bits.low BitVec.extractLsb'_eq_self)),
    Bits.up (Bits.up (Bits.up (Bits.low BitVec.extractLsb'_eq_self))),
    Bits.up (Bits.up (Bits.up (Bits.up (Bits.low BitVec.extractLsb'_eq_self)))),
    Bits.up (Bits.up (Bits.up (Bits.up (Bits.up (Bits.low BitVec.extractLsb'_eq_self))))),
    Bits.up (Bits.up (Bits.up (Bits.up (Bits.up (Bits.up rfl))))),
    Bits.up (Bits.up (Bits.up (Bits.up (Bits.up (Bits.up rfl)))))⟩

theorem Bits.layout13 (p0 : BitVec 7) (p1 : BitVec 5) (p2 : BitVec 5) (p3 : BitVec 5) (p4 : BitVec 9) (p5 : BitVec 1)
    (w : BitVec 32) (h : w = p0 ++ p1 ++ p2 ++ p3 ++ p4 ++ p5) :
    w.extractLsb' 0 1 = p5 ∧
    w.extractLsb' 1 2 = p4.extractLsb' 0 2 ∧
    w.extractLsb' 3 7 = p4.extractLsb' 2 7 ∧
    w.extractLsb' 10 5 = p3 ∧
    w.extractLsb' 15 5 = p2 ∧
    w.extractLsb' 20 5 = p1 ∧
    w.extractLsb' 25 6 = p0.extractLsb' 0 6 ∧
    w.extractLsb' 31 1 = p0.extractLsb' 6 1 := by
  subst h
  exact ⟨Bits.low BitVec.extractLsb'_eq_self,
    Bits.up (Bits.low rfl),
    Bits.up (Bits.low rfl),
    Bits.up (Bits.up (Bits.low BitVec.extractLsb'_eq_self)),
    Bits.up (Bits.up (Bits.up (Bits.low BitVec.extractLsb'_eq_self))),
    Bits.up (Bits.up (Bits.up (Bits.up (Bits.low BitVec.extractLsb'_eq_self)))),
    Bits.up (Bits.up (Bits.up (Bits.up (Bits.up rfl)))),
    Bits.up (Bits.up (Bits.up (Bits.up (Bits.up rfl))))⟩

theorem Bits.layout14 (p0 : BitVec 7) (p1 : BitVec 5) (p2 : BitVec 5) (p3 : BitVec 6) (p4 : BitVec 6) (p5 : BitVec 2) (p6 : BitVec 1)
    (w : BitVec 32) (h : w = p0 ++ p1 ++ p2 ++ p3 ++ p4 ++ p5 ++ p6) :
    w.extractLsb' 0 1 = p6 ∧
    w.extractLsb' 1 2 = p5 ∧
    w.extractLsb' 3 6 = p4 ∧
    w.extractLsb' 9 6 = p3 ∧
    w.extractLsb' 15 5 = p2 ∧
    w.extractLsb' 20 5 = p1 ∧
    w.extractLsb' 25 6 = p0.extractLsb' 0 6 ∧
    w.extractLsb' 31 1 = p0.extractLsb' 6 1 := by
  subst h
  exact ⟨Bits.low BitVec.extractLsb'_eq_self,
    Bits.up (Bits.low BitVec.extractLsb'_eq_self),
    Bits.up (Bits.up (Bits.low BitVec.extractLsb'_eq_self)),
    Bits.up (Bits.up (Bits.up (Bits.low BitVec.extractLsb'_eq_self))),
    Bits.up (Bits.up (Bits.up (Bits.up (Bits.low BitVec.extractLsb'_eq_self)))),
    Bits.up (Bits.up (Bits.up (Bits.up (Bits.up (Bits.low BitVec.extractLsb'_eq_self))))),
    Bits.up (Bits.up (Bits.up (Bits.up (Bits.up (Bits.up rfl))))),
    Bits.up (Bits.up (Bits.up (Bits.up (Bits.up (Bits.up rfl)))))⟩

theorem Bits.layout15 (p0 : BitVec 7) (p1 : BitVec 5) (p2 : BitVec 5) (p3 : BitVec 7) (p4 : BitVec 5) (p5 : BitVec 2) (p6 : BitVec 1)
    (w : BitVec 32) (h : w = p0 ++ p1 ++ p2 ++ p3 ++ p4 ++ p5 ++ p6) :
    w.extractLsb' 0 1 = p6 ∧
    w.extractLsb' 1 2 = p5 ∧
    w.extractLsb' 3 5 = p4 ∧
    w.extractLsb' 8 7 = p3 ∧
    w.extractLsb' 15 5 = p2 ∧
    w.extractLsb' 20 5 = p1 ∧
    w.extractLsb' 25 6 = p0.extractLsb' 0 6 ∧
    w.extractLsb' 31 1 = p0.extractLsb' 6 1 := by
  subst h
  exact ⟨Bits.low BitVec.extractLsb'_eq_self,
    Bits.up (Bits.low BitVec.extractLsb'_eq_self),
    Bits.up (Bits.up (Bits.low BitVec.extractLsb'_eq_self)),
    Bits.up (Bits.up (Bits.up (Bits.low BitVec.extractLsb'_eq_self))),
    Bits.up (Bits.up (Bits.up (Bits.up (Bits.low BitVec.extractLsb'_eq_self)))),
    Bits.up (Bits.up (Bits.up (Bits.up (Bits.up (Bits.low BitVec.extractLsb'_eq_self))))),
    Bits.up (Bits.up (Bits.up (Bits.up (Bits.up (Bits.up rfl))))),
    Bits.up (Bits.up (Bits.up (Bits.up (Bits.up (Bits.up rfl)))))⟩

theorem Bits.layout16 (p0 : BitVec 7) (p1 : BitVec 5) (p2 : BitVec 5) (p3 : BitVec 8) (p4 : BitVec 2) (p5 : BitVec 2) (p6 : BitVec 2) (p7 : BitVec 1)
    (w : BitVec 32) (h : w = p0 ++ p1 ++ p2 ++ p3 ++ p4 ++ p5 ++ p6 ++ p7) :
    w.extractLsb' 0 1 = p7 ∧
    w.extractLsb' 1 2 = p6 ∧
    w.extractLsb' 3 2 = p5 ∧
    w.extractLsb' 5 2 = p4 ∧
    w.extractLsb' 7 3 = p3.extractLsb' 0 3 ∧
    w.extractLsb' 7 8 = p3 ∧
    w.extractLsb' 15 5 = p2 ∧
    w.extractLsb' 20 5 = p1 ∧
    w.extractLsb' 25 6 = p0.extractLsb' 0 6 ∧
    w.extractLsb' 31 1 = p0.extractLsb' 6 1 := by
  subst h
  exact ⟨Bits.low BitVec.extractLsb'_eq_self,
    Bits.up (Bits.low BitVec.extractLsb'_eq_self),
    Bits.up (Bits.up (Bits.low BitVec.extractLsb'_eq_self)),
    Bits.up (Bits.up (Bits.up (Bits.low BitVec.extractLsb'_eq_self))),
    Bits.up (Bits.up (Bits.up (Bits.up (Bits.low rfl)))),
    Bits.up (Bits.up (Bits.up (Bits.up (Bits.low BitVec.extractLsb'_eq_self)))),
    Bits.up (Bits.up (Bits.up (Bits.up (Bits.up (Bits.low BitVec.extractLsb'_eq_self))))),
    Bits.up (Bits.up (Bits.up (Bits.up (Bits.up (Bits.up (Bits.low BitVec.extractLsb'_eq_self)))))),
    Bits.up (Bits.up (Bits.up (Bits.up (Bits.up (Bits.up (Bits.up rfl)))))),
    Bits.up (Bits.up (Bits.up (Bits.up (Bits.up (Bits.up (Bits.up rfl))))))⟩

theorem Bits.layout17 (p0 : BitVec 7) (p1 : BitVec 5) (p2 : BitVec 5) (p3 : BitVec 9) (p4 : BitVec 1) (p5 : BitVec 2) (p6 : BitVec 2) (p7 : BitVec 1)
    (w : BitVec 32) (h : w = p0 ++ p1 ++ p2 ++ p3 ++ p4 ++ p5 ++ p6 ++ p7) :
    w.extractLsb' 0 1 = p7 ∧
    w.extractLsb' 1 2 = p6 ∧
    w.extractLsb' 3 2 = p5 ∧
    w.extractLsb' 5 1 = p4 ∧
    w.extractLsb' 6 9 = p3 ∧
    w.extractLsb' 15 5 = p2 ∧
    w.extractLsb' 20 5 = p1 ∧
    w.extractLsb' 25 6 = p0.extractLsb' 0 6 ∧
    w.extractLsb' 31 1 = p0.extractLsb' 6 1 := by
  subst h
  exact ⟨Bits.low BitVec.extractLsb'_eq_self,
    Bits.up (Bits.low BitVec.extractLsb'_eq_self),
    Bits.up (Bits.up (Bits.low BitVec.extractLsb'_eq_self)),
    Bits.up (Bits.up (Bits.up (Bits.low BitVec.extractLsb'_eq_self))),
    Bits.up (Bits.up (Bits.up (Bits.up (Bits.low BitVec.extractLsb'_eq_self)))),
    Bits.up (Bits.up (Bits.up (Bits.up (Bits.up (Bits.low BitVec.extractLsb'_eq_self))))),
    Bits.up (Bits.up (Bits.up (Bits.up (Bits.up (Bits.up (Bits.low BitVec.extractLsb'_eq_self)))))),
    Bits.up (Bits.up (Bits.up (Bits.up (Bits.up (Bits.up (Bits.up rfl)))))),
    Bits.up (Bits.up (Bits.up (Bits.up (Bits.up (Bits.up (Bits.up rfl))))))⟩

theorem Bits.layout18 (p0 : BitVec 7) (p1 : BitVec 5) (p2 : BitVec 5) (p3 : BitVec 9) (p4 : BitVec 3) (p5 : BitVec 2) (p6 : BitVec 1)
    (w : BitVec 32) (h : w = p0 ++ p1 ++ p2 ++ p3 ++ p4 ++ p5 ++ p6) :
    w.extractLsb' 0 1 = p6 ∧
    w.extractLsb' 1 2 = p5 ∧
    w.extractLsb' 3 3 = p4 ∧
    w.extractLsb' 6 9 = p3 ∧
    w.extractLsb' 15 5 = p2 ∧
    w.extractLsb' 20 5 = p1 ∧
    w.extractLsb' 25 6 = p0.extractLsb' 0 6 ∧
    w.extractLsb' 31 1 = p0.extractLsb' 6 1 := by
  subst h
  exact ⟨Bits.low BitVec.extractLsb'_eq_self,
    Bits.up (Bits.low BitVec.extractLsb'_eq_self),
    Bits.up (Bits.up (Bits.low BitVec.extractLsb'_eq_self)),
    Bits.up (Bits.up (Bits.up (Bits.low BitVec.extractLsb'_eq_self))),
    Bits.up (Bits.up (Bits.up (Bits.up (Bits.low BitVec.extractLsb'_eq_self)))),
    Bits.up (Bits.up (Bits.up (Bits.up (Bits.up (Bits.low BitVec.extractLsb'_eq_self))))),
    Bits.up (Bits.up (Bits.up (Bits.up (Bits.up (Bits.up rfl))))),
    Bits.up (Bits.up (Bits.up (Bits.up (Bits.up (Bits.up rfl)))))⟩

theorem Bits.layout19 (p0 : BitVec 7) (p1 : BitVec 5) (p2 : BitVec 5) (p3 : BitVec 12) (p4 : BitVec 2) (p5 : BitVec 1)
    (w : BitVec 32) (h : w = p0 ++ p1 ++ p2 ++ p3 ++ p4 ++ p5) :
    w.extractLsb' 0 1 = p5 ∧
    w.extractLsb' 1 2 = p4 ∧
    w.extractLsb' 3 12 = p3 ∧
    w.extractLsb' 15 5 = p2 ∧
    w.extractLsb' 20 5 = p1 ∧
    w.extractLsb' 25 6 = p0.extractLsb' 0 6 ∧
    w.extractLsb' 31 1 = p0.extractLsb' 6 1 := by
  subst h
  exact ⟨Bits.low BitVec.extractLsb'_eq_self,
    Bits.up (Bits.low BitVec.extractLsb'_eq_self),
    Bits.up (Bits.up (Bits.low BitVec.extractLsb'_eq_self)),
    Bits.up (Bits.up (Bits.up (Bits.low BitVec.extractLsb'_eq_self))),
    Bits.up (Bits.up (Bits.up (Bits.up (Bits.low BitVec.extractLsb'_eq_self)))),
    Bits.up (Bits.up (Bits.up (Bits.up (Bits.up rfl)))),
    Bits.up (Bits.up (Bits.up (Bits.up (Bits.up rfl))))⟩

theorem Bits.layout20 (p0 : BitVec 7) (p1 : BitVec 5) (p2 : BitVec 5) (p3 : BitVec 14) (p4 : BitVec 1)
    (w : BitVec 32) (h : w = p0 ++ p1 ++ p2 ++ p3 ++ p4) :
    w.extractLsb' 0 1 = p4 ∧
    w.extractLsb' 1 2 = p3.extractLsb' 0 2 ∧
    w.extractLsb' 3 12 = p3.extractLsb' 2 12 ∧
    w.extractLsb' 15 5 = p2 ∧
    w.extractLsb' 20 5 = p1 ∧
    w.extractLsb' 25 6 = p0.extractLsb' 0 6 ∧
    w.extractLsb' 31 1 = p0.extractLsb' 6 1 := by
  subst h
  exact ⟨Bits.low BitVec.extractLsb'_eq_self,
    Bits.up (Bits.low rfl),
    Bits.up (Bits.low rfl),
    Bits.up (Bits.up (Bits.low BitVec.extractLsb'_eq_self)),
    Bits.up (Bits.up (Bits.up (Bits.low BitVec.extractLsb'_eq_self))),
    Bits.up (Bits.up (Bits.up (Bits.up rfl))),
    Bits.up (Bits.up (Bits.up (Bits.up rfl)))⟩

theorem Bits.layout21 (p0 : BitVec 7) (p1 : BitVec 5) (p2 : BitVec 17) (p3 : BitVec 2) (p4 : BitVec 1)
    (w : BitVec 32) (h : w = p0 ++ p1 ++ p2 ++ p3 ++ p4) :
    w.extractLsb' 0 1 = p4 ∧
    w.extractLsb' 1 2 = p3 ∧
    w.extractLsb' 3 17 = p2 ∧
    w.extractLsb' 20 5 = p1 ∧
    w.extractLsb' 25 6 = p0.extractLsb' 0 6 ∧
    w.extractLsb' 31 1 = p0.extractLsb' 6 1 := by
  subst h
  exact ⟨Bits.low BitVec.extractLsb'_eq_self,
    Bits.up (Bits.low BitVec.extractLsb'_eq_self),
    Bits.up (Bits.up (Bits.low BitVec.extractLsb'_eq_self)),
    Bits.up (Bits.up (Bits.up (Bits.low BitVec.extractLsb'_eq_self))),
    Bits.up (Bits.up (Bits.up (Bits.up rfl))),
    Bits.up (Bits.up (Bits.up (Bits.up rfl)))⟩

theorem Bits.layout22 (p0 : BitVec 7) (p1 : BitVec 22) (p2 : BitVec 2) (p3 : BitVec 1)
    (w : BitVec 32) (h : w = p0 ++ p1 ++ p2 ++ p3) :
    w.extractLsb' 0 1 = p3 ∧
    w.extractLsb' 1 2 = p2 ∧
    w.extractLsb' 3 22 = p1 ∧
    w.extractLsb' 25 6 = p0.extractLsb' 0 6 ∧
    w.extractLsb' 31 1 = p0.extractLsb' 6 1 := by
  subst h
  exact ⟨Bits.low BitVec.extractLsb'_eq_self,
    Bits.up (Bits.low BitVec.extractLsb'_eq_self),
    Bits.up (Bits.up (Bits.low BitVec.extractLsb'_eq_self)),
    Bits.up (Bits.up (Bits.up rfl)),
    Bits.up (Bits.up (Bits.up rfl))⟩

theorem Bits.layout23 (p0 : BitVec 10) (p1 : BitVec 2) (p2 : BitVec 5) (p3 : BitVec 1) (p4 : BitVec 4) (p5 : BitVec 2) (p6 : BitVec 4) (p7 : BitVec 3) (p8 : BitVec 1)
    (w : BitVec 32) (h : w = p0 ++ p1 ++ p2 ++ p3 ++ p4 ++ p5 ++ p6 ++ p7 ++ p8) :
    w.extractLsb' 0 1 = p8 ∧
    w.extractLsb' 1 2 = p7.extractLsb' 0 2 ∧
    w.extractLsb' 3 1 = p7.extractLsb' 2 1 ∧
    w.extractLsb' 4 4 = p6 ∧
    w.extractLsb' 8 2 = p5 ∧
    w.extractLsb' 10 4 = p4 ∧
    w.extractLsb' 14 1 = p3 ∧
    w.extractLsb' 15 5 = p2 ∧
    w.extractLsb' 20 2 = p1 ∧
    w.extractLsb' 22 3 = p0.extractLsb' 0 3 ∧
    w.extractLsb' 25 6 = p0.extractLsb' 3 6 ∧
    w.extractLsb' 31 1 = p0.extractLsb' 9 1 := by
  subst h
  exact ⟨Bits.low BitVec.extractLsb'_eq_self,
    Bits.up (Bits.low rfl),
    Bits.up (Bits.low rfl),
    Bits.up (Bits.up (Bits.low BitVec.extractLsb'_eq_self)),
    Bits.up (Bits.up (Bits.up (Bits.low BitVec.extractLsb'_eq_self))),
    Bits.up (Bits.up (Bits.up (Bits.up (Bits.low BitVec.extractLsb'_eq_self)))),
    Bits.up (Bits.up (Bits.up (Bits.up (Bits.up (Bits.low BitVec.extractLsb'_eq_self))))),
    Bits.up (Bits.up (Bits.up (Bits.up (Bits.up (Bits.up (Bits.low BitVec.extractLsb'_eq_self)))))),
    Bits.up (Bits.up (Bits.up (Bits.up (Bits.up (Bits.up (Bits.up (Bits.low BitVec.extractLsb'_eq_self))))))),
    Bits.up (Bits.up (Bits.up (Bits.up (Bits.up (Bits.up (Bits.up (Bits.up rfl))))))),
    Bits.up (Bits.up (Bits.up (Bits.up (Bits.up (Bits.up (Bits.up (Bits.up rfl))))))),
    Bits.up (Bits.up (Bits.up (Bits.up (Bits.up (Bits.up (Bits.up (Bits.up rfl)))))))⟩

theorem Bits.layout24 (p0 : BitVec 10) (p1 : BitVec 2) (p2 : BitVec 5) (p3 : BitVec 3) (p4 : BitVec 2) (p5 : BitVec 5) (p6 : BitVec 2) (p7 : BitVec 2) (p8 : BitVec 1)
    (w : BitVec 32) (h : w = p0 ++ p1 ++ p2 ++ p3 ++ p4 ++ p5 ++ p6 ++ p7 ++ p8) :
    w.extractLsb' 0 1 = p8 ∧
    w.extractLsb' 1 2 = p7 ∧
    w.extractLsb' 3 2 = p6 ∧
    w.extractLsb' 5 5 = p5 ∧
    w.extractLsb' 10 2 = p4 ∧
    w.extractLsb' 12 3 = p3 ∧
    w.extractLsb' 15 5 = p2 ∧
    w.extractLsb' 20 2 = p1 ∧
    w.extractLsb' 22 3 = p0.extractLsb' 0 3 ∧
    w.extractLsb' 25 6 = p0.extractLsb' 3 6 ∧
    w.extractLsb' 31 1 = p0.extractLsb' 9 1 := by
  subst h
  exact ⟨Bits.low BitVec.extractLsb'_eq_self,
    Bits.up (Bits.low BitVec.extractLsb'_eq_self),
    Bits.up (Bits.up (Bits.low BitVec.extractLsb'_eq_self)),
    Bits.up (Bits.up (Bits.up (Bits.low BitVec.extractLsb'_eq_self))),
    Bits.up (Bits.up (Bits.up (Bits.up (Bits.low BitVec.extractLsb'_eq_self)))),
    Bits.up (Bits.up (Bits.up (Bits.up (Bits.up (Bits.low BitVec.extractLsb'_eq_self))))),
    Bits.up (Bits.up (Bits.up (Bits.up (Bits.up (Bits.up (Bits.low BitVec.extractLsb'_eq_self)))))),
    Bits.up (Bits.up (Bits.up (Bits.up (Bits.up (Bits.up (Bits.up (Bits.low BitVec.extractLsb'_eq_self))))))),
    Bits.up (Bits.up (Bits.up (Bits.up (Bits.up (Bits.up (Bits.up (Bits.up rfl))))))),
    Bits.up (Bits.up (Bits.up (Bits.up (Bits.up (Bits.up (Bits.up (Bits.up rfl))))))),
    Bits.up (Bits.up (Bits.up (Bits.up (Bits.up (Bits.up (Bits.up (Bits.up rfl)))))))⟩

theorem Bits.layout25 (p0 : BitVec 10) (p1 : BitVec 2) (p2 : BitVec 5) (p3 : BitVec 7) (p4 : BitVec 5) (p5 : BitVec 2) (p6 : BitVec 1)
    (w : BitVec 32) (h : w = p0 ++ p1 ++ p2 ++ p3 ++ p4 ++ p5 ++ p6) :
    w.extractLsb' 0 1 = p6 ∧
    w.extractLsb' 1 2 = p5 ∧
    w.extractLsb' 3 5 = p4 ∧
    w.extractLsb' 8 7 = p3 ∧
    w.extractLsb' 15 5 = p2 ∧
    w.extractLsb' 20 2 = p1 ∧
    w.extractLsb' 22 3 = p0.extractLsb' 0 3 ∧
    w.extractLsb' 25 6 = p0.extractLsb' 3 6 ∧
    w.extractLsb' 31 1 = p0.extractLsb' 9 1 := by
  subst h
  exact ⟨Bits.low BitVec.extractLsb'_eq_self,
    Bits.up (Bits.low BitVec.extractLsb'_eq_self),
    Bits.up (Bits.up (Bits.low BitVec.extractLsb'_eq_self)),
    Bits.up (Bits.up (Bits.up (Bits.low BitVec.extractLsb'_eq_self))),
    Bits.up (Bits.up (Bits.up (Bits.up (Bits.low BitVec.extractLsb'_eq_self)))),
    Bits.up (Bits.up (Bits.up (Bits.up (Bits.up (Bits.low BitVec.extractLsb'_eq_self))))),
    Bits.up (Bits.up (Bits.up (Bits.up (Bits.up (Bits.up rfl))))),
    Bits.up (Bits.up (Bits.up (Bits.up (Bits.up (Bits.up rfl))))),
    Bits.up (Bits.up (Bits.up (Bits.up (Bits.up (Bits.up rfl)))))⟩

theorem Bits.layout26 (p0 : BitVec 10) (p1 : BitVec 2) (p2 : BitVec 5) (p3 : BitVec 12) (p4 : BitVec 2) (p5 : BitVec 1)
    (w : BitVec 32) (h : w = p0 ++ p1 ++ p2 ++ p3 ++ p4 ++ p5) :
    w.extractLsb' 0 1 = p5 ∧
    w.extractLsb' 1 2 = p4 ∧
    w.extractLsb' 3 12 = p3 ∧
    w.extractLsb' 15 5 = p2 ∧
    w.extractLsb' 20 2 = p1 ∧
    w.extractLsb' 22 3 = p0.extractLsb' 0 3 ∧
    w.extractLsb' 25 6 = p0.extractLsb' 3 6 ∧
    w.extractLsb' 31 1 = p0.extractLsb' 9 1 := by
  subst h
  exact ⟨Bits.low BitVec.extractLsb'_eq_self,
    Bits.up (Bits.low BitVec.extractLsb'_eq_self),
    Bits.up (Bits.up (Bits.low BitVec.extractLsb'_eq_self)),
    Bits.up (Bits.up (Bits.up (Bits.low BitVec.extractLsb'_eq_self))),
    Bits.up (Bits.up (Bits.up (Bits.up (Bits.low BitVec.extractLsb'_eq_self)))),
    Bits.up (Bits.up (Bits.up (Bits.up (Bits.up rfl)))),
    Bits.up (Bits.up (Bits.up (Bits.up (Bits.up rfl)))),
    Bits.up (Bits.up (Bits.up (Bits.up (Bits.up rfl))))⟩

theorem Bits.layout27 (p0 : BitVec 10) (p1 : BitVec 2) (p2 : BitVec 5) (p3 : BitVec 14) (p4 : BitVec 1)
    (w : BitVec 32) (h : w = p0 ++ p1 ++ p2 ++ p3 ++ p4) :
    w.extractLsb' 0 1 = p4 ∧
    w.extractLsb' 1 2 = p3.extractLsb' 0 2 ∧
    w.extractLsb' 3 12 = p3.extractLsb' 2 12 ∧
    w.extractLsb' 15 5 = p2 ∧
    w.extractLsb' 20 2 = p1 ∧
    w.extractLsb' 22 3 = p0.extractLsb' 0 3 ∧
    w.extractLsb' 25 6 = p0.extractLsb' 3 6 ∧
    w.extractLsb' 31 1 = p0.extractLsb' 9 1 := by
  subst h
  exact ⟨Bits.low BitVec.extractLsb'_eq_self,
    Bits.up (Bits.low rfl),
    Bits.up (Bits.low rfl),
    Bits.up (Bits.up (Bits.low BitVec.extractLsb'_eq_self)),
    Bits.up (Bits.up (Bits.up (Bits.low BitVec.extractLsb'_eq_self))),
    Bits.up (Bits.up (Bits.up (Bits.up rfl))),
    Bits.up (Bits.up (Bits.up (Bits.up rfl))),
    Bits.up (Bits.up (Bits.up (Bits.up rfl)))⟩

theorem Bits.layout28 (p0 : BitVec 10) (p1 : BitVec 2) (p2 : BitVec 17) (p3 : BitVec 2) (p4 : BitVec 1)
    (w : BitVec 32) (h : w = p0 ++ p1 ++ p2 ++ p3 ++ p4) :
    w.extractLsb' 0 1 = p4 ∧
    w.extractLsb' 1 2 = p3 ∧
    w.extractLsb' 3 17 = p2 ∧
    w.extractLsb' 20 2 = p1 ∧
    w.extractLsb' 22 3 = p0.extractLsb' 0 3 ∧
    w.extractLsb' 25 6 = p0.extractLsb' 3 6 ∧
    w.extractLsb' 31 1 = p0.extractLsb' 9 1 := by
  subst h
  exact ⟨Bits.low BitVec.extractLsb'_eq_self,
    Bits.up (Bits.low BitVec.extractLsb'_eq_self),
    Bits.up (Bits.up (Bits.low BitVec.extractLsb'_eq_self)),
    Bits.up (Bits.up (Bits.up (Bits.low BitVec.extractLsb'_eq_self))),
    Bits.up (Bits.up (Bits.up (Bits.up rfl))),
    Bits.up (Bits.up (Bits.up (Bits.up rfl))),
    Bits.up (Bits.up (Bits.up (Bits.up rfl)))⟩

theorem Bits.layout29 (p0 : BitVec 12) (p1 : BitVec 5) (p2 : BitVec 6) (p3 : BitVec 6) (p4 : BitVec 2) (p5 : BitVec 1)
    (w : BitVec 32) (h : w = p0 ++ p1 ++ p2 ++ p3 ++ p4 ++ p5) :
    w.extractLsb' 0 1 = p5 ∧
    w.extractLsb' 1 2 = p4 ∧
    w.extractLsb' 3 6 = p3 ∧
    w.extractLsb' 9 6 = p2 ∧
    w.extractLsb' 15 5 = p1 ∧
    w.extractLsb' 20 5 = p0.extractLsb' 0 5 ∧
    w.extractLsb' 25 6 = p0.extractLsb' 5 6 ∧
    w.extractLsb' 31 1 = p0.extractLsb' 11 1 := by
  subst h
  exact ⟨Bits.low BitVec.extractLsb'_eq_self,
    Bits.up (Bits.low BitVec.extractLsb'_eq_self),
    Bits.up (Bits.up (Bits.low BitVec.extractLsb'_eq_self)),
    Bits.up (Bits.up (Bits.up (Bits.low BitVec.extractLsb'_eq_self))),
    Bits.up (Bits.up (Bits.up (Bits.up (Bits.low BitVec.extractLsb'_eq_self)))),
    Bits.up (Bits.up (Bits.up (Bits.up (Bits.up rfl)))),
    Bits.up (Bits.up (Bits.up (Bits.up (Bits.up rfl)))),
    Bits.up (Bits.up (Bits.up (Bits.up (Bits.up rfl))))⟩

theorem Bits.layout30 (p0 : BitVec 12) (p1 : BitVec 5) (p2 : BitVec 8) (p3 : BitVec 4) (p4 : BitVec 2) (p5 : BitVec 1)
    (w : BitVec 32) (h : w = p0 ++ p1 ++ p2 ++ p3 ++ p4 ++ p5) :
    w.extractLsb' 0 1 = p5 ∧
    w.extractLsb' 1 2 = p4 ∧
    w.extractLsb' 3 4 = p3 ∧
    w.extractLsb' 7 8 = p2 ∧
    w.extractLsb' 15 5 = p1 ∧
    w.extractLsb' 20 5 = p0.extractLsb' 0 5 ∧
    w.extractLsb' 25 6 = p0.extractLsb' 5 6 ∧
    w.extractLsb' 31 1 = p0.extractLsb' 11 1 := by
  subst h
  exact ⟨Bits.low BitVec.extractLsb'_eq_self,
    Bits.up (Bits.low BitVec.extractLsb'_eq_self),
    Bits.up (Bits.up (Bits.low BitVec.extractLsb'_eq_self)),
    Bits.up (Bits.up (Bits.up (Bits.low BitVec.extractLsb'_eq_self))),
    Bits.up (Bits.up (Bits.up (Bits.up (Bits.low BitVec.extractLsb'_eq_self)))),
    Bits.up (Bits.up (Bits.up (Bits.up (Bits.up rfl)))),
    Bits.up (Bits.up (Bits.up (Bits.up (Bits.up rfl)))),
    Bits.up (Bits.up (Bits.up (Bits.up (Bits.up rfl))))⟩

theorem Bits.layout31 (p0 : BitVec 12) (p1 : BitVec 5) (p2 : BitVec 10) (p3 : BitVec 2) (p4 : BitVec 2) (p5 : BitVec 1)
    (w : BitVec 32) (h : w = p0 ++ p1 ++ p2 ++ p3 ++ p4 ++ p5) :
    w.extractLsb' 0 1 = p5 ∧
    w.extractLsb' 1 2 = p4 ∧
    w.extractLsb' 3 2 = p3 ∧
    w.extractLsb' 5 10 = p2 ∧
    w.extractLsb' 15 5 = p1 ∧
    w.extractLsb' 20 5 = p0.extractLsb' 0 5 ∧
    w.extractLsb' 25 6 = p0.extractLsb' 5 6 ∧
    w.extractLsb' 31 1 = p0.extractLsb' 11 1 := by
  subst h
  exact ⟨Bits.low BitVec.extractLsb'_eq_self,
    Bits.up (Bits.low BitVec.extractLsb'_eq_self),
    Bits.up (Bits.up (Bits.low BitVec.extractLsb'_eq_self)),
    Bits.up (Bits.up (Bits.up (Bits.low BitVec.extractLsb'_eq_self))),
    Bits.up (Bits.up (Bits.up (Bits.up (Bits.low BitVec.extractLsb'_eq_self)))),
    Bits.up (Bits.up (Bits.up (Bits.up (Bits.up rfl)))),
    Bits.up (Bits.up (Bits.up (Bits.up (Bits.up rfl)))),
    Bits.up (Bits.up (Bits.up (Bits.up (Bits.up rfl))))⟩

theorem Bits.layout32 (p0 : BitVec 12) (p1 : BitVec 5) (p2 : BitVec 12) (p3 : BitVec 2) (p4 : BitVec 1)
    (w : BitVec 32) (h : w = p0 ++ p1 ++ p2 ++ p3 ++ p4) :
    w.extractLsb' 0 1 = p4 ∧
    w.extractLsb' 1 2 = p3 ∧
    w.extractLsb' 3 12 = p2 ∧
    w.extractLsb' 15 5 = p1 ∧
    w.extractLsb' 20 5 = p0.extractLsb' 0 5 ∧
    w.extractLsb' 25 6 = p0.extractLsb' 5 6 ∧
    w.extractLsb' 31 1 = p0.extractLsb' 11 1 := by
  subst h
  exact ⟨Bits.low BitVec.extractLsb'_eq_self,
    Bits.up (Bits.low BitVec.extractLsb'_eq_self),
    Bits.up (Bits.up (Bits.low BitVec.extractLsb'_eq_self)),
    Bits.up (Bits.up (Bits.up (Bits.low BitVec.extractLsb'_eq_self))),
    Bits.up (Bits.up (Bits.up (Bits.up rfl))),
    Bits.up (Bits.up (Bits.up (Bits.up rfl))),
    Bits.up (Bits.up (Bits.up (Bits.up rfl)))⟩

theorem Bits.layout33 (p0 : BitVec 17) (p1 : BitVec 12) (p2 : BitVec 3)
    (w : BitVec 32) (h : w = p0 ++ p1 ++ p2) :
    w.extractLsb' 0 1 = p2.extractLsb' 0 1 ∧
    w.extractLsb' 1 2 = p2.extractLsb' 1 2 ∧
    w.extractLsb' 3 12 = p1 ∧
    w.extractLsb' 15 10 = p0.extractLsb' 0 10 ∧
    w.extractLsb' 25 6 = p0.extractLsb' 10 6 ∧
    w.extractLsb' 31 1 = p0.extractLsb' 16 1 := by
  subst h
  exact ⟨Bits.low rfl,
    Bits.low rfl,
    Bits.up (Bits.low BitVec.extractLsb'_eq_self),
    Bits.up (Bits.up rfl),
    Bits.up (Bits.up rfl),
    Bits.up (Bits.up rfl)⟩

theorem Bits.layout34 (p0 : BitVec 25) (p1 : BitVec 1) (p2 : BitVec 3) (p3 : BitVec 2) (p4 : BitVec 1)
    (w : BitVec 32) (h : w = p0 ++ p1 ++ p2 ++ p3 ++ p4) :
    w.extractLsb' 0 1 = p4 ∧
    w.extractLsb' 1 2 = p3 ∧
    w.extractLsb' 3 3 = p2 ∧
    w.extractLsb' 6 1 = p1 ∧
    w.extractLsb' 7 18 = p0.extractLsb' 0 18 ∧
    w.extractLsb' 25 6 = p0.extractLsb' 18 6 ∧
    w.extractLsb' 31 1 = p0.extractLsb' 24 1 := by
  subst h
  exact ⟨Bits.low BitVec.extractLsb'_eq_self,
    Bits.up (Bits.low BitVec.extractLsb'_eq_self),
    Bits.up (Bits.up (Bits.low BitVec.extractLsb'_eq_self)),
    Bits.up (Bits.up (Bits.up (Bits.low BitVec.extractLsb'_eq_self))),
    Bits.up (Bits.up (Bits.up (Bits.up rfl))),
    Bits.up (Bits.up (Bits.up (Bits.up rfl))),
    Bits.up (Bits.up (Bits.up (Bits.up rfl)))⟩

theorem Bits.layout35 (p0 : BitVec 26) (p1 : BitVec 2) (p2 : BitVec 1) (p3 : BitVec 2) (p4 : BitVec 1)
    (w : BitVec 32) (h : w = p0 ++ p1 ++ p2 ++ p3 ++ p4) :
    w.extractLsb' 0 1 = p4 ∧
    w.extractLsb' 1 2 = p3 ∧
    w.extractLsb' 3 1 = p2 ∧
    w.extractLsb' 4 2 = p1 ∧
    w.extractLsb' 6 19 = p0.extractLsb' 0 19 ∧
    w.extractLsb' 25 6 = p0.extractLsb' 19 6 ∧
    w.extractLsb' 31 1 = p0.extractLsb' 25 1 := by
  subst h
  exact ⟨Bits.low BitVec.extractLsb'_eq_self,
    Bits.up (Bits.low BitVec.extractLsb'_eq_self),
    Bits.up (Bits.up (Bits.low BitVec.extractLsb'_eq_self)),
    Bits.up (Bits.up (Bits.up (Bits.low BitVec.extractLsb'_eq_self))),
    Bits.up (Bits.up (Bits.up (Bits.up rfl))),
    Bits.up (Bits.up (Bits.up (Bits.up rfl))),
    Bits.up (Bits.up (Bits.up (Bits.up rfl)))⟩

theorem Bits.layout36 (p0 : BitVec 27) (p1 : BitVec 2) (p2 : BitVec 2) (p3 : BitVec 1)
    (w : BitVec 32) (h : w = p0 ++ p1 ++ p2 ++ p3) :
    w.extractLsb' 0 1 = p3 ∧
    w.extractLsb' 1 2 = p2 ∧
    w.extractLsb' 3 2 = p1 ∧
    w.extractLsb' 5 20 = p0.extractLsb' 0 20 ∧
    w.extractLsb' 25 6 = p0.extractLsb' 20 6 ∧
    w.extractLsb' 31 1 = p0.extractLsb' 26 1 := by
  subst h
  exact ⟨Bits.low BitVec.extractLsb'_eq_self,
    Bits.up (Bits.low BitVec.extractLsb'_eq_self),
    Bits.up (Bits.up (Bits.low BitVec.extractLsb'_eq_self)),
    Bits.up (Bits.up (Bits.up rfl)),
    Bits.up (Bits.up (Bits.up rfl)),
    Bits.up (Bits.up (Bits.up rfl))⟩

theorem Bits.layout37 (p0 : BitVec 29) (p1 : BitVec 2) (p2 : BitVec 1)
    (w : BitVec 32) (h : w = p0 ++ p1 ++ p2) :
    w.extractLsb' 0 1 = p2 ∧
    w.extractLsb' 1 2 = p1 ∧
    w.extractLsb' 3 22 = p0.extractLsb' 0 22 ∧
    w.extractLsb' 25 6 = p0.extractLsb' 22 6 ∧
    w.extractLsb' 31 1 = p0.extractLsb' 28 1 := by
  subst h
  exact ⟨Bits.low BitVec.extractLsb'_eq_self,
    Bits.up (Bits.low BitVec.extractLsb'_eq_self),
    Bits.up (Bits.up rfl),
    Bits.up (Bits.up rfl),
    Bits.up (Bits.up rfl)⟩

theorem Bits.layout38 (p0 : BitVec 31) (p1 : BitVec 1)
    (w : BitVec 32) (h : w = p0 ++ p1) :
    w.extractLsb' 0 1 = p1 ∧
    w.extractLsb' 1 2 = p0.extractLsb' 0 2 ∧
    w.extractLsb' 3 22 = p0.extractLsb' 2 22 ∧
    w.extractLsb' 25 6 = p0.extractLsb' 24 6 ∧
    w.extractLsb' 31 1 = p0.extractLsb' 30 1 := by
  subst h
  exact ⟨Bits.low BitVec.extractLsb'_eq_self,
    Bits.up rfl,
    Bits.up rfl,
    Bits.up rfl,
    Bits.up rfl⟩

theorem Bits.layout39 (p0 : BitVec 32)
    (w : BitVec 32) (h : w = p0) :
    w.extractLsb' 0 1 = p0.extractLsb' 0 1 ∧
    w.extractLsb' 1 2 = p0.extractLsb' 1 2 ∧
    w.extractLsb' 3 22 = p0.extractLsb' 3 22 ∧
    w.extractLsb' 25 6 = p0.extractLsb' 25 6 ∧
    w.extractLsb' 31 1 = p0.extractLsb' 31 1 := by
  subst h
  exact ⟨rfl,
    rfl,
    rfl,
    rfl,
    rfl⟩

end Sys2Proof

namespace Sys2Proof.Laws.EncodeDecode

/-- The word that `encode` gives the instruction selects the map and the row that give the instruction back: a Rivan
word by `decodeSpace`, a supervisor word by `decodeSupervisor`, with the Rivan maps refusing it. -/
def Statement (i : Instr) : Prop := ∀ w, encode i = some w →
  decodeSpace w = .ok i ∨ (decodeSpace w = .error .nonzeroField ∧ decodeSupervisor w = .ok i)

theorem nop (g : Tag) (e : BitVec 1) : Statement (.nop g e) := by
  intro w h
  replace h : w = _ := (Option.some.inj h).symm
  obtain ⟨h0_1, h1_2, h3_22, h25_6, h31_1⟩ := Bits.layout37 _ _ _ w h
  clear h
  left
  unfold decodeSpace
  rw [h31_1, h1_2]
  cases g <;> simp [Tag.bits, decodeShared, h25_6, h3_22, h0_1]

theorem add (d : BitVec 5) (a : BitVec 5) (b : BitVec 5) (g : Tag) (e : BitVec 1) : Statement (.add d a b g e) := by
  intro w h
  replace h : w = _ := (Option.some.inj h).symm
  obtain ⟨h0_1, h1_2, h3_7, h10_5, h15_5, h20_5, h25_6, h31_1⟩ := Bits.layout12 _ _ _ _ _ _ _ w h
  clear h
  left
  unfold decodeSpace
  rw [h31_1, h1_2]
  cases g <;> simp [Tag.bits, decodeShared, h25_6, h3_7, h20_5, h15_5, h10_5, h0_1]

theorem sub (d : BitVec 5) (a : BitVec 5) (b : BitVec 5) (g : Tag) (e : BitVec 1) : Statement (.sub d a b g e) := by
  intro w h
  replace h : w = _ := (Option.some.inj h).symm
  obtain ⟨h0_1, h1_2, h3_7, h10_5, h15_5, h20_5, h25_6, h31_1⟩ := Bits.layout12 _ _ _ _ _ _ _ w h
  clear h
  left
  unfold decodeSpace
  rw [h31_1, h1_2]
  cases g <;> simp [Tag.bits, decodeShared, h25_6, h3_7, h20_5, h15_5, h10_5, h0_1]

theorem and (d : BitVec 5) (a : BitVec 5) (b : BitVec 5) (g : Tag) (e : BitVec 1) : Statement (.and d a b g e) := by
  intro w h
  replace h : w = _ := (Option.some.inj h).symm
  obtain ⟨h0_1, h1_2, h3_7, h10_5, h15_5, h20_5, h25_6, h31_1⟩ := Bits.layout12 _ _ _ _ _ _ _ w h
  clear h
  left
  unfold decodeSpace
  rw [h31_1, h1_2]
  cases g <;> simp [Tag.bits, decodeShared, h25_6, h3_7, h20_5, h15_5, h10_5, h0_1]

theorem or (d : BitVec 5) (a : BitVec 5) (b : BitVec 5) (g : Tag) (e : BitVec 1) : Statement (.or d a b g e) := by
  intro w h
  replace h : w = _ := (Option.some.inj h).symm
  obtain ⟨h0_1, h1_2, h3_7, h10_5, h15_5, h20_5, h25_6, h31_1⟩ := Bits.layout12 _ _ _ _ _ _ _ w h
  clear h
  left
  unfold decodeSpace
  rw [h31_1, h1_2]
  cases g <;> simp [Tag.bits, decodeShared, h25_6, h3_7, h20_5, h15_5, h10_5, h0_1]

theorem xor (d : BitVec 5) (a : BitVec 5) (b : BitVec 5) (g : Tag) (e : BitVec 1) : Statement (.xor d a b g e) := by
  intro w h
  replace h : w = _ := (Option.some.inj h).symm
  obtain ⟨h0_1, h1_2, h3_7, h10_5, h15_5, h20_5, h25_6, h31_1⟩ := Bits.layout12 _ _ _ _ _ _ _ w h
  clear h
  left
  unfold decodeSpace
  rw [h31_1, h1_2]
  cases g <;> simp [Tag.bits, decodeShared, h25_6, h3_7, h20_5, h15_5, h10_5, h0_1]

theorem shl (d : BitVec 5) (a : BitVec 5) (b : BitVec 5) (g : Tag) (e : BitVec 1) : Statement (.shl d a b g e) := by
  intro w h
  replace h : w = _ := (Option.some.inj h).symm
  obtain ⟨h0_1, h1_2, h3_7, h10_5, h15_5, h20_5, h25_6, h31_1⟩ := Bits.layout12 _ _ _ _ _ _ _ w h
  clear h
  left
  unfold decodeSpace
  rw [h31_1, h1_2]
  cases g <;> simp [Tag.bits, decodeShared, h25_6, h3_7, h20_5, h15_5, h10_5, h0_1]

theorem shr (d : BitVec 5) (a : BitVec 5) (b : BitVec 5) (g : Tag) (e : BitVec 1) : Statement (.shr d a b g e) := by
  intro w h
  replace h : w = _ := (Option.some.inj h).symm
  obtain ⟨h0_1, h1_2, h3_7, h10_5, h15_5, h20_5, h25_6, h31_1⟩ := Bits.layout12 _ _ _ _ _ _ _ w h
  clear h
  left
  unfold decodeSpace
  rw [h31_1, h1_2]
  cases g <;> simp [Tag.bits, decodeShared, h25_6, h3_7, h20_5, h15_5, h10_5, h0_1]

theorem sra (d : BitVec 5) (a : BitVec 5) (b : BitVec 5) (g : Tag) (e : BitVec 1) : Statement (.sra d a b g e) := by
  intro w h
  replace h : w = _ := (Option.some.inj h).symm
  obtain ⟨h0_1, h1_2, h3_7, h10_5, h15_5, h20_5, h25_6, h31_1⟩ := Bits.layout12 _ _ _ _ _ _ _ w h
  clear h
  left
  unfold decodeSpace
  rw [h31_1, h1_2]
  cases g <;> simp [Tag.bits, decodeShared, h25_6, h3_7, h20_5, h15_5, h10_5, h0_1]

theorem slt (d : BitVec 5) (a : BitVec 5) (b : BitVec 5) (g : Tag) (e : BitVec 1) : Statement (.slt d a b g e) := by
  intro w h
  replace h : w = _ := (Option.some.inj h).symm
  obtain ⟨h0_1, h1_2, h3_7, h10_5, h15_5, h20_5, h25_6, h31_1⟩ := Bits.layout12 _ _ _ _ _ _ _ w h
  clear h
  left
  unfold decodeSpace
  rw [h31_1, h1_2]
  cases g <;> simp [Tag.bits, decodeShared, h25_6, h3_7, h20_5, h15_5, h10_5, h0_1]

theorem sltu (d : BitVec 5) (a : BitVec 5) (b : BitVec 5) (g : Tag) (e : BitVec 1) : Statement (.sltu d a b g e) := by
  intro w h
  replace h : w = _ := (Option.some.inj h).symm
  obtain ⟨h0_1, h1_2, h3_7, h10_5, h15_5, h20_5, h25_6, h31_1⟩ := Bits.layout12 _ _ _ _ _ _ _ w h
  clear h
  left
  unfold decodeSpace
  rw [h31_1, h1_2]
  cases g <;> simp [Tag.bits, decodeShared, h25_6, h3_7, h20_5, h15_5, h10_5, h0_1]

theorem minS64 (d : BitVec 5) (a : BitVec 5) (b : BitVec 5) (g : Tag) (e : BitVec 1) : Statement (.minS64 d a b g e) := by
  intro w h
  replace h : w = _ := (Option.some.inj h).symm
  obtain ⟨h0_1, h1_2, h3_7, h10_5, h15_5, h20_5, h25_6, h31_1⟩ := Bits.layout12 _ _ _ _ _ _ _ w h
  clear h
  left
  unfold decodeSpace
  rw [h31_1, h1_2]
  cases g <;> simp [Tag.bits, decodeShared, h25_6, h3_7, h20_5, h15_5, h10_5, h0_1]

theorem minZ64 (d : BitVec 5) (a : BitVec 5) (b : BitVec 5) (g : Tag) (e : BitVec 1) : Statement (.minZ64 d a b g e) := by
  intro w h
  replace h : w = _ := (Option.some.inj h).symm
  obtain ⟨h0_1, h1_2, h3_7, h10_5, h15_5, h20_5, h25_6, h31_1⟩ := Bits.layout12 _ _ _ _ _ _ _ w h
  clear h
  left
  unfold decodeSpace
  rw [h31_1, h1_2]
  cases g <;> simp [Tag.bits, decodeShared, h25_6, h3_7, h20_5, h15_5, h10_5, h0_1]

theorem maxS64 (d : BitVec 5) (a : BitVec 5) (b : BitVec 5) (g : Tag) (e : BitVec 1) : Statement (.maxS64 d a b g e) := by
  intro w h
  replace h : w = _ := (Option.some.inj h).symm
  obtain ⟨h0_1, h1_2, h3_7, h10_5, h15_5, h20_5, h25_6, h31_1⟩ := Bits.layout12 _ _ _ _ _ _ _ w h
  clear h
  left
  unfold decodeSpace
  rw [h31_1, h1_2]
  cases g <;> simp [Tag.bits, decodeShared, h25_6, h3_7, h20_5, h15_5, h10_5, h0_1]

theorem maxZ64 (d : BitVec 5) (a : BitVec 5) (b : BitVec 5) (g : Tag) (e : BitVec 1) : Statement (.maxZ64 d a b g e) := by
  intro w h
  replace h : w = _ := (Option.some.inj h).symm
  obtain ⟨h0_1, h1_2, h3_7, h10_5, h15_5, h20_5, h25_6, h31_1⟩ := Bits.layout12 _ _ _ _ _ _ _ w h
  clear h
  left
  unfold decodeSpace
  rw [h31_1, h1_2]
  cases g <;> simp [Tag.bits, decodeShared, h25_6, h3_7, h20_5, h15_5, h10_5, h0_1]

theorem mul (d : BitVec 5) (a : BitVec 5) (b : BitVec 5) (g : Tag) (e : BitVec 1) : Statement (.mul d a b g e) := by
  intro w h
  replace h : w = _ := (Option.some.inj h).symm
  obtain ⟨h0_1, h1_2, h3_7, h10_5, h15_5, h20_5, h25_6, h31_1⟩ := Bits.layout12 _ _ _ _ _ _ _ w h
  clear h
  left
  unfold decodeSpace
  rw [h31_1, h1_2]
  cases g <;> simp [Tag.bits, decodeShared, h25_6, h3_7, h20_5, h15_5, h10_5, h0_1]

theorem mulhS64 (d : BitVec 5) (a : BitVec 5) (b : BitVec 5) (g : Tag) (e : BitVec 1) : Statement (.mulhS64 d a b g e) := by
  intro w h
  replace h : w = _ := (Option.some.inj h).symm
  obtain ⟨h0_1, h1_2, h3_7, h10_5, h15_5, h20_5, h25_6, h31_1⟩ := Bits.layout12 _ _ _ _ _ _ _ w h
  clear h
  left
  unfold decodeSpace
  rw [h31_1, h1_2]
  cases g <;> simp [Tag.bits, decodeShared, h25_6, h3_7, h20_5, h15_5, h10_5, h0_1]

theorem mulhZ64 (d : BitVec 5) (a : BitVec 5) (b : BitVec 5) (g : Tag) (e : BitVec 1) : Statement (.mulhZ64 d a b g e) := by
  intro w h
  replace h : w = _ := (Option.some.inj h).symm
  obtain ⟨h0_1, h1_2, h3_7, h10_5, h15_5, h20_5, h25_6, h31_1⟩ := Bits.layout12 _ _ _ _ _ _ _ w h
  clear h
  left
  unfold decodeSpace
  rw [h31_1, h1_2]
  cases g <;> simp [Tag.bits, decodeShared, h25_6, h3_7, h20_5, h15_5, h10_5, h0_1]

theorem madd (d : BitVec 5) (a : BitVec 5) (b : BitVec 5) (g : Tag) (e : BitVec 1) : Statement (.madd d a b g e) := by
  intro w h
  replace h : w = _ := (Option.some.inj h).symm
  obtain ⟨h0_1, h1_2, h3_7, h10_5, h15_5, h20_5, h25_6, h31_1⟩ := Bits.layout12 _ _ _ _ _ _ _ w h
  clear h
  left
  unfold decodeSpace
  rw [h31_1, h1_2]
  cases g <;> simp [Tag.bits, decodeShared, h25_6, h3_7, h20_5, h15_5, h10_5, h0_1]

theorem addi (d : BitVec 5) (a : BitVec 5) (i : BitVec 12) (g : Tag) (e : BitVec 1) : Statement (.addi d a i g e) := by
  intro w h
  replace h : w = _ := (Option.some.inj h).symm
  obtain ⟨h0_1, h1_2, h3_12, h15_5, h20_5, h25_6, h31_1⟩ := Bits.layout19 _ _ _ _ _ _ w h
  clear h
  left
  unfold decodeSpace
  rw [h31_1, h1_2]
  cases g <;> simp [Tag.bits, decodeShared, h25_6, h20_5, h15_5, h3_12, h0_1]

theorem andi (d : BitVec 5) (a : BitVec 5) (i : BitVec 12) (g : Tag) (e : BitVec 1) : Statement (.andi d a i g e) := by
  intro w h
  replace h : w = _ := (Option.some.inj h).symm
  obtain ⟨h0_1, h1_2, h3_12, h15_5, h20_5, h25_6, h31_1⟩ := Bits.layout19 _ _ _ _ _ _ w h
  clear h
  left
  unfold decodeSpace
  rw [h31_1, h1_2]
  cases g <;> simp [Tag.bits, decodeShared, h25_6, h20_5, h15_5, h3_12, h0_1]

theorem ori (d : BitVec 5) (a : BitVec 5) (i : BitVec 12) (g : Tag) (e : BitVec 1) : Statement (.ori d a i g e) := by
  intro w h
  replace h : w = _ := (Option.some.inj h).symm
  obtain ⟨h0_1, h1_2, h3_12, h15_5, h20_5, h25_6, h31_1⟩ := Bits.layout19 _ _ _ _ _ _ w h
  clear h
  left
  unfold decodeSpace
  rw [h31_1, h1_2]
  cases g <;> simp [Tag.bits, decodeShared, h25_6, h20_5, h15_5, h3_12, h0_1]

theorem xori (d : BitVec 5) (a : BitVec 5) (i : BitVec 12) (g : Tag) (e : BitVec 1) : Statement (.xori d a i g e) := by
  intro w h
  replace h : w = _ := (Option.some.inj h).symm
  obtain ⟨h0_1, h1_2, h3_12, h15_5, h20_5, h25_6, h31_1⟩ := Bits.layout19 _ _ _ _ _ _ w h
  clear h
  left
  unfold decodeSpace
  rw [h31_1, h1_2]
  cases g <;> simp [Tag.bits, decodeShared, h25_6, h20_5, h15_5, h3_12, h0_1]

theorem shlImm (d : BitVec 5) (a : BitVec 5) (c : BitVec 6) (g : Tag) (e : BitVec 1) : Statement (.shlImm d a c g e) := by
  intro w h
  replace h : w = _ := (Option.some.inj h).symm
  obtain ⟨h0_1, h1_2, h3_6, h9_6, h15_5, h20_5, h25_6, h31_1⟩ := Bits.layout14 _ _ _ _ _ _ _ w h
  clear h
  left
  unfold decodeSpace
  rw [h31_1, h1_2]
  cases g <;> simp [Tag.bits, decodeShared, h25_6, h9_6, h3_6, h20_5, h15_5, h0_1]

theorem shrImm (d : BitVec 5) (a : BitVec 5) (c : BitVec 6) (g : Tag) (e : BitVec 1) : Statement (.shrImm d a c g e) := by
  intro w h
  replace h : w = _ := (Option.some.inj h).symm
  obtain ⟨h0_1, h1_2, h3_6, h9_6, h15_5, h20_5, h25_6, h31_1⟩ := Bits.layout14 _ _ _ _ _ _ _ w h
  clear h
  left
  unfold decodeSpace
  rw [h31_1, h1_2]
  cases g <;> simp [Tag.bits, decodeShared, h25_6, h9_6, h3_6, h20_5, h15_5, h0_1]

theorem sraImm (d : BitVec 5) (a : BitVec 5) (c : BitVec 6) (g : Tag) (e : BitVec 1) : Statement (.sraImm d a c g e) := by
  intro w h
  replace h : w = _ := (Option.some.inj h).symm
  obtain ⟨h0_1, h1_2, h3_6, h9_6, h15_5, h20_5, h25_6, h31_1⟩ := Bits.layout14 _ _ _ _ _ _ _ w h
  clear h
  left
  unfold decodeSpace
  rw [h31_1, h1_2]
  cases g <;> simp [Tag.bits, decodeShared, h25_6, h9_6, h3_6, h20_5, h15_5, h0_1]

theorem bfxZ64 (d : BitVec 5) (a : BitVec 5) (w : BitVec 6) (l : BitVec 6) (g : Tag) (e : BitVec 1) : Statement (.bfxZ64 d a w l g e) := by
  intro w h
  replace h : w = _ := (Option.some.inj h).symm
  obtain ⟨h0_1, h1_2, h3_6, h9_6, h15_5, h20_5, h25_6, h31_1⟩ := Bits.layout14 _ _ _ _ _ _ _ w h
  clear h
  left
  unfold decodeSpace
  rw [h31_1, h1_2]
  cases g <;> simp [Tag.bits, decodeShared, h25_6, h9_6, h3_6, h20_5, h15_5, h0_1]

theorem bfxS64 (d : BitVec 5) (a : BitVec 5) (w : BitVec 6) (l : BitVec 6) (g : Tag) (e : BitVec 1) : Statement (.bfxS64 d a w l g e) := by
  intro w h
  replace h : w = _ := (Option.some.inj h).symm
  obtain ⟨h0_1, h1_2, h3_6, h9_6, h15_5, h20_5, h25_6, h31_1⟩ := Bits.layout14 _ _ _ _ _ _ _ w h
  clear h
  left
  unfold decodeSpace
  rw [h31_1, h1_2]
  cases g <;> simp [Tag.bits, decodeShared, h25_6, h9_6, h3_6, h20_5, h15_5, h0_1]

theorem bfi (d : BitVec 5) (a : BitVec 5) (w : BitVec 6) (l : BitVec 6) (g : Tag) (e : BitVec 1) : Statement (.bfi d a w l g e) := by
  intro w h
  replace h : w = _ := (Option.some.inj h).symm
  obtain ⟨h0_1, h1_2, h3_6, h9_6, h15_5, h20_5, h25_6, h31_1⟩ := Bits.layout14 _ _ _ _ _ _ _ w h
  clear h
  left
  unfold decodeSpace
  rw [h31_1, h1_2]
  cases g <;> simp [Tag.bits, decodeShared, h25_6, h9_6, h3_6, h20_5, h15_5, h0_1]

theorem lui (d : BitVec 5) (i : BitVec 17) (g : Tag) (e : BitVec 1) : Statement (.lui d i g e) := by
  intro w h
  replace h : w = _ := (Option.some.inj h).symm
  obtain ⟨h0_1, h1_2, h3_17, h20_5, h25_6, h31_1⟩ := Bits.layout21 _ _ _ _ _ w h
  clear h
  left
  unfold decodeSpace
  rw [h31_1, h1_2]
  cases g <;> simp [Tag.bits, decodeShared, h25_6, h3_17, h20_5, h0_1]

theorem limm (x : BitVec 22) (g : Tag) : Statement (.limm x g) := by
  intro w h
  replace h : w = _ := (Option.some.inj h).symm
  obtain ⟨h0_1, h1_2, h3_22, h25_6, h31_1⟩ := Bits.layout22 _ _ _ _ w h
  clear h
  left
  unfold decodeSpace
  rw [h31_1, h1_2]
  cases g <;> simp [Tag.bits, decodeShared, h25_6, h0_1, h3_22]

theorem csrr (d : BitVec 5) (c : BitVec 12) (g : Tag) (e : BitVec 1) : Statement (.csrr d c g e) := by
  intro w h
  replace h : w = _ := (Option.some.inj h).symm
  obtain ⟨h0_1, h1_2, h3_12, h15_5, h20_5, h25_6, h31_1⟩ := Bits.layout19 _ _ _ _ _ _ w h
  clear h
  left
  unfold decodeSpace
  rw [h31_1, h1_2]
  cases g <;> simp [Tag.bits, decodeShared, h25_6, h15_5, h20_5, h3_12, h0_1]

theorem csrw (a : BitVec 5) (c : BitVec 12) (g : Tag) (e : BitVec 1) : Statement (.csrw a c g e) := by
  intro w h
  replace h : w = _ := (Option.some.inj h).symm
  obtain ⟨h0_1, h1_2, h3_12, h15_5, h20_5, h25_6, h31_1⟩ := Bits.layout32 _ _ _ _ _ w h
  clear h
  left
  unfold decodeSpace
  rw [h31_1, h1_2]
  cases g <;> simp [Tag.bits, decodeShared, h25_6, h20_5, h15_5, h3_12, h0_1]

theorem br (o : BitVec 22) (g : Tag) (e : BitVec 1) : Statement (.br o g e) := by
  intro w h
  replace h : w = _ := (Option.some.inj h).symm
  obtain ⟨h0_1, h1_2, h3_22, h25_6, h31_1⟩ := Bits.layout22 _ _ _ _ w h
  clear h
  left
  unfold decodeSpace
  rw [h31_1, h1_2]
  cases g <;> simp [Tag.bits, decodeShared, h25_6, h3_22, h0_1]

theorem call (o : BitVec 22) (g : Tag) (e : BitVec 1) : Statement (.call o g e) := by
  intro w h
  replace h : w = _ := (Option.some.inj h).symm
  obtain ⟨h0_1, h1_2, h3_22, h25_6, h31_1⟩ := Bits.layout22 _ _ _ _ w h
  clear h
  left
  unfold decodeSpace
  rw [h31_1, h1_2]
  cases g <;> simp [Tag.bits, decodeShared, h25_6, h3_22, h0_1]

theorem ret (g : Tag) (e : BitVec 1) : Statement (.ret g e) := by
  intro w h
  replace h : w = _ := (Option.some.inj h).symm
  obtain ⟨h0_1, h1_2, h3_22, h25_6, h31_1⟩ := Bits.layout37 _ _ _ w h
  clear h
  left
  unfold decodeSpace
  rw [h31_1, h1_2]
  cases g <;> simp [Tag.bits, decodeShared, h25_6, h3_22, h0_1]

theorem beq (a : BitVec 5) (b : BitVec 5) (o : BitVec 12) (g : Tag) (e : BitVec 1) : Statement (.beq a b o g e) := by
  intro w h
  replace h : w = _ := (Option.some.inj h).symm
  obtain ⟨h0_1, h1_2, h3_12, h15_5, h20_5, h25_6, h31_1⟩ := Bits.layout19 _ _ _ _ _ _ w h
  clear h
  left
  unfold decodeSpace
  rw [h31_1, h1_2]
  cases g <;> simp [Tag.bits, decodeShared, h25_6, h20_5, h15_5, h3_12, h0_1]

theorem bne (a : BitVec 5) (b : BitVec 5) (o : BitVec 12) (g : Tag) (e : BitVec 1) : Statement (.bne a b o g e) := by
  intro w h
  replace h : w = _ := (Option.some.inj h).symm
  obtain ⟨h0_1, h1_2, h3_12, h15_5, h20_5, h25_6, h31_1⟩ := Bits.layout19 _ _ _ _ _ _ w h
  clear h
  left
  unfold decodeSpace
  rw [h31_1, h1_2]
  cases g <;> simp [Tag.bits, decodeShared, h25_6, h20_5, h15_5, h3_12, h0_1]

theorem blt (a : BitVec 5) (b : BitVec 5) (o : BitVec 12) (g : Tag) (e : BitVec 1) : Statement (.blt a b o g e) := by
  intro w h
  replace h : w = _ := (Option.some.inj h).symm
  obtain ⟨h0_1, h1_2, h3_12, h15_5, h20_5, h25_6, h31_1⟩ := Bits.layout19 _ _ _ _ _ _ w h
  clear h
  left
  unfold decodeSpace
  rw [h31_1, h1_2]
  cases g <;> simp [Tag.bits, decodeShared, h25_6, h20_5, h15_5, h3_12, h0_1]

theorem bge (a : BitVec 5) (b : BitVec 5) (o : BitVec 12) (g : Tag) (e : BitVec 1) : Statement (.bge a b o g e) := by
  intro w h
  replace h : w = _ := (Option.some.inj h).symm
  obtain ⟨h0_1, h1_2, h3_12, h15_5, h20_5, h25_6, h31_1⟩ := Bits.layout19 _ _ _ _ _ _ w h
  clear h
  left
  unfold decodeSpace
  rw [h31_1, h1_2]
  cases g <;> simp [Tag.bits, decodeShared, h25_6, h20_5, h15_5, h3_12, h0_1]

theorem bltu (a : BitVec 5) (b : BitVec 5) (o : BitVec 12) (g : Tag) (e : BitVec 1) : Statement (.bltu a b o g e) := by
  intro w h
  replace h : w = _ := (Option.some.inj h).symm
  obtain ⟨h0_1, h1_2, h3_12, h15_5, h20_5, h25_6, h31_1⟩ := Bits.layout19 _ _ _ _ _ _ w h
  clear h
  left
  unfold decodeSpace
  rw [h31_1, h1_2]
  cases g <;> simp [Tag.bits, decodeShared, h25_6, h20_5, h15_5, h3_12, h0_1]

theorem bgeu (a : BitVec 5) (b : BitVec 5) (o : BitVec 12) (g : Tag) (e : BitVec 1) : Statement (.bgeu a b o g e) := by
  intro w h
  replace h : w = _ := (Option.some.inj h).symm
  obtain ⟨h0_1, h1_2, h3_12, h15_5, h20_5, h25_6, h31_1⟩ := Bits.layout19 _ _ _ _ _ _ w h
  clear h
  left
  unfold decodeSpace
  rw [h31_1, h1_2]
  cases g <;> simp [Tag.bits, decodeShared, h25_6, h20_5, h15_5, h3_12, h0_1]

theorem loop (l : BitVec 2) (a : BitVec 5) (n : BitVec 12) (g : Tag) (e : BitVec 1) : Statement (.loop l a n g e) := by
  intro w h
  replace h : w = _ := (Option.some.inj h).symm
  obtain ⟨h0_1, h1_2, h3_12, h15_5, h20_2, h22_3, h25_6, h31_1⟩ := Bits.layout26 _ _ _ _ _ _ w h
  clear h
  left
  unfold decodeSpace
  rw [h31_1, h1_2]
  cases g <;> simp [Tag.bits, decodeShared, h25_6, h22_3, h20_2, h15_5, h3_12, h0_1]

theorem brkl (l : BitVec 2) (g : Tag) (e : BitVec 1) : Statement (.brkl l g e) := by
  intro w h
  replace h : w = _ := (Option.some.inj h).symm
  obtain ⟨h0_1, h1_2, h3_17, h20_2, h22_3, h25_6, h31_1⟩ := Bits.layout28 _ _ _ _ _ w h
  clear h
  left
  unfold decodeSpace
  rw [h31_1, h1_2]
  cases g <;> simp [Tag.bits, decodeShared, h25_6, h22_3, h3_17, h20_2, h0_1]

theorem ld (d : BitVec 5) (a : BitVec 5) (o : BitVec 9) (t : BitVec 3) (e : BitVec 1) : Statement (.ld d a o t e) := by
  intro w h
  replace h : w = _ := (Option.some.inj h).symm
  obtain ⟨h0_1, h1_2, h3_3, h6_9, h15_5, h20_5, h25_6, h31_1⟩ := Bits.layout18 _ _ _ _ _ _ _ w h
  clear h
  left
  unfold decodeSpace
  rw [h31_1, h1_2]
  simp [decodeAccess, h25_6, h6_9, h3_3, h20_5, h15_5, h0_1]

theorem ldAcq (d : BitVec 5) (a : BitVec 5) (o : BitVec 9) (t : BitVec 3) (e : BitVec 1) : Statement (.ldAcq d a o t e) := by
  intro w h
  replace h : w = _ := (Option.some.inj h).symm
  obtain ⟨h0_1, h1_2, h3_3, h6_9, h15_5, h20_5, h25_6, h31_1⟩ := Bits.layout18 _ _ _ _ _ _ _ w h
  clear h
  left
  unfold decodeSpace
  rw [h31_1, h1_2]
  simp [decodeAccess, h25_6, h6_9, h3_3, h20_5, h15_5, h0_1]

theorem st (d : BitVec 5) (a : BitVec 5) (o : BitVec 9) (t : BitVec 2) (e : BitVec 1) : Statement (.st d a o t e) := by
  intro w h
  replace h : w = _ := (Option.some.inj h).symm
  obtain ⟨h0_1, h1_2, h3_2, h5_1, h6_9, h15_5, h20_5, h25_6, h31_1⟩ := Bits.layout17 _ _ _ _ _ _ _ _ w h
  clear h
  left
  unfold decodeSpace
  rw [h31_1, h1_2]
  simp [decodeAccess, h25_6, h5_1, h6_9, h3_2, h20_5, h15_5, h0_1]

theorem stRel (d : BitVec 5) (a : BitVec 5) (o : BitVec 9) (t : BitVec 2) (e : BitVec 1) : Statement (.stRel d a o t e) := by
  intro w h
  replace h : w = _ := (Option.some.inj h).symm
  obtain ⟨h0_1, h1_2, h3_2, h5_1, h6_9, h15_5, h20_5, h25_6, h31_1⟩ := Bits.layout17 _ _ _ _ _ _ _ _ w h
  clear h
  left
  unfold decodeSpace
  rw [h31_1, h1_2]
  simp [decodeAccess, h25_6, h5_1, h6_9, h3_2, h20_5, h15_5, h0_1]

theorem amo (d : BitVec 5) (a : BitVec 5) (b : BitVec 5) (u : BitVec 1) (z : BitVec 1) (p : BitVec 3) (e : BitVec 1) : Statement (.amo d a b u z p e) := by
  intro w h
  replace h : w = _ := (Option.some.inj h).symm
  obtain ⟨h0_1, h1_2, h3_3, h6_1, h7_1, h8_2, h10_5, h15_5, h20_5, h25_6, h31_1⟩ := Bits.layout6 _ _ _ _ _ _ _ _ _ _ w h
  clear h
  left
  unfold decodeSpace
  rw [h31_1, h1_2]
  simp [decodeAccess, h25_6, h8_2, h7_1, h6_1, h3_3, h20_5, h15_5, h10_5, h0_1]

theorem cas (d : BitVec 5) (a : BitVec 5) (b : BitVec 5) (z : BitVec 1) (e : BitVec 1) : Statement (.cas d a b z e) := by
  intro w h
  replace h : w = _ := (Option.some.inj h).symm
  obtain ⟨h0_1, h1_2, h3_1, h4_6, h10_5, h15_5, h20_5, h25_6, h31_1⟩ := Bits.layout11 _ _ _ _ _ _ _ _ w h
  clear h
  left
  unfold decodeSpace
  rw [h31_1, h1_2]
  simp [decodeAccess, h25_6, h4_6, h3_1, h20_5, h15_5, h10_5, h0_1]

theorem pld (q : BitVec 2) (a : BitVec 5) (r : BitVec 5) (e : BitVec 1) : Statement (.pld q a r e) := by
  intro w h
  replace h : w = _ := (Option.some.inj h).symm
  obtain ⟨h0_1, h1_2, h3_5, h8_7, h15_5, h20_2, h22_3, h25_6, h31_1⟩ := Bits.layout25 _ _ _ _ _ _ _ w h
  clear h
  left
  unfold decodeSpace
  rw [h31_1, h1_2]
  simp [decodeAccess, h25_6, h22_3, h8_7, h20_2, h15_5, h3_5, h0_1]

theorem pst (q : BitVec 2) (a : BitVec 5) (r : BitVec 5) (e : BitVec 1) : Statement (.pst q a r e) := by
  intro w h
  replace h : w = _ := (Option.some.inj h).symm
  obtain ⟨h0_1, h1_2, h3_5, h8_7, h15_5, h20_2, h22_3, h25_6, h31_1⟩ := Bits.layout25 _ _ _ _ _ _ _ w h
  clear h
  left
  unfold decodeSpace
  rw [h31_1, h1_2]
  simp [decodeAccess, h25_6, h22_3, h8_7, h20_2, h15_5, h3_5, h0_1]

theorem gath (q : BitVec 2) (a : BitVec 5) (j : BitVec 2) (r : BitVec 5) (s : BitVec 2) (e : BitVec 1) : Statement (.gath q a j r s e) := by
  intro w h
  replace h : w = _ := (Option.some.inj h).symm
  obtain ⟨h0_1, h1_2, h3_2, h5_5, h10_2, h12_3, h15_5, h20_2, h22_3, h25_6, h31_1⟩ := Bits.layout24 _ _ _ _ _ _ _ _ _ w h
  clear h
  left
  unfold decodeSpace
  rw [h31_1, h1_2]
  simp [decodeAccess, h25_6, h22_3, h12_3, h20_2, h10_2, h5_5, h3_2, h15_5, h0_1]

theorem scat (q : BitVec 2) (a : BitVec 5) (j : BitVec 2) (r : BitVec 5) (s : BitVec 2) (e : BitVec 1) : Statement (.scat q a j r s e) := by
  intro w h
  replace h : w = _ := (Option.some.inj h).symm
  obtain ⟨h0_1, h1_2, h3_2, h5_5, h10_2, h12_3, h15_5, h20_2, h22_3, h25_6, h31_1⟩ := Bits.layout24 _ _ _ _ _ _ _ _ _ w h
  clear h
  left
  unfold decodeSpace
  rw [h31_1, h1_2]
  simp [decodeAccess, h25_6, h22_3, h12_3, h20_2, h10_2, h5_5, h3_2, h15_5, h0_1]

theorem qsnd (q : BitVec 2) (a : BitVec 5) (e : BitVec 1) : Statement (.qsnd q a e) := by
  intro w h
  replace h : w = _ := (Option.some.inj h).symm
  obtain ⟨h0_1, h1_2, h3_12, h15_5, h20_2, h22_3, h25_6, h31_1⟩ := Bits.layout27 _ _ _ _ _ w h
  clear h
  left
  unfold decodeSpace
  rw [h31_1, h1_2]
  simp [decodeAccess, h25_6, h22_3, h3_12, h20_2, h15_5, h0_1]

theorem qrcv (d : BitVec 5) (q : BitVec 2) (e : BitVec 1) : Statement (.qrcv d q e) := by
  intro w h
  replace h : w = _ := (Option.some.inj h).symm
  obtain ⟨h0_1, h1_2, h3_12, h15_2, h17_3, h20_5, h25_6, h31_1⟩ := Bits.layout0 _ _ _ _ _ _ w h
  clear h
  left
  unfold decodeSpace
  rw [h31_1, h1_2]
  simp [decodeAccess, h25_6, h17_3, h3_12, h15_2, h20_5, h0_1]

theorem copy (d : BitVec 5) (a : BitVec 5) (e : BitVec 1) : Statement (.copy d a e) := by
  intro w h
  replace h : w = _ := (Option.some.inj h).symm
  obtain ⟨h0_1, h1_2, h3_12, h15_5, h20_5, h25_6, h31_1⟩ := Bits.layout20 _ _ _ _ _ w h
  clear h
  left
  unfold decodeSpace
  rw [h31_1, h1_2]
  simp [decodeAccess, h25_6, h3_12, h20_5, h15_5, h0_1]

theorem dcmp (d : BitVec 5) (a : BitVec 5) (e : BitVec 1) : Statement (.dcmp d a e) := by
  intro w h
  replace h : w = _ := (Option.some.inj h).symm
  obtain ⟨h0_1, h1_2, h3_12, h15_5, h20_5, h25_6, h31_1⟩ := Bits.layout20 _ _ _ _ _ w h
  clear h
  left
  unfold decodeSpace
  rw [h31_1, h1_2]
  simp [decodeAccess, h25_6, h3_12, h20_5, h15_5, h0_1]

theorem fill (d : BitVec 5) (a : BitVec 5) (e : BitVec 1) : Statement (.fill d a e) := by
  intro w h
  replace h : w = _ := (Option.some.inj h).symm
  obtain ⟨h0_1, h1_2, h3_12, h15_5, h20_5, h25_6, h31_1⟩ := Bits.layout20 _ _ _ _ _ w h
  clear h
  left
  unfold decodeSpace
  rw [h31_1, h1_2]
  simp [decodeAccess, h25_6, h3_12, h20_5, h15_5, h0_1]

theorem csum (d : BitVec 5) (a : BitVec 5) (e : BitVec 1) : Statement (.csum d a e) := by
  intro w h
  replace h : w = _ := (Option.some.inj h).symm
  obtain ⟨h0_1, h1_2, h3_12, h15_5, h20_5, h25_6, h31_1⟩ := Bits.layout20 _ _ _ _ _ w h
  clear h
  left
  unfold decodeSpace
  rw [h31_1, h1_2]
  simp [decodeAccess, h25_6, h3_12, h20_5, h15_5, h0_1]

theorem seminc (a : BitVec 5) (s : BitVec 6) (e : BitVec 1) : Statement (.seminc a s e) := by
  intro w h
  replace h : w = _ := (Option.some.inj h).symm
  obtain ⟨h0_1, h1_2, h3_6, h9_6, h15_5, h20_5, h25_6, h31_1⟩ := Bits.layout29 _ _ _ _ _ _ w h
  clear h
  left
  unfold decodeSpace
  rw [h31_1, h1_2]
  simp [decodeAccess, h25_6, h20_5, h9_6, h3_6, h15_5, h0_1]

theorem semset (a : BitVec 5) (s : BitVec 6) (e : BitVec 1) : Statement (.semset a s e) := by
  intro w h
  replace h : w = _ := (Option.some.inj h).symm
  obtain ⟨h0_1, h1_2, h3_6, h9_6, h15_5, h20_5, h25_6, h31_1⟩ := Bits.layout29 _ _ _ _ _ _ w h
  clear h
  left
  unfold decodeSpace
  rw [h31_1, h1_2]
  simp [decodeAccess, h25_6, h20_5, h9_6, h3_6, h15_5, h0_1]

theorem semwait (a : BitVec 5) (s : BitVec 6) (e : BitVec 1) : Statement (.semwait a s e) := by
  intro w h
  replace h : w = _ := (Option.some.inj h).symm
  obtain ⟨h0_1, h1_2, h3_6, h9_6, h15_5, h20_5, h25_6, h31_1⟩ := Bits.layout29 _ _ _ _ _ _ w h
  clear h
  left
  unfold decodeSpace
  rw [h31_1, h1_2]
  simp [decodeAccess, h25_6, h20_5, h9_6, h3_6, h15_5, h0_1]

theorem send (d : BitVec 5) (a : BitVec 5) (b : BitVec 5) (l : BitVec 6) (e : BitVec 1) : Statement (.send d a b l e) := by
  intro w h
  replace h : w = _ := (Option.some.inj h).symm
  obtain ⟨h0_1, h1_2, h3_6, h9_1, h10_5, h15_5, h20_5, h25_6, h31_1⟩ := Bits.layout5 _ _ _ _ _ _ _ _ w h
  clear h
  left
  unfold decodeSpace
  rw [h31_1, h1_2]
  simp [decodeAccess, h25_6, h9_1, h3_6, h20_5, h15_5, h10_5, h0_1]

theorem mbreg (d : BitVec 5) (a : BitVec 5) (b : BitVec 5) (m : BitVec 4) (e : BitVec 1) : Statement (.mbreg d a b m e) := by
  intro w h
  replace h : w = _ := (Option.some.inj h).symm
  obtain ⟨h0_1, h1_2, h3_4, h7_3, h10_5, h15_5, h20_5, h25_6, h31_1⟩ := Bits.layout9 _ _ _ _ _ _ _ _ w h
  clear h
  left
  unfold decodeSpace
  rw [h31_1, h1_2]
  simp [decodeAccess, h25_6, h7_3, h3_4, h20_5, h15_5, h10_5, h0_1]

theorem mma (f : BitVec 5) (a : BitVec 5) (b : BitVec 5) (k : BitVec 5) (p : BitVec 2) (e : BitVec 1) : Statement (.mma f a b k p e) := by
  intro w h
  replace h : w = _ := (Option.some.inj h).symm
  obtain ⟨h0_1, h1_2, h3_2, h5_5, h7_3, h10_5, h15_5, h20_5, h25_6, h31_1⟩ := Bits.layout10 _ _ _ _ _ _ _ _ w h
  clear h
  left
  unfold decodeSpace
  rw [h31_1, h1_2]
  simp [decodeAccess, h25_6, h5_5, h3_2, h20_5, h15_5, h10_5, h0_1]

theorem mmaSat (f : BitVec 5) (a : BitVec 5) (b : BitVec 5) (k : BitVec 5) (p : BitVec 2) (e : BitVec 1) : Statement (.mmaSat f a b k p e) := by
  intro w h
  replace h : w = _ := (Option.some.inj h).symm
  obtain ⟨h0_1, h1_2, h3_2, h5_5, h7_3, h10_5, h15_5, h20_5, h25_6, h31_1⟩ := Bits.layout10 _ _ _ _ _ _ _ _ w h
  clear h
  left
  unfold decodeSpace
  rw [h31_1, h1_2]
  simp [decodeAccess, h25_6, h5_5, h3_2, h20_5, h15_5, h10_5, h0_1]

theorem mmas (f : BitVec 5) (a : BitVec 5) (b : BitVec 5) (k : BitVec 5) (p : BitVec 2) (e : BitVec 1) : Statement (.mmas f a b k p e) := by
  intro w h
  replace h : w = _ := (Option.some.inj h).symm
  obtain ⟨h0_1, h1_2, h3_2, h5_5, h7_3, h10_5, h15_5, h20_5, h25_6, h31_1⟩ := Bits.layout10 _ _ _ _ _ _ _ _ w h
  clear h
  left
  unfold decodeSpace
  rw [h31_1, h1_2]
  simp [decodeAccess, h25_6, h5_5, h3_2, h20_5, h15_5, h10_5, h0_1]

theorem mzero (p : BitVec 2) (e : BitVec 1) : Statement (.mzero p e) := by
  intro w h
  replace h : w = _ := (Option.some.inj h).symm
  obtain ⟨h0_1, h1_2, h3_2, h5_20, h25_6, h31_1⟩ := Bits.layout36 _ _ _ _ w h
  clear h
  left
  unfold decodeSpace
  rw [h31_1, h1_2]
  simp [decodeAccess, h25_6, h5_20, h3_2, h0_1]

theorem mld (a : BitVec 5) (p : BitVec 2) (e : BitVec 1) : Statement (.mld a p e) := by
  intro w h
  replace h : w = _ := (Option.some.inj h).symm
  obtain ⟨h0_1, h1_2, h3_2, h5_10, h15_5, h20_5, h25_6, h31_1⟩ := Bits.layout31 _ _ _ _ _ _ w h
  clear h
  left
  unfold decodeSpace
  rw [h31_1, h1_2]
  simp [decodeAccess, h25_6, h20_5, h5_10, h3_2, h15_5, h0_1]

theorem mst (d : BitVec 5) (a : BitVec 5) (b : BitVec 5) (k : BitVec 5) (p : BitVec 2) (e : BitVec 1) : Statement (.mst d a b k p e) := by
  intro w h
  replace h : w = _ := (Option.some.inj h).symm
  obtain ⟨h0_1, h1_2, h3_2, h5_5, h7_3, h10_5, h15_5, h20_5, h25_6, h31_1⟩ := Bits.layout10 _ _ _ _ _ _ _ _ w h
  clear h
  left
  unfold decodeSpace
  rw [h31_1, h1_2]
  simp [decodeAccess, h25_6, h5_5, h3_2, h20_5, h15_5, h10_5, h0_1]

theorem mstSat (d : BitVec 5) (a : BitVec 5) (b : BitVec 5) (k : BitVec 5) (p : BitVec 2) (e : BitVec 1) : Statement (.mstSat d a b k p e) := by
  intro w h
  replace h : w = _ := (Option.some.inj h).symm
  obtain ⟨h0_1, h1_2, h3_2, h5_5, h7_3, h10_5, h15_5, h20_5, h25_6, h31_1⟩ := Bits.layout10 _ _ _ _ _ _ _ _ w h
  clear h
  left
  unfold decodeSpace
  rw [h31_1, h1_2]
  simp [decodeAccess, h25_6, h5_5, h3_2, h20_5, h15_5, h10_5, h0_1]

theorem coll (d : BitVec 5) (a : BitVec 5) (e : BitVec 1) : Statement (.coll d a e) := by
  intro w h
  replace h : w = _ := (Option.some.inj h).symm
  obtain ⟨h0_1, h1_2, h3_12, h15_5, h20_5, h25_6, h31_1⟩ := Bits.layout20 _ _ _ _ _ w h
  clear h
  left
  unfold decodeSpace
  rw [h31_1, h1_2]
  simp [decodeAccess, h25_6, h3_12, h20_5, h15_5, h0_1]

theorem reside (d : BitVec 5) (a : BitVec 5) (b : BitVec 5) (e : BitVec 1) : Statement (.reside d a b e) := by
  intro w h
  replace h : w = _ := (Option.some.inj h).symm
  obtain ⟨h0_1, h1_2, h3_7, h10_5, h15_5, h20_5, h25_6, h31_1⟩ := Bits.layout13 _ _ _ _ _ _ w h
  clear h
  left
  unfold decodeSpace
  rw [h31_1, h1_2]
  simp [decodeAccess, h25_6, h3_7, h20_5, h15_5, h10_5, h0_1]

theorem evict (d : BitVec 5) (a : BitVec 5) (e : BitVec 1) : Statement (.evict d a e) := by
  intro w h
  replace h : w = _ := (Option.some.inj h).symm
  obtain ⟨h0_1, h1_2, h3_12, h15_5, h20_5, h25_6, h31_1⟩ := Bits.layout20 _ _ _ _ _ w h
  clear h
  left
  unfold decodeSpace
  rw [h31_1, h1_2]
  simp [decodeAccess, h25_6, h3_12, h20_5, h15_5, h0_1]

theorem rquery (d : BitVec 5) (a : BitVec 5) (e : BitVec 1) : Statement (.rquery d a e) := by
  intro w h
  replace h : w = _ := (Option.some.inj h).symm
  obtain ⟨h0_1, h1_2, h3_12, h15_5, h20_5, h25_6, h31_1⟩ := Bits.layout20 _ _ _ _ _ w h
  clear h
  left
  unfold decodeSpace
  rw [h31_1, h1_2]
  simp [decodeAccess, h25_6, h3_12, h20_5, h15_5, h0_1]

theorem spawn (d : BitVec 5) (a : BitVec 5) (e : BitVec 1) : Statement (.spawn d a e) := by
  intro w h
  replace h : w = _ := (Option.some.inj h).symm
  obtain ⟨h0_1, h1_2, h3_12, h15_5, h20_5, h25_6, h31_1⟩ := Bits.layout20 _ _ _ _ _ w h
  clear h
  left
  unfold decodeSpace
  rw [h31_1, h1_2]
  simp [decodeAccess, h25_6, h3_12, h20_5, h15_5, h0_1]

theorem fence  : Statement (.fence ) := by
  intro w h
  replace h : w = _ := (Option.some.inj h).symm
  obtain ⟨h0_1, h1_2, h3_22, h25_6, h31_1⟩ := Bits.layout39 _ w h
  clear h
  left
  unfold decodeSpace
  rw [h31_1, h1_2]
  simp [decodeAccess, h25_6, h3_22, h0_1]

theorem trig (e : BitVec 1) : Statement (.trig e) := by
  intro w h
  replace h : w = _ := (Option.some.inj h).symm
  obtain ⟨h0_1, h1_2, h3_22, h25_6, h31_1⟩ := Bits.layout38 _ _ w h
  clear h
  left
  unfold decodeSpace
  rw [h31_1, h1_2]
  simp [decodeAccess, h25_6, h3_22, h0_1]

theorem dwait  : Statement (.dwait ) := by
  intro w h
  replace h : w = _ := (Option.some.inj h).symm
  obtain ⟨h0_1, h1_2, h3_22, h25_6, h31_1⟩ := Bits.layout39 _ w h
  clear h
  left
  unfold decodeSpace
  rw [h31_1, h1_2]
  simp [decodeAccess, h25_6, h3_22, h0_1]

theorem exit  : Statement (.exit ) := by
  intro w h
  replace h : w = _ := (Option.some.inj h).symm
  obtain ⟨h0_1, h1_2, h3_22, h25_6, h31_1⟩ := Bits.layout39 _ w h
  clear h
  left
  unfold decodeSpace
  rw [h31_1, h1_2]
  simp [decodeAccess, h25_6, h3_22, h0_1]

theorem yield  : Statement (.yield ) := by
  intro w h
  replace h : w = _ := (Option.some.inj h).symm
  obtain ⟨h0_1, h1_2, h3_22, h25_6, h31_1⟩ := Bits.layout39 _ w h
  clear h
  left
  unfold decodeSpace
  rw [h31_1, h1_2]
  simp [decodeAccess, h25_6, h3_22, h0_1]

theorem eret  : Statement (.eret ) := by
  intro w h
  replace h : w = _ := (Option.some.inj h).symm
  obtain ⟨h0_1, h1_2, h3_22, h25_6, h31_1⟩ := Bits.layout39 _ w h
  clear h
  left
  unfold decodeSpace
  rw [h31_1, h1_2]
  simp [decodeAccess, h25_6, h3_22, h0_1]

theorem trap (c : BitVec 12) : Statement (.trap c) := by
  intro w h
  replace h : w = _ := (Option.some.inj h).symm
  obtain ⟨h0_1, h1_2, h3_12, h15_10, h25_6, h31_1⟩ := Bits.layout33 _ _ _ w h
  clear h
  left
  unfold decodeSpace
  rw [h31_1, h1_2]
  simp [decodeAccess, h25_6, h15_10, h0_1, h3_12]

theorem fadd (d : BitVec 5) (a : BitVec 5) (b : BitVec 5) (r : BitVec 2) (t : BitVec 2) (e : BitVec 1) : Statement (.fadd d a b r t e) := by
  intro w h
  replace h : w = _ := (Option.some.inj h).symm
  obtain ⟨h0_1, h1_2, h3_2, h5_2, h7_3, h10_5, h15_5, h20_5, h25_6, h31_1⟩ := Bits.layout8 _ _ _ _ _ _ _ _ _ w h
  clear h
  left
  unfold decodeSpace
  rw [h31_1, h1_2]
  simp [decodeExecute, h25_6, h7_3, h5_2, h3_2, h20_5, h15_5, h10_5, h0_1]

theorem fsub (d : BitVec 5) (a : BitVec 5) (b : BitVec 5) (r : BitVec 2) (t : BitVec 2) (e : BitVec 1) : Statement (.fsub d a b r t e) := by
  intro w h
  replace h : w = _ := (Option.some.inj h).symm
  obtain ⟨h0_1, h1_2, h3_2, h5_2, h7_3, h10_5, h15_5, h20_5, h25_6, h31_1⟩ := Bits.layout8 _ _ _ _ _ _ _ _ _ w h
  clear h
  left
  unfold decodeSpace
  rw [h31_1, h1_2]
  simp [decodeExecute, h25_6, h7_3, h5_2, h3_2, h20_5, h15_5, h10_5, h0_1]

theorem fmul (d : BitVec 5) (a : BitVec 5) (b : BitVec 5) (r : BitVec 2) (t : BitVec 2) (e : BitVec 1) : Statement (.fmul d a b r t e) := by
  intro w h
  replace h : w = _ := (Option.some.inj h).symm
  obtain ⟨h0_1, h1_2, h3_2, h5_2, h7_3, h10_5, h15_5, h20_5, h25_6, h31_1⟩ := Bits.layout8 _ _ _ _ _ _ _ _ _ w h
  clear h
  left
  unfold decodeSpace
  rw [h31_1, h1_2]
  simp [decodeExecute, h25_6, h7_3, h5_2, h3_2, h20_5, h15_5, h10_5, h0_1]

theorem fmin (d : BitVec 5) (a : BitVec 5) (b : BitVec 5) (t : BitVec 2) (e : BitVec 1) : Statement (.fmin d a b t e) := by
  intro w h
  replace h : w = _ := (Option.some.inj h).symm
  obtain ⟨h0_1, h1_2, h3_2, h5_5, h7_3, h10_5, h15_5, h20_5, h25_6, h31_1⟩ := Bits.layout10 _ _ _ _ _ _ _ _ w h
  clear h
  left
  unfold decodeSpace
  rw [h31_1, h1_2]
  simp [decodeExecute, h25_6, h7_3, h5_5, h3_2, h20_5, h15_5, h10_5, h0_1]

theorem fmax (d : BitVec 5) (a : BitVec 5) (b : BitVec 5) (t : BitVec 2) (e : BitVec 1) : Statement (.fmax d a b t e) := by
  intro w h
  replace h : w = _ := (Option.some.inj h).symm
  obtain ⟨h0_1, h1_2, h3_2, h5_5, h7_3, h10_5, h15_5, h20_5, h25_6, h31_1⟩ := Bits.layout10 _ _ _ _ _ _ _ _ w h
  clear h
  left
  unfold decodeSpace
  rw [h31_1, h1_2]
  simp [decodeExecute, h25_6, h7_3, h5_5, h3_2, h20_5, h15_5, h10_5, h0_1]

theorem fdiv (d : BitVec 5) (a : BitVec 5) (b : BitVec 5) (r : BitVec 2) (t : BitVec 2) (e : BitVec 1) : Statement (.fdiv d a b r t e) := by
  intro w h
  replace h : w = _ := (Option.some.inj h).symm
  obtain ⟨h0_1, h1_2, h3_2, h5_2, h7_3, h10_5, h15_5, h20_5, h25_6, h31_1⟩ := Bits.layout8 _ _ _ _ _ _ _ _ _ w h
  clear h
  have k1 := Bits.ne_of_part (s := 2) (l := 3) (v := 0xC#5) h7_3 (by decide) (by decide)
  have k2 := Bits.ne_of_part (s := 2) (l := 3) (v := 0x10#5) h7_3 (by decide) (by decide)
  left
  unfold decodeSpace
  rw [h31_1, h1_2]
  simp [decodeExecute, h25_6, h7_3, h5_2, h3_2, h20_5, h15_5, h10_5, h0_1, k1, k2]

theorem fsqrt (d : BitVec 5) (a : BitVec 5) (r : BitVec 2) (t : BitVec 2) (e : BitVec 1) : Statement (.fsqrt d a r t e) := by
  intro w h
  replace h : w = _ := (Option.some.inj h).symm
  obtain ⟨h0_1, h1_2, h3_2, h5_2, h7_3, h7_8, h15_5, h20_5, h25_6, h31_1⟩ := Bits.layout16 _ _ _ _ _ _ _ _ w h
  clear h
  have k1 := Bits.ne_of_part (s := 2) (l := 3) (v := 0xC#5) h7_3 (by decide) (by decide)
  have k2 := Bits.ne_of_part (s := 2) (l := 3) (v := 0x10#5) h7_3 (by decide) (by decide)
  left
  unfold decodeSpace
  rw [h31_1, h1_2]
  simp [decodeExecute, h25_6, h7_3, h7_8, h5_2, h3_2, h20_5, h15_5, h0_1, k1, k2]

theorem fma (d : BitVec 5) (a : BitVec 5) (b : BitVec 5) (c : BitVec 1) (n : BitVec 1) (r : BitVec 2) (t : BitVec 2) (e : BitVec 1) : Statement (.fma d a b c n r t e) := by
  intro w h
  replace h : w = _ := (Option.some.inj h).symm
  obtain ⟨h0_1, h1_2, h3_2, h5_2, h7_1, h8_1, h9_1, h10_5, h15_5, h20_5, h25_6, h31_1⟩ := Bits.layout3 _ _ _ _ _ _ _ _ _ _ _ w h
  clear h
  left
  unfold decodeSpace
  rw [h31_1, h1_2]
  simp [decodeExecute, h25_6, h9_1, h8_1, h7_1, h5_2, h3_2, h20_5, h15_5, h10_5, h0_1]

theorem fcmp (d : BitVec 5) (a : BitVec 5) (b : BitVec 5) (c : BitVec 2) (t : BitVec 2) (e : BitVec 1) : Statement (.fcmp d a b c t e) := by
  intro w h
  replace h : w = _ := (Option.some.inj h).symm
  obtain ⟨h0_1, h1_2, h3_2, h5_2, h7_2, h9_1, h10_5, h15_5, h20_5, h25_6, h31_1⟩ := Bits.layout4 _ _ _ _ _ _ _ _ _ _ w h
  clear h
  left
  unfold decodeSpace
  rw [h31_1, h1_2]
  simp [decodeExecute, h25_6, h9_1, h5_2, h7_2, h3_2, h20_5, h15_5, h10_5, h0_1]

theorem fcvt (d : BitVec 5) (a : BitVec 5) (s : BitVec 3) (u : BitVec 1) (r : BitVec 2) (k : BitVec 3) (e : BitVec 1) : Statement (.fcvt d a s u r k e) := by
  intro w h
  replace h : w = _ := (Option.some.inj h).symm
  obtain ⟨h0_1, h1_2, h3_3, h6_2, h8_1, h9_1, h10_3, h13_2, h15_5, h20_5, h25_6, h31_1⟩ := Bits.layout1 _ _ _ _ _ _ _ _ _ _ _ w h
  clear h
  left
  unfold decodeSpace
  rw [h31_1, h1_2]
  simp [decodeExecute, h25_6, h13_2, h9_1, h10_3, h8_1, h6_2, h3_3, h20_5, h15_5, h0_1]

theorem div (d : BitVec 5) (a : BitVec 5) (b : BitVec 5) (s : BitVec 1) (e : BitVec 1) : Statement (.div d a b s e) := by
  intro w h
  replace h : w = _ := (Option.some.inj h).symm
  obtain ⟨h0_1, h1_2, h3_1, h4_6, h10_5, h15_5, h20_5, h25_6, h31_1⟩ := Bits.layout11 _ _ _ _ _ _ _ _ w h
  clear h
  left
  unfold decodeSpace
  rw [h31_1, h1_2]
  simp [decodeExecute, h25_6, h4_6, h3_1, h20_5, h15_5, h10_5, h0_1]

theorem divRem (d : BitVec 5) (a : BitVec 5) (b : BitVec 5) (s : BitVec 1) (e : BitVec 1) : Statement (.divRem d a b s e) := by
  intro w h
  replace h : w = _ := (Option.some.inj h).symm
  obtain ⟨h0_1, h1_2, h3_1, h4_6, h10_5, h15_5, h20_5, h25_6, h31_1⟩ := Bits.layout11 _ _ _ _ _ _ _ _ w h
  clear h
  left
  unfold decodeSpace
  rw [h31_1, h1_2]
  simp [decodeExecute, h25_6, h4_6, h3_1, h20_5, h15_5, h10_5, h0_1]

theorem xsndScalar (q : BitVec 2) (a : BitVec 5) (e : BitVec 1) : Statement (.xsndScalar q a e) := by
  intro w h
  replace h : w = _ := (Option.some.inj h).symm
  obtain ⟨h0_1, h1_2, h3_12, h15_5, h20_2, h22_3, h25_6, h31_1⟩ := Bits.layout27 _ _ _ _ _ w h
  clear h
  left
  unfold decodeSpace
  rw [h31_1, h1_2]
  simp [decodeExecute, h25_6, h22_3, h3_12, h20_2, h15_5, h0_1]

theorem xsndPanel (q : BitVec 2) (p : BitVec 5) (r : BitVec 4) (f : BitVec 4) (e : BitVec 1) : Statement (.xsndPanel q p r f e) := by
  intro w h
  replace h : w = _ := (Option.some.inj h).symm
  obtain ⟨h0_1, h1_2, h3_1, h4_4, h8_2, h10_4, h14_1, h15_5, h20_2, h22_3, h25_6, h31_1⟩ := Bits.layout23 _ _ _ _ _ _ _ _ _ w h
  clear h
  have k1 := Bits.ne_of_part (s := 0) (l := 1) (v := 0x0#12) h3_1 (by decide) (by decide)
  left
  unfold decodeSpace
  rw [h31_1, h1_2]
  simp [decodeExecute, h25_6, h22_3, h14_1, h8_2, h3_1, h20_2, h10_4, h4_4, h15_5, h0_1, k1]

theorem xrcv (d : BitVec 5) (q : BitVec 2) (e : BitVec 1) : Statement (.xrcv d q e) := by
  intro w h
  replace h : w = _ := (Option.some.inj h).symm
  obtain ⟨h0_1, h1_2, h3_12, h15_2, h17_3, h20_5, h25_6, h31_1⟩ := Bits.layout0 _ _ _ _ _ _ w h
  clear h
  left
  unfold decodeSpace
  rw [h31_1, h1_2]
  simp [decodeExecute, h25_6, h17_3, h3_12, h15_2, h20_5, h0_1]

theorem vadd (d : BitVec 5) (a : BitVec 5) (b : BitVec 5) (m : BitVec 2) (t : BitVec 5) (e : BitVec 1) : Statement (.vadd d a b m t e) := by
  intro w h
  replace h : w = _ := (Option.some.inj h).symm
  obtain ⟨h0_1, h1_2, h3_5, h8_2, h10_5, h15_5, h20_5, h25_6, h31_1⟩ := Bits.layout7 _ _ _ _ _ _ _ _ w h
  clear h
  left
  unfold decodeSpace
  rw [h31_1, h1_2]
  simp [decodeExecute, h25_6, h20_5, h15_5, h10_5, h8_2, h3_5, h0_1]

theorem vsub (d : BitVec 5) (a : BitVec 5) (b : BitVec 5) (m : BitVec 2) (t : BitVec 5) (e : BitVec 1) : Statement (.vsub d a b m t e) := by
  intro w h
  replace h : w = _ := (Option.some.inj h).symm
  obtain ⟨h0_1, h1_2, h3_5, h8_2, h10_5, h15_5, h20_5, h25_6, h31_1⟩ := Bits.layout7 _ _ _ _ _ _ _ _ w h
  clear h
  left
  unfold decodeSpace
  rw [h31_1, h1_2]
  simp [decodeExecute, h25_6, h20_5, h15_5, h10_5, h8_2, h3_5, h0_1]

theorem vmul (d : BitVec 5) (a : BitVec 5) (b : BitVec 5) (m : BitVec 2) (t : BitVec 5) (e : BitVec 1) : Statement (.vmul d a b m t e) := by
  intro w h
  replace h : w = _ := (Option.some.inj h).symm
  obtain ⟨h0_1, h1_2, h3_5, h8_2, h10_5, h15_5, h20_5, h25_6, h31_1⟩ := Bits.layout7 _ _ _ _ _ _ _ _ w h
  clear h
  left
  unfold decodeSpace
  rw [h31_1, h1_2]
  simp [decodeExecute, h25_6, h20_5, h15_5, h10_5, h8_2, h3_5, h0_1]

theorem vfma (d : BitVec 5) (a : BitVec 5) (b : BitVec 5) (m : BitVec 2) (t : BitVec 5) (e : BitVec 1) : Statement (.vfma d a b m t e) := by
  intro w h
  replace h : w = _ := (Option.some.inj h).symm
  obtain ⟨h0_1, h1_2, h3_5, h8_2, h10_5, h15_5, h20_5, h25_6, h31_1⟩ := Bits.layout7 _ _ _ _ _ _ _ _ w h
  clear h
  left
  unfold decodeSpace
  rw [h31_1, h1_2]
  simp [decodeExecute, h25_6, h20_5, h15_5, h10_5, h8_2, h3_5, h0_1]

theorem vmin (d : BitVec 5) (a : BitVec 5) (b : BitVec 5) (t : BitVec 5) (e : BitVec 1) : Statement (.vmin d a b t e) := by
  intro w h
  replace h : w = _ := (Option.some.inj h).symm
  obtain ⟨h0_1, h1_2, h3_5, h8_2, h10_5, h15_5, h20_5, h25_6, h31_1⟩ := Bits.layout7 _ _ _ _ _ _ _ _ w h
  clear h
  left
  unfold decodeSpace
  rw [h31_1, h1_2]
  simp [decodeExecute, h25_6, h8_2, h20_5, h15_5, h10_5, h3_5, h0_1]

theorem vmax (d : BitVec 5) (a : BitVec 5) (b : BitVec 5) (t : BitVec 5) (e : BitVec 1) : Statement (.vmax d a b t e) := by
  intro w h
  replace h : w = _ := (Option.some.inj h).symm
  obtain ⟨h0_1, h1_2, h3_5, h8_2, h10_5, h15_5, h20_5, h25_6, h31_1⟩ := Bits.layout7 _ _ _ _ _ _ _ _ w h
  clear h
  left
  unfold decodeSpace
  rw [h31_1, h1_2]
  simp [decodeExecute, h25_6, h8_2, h20_5, h15_5, h10_5, h3_5, h0_1]

theorem vabs (d : BitVec 5) (a : BitVec 5) (t : BitVec 5) (e : BitVec 1) : Statement (.vabs d a t e) := by
  intro w h
  replace h : w = _ := (Option.some.inj h).symm
  obtain ⟨h0_1, h1_2, h3_5, h8_7, h15_5, h20_5, h25_6, h31_1⟩ := Bits.layout15 _ _ _ _ _ _ _ w h
  clear h
  left
  unfold decodeSpace
  rw [h31_1, h1_2]
  simp [decodeExecute, h25_6, h8_7, h20_5, h15_5, h3_5, h0_1]

theorem vneg (d : BitVec 5) (a : BitVec 5) (t : BitVec 5) (e : BitVec 1) : Statement (.vneg d a t e) := by
  intro w h
  replace h : w = _ := (Option.some.inj h).symm
  obtain ⟨h0_1, h1_2, h3_5, h8_7, h15_5, h20_5, h25_6, h31_1⟩ := Bits.layout15 _ _ _ _ _ _ _ w h
  clear h
  left
  unfold decodeSpace
  rw [h31_1, h1_2]
  simp [decodeExecute, h25_6, h8_7, h20_5, h15_5, h3_5, h0_1]

theorem vand (d : BitVec 5) (a : BitVec 5) (b : BitVec 5) (t : BitVec 5) (e : BitVec 1) : Statement (.vand d a b t e) := by
  intro w h
  replace h : w = _ := (Option.some.inj h).symm
  obtain ⟨h0_1, h1_2, h3_5, h8_2, h10_5, h15_5, h20_5, h25_6, h31_1⟩ := Bits.layout7 _ _ _ _ _ _ _ _ w h
  clear h
  left
  unfold decodeSpace
  rw [h31_1, h1_2]
  simp [decodeExecute, h25_6, h8_2, h20_5, h15_5, h10_5, h3_5, h0_1]

theorem vor (d : BitVec 5) (a : BitVec 5) (b : BitVec 5) (t : BitVec 5) (e : BitVec 1) : Statement (.vor d a b t e) := by
  intro w h
  replace h : w = _ := (Option.some.inj h).symm
  obtain ⟨h0_1, h1_2, h3_5, h8_2, h10_5, h15_5, h20_5, h25_6, h31_1⟩ := Bits.layout7 _ _ _ _ _ _ _ _ w h
  clear h
  left
  unfold decodeSpace
  rw [h31_1, h1_2]
  simp [decodeExecute, h25_6, h8_2, h20_5, h15_5, h10_5, h3_5, h0_1]

theorem vxor (d : BitVec 5) (a : BitVec 5) (b : BitVec 5) (t : BitVec 5) (e : BitVec 1) : Statement (.vxor d a b t e) := by
  intro w h
  replace h : w = _ := (Option.some.inj h).symm
  obtain ⟨h0_1, h1_2, h3_5, h8_2, h10_5, h15_5, h20_5, h25_6, h31_1⟩ := Bits.layout7 _ _ _ _ _ _ _ _ w h
  clear h
  left
  unfold decodeSpace
  rw [h31_1, h1_2]
  simp [decodeExecute, h25_6, h8_2, h20_5, h15_5, h10_5, h3_5, h0_1]

theorem vnot (d : BitVec 5) (a : BitVec 5) (t : BitVec 5) (e : BitVec 1) : Statement (.vnot d a t e) := by
  intro w h
  replace h : w = _ := (Option.some.inj h).symm
  obtain ⟨h0_1, h1_2, h3_5, h8_7, h15_5, h20_5, h25_6, h31_1⟩ := Bits.layout15 _ _ _ _ _ _ _ w h
  clear h
  left
  unfold decodeSpace
  rw [h31_1, h1_2]
  simp [decodeExecute, h25_6, h8_7, h20_5, h15_5, h3_5, h0_1]

theorem vshl (d : BitVec 5) (a : BitVec 5) (b : BitVec 5) (t : BitVec 5) (e : BitVec 1) : Statement (.vshl d a b t e) := by
  intro w h
  replace h : w = _ := (Option.some.inj h).symm
  obtain ⟨h0_1, h1_2, h3_5, h8_2, h10_5, h15_5, h20_5, h25_6, h31_1⟩ := Bits.layout7 _ _ _ _ _ _ _ _ w h
  clear h
  left
  unfold decodeSpace
  rw [h31_1, h1_2]
  simp [decodeExecute, h25_6, h8_2, h20_5, h15_5, h10_5, h3_5, h0_1]

theorem vshr (d : BitVec 5) (a : BitVec 5) (b : BitVec 5) (t : BitVec 5) (e : BitVec 1) : Statement (.vshr d a b t e) := by
  intro w h
  replace h : w = _ := (Option.some.inj h).symm
  obtain ⟨h0_1, h1_2, h3_5, h8_2, h10_5, h15_5, h20_5, h25_6, h31_1⟩ := Bits.layout7 _ _ _ _ _ _ _ _ w h
  clear h
  left
  unfold decodeSpace
  rw [h31_1, h1_2]
  simp [decodeExecute, h25_6, h8_2, h20_5, h15_5, h10_5, h3_5, h0_1]

theorem vsra (d : BitVec 5) (a : BitVec 5) (b : BitVec 5) (t : BitVec 5) (e : BitVec 1) : Statement (.vsra d a b t e) := by
  intro w h
  replace h : w = _ := (Option.some.inj h).symm
  obtain ⟨h0_1, h1_2, h3_5, h8_2, h10_5, h15_5, h20_5, h25_6, h31_1⟩ := Bits.layout7 _ _ _ _ _ _ _ _ w h
  clear h
  left
  unfold decodeSpace
  rw [h31_1, h1_2]
  simp [decodeExecute, h25_6, h8_2, h20_5, h15_5, h10_5, h3_5, h0_1]

theorem vcmp (d : BitVec 5) (a : BitVec 5) (b : BitVec 5) (c : BitVec 2) (t : BitVec 5) (e : BitVec 1) : Statement (.vcmp d a b c t e) := by
  intro w h
  replace h : w = _ := (Option.some.inj h).symm
  obtain ⟨h0_1, h1_2, h3_5, h8_2, h10_5, h15_5, h20_5, h25_6, h31_1⟩ := Bits.layout7 _ _ _ _ _ _ _ _ w h
  clear h
  left
  unfold decodeSpace
  rw [h31_1, h1_2]
  simp [decodeExecute, h25_6, h20_5, h15_5, h10_5, h8_2, h3_5, h0_1]

theorem vsel (d : BitVec 5) (a : BitVec 5) (b : BitVec 5) (t : BitVec 5) (e : BitVec 1) : Statement (.vsel d a b t e) := by
  intro w h
  replace h : w = _ := (Option.some.inj h).symm
  obtain ⟨h0_1, h1_2, h3_5, h8_2, h10_5, h15_5, h20_5, h25_6, h31_1⟩ := Bits.layout7 _ _ _ _ _ _ _ _ w h
  clear h
  left
  unfold decodeSpace
  rw [h31_1, h1_2]
  simp [decodeExecute, h25_6, h8_2, h20_5, h15_5, h10_5, h3_5, h0_1]

theorem vcvt (d : BitVec 5) (a : BitVec 5) (s : BitVec 5) (m : BitVec 2) (t : BitVec 5) (e : BitVec 1) : Statement (.vcvt d a s m t e) := by
  intro w h
  replace h : w = _ := (Option.some.inj h).symm
  obtain ⟨h0_1, h1_2, h3_5, h8_2, h10_5, h15_5, h20_5, h25_6, h31_1⟩ := Bits.layout7 _ _ _ _ _ _ _ _ w h
  clear h
  left
  unfold decodeSpace
  rw [h31_1, h1_2]
  simp [decodeExecute, h25_6, h20_5, h15_5, h10_5, h8_2, h3_5, h0_1]

theorem vcvtSat (d : BitVec 5) (a : BitVec 5) (s : BitVec 5) (m : BitVec 2) (t : BitVec 5) (e : BitVec 1) : Statement (.vcvtSat d a s m t e) := by
  intro w h
  replace h : w = _ := (Option.some.inj h).symm
  obtain ⟨h0_1, h1_2, h3_5, h8_2, h10_5, h15_5, h20_5, h25_6, h31_1⟩ := Bits.layout7 _ _ _ _ _ _ _ _ w h
  clear h
  left
  unfold decodeSpace
  rw [h31_1, h1_2]
  simp [decodeExecute, h25_6, h20_5, h15_5, h10_5, h8_2, h3_5, h0_1]

theorem vrshr (d : BitVec 5) (a : BitVec 5) (b : BitVec 5) (t : BitVec 5) (e : BitVec 1) : Statement (.vrshr d a b t e) := by
  intro w h
  replace h : w = _ := (Option.some.inj h).symm
  obtain ⟨h0_1, h1_2, h3_5, h8_2, h10_5, h15_5, h20_5, h25_6, h31_1⟩ := Bits.layout7 _ _ _ _ _ _ _ _ w h
  clear h
  left
  unfold decodeSpace
  rw [h31_1, h1_2]
  simp [decodeExecute, h25_6, h8_2, h20_5, h15_5, h10_5, h3_5, h0_1]

theorem vexp2 (d : BitVec 5) (a : BitVec 5) (m : BitVec 2) (t : BitVec 5) (e : BitVec 1) : Statement (.vexp2 d a m t e) := by
  intro w h
  replace h : w = _ := (Option.some.inj h).symm
  obtain ⟨h0_1, h1_2, h3_5, h8_2, h10_5, h15_5, h20_5, h25_6, h31_1⟩ := Bits.layout7 _ _ _ _ _ _ _ _ w h
  clear h
  left
  unfold decodeSpace
  rw [h31_1, h1_2]
  simp [decodeExecute, h25_6, h10_5, h20_5, h15_5, h8_2, h3_5, h0_1]

theorem vlog2 (d : BitVec 5) (a : BitVec 5) (m : BitVec 2) (t : BitVec 5) (e : BitVec 1) : Statement (.vlog2 d a m t e) := by
  intro w h
  replace h : w = _ := (Option.some.inj h).symm
  obtain ⟨h0_1, h1_2, h3_5, h8_2, h10_5, h15_5, h20_5, h25_6, h31_1⟩ := Bits.layout7 _ _ _ _ _ _ _ _ w h
  clear h
  left
  unfold decodeSpace
  rw [h31_1, h1_2]
  simp [decodeExecute, h25_6, h10_5, h20_5, h15_5, h8_2, h3_5, h0_1]

theorem vrcp (d : BitVec 5) (a : BitVec 5) (m : BitVec 2) (t : BitVec 5) (e : BitVec 1) : Statement (.vrcp d a m t e) := by
  intro w h
  replace h : w = _ := (Option.some.inj h).symm
  obtain ⟨h0_1, h1_2, h3_5, h8_2, h10_5, h15_5, h20_5, h25_6, h31_1⟩ := Bits.layout7 _ _ _ _ _ _ _ _ w h
  clear h
  left
  unfold decodeSpace
  rw [h31_1, h1_2]
  simp [decodeExecute, h25_6, h10_5, h20_5, h15_5, h8_2, h3_5, h0_1]

theorem vrsq (d : BitVec 5) (a : BitVec 5) (m : BitVec 2) (t : BitVec 5) (e : BitVec 1) : Statement (.vrsq d a m t e) := by
  intro w h
  replace h : w = _ := (Option.some.inj h).symm
  obtain ⟨h0_1, h1_2, h3_5, h8_2, h10_5, h15_5, h20_5, h25_6, h31_1⟩ := Bits.layout7 _ _ _ _ _ _ _ _ w h
  clear h
  left
  unfold decodeSpace
  rw [h31_1, h1_2]
  simp [decodeExecute, h25_6, h10_5, h20_5, h15_5, h8_2, h3_5, h0_1]

theorem vredr (d : BitVec 5) (a : BitVec 5) (o : BitVec 5) (m : BitVec 2) (t : BitVec 5) (e : BitVec 1) : Statement (.vredr d a o m t e) := by
  intro w h
  replace h : w = _ := (Option.some.inj h).symm
  obtain ⟨h0_1, h1_2, h3_5, h8_2, h10_5, h15_5, h20_5, h25_6, h31_1⟩ := Bits.layout7 _ _ _ _ _ _ _ _ w h
  clear h
  left
  unfold decodeSpace
  rw [h31_1, h1_2]
  simp [decodeExecute, h25_6, h20_5, h15_5, h10_5, h8_2, h3_5, h0_1]

theorem vredc (d : BitVec 5) (a : BitVec 5) (o : BitVec 5) (m : BitVec 2) (t : BitVec 5) (e : BitVec 1) : Statement (.vredc d a o m t e) := by
  intro w h
  replace h : w = _ := (Option.some.inj h).symm
  obtain ⟨h0_1, h1_2, h3_5, h8_2, h10_5, h15_5, h20_5, h25_6, h31_1⟩ := Bits.layout7 _ _ _ _ _ _ _ _ w h
  clear h
  left
  unfold decodeSpace
  rw [h31_1, h1_2]
  simp [decodeExecute, h25_6, h20_5, h15_5, h10_5, h8_2, h3_5, h0_1]

theorem vbcr (d : BitVec 5) (a : BitVec 5) (b : BitVec 5) (t : BitVec 5) (e : BitVec 1) : Statement (.vbcr d a b t e) := by
  intro w h
  replace h : w = _ := (Option.some.inj h).symm
  obtain ⟨h0_1, h1_2, h3_5, h8_2, h10_5, h15_5, h20_5, h25_6, h31_1⟩ := Bits.layout7 _ _ _ _ _ _ _ _ w h
  clear h
  left
  unfold decodeSpace
  rw [h31_1, h1_2]
  simp [decodeExecute, h25_6, h8_2, h20_5, h15_5, h10_5, h3_5, h0_1]

theorem vbcc (d : BitVec 5) (a : BitVec 5) (b : BitVec 5) (t : BitVec 5) (e : BitVec 1) : Statement (.vbcc d a b t e) := by
  intro w h
  replace h : w = _ := (Option.some.inj h).symm
  obtain ⟨h0_1, h1_2, h3_5, h8_2, h10_5, h15_5, h20_5, h25_6, h31_1⟩ := Bits.layout7 _ _ _ _ _ _ _ _ w h
  clear h
  left
  unfold decodeSpace
  rw [h31_1, h1_2]
  simp [decodeExecute, h25_6, h8_2, h20_5, h15_5, h10_5, h3_5, h0_1]

theorem vrotr (d : BitVec 5) (a : BitVec 5) (b : BitVec 5) (t : BitVec 5) (e : BitVec 1) : Statement (.vrotr d a b t e) := by
  intro w h
  replace h : w = _ := (Option.some.inj h).symm
  obtain ⟨h0_1, h1_2, h3_5, h8_2, h10_5, h15_5, h20_5, h25_6, h31_1⟩ := Bits.layout7 _ _ _ _ _ _ _ _ w h
  clear h
  left
  unfold decodeSpace
  rw [h31_1, h1_2]
  simp [decodeExecute, h25_6, h8_2, h20_5, h15_5, h10_5, h3_5, h0_1]

theorem vrotc (d : BitVec 5) (a : BitVec 5) (b : BitVec 5) (t : BitVec 5) (e : BitVec 1) : Statement (.vrotc d a b t e) := by
  intro w h
  replace h : w = _ := (Option.some.inj h).symm
  obtain ⟨h0_1, h1_2, h3_5, h8_2, h10_5, h15_5, h20_5, h25_6, h31_1⟩ := Bits.layout7 _ _ _ _ _ _ _ _ w h
  clear h
  left
  unfold decodeSpace
  rw [h31_1, h1_2]
  simp [decodeExecute, h25_6, h8_2, h20_5, h15_5, h10_5, h3_5, h0_1]

theorem vscan (d : BitVec 5) (a : BitVec 5) (o : BitVec 5) (m : BitVec 2) (t : BitVec 5) (e : BitVec 1) : Statement (.vscan d a o m t e) := by
  intro w h
  replace h : w = _ := (Option.some.inj h).symm
  obtain ⟨h0_1, h1_2, h3_5, h8_2, h10_5, h15_5, h20_5, h25_6, h31_1⟩ := Bits.layout7 _ _ _ _ _ _ _ _ w h
  clear h
  left
  unfold decodeSpace
  rw [h31_1, h1_2]
  simp [decodeExecute, h25_6, h20_5, h15_5, h10_5, h8_2, h3_5, h0_1]

theorem vperm (d : BitVec 5) (a : BitVec 5) (b : BitVec 5) (t : BitVec 5) (e : BitVec 1) : Statement (.vperm d a b t e) := by
  intro w h
  replace h : w = _ := (Option.some.inj h).symm
  obtain ⟨h0_1, h1_2, h3_5, h8_2, h10_5, h15_5, h20_5, h25_6, h31_1⟩ := Bits.layout7 _ _ _ _ _ _ _ _ w h
  clear h
  left
  unfold decodeSpace
  rw [h31_1, h1_2]
  simp [decodeExecute, h25_6, h8_2, h20_5, h15_5, h10_5, h3_5, h0_1]

theorem part (d : BitVec 5) (a : BitVec 5) (b : BitVec 5) (t : BitVec 5) (e : BitVec 1) : Statement (.part d a b t e) := by
  intro w h
  replace h : w = _ := (Option.some.inj h).symm
  obtain ⟨h0_1, h1_2, h3_5, h8_2, h10_5, h15_5, h20_5, h25_6, h31_1⟩ := Bits.layout7 _ _ _ _ _ _ _ _ w h
  clear h
  left
  unfold decodeSpace
  rw [h31_1, h1_2]
  simp [decodeExecute, h25_6, h8_2, h20_5, h15_5, h10_5, h3_5, h0_1]

theorem vtopk (d : BitVec 5) (a : BitVec 5) (b : BitVec 5) (t : BitVec 5) (e : BitVec 1) : Statement (.vtopk d a b t e) := by
  intro w h
  replace h : w = _ := (Option.some.inj h).symm
  obtain ⟨h0_1, h1_2, h3_5, h8_2, h10_5, h15_5, h20_5, h25_6, h31_1⟩ := Bits.layout7 _ _ _ _ _ _ _ _ w h
  clear h
  left
  unfold decodeSpace
  rw [h31_1, h1_2]
  simp [decodeExecute, h25_6, h8_2, h20_5, h15_5, h10_5, h3_5, h0_1]

theorem vmov (d : BitVec 5) (a : BitVec 5) (e : BitVec 1) : Statement (.vmov d a e) := by
  intro w h
  replace h : w = _ := (Option.some.inj h).symm
  obtain ⟨h0_1, h1_2, h3_12, h15_5, h20_5, h25_6, h31_1⟩ := Bits.layout20 _ _ _ _ _ w h
  clear h
  left
  unfold decodeSpace
  rw [h31_1, h1_2]
  simp [decodeExecute, h25_6, h3_12, h20_5, h15_5, h0_1]

theorem vmovi (d : BitVec 5) (i : BitVec 17) (e : BitVec 1) : Statement (.vmovi d i e) := by
  intro w h
  replace h : w = _ := (Option.some.inj h).symm
  obtain ⟨h0_1, h1_2, h3_17, h20_5, h25_6, h31_1⟩ := Bits.layout21 _ _ _ _ _ w h
  clear h
  left
  unfold decodeSpace
  rw [h31_1, h1_2]
  simp [decodeExecute, h25_6, h3_17, h20_5, h0_1]

theorem vins (d : BitVec 5) (a : BitVec 5) (b : BitVec 5) (t : BitVec 5) (e : BitVec 1) : Statement (.vins d a b t e) := by
  intro w h
  replace h : w = _ := (Option.some.inj h).symm
  obtain ⟨h0_1, h1_2, h3_5, h8_2, h10_5, h15_5, h20_5, h25_6, h31_1⟩ := Bits.layout7 _ _ _ _ _ _ _ _ w h
  clear h
  left
  unfold decodeSpace
  rw [h31_1, h1_2]
  simp [decodeExecute, h25_6, h8_2, h20_5, h15_5, h10_5, h3_5, h0_1]

theorem vext (d : BitVec 5) (a : BitVec 5) (b : BitVec 5) (t : BitVec 5) (e : BitVec 1) : Statement (.vext d a b t e) := by
  intro w h
  replace h : w = _ := (Option.some.inj h).symm
  obtain ⟨h0_1, h1_2, h3_5, h8_2, h10_5, h15_5, h20_5, h25_6, h31_1⟩ := Bits.layout7 _ _ _ _ _ _ _ _ w h
  clear h
  left
  unfold decodeSpace
  rw [h31_1, h1_2]
  simp [decodeExecute, h25_6, h8_2, h20_5, h15_5, h10_5, h3_5, h0_1]

theorem wrot (n : BitVec 1) (b : BitVec 3) (e : BitVec 1) : Statement (.wrot n b e) := by
  intro w h
  replace h : w = _ := (Option.some.inj h).symm
  obtain ⟨h0_1, h1_2, h3_3, h6_1, h7_18, h25_6, h31_1⟩ := Bits.layout34 _ _ _ _ _ w h
  clear h
  left
  unfold decodeSpace
  rw [h31_1, h1_2]
  simp [decodeExecute, h25_6, h7_18, h6_1, h3_3, h0_1]

theorem fmtset (a : BitVec 5) (k : BitVec 4) (e : BitVec 1) : Statement (.fmtset a k e) := by
  intro w h
  replace h : w = _ := (Option.some.inj h).symm
  obtain ⟨h0_1, h1_2, h3_4, h7_8, h15_5, h20_5, h25_6, h31_1⟩ := Bits.layout30 _ _ _ _ _ _ w h
  clear h
  left
  unfold decodeSpace
  rw [h31_1, h1_2]
  simp [decodeExecute, h25_6, h20_5, h7_8, h3_4, h15_5, h0_1]

theorem fmtsel (l : BitVec 2) (n : BitVec 1) (e : BitVec 1) : Statement (.fmtsel l n e) := by
  intro w h
  replace h : w = _ := (Option.some.inj h).symm
  obtain ⟨h0_1, h1_2, h3_1, h4_2, h6_19, h25_6, h31_1⟩ := Bits.layout35 _ _ _ _ _ w h
  clear h
  left
  unfold decodeSpace
  rw [h31_1, h1_2]
  simp [decodeExecute, h25_6, h6_19, h4_2, h3_1, h0_1]

theorem rfch (b : BitVec 5) (a : BitVec 5) (d : BitVec 5) : Statement (.rfch b a d) := by
  intro w h
  replace h : w = _ := (Option.some.inj h).symm
  obtain ⟨h0_7, h1_2, h3_1, h7_5, h12_3, h15_5, h20_5, h25_6, h25_7, h31_1⟩ := Bits.layout2 _ _ _ _ _ _ w h
  clear h
  have k1 := Bits.ne_of_part (s := 0) (l := 1) (v := 0x0#22) h3_1 (by decide) (by decide)
  right
  constructor
  · unfold decodeSpace
    rw [h31_1, h1_2]
    simp [decodeShared, h25_6, k1]
  · simp [decodeSupervisor, h0_7, h25_7, h12_3, h20_5, h15_5, h7_5]

theorem xfld (b : BitVec 5) (a : BitVec 5) (d : BitVec 5) : Statement (.xfld b a d) := by
  intro w h
  replace h : w = _ := (Option.some.inj h).symm
  obtain ⟨h0_7, h1_2, h3_1, h7_5, h12_3, h15_5, h20_5, h25_6, h25_7, h31_1⟩ := Bits.layout2 _ _ _ _ _ _ w h
  clear h
  have k1 := Bits.ne_of_part (s := 0) (l := 1) (v := 0x0#22) h3_1 (by decide) (by decide)
  right
  constructor
  · unfold decodeSpace
    rw [h31_1, h1_2]
    simp [decodeShared, h25_6, k1]
  · simp [decodeSupervisor, h0_7, h25_7, h12_3, h20_5, h15_5, h7_5]

theorem sgwt (b : BitVec 5) (a : BitVec 5) (d : BitVec 5) : Statement (.sgwt b a d) := by
  intro w h
  replace h : w = _ := (Option.some.inj h).symm
  obtain ⟨h0_7, h1_2, h3_1, h7_5, h12_3, h15_5, h20_5, h25_6, h25_7, h31_1⟩ := Bits.layout2 _ _ _ _ _ _ w h
  clear h
  have k1 := Bits.ne_of_part (s := 0) (l := 1) (v := 0x0#22) h3_1 (by decide) (by decide)
  right
  constructor
  · unfold decodeSpace
    rw [h31_1, h1_2]
    simp [decodeShared, h25_6, k1]
  · simp [decodeSupervisor, h0_7, h25_7, h12_3, h20_5, h15_5, h7_5]

theorem disp (b : BitVec 5) (a : BitVec 5) (d : BitVec 5) : Statement (.disp b a d) := by
  intro w h
  replace h : w = _ := (Option.some.inj h).symm
  obtain ⟨h0_7, h1_2, h3_1, h7_5, h12_3, h15_5, h20_5, h25_6, h25_7, h31_1⟩ := Bits.layout2 _ _ _ _ _ _ w h
  clear h
  have k1 := Bits.ne_of_part (s := 0) (l := 1) (v := 0x0#22) h3_1 (by decide) (by decide)
  right
  constructor
  · unfold decodeSpace
    rw [h31_1, h1_2]
    simp [decodeShared, h25_6, k1]
  · simp [decodeSupervisor, h0_7, h25_7, h12_3, h20_5, h15_5, h7_5]

theorem bindStart (core : Nat) (strands : BitVec 4) (hdr : Nat) (regid : BitVec 64) : Statement (.bindStart core strands hdr regid) := by
  intro w h; cases h

theorem bindPreempt (core : Nat) (strands : BitVec 4) : Statement (.bindPreempt core strands) := by
  intro w h; cases h

theorem bindMap (core : Nat) (lcore : BitVec 12) (regid : BitVec 64) : Statement (.bindMap core lcore regid) := by
  intro w h; cases h

theorem bindFree (core : Nat) : Statement (.bindFree core) := by
  intro w h; cases h

theorem translationRetry (cluster : Nat) (word : BitVec 64) : Statement (.translationRetry cluster word) := by
  intro w h; cases h

theorem translationKill (cluster : Nat) (word : BitVec 64) : Statement (.translationKill cluster word) := by
  intro w h; cases h

theorem pad (port : Fin 2) (q : Fin 16) (k : Nat) : Statement (.pad port q k) := by
  intro w h; cases h

theorem launch (port : Fin 2) (q : Fin 16) (k : Nat) : Statement (.launch port q k) := by
  intro w h; cases h

theorem regionCreate (port : Fin 2) (q : Fin 16) (k : Nat) : Statement (.regionCreate port q k) := by
  intro w h; cases h

theorem regionModify (port : Fin 2) (q : Fin 16) (k : Nat) : Statement (.regionModify port q k) := by
  intro w h; cases h

theorem regionDestroy (port : Fin 2) (q : Fin 16) (k : Nat) : Statement (.regionDestroy port q k) := by
  intro w h; cases h

theorem map (port : Fin 2) (q : Fin 16) (k : Nat) : Statement (.map port q k) := by
  intro w h; cases h

theorem unmap (port : Fin 2) (q : Fin 16) (k : Nat) : Statement (.unmap port q k) := by
  intro w h; cases h

theorem bind (port : Fin 2) (q : Fin 16) (k : Nat) : Statement (.bind port q k) := by
  intro w h; cases h

theorem hcopy (port : Fin 2) (q : Fin 16) (k : Nat) : Statement (.hcopy port q k) := by
  intro w h; cases h

theorem hsignal (port : Fin 2) (q : Fin 16) (k : Nat) : Statement (.hsignal port q k) := by
  intro w h; cases h

theorem hwait (port : Fin 2) (q : Fin 16) (k : Nat) : Statement (.hwait port q k) := by
  intro w h; cases h

theorem retire (port : Fin 2) (q : Fin 16) (k : Nat) : Statement (.retire port q k) := by
  intro w h; cases h

theorem resync (port : Fin 2) (q : Fin 16) (k : Nat) : Statement (.resync port q k) := by
  intro w h; cases h

theorem packetFetch (port : Fin 2) (q : Fin 16) : Statement (.packetFetch port q) := by
  intro w h; cases h

theorem packetIssue (port : Fin 2) (q : Fin 16) : Statement (.packetIssue port q) := by
  intro w h; cases h

theorem fetchRetry (port : Fin 2) (q : Fin 16) : Statement (.fetchRetry port q) := by
  intro w h; cases h

theorem hwaitPoll (port : Fin 2) (q : Fin 16) : Statement (.hwaitPoll port q) := by
  intro w h; cases h

theorem doorbell (port : Fin 2) (q : Fin 16) (v : BitVec 64) : Statement (.doorbell port q v) := by
  intro w h; cases h

theorem qctlEnable (port : Fin 2) (q : Fin 16) (v : BitVec 64) : Statement (.qctlEnable port q v) := by
  intro w h; cases h

theorem qctlDisable (port : Fin 2) (q : Fin 16) (v : BitVec 64) : Statement (.qctlDisable port q v) := by
  intro w h; cases h

theorem restart (port : Fin 2) (q : Fin 16) (v : BitVec 64) : Statement (.restart port q v) := by
  intro w h; cases h

theorem chead (port : Fin 2) (q : Fin 16) (v : BitVec 64) : Statement (.chead port q v) := by
  intro w h; cases h

theorem devnum (port : Fin 2) (v : BitVec 64) : Statement (.devnum port v) := by
  intro w h; cases h

theorem pwrlim (port : Fin 2) (v : BitVec 64) : Statement (.pwrlim port v) := by
  intro w h; cases h

theorem linkctx (port : Fin 2) (n : Fin 16) (v : BitVec 64) : Statement (.linkctx port n v) := by
  intro w h; cases h

theorem attcmdReport (port : Fin 2) (v : BitVec 64) : Statement (.attcmdReport port v) := by
  intro w h; cases h

theorem attcmdChain (port : Fin 2) (v : BitVec 64) : Statement (.attcmdChain port v) := by
  intro w h; cases h

theorem bootgo (port : Fin 2) (v : BitVec 64) : Statement (.bootgo port v) := by
  intro w h; cases h

theorem hostRegisterWrite (port : Fin 2) (off : Nat) (size : Nat) (v : BitVec 64) : Statement (.hostRegisterWrite port off size v) := by
  intro w h; cases h

theorem loaderMessage (core : Nat) : Statement (.loaderMessage core) := by
  intro w h; cases h

theorem streamCommandStart (core : Nat) : Statement (.streamCommandStart core) := by
  intro w h; cases h

theorem copyLand (core : Nat) (slot : Nat) (p : CopyPiece) : Statement (.copyLand core slot p) := by
  intro w h; cases h

theorem copyComplete (core : Nat) (slot : Nat) : Statement (.copyComplete core slot) := by
  intro w h; cases h

theorem followOnEntry (core : Nat) (slot : Nat) : Statement (.followOnEntry core slot) := by
  intro w h; cases h

theorem dcmpComplete (core : Nat) (slot : Nat) : Statement (.dcmpComplete core slot) := by
  intro w h; cases h

theorem fillComplete (core : Nat) (slot : Nat) (k : Nat) : Statement (.fillComplete core slot k) := by
  intro w h; cases h

theorem csumComplete (core : Nat) (slot : Nat) (k : Nat) : Statement (.csumComplete core slot k) := by
  intro w h; cases h

theorem sendAccept (core : Nat) (k : Nat) : Statement (.sendAccept core k) := by
  intro w h; cases h

theorem spawnStore (core : Nat) (slot : Nat) : Statement (.spawnStore core slot) := by
  intro w h; cases h

theorem spawnRingEntry (task : Nat) : Statement (.spawnRingEntry task) := by
  intro w h; cases h

theorem matrixCommandPerform (core : Nat) (k : Nat) : Statement (.matrixCommandPerform core k) := by
  intro w h; cases h

theorem mstComplete (core : Nat) : Statement (.mstComplete core) := by
  intro w h; cases h

theorem storeDrain (core : Nat) (strand : Fin 4) (k : Nat) : Statement (.storeDrain core strand k) := by
  intro w h; cases h

theorem loadPerform (core : Nat) (strand : Fin 4) (k : Nat) : Statement (.loadPerform core strand k) := by
  intro w h; cases h

theorem rowComplete (core : Nat) (strand : Fin 4) (q : Fin 4) : Statement (.rowComplete core strand q) := by
  intro w h; cases h

theorem semincApply (core : Nat) (strand : Fin 4) : Statement (.semincApply core strand) := by
  intro w h; cases h

theorem semIncrementArrival (core : Nat) (k : Nat) : Statement (.semIncrementArrival core k) := by
  intro w h; cases h

theorem residencyOpPerform (core : Nat) (strand : Fin 4) : Statement (.residencyOpPerform core strand) := by
  intro w h; cases h

theorem translationFault (core : Nat) (slot : Nat) (p : CopyPiece) : Statement (.translationFault core slot p) := by
  intro w h; cases h

theorem invalidation (unit : Nat) (k : Nat) : Statement (.invalidation unit k) := by
  intro w h; cases h

theorem handlerStart (core : Nat) (strand : Fin 4) : Statement (.handlerStart core strand) := by
  intro w h; cases h

theorem taskEnd (task : Nat) : Statement (.taskEnd task) := by
  intro w h; cases h

theorem asyncCauseDelivery (core : Nat) (strand : Fin 4) : Statement (.asyncCauseDelivery core strand) := by
  intro w h; cases h

theorem errorRecord (k : Nat) : Statement (.errorRecord k) := by
  intro w h; cases h

theorem collHop (k : Nat) : Statement (.collHop k) := by
  intro w h; cases h

theorem collCompletion (core : Nat) (k : Nat) : Statement (.collCompletion core k) := by
  intro w h; cases h

theorem gangRetry (k : Nat) : Statement (.gangRetry k) := by
  intro w h; cases h

theorem gangEnd (gang : Nat) : Statement (.gangEnd gang) := by
  intro w h; cases h

theorem tempoBoundary (cluster : Nat) : Statement (.tempoBoundary cluster) := by
  intro w h; cases h

theorem firingArrival (core : Nat) (k : Nat) : Statement (.firingArrival core k) := by
  intro w h; cases h

theorem preemptSave (task : Nat) : Statement (.preemptSave task) := by
  intro w h; cases h

theorem saveUnitApply (core : Nat) (k : Nat) : Statement (.saveUnitApply core k) := by
  intro w h; cases h

theorem retirementRequest (die : Fin 16) : Statement (.retirementRequest die) := by
  intro w h; cases h

theorem dieFailure (die : Fin 16) : Statement (.dieFailure die) := by
  intro w h; cases h

theorem linkTraining (n : Fin 16) (r : LinkResult) : Statement (.linkTraining n r) := by
  intro w h; cases h

theorem linkLossOfLock (n : Fin 16) : Statement (.linkLossOfLock n) := by
  intro w h; cases h

theorem scrub (core : Nat) (group : Fin 4) : Statement (.scrub core group) := by
  intro w h; cases h

theorem boot (die : Fin 16) (r : BootResult) : Statement (.boot die r) := by
  intro w h; cases h

theorem bootFallback  : Statement (.bootFallback ) := by
  intro w h; cases h

theorem dieReset (die : Fin 16) : Statement (.dieReset die) := by
  intro w h; cases h

theorem completionTimeout (core : Nat) (slot : Nat) (p : CopyPiece) : Statement (.completionTimeout core slot p) := by
  intro w h; cases h

theorem tag4PieceArrival (n : Fin 16) (va : BitVec 52) (write : Bool) (data : PeerBytes) : Statement (.tag4PieceArrival n va write data) := by
  intro w h; cases h

theorem linkLevelRetry (n : Fin 16) : Statement (.linkLevelRetry n) := by
  intro w h; cases h

theorem junctionLimit (die : Fin 16) : Statement (.junctionLimit die) := by
  intro w h; cases h

theorem hostPortLinkTraining (port : Fin 2) (widths : List Nat) (rates : List Nat) : Statement (.hostPortLinkTraining port widths rates) := by
  intro w h; cases h

end Sys2Proof.Laws.EncodeDecode
end

