-- ==== Sys2Proof/Laws/Supervisor.lean ====
section
/-! SUPPORT. Sys2Proof/Laws/Supervisor.lean: the small lemmas of a supervisor's registers and of what its addresses name. -/

namespace Sys2Proof.Machine

@[simp] theorem Supervisor.reg_zero (u : Supervisor) : u.reg 0#5 = 0#64 := rfl
@[simp] theorem Supervisor.setReg_zero (u : Supervisor) (v : Word) : u.setReg 0#5 v = u := rfl

/-- A register that is written is x, and nothing else. -/
theorem Supervisor.setReg_eq (u : Supervisor) (r : BitVec 5) (v : Word) :
    u.setReg r v = { u with x := if r = 0#5 then u.x else u.x.set r.toFin v } := by
  unfold Supervisor.setReg
  split <;> rfl
@[simp] theorem Supervisor.setReg_pc (u : Supervisor) (r : BitVec 5) (v : Word) : (u.setReg r v).pc = u.pc := by
  simp [Supervisor.setReg_eq]
@[simp] theorem Supervisor.setReg_mode (u : Supervisor) (r : BitVec 5) (v : Word) : (u.setReg r v).mode = u.mode := by
  simp [Supervisor.setReg_eq]
@[simp] theorem Supervisor.setReg_sram (u : Supervisor) (r : BitVec 5) (v : Word) : (u.setReg r v).sram = u.sram := by
  simp [Supervisor.setReg_eq]
@[simp] theorem Supervisor.setReg_minstret (u : Supervisor) (r : BitVec 5) (v : Word) : (u.setReg r v).minstret = u.minstret := by
  simp [Supervisor.setReg_eq]

@[simp] theorem Supervisor.nextWord_pc (u : Supervisor) : u.nextWord.pc = u.pc + 4#64 := rfl
@[simp] theorem Supervisor.nextWord_minstret (u : Supervisor) : u.nextWord.minstret = u.minstret + 1#64 := rfl
@[simp] theorem Supervisor.nextWord_x (u : Supervisor) : u.nextWord.x = u.x := rfl
@[simp] theorem Supervisor.nextWord_sram (u : Supervisor) : u.nextWord.sram = u.sram := rfl
@[simp] theorem Supervisor.setFreg_x (u : Supervisor) (dbl : Bool) (r : BitVec 5) (v : Nat) : (u.setFreg dbl r v).x = u.x := rfl
@[simp] theorem Supervisor.setFreg_pc (u : Supervisor) (dbl : Bool) (r : BitVec 5) (v : Nat) : (u.setFreg dbl r v).pc = u.pc := rfl
@[simp] theorem Supervisor.setFreg_sram (u : Supervisor) (dbl : Bool) (r : BitVec 5) (v : Nat) : (u.setFreg dbl r v).sram = u.sram := rfl

/-- Accrued flags are fcsr and FS, and nothing else. -/
theorem Supervisor.accrue_frame (u : Supervisor) (f : RvFlags) : (u.accrue f).x = u.x ∧ (u.accrue f).f = u.f ∧ (u.accrue f).pc = u.pc := by
  unfold Supervisor.accrue
  split <;> exact ⟨rfl, rfl, rfl⟩

/-- The private SRAM stands at address 0 (log entry 8). -/
theorem supPlace_private {k a : Nat} (h : a < privateSize) : supPlace k a = .priv a := by simp [supPlace, h]

/-- A load and a store of private SRAM. -/
theorem State.supLoad_private {s : State} {k a : Nat} (n : Nat) (h : a < privateSize) :
    s.supLoad k a n = some (leNat (readCells (s.cluster k).sup.sram a n)) := by simp [State.supLoad, supPlace_private h]
theorem State.supStore_private {s : State} {k a : Nat} (n : Nat) (v : Word) (h : a < privateSize) :
    s.supStore k a n v =
      some (s.modCluster k fun c => { c with sup := { c.sup with sram := writeCells c.sup.sram a (natBytes n v.toNat) } }) := by
  simp [State.supStore, supPlace_private h]

end Sys2Proof.Machine
end

