-- ==== Sys2Proof/Tests/Slice0.lean ====
section
/-! SUPPORT. Sys2Proof/Tests/Slice0.lean: tests against words and results that the spec writes out, and for every statement
with hypotheses states and operands that meet them. -/

set_option Elab.async false
set_option maxRecDepth 100000
set_option exponentiation.threshold 40000

namespace Sys2Proof.Tests

open Sys2Proof.Machine Sys2Proof.Claims

/-! ## Ill-formed terms, one for each check of Machine/Legal.lean (R63, R65, R72 to R82, R97, R98) -/

theorem test_fields_beyond_64_bits_are_ill_formed :
    ¬ (Instr.bfxZ64 1 2 63 1 .acc 1).WellFormed ∧ ¬ (Instr.bfxS64 1 2 62 2 .acc 1).WellFormed ∧
    ¬ (Instr.bfi 1 2 60 4 .acc 1).WellFormed := by decide
theorem test_unlisted_csrs_are_ill_formed :
    ¬ (Instr.csrr 1 0x004 .acc 1).WellFormed ∧ ¬ (Instr.csrw 1 0x033 .acc 1).WellFormed := by decide
theorem test_loop_level_3_and_limm_for_both_are_ill_formed :
    ¬ (Instr.loop 3 1 1 .acc 1).WellFormed ∧ ¬ (Instr.loop 0 1 0 .acc 1).WellFormed ∧ ¬ (Instr.brkl 3 .acc 1).WellFormed ∧
    ¬ (Instr.limm 0 .both).WellFormed ∧ ¬ (Instr.fmtsel 3 1 1).WellFormed ∧ ¬ (Instr.fmtsel 1 0 1).WellFormed := by decide
theorem test_memory_words_ill_formed :
    ¬ (Instr.ld 1 2 0 7 1).WellFormed ∧ ¬ (Instr.ldAcq 1 2 0 7 1).WellFormed ∧ ¬ (Instr.amo 1 2 3 0 0 7 1).WellFormed ∧
    ¬ (Instr.amo 1 2 3 1 0 0 1).WellFormed ∧ ¬ (Instr.gath 0 1 0 16 3 1).WellFormed ∧ ¬ (Instr.scat 0 1 0 0 0 1).WellFormed ∧
    ¬ (Instr.xsndPanel 0 16 0 0 1).WellFormed ∧ ¬ (Instr.xsndPanel 0 0 15 1 1).WellFormed := by decide
theorem test_matrix_words_ill_formed :
    ¬ (Instr.mma 0 1 2 11 0 1).WellFormed ∧ ¬ (Instr.mma 1 1 2 1 1 1).WellFormed ∧ ¬ (Instr.mmaSat 0 1 2 0 0 1).WellFormed ∧
    ¬ (Instr.mmas 0 1 2 0 0 1).WellFormed ∧ ¬ (Instr.mst 1 2 3 10 0 1).WellFormed ∧ (Instr.mst 1 2 3 1 1 1).WellFormed ∧
    ¬ (Instr.mstSat 1 2 3 31 0 1).WellFormed := by decide
theorem test_panel_words_ill_formed :
    ¬ (Instr.vadd 16 0 0 0 0 1).WellFormed ∧ ¬ (Instr.vadd 0 20 0 0 0 1).WellFormed ∧ ¬ (Instr.vsub 0 0 0 2 11 1).WellFormed ∧
    ¬ (Instr.vmul 0 0 0 0 6 1).WellFormed ∧ ¬ (Instr.vfma 0 0 0 1 31 1).WellFormed ∧ ¬ (Instr.vmin 0 0 0 6 1).WellFormed ∧
    ¬ (Instr.vmax 0 0 20 0 1).WellFormed ∧ ¬ (Instr.vabs 0 0 15 1).WellFormed ∧ ¬ (Instr.vneg 16 0 0 1).WellFormed ∧
    ¬ (Instr.vand 0 0 0 0 1).WellFormed ∧ ¬ (Instr.vnot 0 0 0 1).WellFormed ∧ ¬ (Instr.vshl 0 0 0 0 1).WellFormed ∧
    ¬ (Instr.vcmp 0 0 0 3 11 1).WellFormed ∧ ¬ (Instr.vsel 0 0 0 6 1).WellFormed := by decide
theorem test_panel_words_ill_formed_too :
    ¬ (Instr.vcvt 0 0 6 0 0 1).WellFormed ∧ ¬ (Instr.vcvtSat 0 0 0 1 11 1).WellFormed ∧ ¬ (Instr.vrshr 0 0 0 14 1).WellFormed ∧
    ¬ (Instr.vexp2 0 0 0 4 1).WellFormed ∧ ¬ (Instr.vrsq 0 0 0 11 1).WellFormed ∧ ¬ (Instr.vredr 0 0 3 0 0 1).WellFormed ∧
    ¬ (Instr.vscan 0 0 1 1 0 1).WellFormed ∧ ¬ (Instr.vbcr 0 0 0 6 1).WellFormed ∧ ¬ (Instr.vperm 0 0 20 0 1).WellFormed ∧
    ¬ (Instr.part 0 0 0 11 1).WellFormed ∧ ¬ (Instr.vtopk 0 0 0 1 1).WellFormed ∧ ¬ (Instr.vmov 16 0 1).WellFormed ∧
    ¬ (Instr.vmovi 16 0 1).WellFormed ∧ ¬ (Instr.vins 16 0 0 0 1).WellFormed ∧ ¬ (Instr.vext 0 16 0 0 1).WellFormed ∧
    ¬ (Instr.fcvt 0 0 4 0 1 4 1).WellFormed := by decide

/-! ## Worked words of the spec, family by family -/

theorem test_words_of_shared_integer :
    decodeTableWord 32 0x02321401 = some (.add 3 4 5 .both 1) ∧
    decodeTableWord 32 0x0232140B = some (.sub 3 4 5 .acc 1) ∧
    decodeTableWord 32 0x02321413 = some (.and 3 4 5 .acc 1) ∧
    decodeTableWord 32 0x0232141B = some (.or 3 4 5 .acc 1) ∧
    decodeTableWord 32 0x02321423 = some (.xor 3 4 5 .acc 1) ∧
    decodeTableWord 32 0x0232142B = some (.shl 3 4 5 .acc 1) ∧
    decodeTableWord 32 0x1032003D = some (.sraImm 3 4 7 .exe 1) ∧
    decodeTableWord 32 0x0232144B = some (.sltu 3 4 5 .acc 1) ∧
    decodeTableWord 32 0x0232146B = some (.maxZ64 3 4 5 .acc 1) ∧
    decodeTableWord 32 0x02531C9D = some (.madd 5 6 7 .exe 1) := by decide
theorem test_words_of_immediates_and_fields :
    decodeTableWord 32 0x0463000B = some (.addi 6 6 1 .acc 1) ∧
    decodeTableWord 32 0x0694FF85 = some (.andi 9 9 (-16) .exe 1) ∧
    decodeTableWord 32 0x08700803 = some (.ori 7 0 0x100 .acc 1) ∧
    decodeTableWord 32 0x0A52FFFD = some (.xori 5 5 (-1) .exe 1) ∧
    decodeTableWord 32 0x12320643 = some (.bfxZ64 3 4 3 8 .acc 1) ∧
    decodeTableWord 32 0x165307E5 = some (.bfi 5 6 3 60 .exe 1) ∧
    decodeTableWord 32 0x18301603 = some (.lui 3 0x2C0 .acc 1) ∧
    decodeTableWord 32 0x1A091A2A = some (.limm 0x12345 .acc) := by decide
theorem test_words_of_control :
    decodeTableWord 32 0x28307FFB = some (.bne 3 0 (-1) .acc 1) ∧
    decodeTableWord 32 0x22000141 = some (.call 40 .both 1) ∧
    decodeTableWord 32 0x24000003 = some (.ret .acc 1) ∧
    decodeTableWord 32 0x21FFFFDB = some (.br (-5) .acc 1) ∧
    decodeTableWord 32 0x34100003 = some (.brkl 1 .acc 1) ∧
    decodeTableWord 32 0x00000001 = some (.nop .both 1) ∧
    decodeTableWord 32 0x1C3000A5 = some (.csrr 3 0x014 .exe 1) := by decide
theorem test_words_of_access_memory :
    decodeTableWord 32 0x8050841B = some (.ld 5 1 16 3 1) ∧
    decodeTableWord 32 0x82257E33 = some (.ldAcq 2 10 (-8) 6 1) ∧
    decodeTableWord 32 0x8451001B = some (.st 5 2 0 3 1) ∧
    decodeTableWord 32 0x88250443 = some (.amo 2 10 1 0 1 0 1) ∧
    decodeTableWord 32 0x8A250C0B = some (.cas 2 10 3 1 1) ∧
    decodeTableWord 32 0x8C12007B = some (.pld 1 4 15 1) ∧
    decodeTableWord 32 0x94028003 = some (.qsnd 0 5 1) := by decide
theorem test_words_of_access_system :
    decodeTableWord 32 0xA000802B = some (.seminc 1 5 1) ∧
    decodeTableWord 32 0xA2000023 = some (.semset 0 4 1) ∧
    decodeTableWord 32 0xA402002B = some (.semwait 4 5 1) ∧
    decodeTableWord 32 0xA862141B = some (.mbreg 6 4 5 3 1) ∧
    decodeTableWord 32 0xBA321403 = some (.reside 3 4 5 1) ∧
    decodeTableWord 32 0xBC320003 = some (.evict 3 4 1) ∧
    decodeTableWord 32 0xBE620003 = some (.rquery 6 4 1) ∧
    decodeTableWord 32 0xC200001B = some .exit ∧
    decodeTableWord 32 0xC200002B = some .eret ∧
    decodeTableWord 32 0xC2000003 = some .fence ∧
    decodeTableWord 32 0xC400003B = some (.trap 7) := by decide
theorem test_words_of_access_matrix :
    decodeTableWord 32 0xAA5214AB = some (.mma 5 4 5 5 1 1) ∧
    decodeTableWord 32 0xAF321663 = some (.mmas 19 4 5 19 0 1) ∧
    decodeTableWord 32 0xB2020013 = some (.mld 4 2 1) ∧
    decodeTableWord 32 0xB4540003 = some (.mst 5 8 0 0 0 1) ∧
    decodeTableWord 32 0xB000001B = some (.mzero 3 1) := by decide
theorem test_words_of_execute_scalar :
    decodeTableWord 32 0x80319005 = some (.fadd 3 3 4 0 0 1) ∧
    decodeTableWord 32 0x8421908D = some (.fcmp 2 3 4 1 1 1) ∧
    decodeTableWord 32 0x86320165 = some (.fcvt 3 4 0 1 1 4 1) ∧
    decodeTableWord 32 0x8C300005 = some (.xrcv 3 0 1) ∧
    decodeTableWord 32 0x8A138005 = some (.xsndScalar 1 7 1) ∧
    decodeTableWord 32 0x8A223C0D = some (.xsndPanel 2 4 15 0 1) ∧
    decodeTableWord 32 0xD4000045 = some (.wrot 1 0 1) ∧
    decodeTableWord 32 0xD603801D = some (.fmtset 7 3 1) ∧
    decodeTableWord 32 0xD800001D = some (.fmtsel 1 1 1) := by decide
theorem test_words_of_panel_arithmetic :
    decodeTableWord 32 0x96A14405 = some (.vfma 10 2 17 0 0 1) ∧
    decodeTableWord 32 0x90110D5D = some (.vadd 1 2 3 1 11 1) ∧
    decodeTableWord 32 0x94531CFD = some (.vmul 5 6 7 0 31 1) ∧
    decodeTableWord 32 0x9C320005 = some (.vabs 3 4 0 1) ∧
    decodeTableWord 32 0x9E110C8D = some (.vand 1 2 3 17 1) ∧
    decodeTableWord 32 0x9A110C05 = some (.vmax 1 2 3 0 1) ∧
    decodeTableWord 32 0xB020802D = some (.vcvt 2 1 0 0 5 1) ∧
    decodeTableWord 32 0xB220805D = some (.vcvtSat 2 1 0 0 11 1) := by decide
theorem test_words_of_stream_commands :
    decodeTableWord 32 0xA6531DFB = some (.send 5 6 7 63 1) ∧
    decodeTableWord 32 0xB8538003 = some (.coll 5 7 1) ∧
    decodeTableWord 32 0xC0530003 = some (.spawn 5 6 1) := by decide
theorem test_words_of_panel_movement :
    decodeTableWord 32 0xB6320005 = some (.vexp2 3 4 0 0 1) ∧
    decodeTableWord 32 0xB8530005 = some (.vredr 5 6 0 0 0 1) ∧
    decodeTableWord 32 0xC4428005 = some (.vscan 4 5 0 0 0 1) ∧
    decodeTableWord 32 0xCA531C05 = some (.vtopk 5 6 7 0 1) ∧
    decodeTableWord 32 0xD0419405 = some (.vins 4 3 5 0 1) ∧
    decodeTableWord 32 0xD232146D = some (.vext 3 4 5 13 1) ∧
    decodeTableWord 32 0xCE100005 = some (.vmovi 1 0 1) ∧
    decodeTableWord 32 0xCC990005 = some (.vmov 9 18 1) ∧
    decodeTableWord 32 0xBC610C05 = some (.vbcr 6 2 3 0 1) := by decide
theorem test_words_of_panel_selection :
    decodeTableWord 32 0xC841188D = some (.part 4 2 6 17 1) ∧
    decodeTableWord 32 0xAC708905 = some (.vcmp 7 1 2 1 0 1) ∧
    decodeTableWord 32 0xAE708805 = some (.vsel 7 1 2 0 1) ∧
    decodeTableWord 32 0xB430885D = some (.vrshr 3 1 2 11 1) ∧
    decodeTableWord 32 0xA6110C8D = some (.vshl 1 2 3 17 1) ∧
    decodeTableWord 32 0xC621907D = some (.vperm 2 3 4 15 1) ∧
    decodeTableWord 32 0xC0610C05 = some (.vrotr 6 2 3 0 1) := by decide
theorem test_word_of_the_supervisor : decodeTableWord 32 0x00B5328B = some (.disp 11 10 5) := by decide
/-- R60, R72, R75: G = 11, an unlisted CSR and an unassigned major are refused. -/
theorem test_unassigned_words_are_refused :
    decodeTableWord 32 0x00000007 = none ∧ decodeTableWord 32 0x1C300025 = none ∧ decodeTableWord 32 0xFFFFFFFF = none := by decide

/-! ## States for the witnesses -/

/-- A core that runs one strand of task 1 at the first word of its text [0x2C_0000, 0x30_0000). -/
def base : State := { State.reset.placed with cur := { Cur.reset with pc := 0x2C0000#22 } }

/-- That state with its strand changed. -/
def strandState (f : Strand → Strand) : State := base.modStrand 0 0 f

/-- That state with its core changed. -/
def coreState (f : Core → Core) : State := base.modCore 0 f

/-- Registers a1 = `v` and x1 = `v`. -/
def regState (v : Word) : State := strandState fun t => { t with areg := t.areg.set 1 v, xreg := t.xreg.set 1 v }

/-- The word at another place. -/
def atPc (s : State) (pc : BitVec 22) : State := { s with cur := { s.cur with pc := pc } }

/-- The word acts for the execute counter. -/
def asX (s : State) : State := { s with cur := { s.cur with ctr := .x } }

/-- The word is in a group of two. -/
def inGroup (s : State) : State := { s with cur := { s.cur with phase := .first } }

/-- The task that `base` runs. -/
def task1 : Task := base.tasks.headD default

/-- A region that came through port 0, debug-enabled, its own root. -/
def region1 : Region :=
  { regid := 1#64, pa := 0x10000, parent := 0, ovr := 0x7FF#32, depth := 0, prio := 3, numver := 3, flags := 3#8, clusters := 1#64,
    cores := 64, reserved := 0, cpool := 0, dpool := 0, hbm := 0, linkshare := 0, fdom := 0x1000#16, spare := 0, root := 0x20000,
    heapBase := 0, heapLen := 0, tempoLog := 16, port := 0, cwin := [], dwin := [], ending := false }

theorem clean_of {m : Ram} (a n : Nat) (h : m.poison = []) : Clean m a n := fun w _ _ hw => by rw [h] at hw; cases hw
theorem outOfText_of {s : State} {a n : Nat}
    (h : (s.textRanges s.cur.core).all (fun r => decide (a + n ≤ r.1) || decide (r.2 ≤ a)) = true) : OutOfText s a n :=
  fun r hr => by simpa using List.all_eq_true.mp h r hr

theorem no_reads {u : Strand} {n : Nat} (h : u.reads = []) : ReadsDone u n := fun _ _ hr => by rw [h] at hr; cases hr

/-! ## Witnesses: scalar words, CSRs, control -/

theorem witness_scalar_words : Issues base 1#1 ∧ Issues (inGroup base) 0#1 ∧ Available base .a [1#5, 2#5, 3#5] ∧
    Available base .x [31#5] := ⟨fun _ => rfl, fun h => absurd h (by decide), fun _ => by decide,
    fun h => nomatch h⟩
theorem witness_fields_at_both_ends : (0#6).toNat + (63#6).toNat + 1 ≤ 64 ∧ (63#6).toNat + (0#6).toNat + 1 ≤ 64 := by decide
theorem witness_limm_alone_and_in_a_group : base.cur.phase = .single ∧ (inGroup base).cur.phase ≠ .single := by decide
theorem witness_plain_csrs : ∀ p ∈ plainCsrs, (regState 0x30#64).me.reg .a 1#5 &&& p.2.1 = 0#64 := by decide
theorem witness_slipw_at_its_top : (regState 0x7FF#64).me.reg .x 1#5 &&& 0xFFFFFFFFFFFFF800#64 = 0#64 := by decide
theorem witness_csrw_effects :
    (regState 0xF#64).me.reg .a 1#5 &&& 0xFFFFFFFFFFFFFFF0#64 = 0#64 ∧
    (regState 0x6F#64).me.reg .a 1#5 &&& 0xFFFFFFFFFFFFFF80#64 = 0#64 ∧ (0x6F#64).extractLsb' 4 2 ≠ 3#2 ∧
    (regState 0xFFFFFFFF#64).me.reg .a 1#5 &&& 0xFFFFFFFF00000000#64 = 0#64 ∧
    (regState 0x300000#64).me.reg .a 1#5 &&& 0xFFFFFFFFFFC00000#64 = 0#64 := by decide
theorem witness_fmtidx_follows_its_level :
    let s := strandState fun t => { t with loopsX := t.loopsX.set 2 ⟨true, false, 3#32, 5#32, 0x2C0004#22, 0x2C0010#22⟩ }
    (s.me.loopsX.get 2).active = true ∧ ((0x60#64).extractLsb' 4 2).toNat = (2 : Fin 3).val ∧ (0x60#64).getLsbD 6 = true := by decide
theorem witness_inject_in_a_debug_region :
    let s := { base with regions := [region1] }
    (0x203_0000_0000#64) &&& 0xFFFFE00000000000#64 = 0#64 ∧ s.debugRegion (s.regidOf s.me.task) = true ∧
    ¬ ((0x203_0000_0000#64).getLsbD 32 = true ∧ (0x203_0000_0000#64).extractLsb' 33 8 = 0#8) := by decide
theorem witness_trapvec_releases_the_levels :
    (strandState fun t => { t with trapvec := 3#64 }).me.trapvec.getLsbD 1 = true ∧ (1#64).getLsbD 1 = false := by decide
theorem witness_csrw_refusals :
    (0x003#12).toNat ≤ 3 ∧ (∀ p ∈ plainCsrs, 0xFFFFFFFFFFFFFFFF#64 &&& p.2.1 ≠ 0#64) ∧ 0x10#64 &&& 0xFFFFFFFFFFFFFFF0#64 ≠ 0#64 ∧
    (0x30#64).extractLsb' 4 2 = 3#2 ∧ 0x80#64 &&& 0xFFFFFFFFFFFFFF80#64 ≠ 0#64 ∧ 0x100000000#64 &&& 0xFFFFFFFF00000000#64 ≠ 0#64 ∧
    base.debugRegion (base.regidOf base.me.task) = false ∧ 0x400000#64 &&& 0xFFFFFFFFFFC00000#64 ≠ 0#64 := by decide
theorem witness_numver_writes :
    (regState 4#64).me.reg .a 1#5 &&& 0xFFFFFFFFFFFFFFFC#64 ≠ 0#64 ∧ (regState 0#64).me.reg .a 1#5 = 0#64 ∧
    (regState 1#64).me.reg .a 1#5 = 1#64 ∧ (regState 3#64).me.reg .x 1#5 = 3#64 := by decide
theorem witness_flags_there_and_not :
    FlagsThere base .x 0x014#12 ∧ ¬ FlagsThere (asX (strandState fun t => { t with fpPend := [0x20#6] })) .x 0x014#12 ∧
    Direct base .a ∧ Direct base .x :=
  ⟨by unfold FlagsThere; decide, by unfold FlagsThere; decide, fun _ => by decide, fun h => nomatch h⟩
/-- A read that hides what the access counter does. -/
theorem witness_csrw_behind_a_read :
    let s (v : Word) := { (strandState fun t => { t with areg := t.areg.set 1 v, reads := [default], rdNext := 1 }) with regions := [region1] }
    (∀ v, hidden (s v) = true) ∧ tagCtr .both (s 3#64) = .a ∧ Available (s 3#64) .a [1#5] ∧ (s 3#64).me.a 1#5 = 3#64 ∧
    (∀ p ∈ writableCsrs, 3#64 &&& p.2.1 = 0#64 ∨ p.1 = 0x031#12) ∧ 0x2C0004#64 &&& 0xFFC00003FFC00003#64 = 0#64 ∧
    (3#64).extractLsb' 4 2 ≠ 3#2 ∧ (s 3#64).debugRegion ((s 3#64).regidOf (s 3#64).me.task) = true ∧ (3#64).getLsbD 32 = false :=
  ⟨fun _ => rfl, by decide, fun _ => by decide, by decide, by unfold writableCsrs; decide, by decide, by decide, by decide, by decide⟩
theorem witness_branches_taken_and_not : (regState 5#64).me.reg .a 1#5 ≠ (regState 5#64).me.reg .a 0#5 ∧
    (regState 0#64).me.reg .a 1#5 = (regState 0#64).me.reg .a 0#5 := by decide
theorem witness_ret_aligned_and_not :
    let s (v : Word) := strandState fun t => { t with areg := t.areg.set 31 v }
    ((s 0x2C0008#64).me.reg .a 31#5).extractLsb' 0 2 = 0#2 ∧ ((s 0x2C0009#64).me.reg .a 31#5).extractLsb' 0 2 ≠ 0#2 := by decide

/-- Level 1 of both counters is active, with its end at `stop`. -/
def loopState (held : Bool) (rem : BitVec 32) (stop : BitVec 22) : State :=
  let l : Level := ⟨true, held, rem, 5#32, 0x2C0000#22, stop⟩
  strandState fun t => { t with loopsA := t.loopsA.set 1 l, loopsX := t.loopsX.set 1 l }

theorem witness_loop_ends_at_the_last_word :
    let s := atPc base 0x2FFFF8#22
    (1#12) ≠ 0#12 ∧ (s.textOf s.me).1 ≤ loopEnd s 1#12 ∧ loopEnd s 1#12 < (s.textOf s.me).2 ∧
    ((levels s.me .a).get 2).held = false := by decide
theorem witness_loop_counts : countOf ((regState 0xFFFFFFFFFFFFFFFF#64).me.reg .a 1#5) ≠ 0 ∧
    countOf ((regState 0#64).me.reg .a 1#5) = 0 := by decide
theorem witness_loop_refusals :
    let s := atPc base 0x2FFFF8#22
    let t := atPc base 0x3FFFFC#22
    ((levels (loopState true 2#32 0#22).me .a).get 1).held = true ∧ ¬ (loopEnd s 2#12 < (s.textOf s.me).2) ∧ loopEnd s 2#12 < 2 ^ 22 ∧
    ¬ (loopEnd t 1#12 < (t.textOf t.me).2) ∧ 2 ^ 22 ≤ loopEnd t 1#12 := by decide
theorem witness_brkl :
    ((levels (loopState false 2#32 0#22).me .x).get 1).active = true ∧ ((levels (loopState false 2#32 0#22).me .x).get 1).held = false ∧
    ((levels base.me .x).get 1).active = false := by decide
theorem witness_passing_a_loop_end :
    let s := loopState false 2#32 0x2C0000#22
    let u := loopState false 1#32 0x2C0000#22
    s.cur.phase = .single ∧ ((levels s.me .a).get 1).active = true ∧ ((levels s.me .a).get 1).held = false ∧
    ((levels s.me .a).get 1).stop = s.cur.pc ∧ 1 < ((levels s.me .a).get 1).rem.toNat ∧
    ((levels s.me .a).get 0).active = false ∧ ((levels u.me .a).get 1).stop = u.cur.pc ∧ ((levels u.me .a).get 1).rem.toNat ≤ 1 := by
  decide
theorem witness_rotation :
    let s := asX (strandState fun t =>
      { t with rotbase := 15#64, fmtidx := 0x40#64, loopsX := t.loopsX.set 0 ⟨true, false, 1#32, 5#32, 0#22, 0x2C0000#22⟩ })
    s.cur.phase = .single ∧ s.cur.rotw = false ∧ tagCtr .exe s = .x ∧ (s.me.loopsX.get 0).active = true ∧
    (s.me.loopsX.get 0).stop = s.cur.pc ∧ s.me.rotbase.getLsbD 3 = true ∧ s.me.fmtidx.getLsbD 6 = true ∧
    (s.me.fmtidx.extractLsb' 4 2).toNat = (0 : Fin 3).val := by decide
theorem witness_an_index_of_an_inactive_level :
    let s := strandState fun t => { t with fmtidx := 7#64 }
    (s.me.loopsX.get 2).active = false ∧ s.me.fmtidx &&& 15#64 ≠ 0#64 := by decide
theorem witness_format_table_words :
    (0x4A52#64).toNat < 2 ^ 20 ∧ (∀ c ∈ [0x4A52 % 32, 0x4A52 / 32 % 32, 0x4A52 / 1024 % 32],
      c ∈ [0, 1, 2, 3, 4, 5, 9, 11, 12, 13, 14, 15, 16, 17, 18]) ∧ ¬ ((0x100000#64).toNat < 2 ^ 20) := by decide

/-! ## Witnesses: exceptions and the end of a strand -/

/-- A read of strand 0 of core 0 by the word at 0x2C_0000 is outstanding, with a handler ready for its causes. -/
def readOp (kind : ReadKind) (left : List ReadPiece) : ReadOp := ⟨0, 0x2C0000#22, kind, left, [], 1, 0, default⟩
def readState (kind : ReadKind) (left : List ReadPiece) (f : Strand → Strand) : State :=
  strandState fun t => f { t with areg := t.areg.set 1 0x2FFFF4#64, reads := [readOp kind left], rdNext := 1, trapvec := 0x2C0001#64 }
/-- TRAPVEC = `v`. -/
def vecState (v : Word) : State := strandState fun t => { t with trapvec := v, areg := t.areg.set 31 2#64 }

theorem witness_handler_ready : HandlerReady (vecState 0x2C0001#64) ∧ HandlerReady (vecState 0x2FFFFD#64) ∧
    Available (vecState 0x2C0001#64) .a [31#5] ∧ ((vecState 0x2C0001#64).me.reg .a 31#5).extractLsb' 0 2 ≠ 0#2 :=
  ⟨by unfold HandlerReady; decide, by unfold HandlerReady; decide, fun _ => by decide, by decide⟩
theorem witness_no_handler : ¬ HandlerReady base ∧ ¬ HandlerReady (vecState 0x2C0003#64) ∧ ¬ HandlerReady (vecState 0x300001#64) ∧
    base.me.reads = [] ∧
    base.task? base.me.task = some task1 ∧ task1.core < 4096 := by unfold HandlerReady; decide
theorem witness_eret :
    let s := strandState fun t => { t with trapvec := 3#64, xstop := .eret }
    s.me.trapvec.getLsbD 1 = true ∧ s.me.xstop = .eret ∧ s.me.reads = [] ∧ base.me.trapvec.getLsbD 1 = false ∧ base.me.xstop ≠ .eret := by decide
theorem witness_exit :
    let s := strandState fun t => { t with xstop := .exit }
    s.me.xstop = .exit ∧ s.myCore.strandQuiet s.cur.strand = true ∧ s.me.task ≠ 0 ∧ s.task? s.me.task = some task1 ∧
    task1.st = .running ∧ (∀ n, n ≠ s.cur.strand → (s.strand s.cur.core n).task = s.me.task →
      (s.strand s.cur.core n).handler = true) ∧ ¬ (base.me.xstop = .exit) := by decide
theorem witness_exit_with_another_strand :
    let s := (strandState fun t => { t with xstop := .exit }).modStrand 0 3 fun t => { t with task := 1 }
    (3 : Fin 4) ≠ s.cur.strand ∧ (s.strand s.cur.core 3).task = s.me.task ∧ (s.strand s.cur.core 3).handler = false := by decide
/-- The strand's task, waiting for the task of TASKID 1, itself. -/
def waitingTask (fired : Bool) : Task := { task1 with prods := [1#64], fired := fired }
/-- That task runs, and its firing has reached the core where `fired`. -/
def waitState (fired : Bool) : State :=
  { (base.modCore 0 fun k => { k with firings := if fired then [1] else [] }) with tasks := [waitingTask fired] }
theorem witness_trig_and_yield : (strandState fun t => { t with handler := true }).me.handler = true ∧ base.me.handler = false ∧
    base.me.reads = [] ∧ (readState (.reg 1#5 3#3) [⟨0, 0, 8⟩] id).me.reads ≠ [] := by decide
theorem witness_dwait_ready : (waitState true).task? (waitState true).me.task = some (waitingTask true) ∧
    ∀ p ∈ (waitingTask true).prods, ∃ u ∈ (waitState true).tasks, u.tid = p ∧ u.fired = true ∧
      (waitState true).contextOf u.regid = (waitState true).contextOf (waitingTask true).regid ∧
      u.key ∈ ((waitState true).core (waitState true).cur.core).firings :=
  ⟨by decide, List.forall_mem_singleton.mpr ⟨waitingTask true, List.mem_singleton.mpr rfl, rfl, rfl, rfl, by decide⟩⟩
theorem witness_dwait_waits : (waitState false).task? (waitState false).me.task = some (waitingTask false) ∧
    ¬ ∀ p ∈ (waitingTask false).prods, ∃ u ∈ (waitState false).tasks, u.tid = p ∧ u.fired = true :=
  ⟨by decide, fun h => by
    obtain ⟨u, hu, -, hf⟩ := h 1#64 (List.mem_singleton.mpr rfl)
    rw [List.mem_singleton.mp hu] at hf
    exact absurd hf (by decide)⟩

/-! ## Witnesses: local memory and queues -/

theorem witness_loads_at_the_top_of_sram :
    let s := regState 0x2FFFF8#64
    InLocal (loadAddr s 1#5 0#9) (typeBytes 3) ∧ Available s .a [1#5, 1#5] ∧
    piecesOf (loadAddr s 1#5 0#9).toNat (typeBytes 3) = [⟨0, 0x2FFFF8, 8⟩] ∧ s.afterSolid = false ∧
    Clean s.myCore.sram (loadAddr s 1#5 0#9).toNat 8 :=
  ⟨by unfold InLocal; decide, fun _ => by decide, by decide, by decide, clean_of _ _ (by decide)⟩
theorem witness_crossing_loads :
    let s := regState 0x2FFFF4#64
    InLocal (loadAddr s 1#5 0#9) 8 ∧ piecesOf (loadAddr s 1#5 0#9).toNat 8 = [⟨0, 0x2FFFF4, 4⟩, ⟨4, 0x2FFFF8, 4⟩] ∧ s.me.reads = [] := by
  unfold InLocal; decide
theorem witness_reads_are_performed :
    let p : ReadPiece := ⟨0, 0x2FFFF4, 4⟩
    let r := readOp (.reg 1#5 3#3) [p, ⟨4, 0x2FFFF8, 4⟩]
    let one := readOp (.reg 1#5 2#3) [p]
    let s := readState (.reg 1#5 3#3) [p, ⟨4, 0x2FFFF8, 4⟩] id
    let u := readState (.reg 1#5 2#3) [p] id
    (s.strand 0 0).reads = r :: [] ∧ r.left[0]? = some p ∧ (∀ x, r.kind ≠ .check x) ∧
    ¬ Kept (s.strand 0 0) r p ∧ r.left.eraseIdx 0 ≠ [] ∧
    (s.strand 0 0).loadPoisoned (s.core 0).sram r.stores p.addr p.len = false ∧
    (u.strand 0 0).reads = one :: [] ∧ one.left.eraseIdx 0 = [] ∧ one.kind = .reg 1#5 2#3 :=
  ⟨rfl, rfl, fun _ h => (by cases h), by unfold Kept; decide, by decide, by decide, rfl, rfl, rfl⟩
/-- What a read hid, of each kind. -/
theorem witness_hidden_effects :
    let p : ReadPiece := ⟨0, 0x2FFFF4, 4⟩
    let s (o : LateKind) := readState (.reg 1#5 2#3) [p] fun t => { t with late := [⟨1, o⟩] }
    ∀ o ∈ [LateKind.take 63 1#64, .bind 1 ⟨true, 0#32, 8#32, 0x2C0000#32, 1, true⟩, .fire, .yield, .csr 0x010 3#64, .csr 0x014 3#64,
        .csr 0x032 1#64, .eret 5#64 0x2C0000#22],
      ((s o).strand 0 0).reads = [readOp (.reg 1#5 2#3) [p]] ∧ ((s o).strand 0 0).late = [⟨1, o⟩] ∧
      ¬ Kept ((s o).strand 0 0) (readOp (.reg 1#5 2#3) [p]) p ∧ (((s o).core 0).mailboxes.get 1).valid = false ∧
      ((s o).strand 0 0).loadPoisoned ((s o).core 0).sram 1 p.addr p.len = false ∧ (s o).task? 1 = some task1 := by
  unfold Kept; decide
theorem witness_a_held_read :
    let s := readState (.reg 1#5 3#3) [⟨0, 0x1000, 8⟩] fun t =>
      { t with sbuf := [⟨0, none, false, [[(0x1007, 1#8)]], [0], 0, 1⟩], sbNext := 1 }
    Kept (s.strand 0 0) (readOp (.reg 1#5 3#3) [⟨0, 0x1000, 8⟩]) ⟨0, 0x1000, 8⟩ := by unfold Kept; decide
theorem witness_a_poisoned_read :
    let p : ReadPiece := ⟨0, 0x2FFFF8, 8⟩
    let s := (readState (.reg 1#5 3#3) [p] id).modCore 0 fun k => { k with sram := ⟨[], [0x5FFFF]⟩ }
    (s.strand 0 0).reads = readOp (.reg 1#5 3#3) [p] :: [] ∧ HandlerReadyAt s 0 0 ∧ ¬ Kept (s.strand 0 0) (readOp (.reg 1#5 3#3) [p]) p ∧
    (s.strand 0 0).loadPoisoned (s.core 0).sram 1 p.addr p.len = true := by unfold HandlerReadyAt Kept; decide
/-- Six lines wait in the store buffer. -/
def sixLines : State :=
  strandState fun t => { t with areg := t.areg.set 1 0x2BFFFC#64
                                sbuf := (List.range 6).map fun i => ⟨i, some i, false, [[(64 * i, 1#8)]], [], 0, 1⟩, sbNext := 6 }
theorem witness_stores_up_to_the_text : Available sixLines .a [2#5, 1#5] ∧ InLocal (loadAddr sixLines 1#5 0#9) 8 ∧
    InLocal (loadAddr sixLines 1#5 (-4)) 8 ∧ OutOfText sixLines (loadAddr sixLines 1#5 (-4)).toNat 8 ∧
    Clean sixLines.myCore.sram (loadAddr sixLines 1#5 (-4)).toNat 8 ∧ sixLines.me.lineEntries ≤ 6 :=
  ⟨fun _ => by decide, by unfold InLocal; decide, by unfold InLocal; decide, outOfText_of (by decide), clean_of _ _ (by decide),
    by decide⟩
theorem witness_accesses_out_of_bounds :
    ¬ InLocal (loadAddr (regState 0x2FFFF9#64) 1#5 0#9) (typeBytes 3) ∧ ¬ InLocal (loadAddr (regState (2 ^ 60)) 1#5 0#9) (typeBytes 0) ∧
    ¬ InLocal (loadAddr (regState 0xFFFFFFFFFFFFFFF8#64) 1#5 16#9) (typeBytes 3) ∧
    ¬ OutOfText (regState 0x2BFFFC#64) (loadAddr (regState 0x2BFFFC#64) 1#5 0#9).toNat (typeBytes 3) ∧
    InSram ((regState 4#64).me.a 1#5) 8 ∧ ((regState 4#64).me.a 1#5).toNat % 8 ≠ 0 := by
  refine ⟨by unfold InLocal; decide, by unfold InLocal; decide, by unfold InLocal; decide, fun h => ?_, by unfold InSram; decide, by decide⟩
  exact absurd (h (0x2C0000, 0x300000) (by decide)) (by decide)
/-- a1 = 0x2B_FFF8, a2 = `v`. -/
def amoState (v : Word) : State := strandState fun t => { t with areg := (t.areg.set 1 0x2BFFF8#64).set 2 v }
theorem witness_amo_and_cas : Available (amoState 0#64) .a [2#5, 1#5, 3#5] ∧ (Instr.amo 2 1 3 1 1 6 1).WellFormed ∧
    InSram ((amoState 0#64).me.a 1#5) 8 ∧ OutOfText (amoState 0#64) ((amoState 0#64).me.a 1#5).toNat 8 ∧
    ((amoState 0#64).me.a 1#5).toNat % 8 = 0 ∧ (amoState 0#64).me.sbuf = [] ∧ (amoState 0#64).me.reads = [] ∧ sixLines.me.sbuf ≠ [] ∧ Clean (amoState 0#64).myCore.sram 0x2BFFF8 8 ∧
    (amoState 0#64).myCore.sram.readLE 0x2BFFF8 8 = ((amoState 0#64).me.a 2#5).toNat % 2 ^ 64 ∧
    (amoState 1#64).myCore.sram.readLE 0x2BFFF8 8 ≠ ((amoState 1#64).me.a 2#5).toNat % 2 ^ 64 :=
  ⟨fun _ => by decide, by decide, by unfold InSram; decide, outOfText_of (by decide), by decide, by decide, by decide, by decide,
    clean_of _ _ (by decide), by decide, by decide⟩

/-- A queue of `n` scalars. -/
def scalars (n : Nat) : Queue := ⟨0#5, List.replicate n (.scalar 0#64)⟩
/-- a1 = `v`; A→X queue 1 holds 31 entries; X→A queues 0 and 2 hold one row of zeros. -/
def rowState (v : Word) : State :=
  strandState fun t =>
    { t with areg := t.areg.set 1 v, qax := t.qax.set 1 (scalars 31)
             qxa := (t.qxa.set 0 ⟨0#5, [.row 0#2048]⟩).set 2 ⟨0#5, [.row 0#2048]⟩ }
theorem witness_pld_fills_its_queue :
    let s := rowState 0x2FFF00#64
    (s.me.a 1#5).toNat % 64 = 0 ∧ InSram (s.me.a 1#5) 256 ∧ (s.me.qax.get (1#2).toFin).entries.length + 1 ≤ 32 ∧
    s.afterSolid = false ∧ Available s .a [1#5] :=
  ⟨by decide, by unfold InSram; decide, by decide, by decide, fun _ => by decide⟩
theorem witness_gath :
    let s := rowState 0x2FFFFC#64
    (Instr.gath 1 1 0 0 2 1).WellFormed ∧ HeadRows (viewed s.me 0#2) [0#2048] ∧
    (s.me.qax.get (1#2).toFin).entries.length + 1 ≤ 32 ∧
    (∀ i ∈ indicesOf [0#2048], i < 2 ^ 31 → InSram (s.me.a 1#5) 0 ∧ (s.me.a 1#5).toNat + i * 4 + 4 ≤ 0x300000 ∧
      (s.afterSolid = true → Clean s.myCore.sram ((s.me.a 1#5).toNat + i * 4) 4)) := by
  refine ⟨by decide, by unfold HeadRows; decide, by decide, fun i h _ => ?_⟩
  have h0 : ∀ i ∈ indicesOf [0#2048], i = 0 := by decide
  rw [h0 i h]
  exact ⟨by unfold InSram; decide, by decide, fun h => absurd h (by decide)⟩
/-- The words of a SCAT of one narrow element, checked behind an older store and without it. -/
theorem witness_a_scatter_to_check :
    let parts : List (List Host.Cell) := [[(0x1004, 1#8)]]
    let s := readState (.check parts) [] fun t => { t with sbuf := [⟨0, some 0, false, [[(0, 1#8)]], [], 0, 1⟩], sbNext := 1 }
    let u := readState (.check parts) [] id
    let b := u.modCore 0 fun k => { k with sram := ⟨[], [0x200]⟩ }
    let g := readState (.check parts) [] fun t => { t with sbuf := [⟨0, some 0, false, [[(0, 1#8)]], [], 1, 1⟩], sbNext := 1 }
    (s.strand 0 0).reads = readOp (.check parts) [] :: [] ∧
    (∃ x ∈ (s.strand 0 0).sbuf, x.id < (readOp (.check parts) []).stores ∧ x.rd ≤ (readOp (.check parts) []).id) ∧
    (∀ x ∈ (g.strand 0 0).sbuf, (readOp (.check parts) []).id < x.rd) ∧
    (u.strand 0 0).sbuf = [] ∧ (∀ p ∈ parts, pieceWord p ∉ (u.core 0).sram.poison) ∧
    (∃ p ∈ parts, p.length ≠ 8 ∧ pieceWord p ∈ (b.core 0).sram.poison) ∧ (b.strand 0 0).sbuf = [] ∧ HandlerReadyAt b 0 0 := by
  unfold HandlerReadyAt; decide
/-- The last piece of a read that reserved the second entry of A→X queue 0. -/
theorem witness_rows_complete :
    let p : ReadPiece := ⟨248, 0x10F8, 8⟩
    let s := readState (.rows 0 1) [p] fun t => { t with qax := t.qax.set 0 ⟨0#5, [.scalar 0#64, .pending 0 0]⟩ }
    (s.strand 0 0).reads = readOp (.rows 0 1) [p] :: [] ∧ [p][0]? = some p ∧
    ¬ Kept (s.strand 0 0) (readOp (.rows 0 1) [p]) p ∧ (s.strand 0 0).loadPoisoned (s.core 0).sram 1 p.addr p.len = false := by
  unfold Kept; decide
theorem witness_row_complete :
    let s := strandState fun t => { t with qax := t.qax.set 0 ⟨0#5, [.scalar 0#64, .reserved 5#2048]⟩ }
    let seen (h : Nat) := ((s.modStrand 0 0 fun t => { t with hid := t.hid.set 0 h }).strand 0 0)
    ((s.strand 0 0).qax.get 0).entries = [.scalar 0#64] ++ .reserved 5#2048 :: [] ∧
    (∀ e ∈ [QEntry.scalar 0#64], ∀ v, e ≠ .reserved v) ∧
    1 < ((seen 0).qax.get 0).entries.length - (seen 0).hid.get 0 ∧ 1 = ((seen 1).qax.get 0).entries.length - (seen 1).hid.get 0 ∧
    ((seen 2).qax.get 0).entries.length - (seen 2).hid.get 0 < 1 :=
  ⟨by decide, fun e h v => by rw [List.mem_singleton.mp h]; exact QEntry.noConfusion, by decide, by decide, by decide⟩
theorem witness_pst :
    let s := rowState 0x2BFF00#64
    (s.me.a 1#5).toNat % 64 = 0 ∧ InSram (s.me.a 1#5) 256 ∧ OutOfText s (s.me.a 1#5).toNat 256 ∧
    HeadRows (viewed s.me 0#2) [0#2048] :=
  ⟨by decide, by unfold InSram; decide, outOfText_of (by decide), by unfold HeadRows; decide⟩
theorem witness_scat :
    let s := rowState 0x2BFFFC#64
    (Instr.scat 2 1 0 0 2 1).WellFormed ∧ HeadRows (viewed s.me 0#2) [0#2048] ∧
    HeadRows (viewed s.me 2#2) [0#2048] ∧
    (∀ i ∈ indicesOf [0#2048], i < 2 ^ 31 → InSram (s.me.a 1#5) 0 ∧ (s.me.a 1#5).toNat + i * 4 + 4 ≤ 0x300000 ∧
      OutOfText s ((s.me.a 1#5).toNat + i * 4) 4) ∧
    (∃ i ∈ indicesOf [0#2048], i < 2 ^ 31) ∧ ∀ i ∈ indicesOf [BitVec.allOnes 2048], 2 ^ 31 ≤ i := by
  refine ⟨by decide, by unfold HeadRows; decide, by unfold HeadRows; decide, fun i h _ => ?_, ⟨0, by decide, by decide⟩, by decide⟩
  have h0 : ∀ i ∈ indicesOf [0#2048], i = 0 := by decide
  rw [h0 i h]
  exact ⟨by unfold InSram; decide, by decide, outOfText_of (by decide)⟩
/-- One entry waits in the store buffer, behind a read where `rd` is 1; the word at 0x1000 is poisoned. -/
def drainState (line : Option Nat) (p : List Host.Cell) (rd : Nat) : State :=
  (readState (.reg 1#5 3#3) [⟨0, 0, 8⟩] fun t => { t with sbuf := [⟨0, line, false, [p], [0], rd, 1⟩], sbNext := 1 }).modCore 0 fun k =>
    { k with sram := ⟨[], [0x200]⟩ }
theorem witness_store_drain :
    let l : List Host.Cell := (List.range 8).map fun i => (0x1000 + i, 1#8)
    let n : List Host.Cell := [(0x1000, 1#8)]
    let s := drainState none n 0
    ((drainState (some 64) l 0).strand 0 0).sbuf = [⟨0, some 64, false, [l], [0], 0, 1⟩] ∧ l.length = 8 ∧
    (∃ r x, ((drainState none l 1).strand 0 0).reads = r :: x ∧ r.id < 1) ∧
    ((drainState none l 0).strand 0 0).sbuf = [⟨0, none, false, [l], [0], 0, 1⟩] ∧ n.length ≠ 8 ∧ 0 ∈ [0] ∧ (∀ j ∈ [0], ¬ j < 0) ∧
    pieceWord n ∈ (s.core 0).sram.poison ∧ pieceWord [(0x1008, 1#8)] ∉ (s.core 0).sram.poison := by
  refine ⟨by decide, by decide, ⟨readOp (.reg 1#5 3#3) [⟨0, 0, 8⟩], [], by decide, by decide⟩, by decide, by decide, by decide, by decide,
    by decide, by decide⟩
theorem witness_scalars_move_through_queues :
    let s := strandState fun t =>
      { t with qax := ((t.qax.set 0 (scalars 31)).set 1 (scalars 32)).set 2 ⟨0#5, [.row 7#2048]⟩
               qxa := ((t.qxa.set 0 (scalars 16)).set 1 ⟨0#5, [.row 7#2048]⟩).set 2 (scalars 31) }
    Issues s 1#1 ∧ Available s .a [1#5] ∧ (s.me.qax.get (0#2).toFin).entries.length < 32 ∧ 32 ≤ (s.me.qax.get (1#2).toFin).entries.length ∧
    (viewed s.me 0#2).entries = .scalar 0#64 :: List.replicate 15 (.scalar 0#64) ∧ (viewed s.me 1#2).entries = .row 7#2048 :: [] ∧
    (viewed s.me 3#2).entries = [] :=
  ⟨fun _ => rfl, fun _ => by decide, by decide, by decide, by decide, by decide, by decide⟩
theorem witness_the_execute_side_of_queues :
    let s := strandState fun t =>
      { t with qax := (((t.qax.set 0 (scalars 31)).set 1 ⟨0#5, [.reserved 0#2048]⟩).set 2 ⟨0#5, [.row 7#2048]⟩).set 3 ⟨0#5, [.pending 0 0]⟩
               qxa := (t.qxa.set 0 (scalars 31)).set 1 (scalars 32), hid := t.hid.set 0 30 }
    let h := s.modMe fun t => { t with hid := t.hid.set 0 31 }
    (s.me.qxa.get (0#2).toFin).entries.length < 32 ∧ 32 ≤ (s.me.qxa.get (1#2).toFin).entries.length ∧ (15#5).toNat < 16 ∧
    (15#4).toNat + (0#4).toNat + 1 ≤ 16 ∧ (0#4).toNat + (15#4).toNat + 1 ≤ 16 ∧
    (s.me.qxa.get (2#2).toFin).entries.length + (15#4).toNat + 1 ≤ 32 ∧ 32 < (s.me.qxa.get (1#2).toFin).entries.length + (0#4).toNat + 1 ∧
    (s.me.qax.get (0#2).toFin).entries = .scalar 0#64 :: List.replicate 30 (.scalar 0#64) ∧
    s.me.hid.get (0#2).toFin < (s.me.qax.get (0#2).toFin).entries.length ∧
    ¬ h.me.hid.get (0#2).toFin < (h.me.qax.get (0#2).toFin).entries.length ∧
    (s.me.qax.get (2#2).toFin).entries = .row 7#2048 :: [] ∧ s.me.hid.get (2#2).toFin < (s.me.qax.get (2#2).toFin).entries.length ∧
    (s.me.qax.get (1#2).toFin).entries = .reserved 0#2048 :: [] ∧ (s.me.qax.get (3#2).toFin).entries = .pending 0 0 :: [] := by decide

/-- R113: flags that have not arrived. -/
theorem witness_flags_to_arrive :
    let s := { (strandState fun t => { t with fpPend := [0x20#6, 1#6] }) with turns := [.result 0 0 1] }
    s.turns = .result 0 0 1 :: [] ∧ (s.strand 0 0).fpPend[1]? = some 1#6 := by decide

/-! ## Witnesses: panels -/

/-- A→X queue 0 holds 16 rows of zeros. -/
def panelState : State := strandState fun t => { t with qax := t.qax.set 0 ⟨0#5, List.replicate 16 (.row 0#2048)⟩ }
theorem witness_panel_sources : Gives panelState.me 15#5 16 (panelState.me.panel 15#5) panelState.me ∧
    Gives panelState.me 16#5 16 (panelOfRows (List.replicate 16 0#2048))
      { panelState.me with qax := panelState.me.qax.set 0 (popped (panelState.me.qax.get 0) 16) } :=
  ⟨.inl ⟨by decide, rfl, rfl⟩, .inr ⟨by decide, by decide, List.replicate 16 0#2048, by decide, rfl, by unfold HeadRows; decide, by decide, rfl⟩⟩
/-- A source queue that shows too few entries, and one with a scalar among them. -/
theorem witness_panel_sources_that_wait_or_fail :
    let s := panelState.modMe fun t => { t with qax := t.qax.set 1 (scalars 16) }
    Short s.me 18#5 16 ∧ Wrong s.me 17#5 16 { s.me with qax := s.me.qax.set 1 (popped (s.me.qax.get 1) 16) } :=
  ⟨by unfold Short; decide, by decide, by decide, by decide, by decide, ⟨0#64, by decide⟩, rfl⟩
theorem witness_panel_types : (Instr.vadd 0 15 16 0 0 1).WellFormed ∧ (Instr.vfma 15 0 19 0 31 1).WellFormed ∧
    (Instr.vmin 0 0 0 31 1).WellFormed ∧ (Instr.vsub 0 0 0 1 17 1).WellFormed ∧
    (4096 / max (fmtOf 0).bytes (max (fmtOf 0).bytes (fmtOf 0).bytes)) * (fmtOf 0).bytes / 256 = 16 := by decide
theorem witness_panel_words_on_one_source :
    (Instr.vabs 0 16 14 1).WellFormed ∧ (Instr.vneg 0 15 0 1).WellFormed ∧ (Instr.vexp2 0 16 3 3 1).WellFormed ∧
    (Instr.vrsq 15 0 0 0 1).WellFormed ∧ (Instr.vcvt 0 16 0 1 15 1).WellFormed ∧ (Instr.vcvtSat 0 16 5 0 11 1).WellFormed ∧
    (4096 / max (fmtOf 0).bytes (fmtOf 15).bytes) * (fmtOf 0).bytes / 256 = 16 := by decide
theorem witness_panel_words_on_two_sources :
    (Instr.vshl 0 15 16 18 1).WellFormed ∧ (Instr.vsra 15 0 0 11 1).WellFormed ∧ (Instr.vcmp 0 0 0 3 0 1).WellFormed ∧
    (Instr.vsel 0 16 0 5 1).WellFormed ∧ (Instr.vrshr 0 0 0 17 1).WellFormed ∧ fmtOf 17 = .int false 32 ∧
    fmtOf 11 = .int true 8 := by decide
theorem witness_reductions : panelState.me.numver.toNat < 4 ∧ 2048 / (fmtOf 0).bits = 2 ^ 6 ∧ 2048 / (fmtOf 15).bits = 2 ^ 8 ∧
    (Instr.vredr 0 16 0 3 0 1).WellFormed ∧ (Instr.vredc 0 16 2 0 18 1).WellFormed ∧ (Instr.vscan 0 16 0 1 13 1).WellFormed := by decide
theorem witness_movement : (Instr.vbcr 0 16 1 9 1).WellFormed ∧ (Instr.vrotc 0 15 1 18 1).WellFormed ∧
    (Instr.vperm 0 16 15 15 1).WellFormed ∧ (Instr.part 0 16 0 13 1).WellFormed ∧ (Instr.vins 15 0 0 1 1).WellFormed ∧
    (Instr.vext 0 15 0 18 1).WellFormed ∧ (Instr.vtopk 0 16 1 9 1).WellFormed := by decide

/-! ## Witnesses: commands, semaphores, mailboxes, residency -/

/-- a1 = `v` and semaphore 63 holds `x`. -/
def semState (v x : Word) : State := (regState v).modCore 0 fun k => { k with sems := k.sems.set 63 x }
theorem witness_semwait :
    ((semState 0#64 0x100000000000000#64).myCore.sems.get 63).getLsbD 56 = true ∧ 2 ^ 56 ≤ ((semState (2 ^ 56) 0#64).me.a 1#5).toNat ∧
    ((semState 0xFFFFFFFFFFFFFF#64 0xFFFFFFFFFFFFFE#64).myCore.sems.get 63).toNat % 2 ^ 56 <
      ((semState 0xFFFFFFFFFFFFFF#64 0#64).me.a 1#5).toNat ∧
    ((semState 5#64 5#64).myCore.sems.get 63).getLsbD 56 = false ∧
    ((semState 5#64 5#64).me.a 1#5).toNat + promisedTo (semState 5#64 5#64).myCore 63 ≤ 5 ∧ hidden (semState 5#64 5#64) = false ∧
    hidden ((semState 5#64 5#64).modMe fun t => { t with reads := [default] }) = true := by decide
/-- A SEMINC waits to be applied, and an increment is on its way to semaphore 0 for the COPY in slot 0. -/
def incState : State :=
  (strandState fun t => { t with semops := [⟨false, 63, 1#64, 1, 0, 1⟩], sbuf := [⟨1, some 0, false, [[(0, 1#8)]], [], 0, 1⟩], sbNext := 2 }).modCore 0
    fun k => { k with incs := [⟨0, 1#64, some ⟨0, 0, 1#64⟩, none⟩], sq := [{ (default : StrCmd) with seq := 1#64, incs := 1 }] }
theorem witness_increments :
    (incState.strand 0 0).semops = ⟨false, 63, 1#64, 1, 0, 1⟩ :: [] ∧ ReadsDone (incState.strand 0 0) 0 ∧ (∀ b ∈ (incState.strand 0 0).sbuf, 1 ≤ b.id) ∧
    (incState.core 0).incs[0]? = some ⟨0, 1#64, some ⟨0, 0, 1#64⟩, none⟩ ∧ (incState.cmd? ⟨0, 0, 1#64⟩).isSome = true :=
  ⟨by decide, no_reads (by decide), by decide⟩
/-- a1 = `v`, a2 = `d`, and the strand's first `n` entries of the stream queue are taken. -/
def streamState (v d : Word) (n : Nat) : State :=
  (strandState fun t => { t with areg := (t.areg.set 1 v).set 2 d }).modCore 0 fun k =>
    { k with sq := (List.range n).map fun i => { (default : StrCmd) with slot := i } }
theorem witness_cards_in_place :
    ((streamState 0x20#64 0#64 0).me.a 1#5).toNat % 64 ≠ 0 ∧ ¬ InSram ((streamState 0x2FFFC0#64 0#64 0).me.a 1#5) 128 ∧
    InSram ((streamState 0x2FFF80#64 0#64 0).me.a 1#5) 128 ∧ InSram ((streamState 0x2FFF00#64 0#64 0).me.a 1#5) 256 ∧
    (Instr.copy 5 1 1).WellFormed ∧ (Instr.send 5 1 2 63 1).WellFormed ∧ Available (streamState 0#64 0#64 0) .a [5#5, 1#5, 2#5] := by
  refine ⟨by decide, by unfold InSram; decide, by unfold InSram; decide, by unfold InSram; decide, by decide, by decide, fun _ => by decide⟩
theorem witness_stream_entries : FirstFree base 0 ∧ FirstFree (streamState 0#64 0#64 7) 7 ∧
    ∀ i, i < 8 → ¬ SlotFree (streamState 0#64 0#64 8) i := by unfold FirstFree SlotFree; decide
theorem witness_send_destinations :
    let at_ (v : Word) := ((streamState 0x2FFFFF#64 v 0).me.a 2#5).toNat
    (at_ 0xFFFF#64 < 2 ^ 16 ∧ at_ 0xFFFF#64 / 2 ^ 12 ≠ 0) ∧ at_ 0x1000#64 / 2 ^ 12 ≠ 0 ∧ ¬ at_ 0xFFF#64 / 2 ^ 12 ≠ 0 ∧
    ¬ at_ 0x10000#64 < 2 ^ 16 ∧ InSram ((streamState 0x2FFFFF#64 0#64 0).me.a 1#5) 1 := by unfold InSram; decide
/-- a1 = base, a2 = length, a3 = handler; mailbox 1 is bound by task `o`. -/
def mbState (b l h : Word) (o : Nat) : State :=
  (strandState fun t => { t with areg := ((t.areg.set 1 b).set 2 l).set 3 h }).modCore 0 fun k =>
    { k with mailboxes := k.mailboxes.set 1 ⟨true, 0#32, 1#32, 0#32, o, true⟩ }
theorem witness_mbreg :
    let s := mbState 0x2FFFF0#64 16#64 0x2FFFFC#64 1
    (1#4) ≠ 0#4 ∧ (s.me.a 3#5).toNat % 4 = 0 ∧ (s.textOf s.me).1 ≤ (s.me.a 3#5).toNat ∧ (s.me.a 3#5).toNat < (s.textOf s.me).2 ∧
    (s.me.a 1#5).toNat + (s.me.a 2#5).toNat ≤ 0x300000 ∧ ¬ ((s.myCore.mailboxes.get 1).owner ≠ s.me.task) ∧
    ((mbState 0#64 0#64 0x2C0002#64 1).me.a 3#5).toNat % 4 ≠ 0 ∧ (mbState 0#64 0#64 0x2C0000#64 1).me.a 2#5 = 0#64 ∧
    s.me.reads = [] ∧ ¬ ((mbState 0#64 0#64 0x300000#64 1).me.a 3#5).toNat < 0x300000 ∧
    ((mbState 0#64 0#64 0#64 2).myCore.mailboxes.get 1).owner ≠ (mbState 0#64 0#64 0#64 2).me.task := by decide
/-- a1 = a2 = `v`, NUMVER = `n`, and `m` commands in the matrix queue. -/
def matState (v n : Word) (m : Nat) : State :=
  (strandState fun t => { t with areg := (t.areg.set 1 v).set 2 v, numver := n }).modCore 0 fun k => { k with mq := List.replicate m default }
theorem witness_matrix_words :
    (Instr.mma 5 1 2 5 1 1).WellFormed ∧ (Instr.mmas 19 1 2 19 0 1).WellFormed ∧ (Instr.mst 5 1 2 9 0 1).WellFormed ∧
    (matrixWords 5 1 2 19 19 0 1).map (·.refused) = [true, true, true, false, false, false, false] ∧
    (matState 0#64 1#64 0).me.numver.toNat % 4 = 1 ∧ ((matState 0x20#64 3#64 0).me.a 1#5).toNat % 64 ≠ 0 ∧
    16 ≤ (matState 0#64 3#64 16).myCore.mq.length ∧ (matState 0#64 3#64 15).myCore.mq.length < 16 := by decide
theorem witness_records_in_place : RecordAt (matState 0x2FFFC0#64 3#64 0) 1#5 ∧ ¬ InSram ((matState 0x300000#64 3#64 0).me.a 1#5) 64 ∧
    (matState 0#64 3#64 0).me.a 2#5 = 0#64 := by unfold RecordAt InSram; decide
theorem witness_residency :
    let s := (strandState fun t => { t with resops := [⟨.reside, 3#5, 7#64, 0x2000000#64, 0, 1⟩] })
    (s.strand 0 0).resops = ⟨.reside, 3#5, 7#64, 0x2000000#64, 0, 1⟩ :: [] ∧ s.task? 1 = some task1 ∧ ReadsDone (s.strand 0 0) 0 ∧
    (∃ r x, (readState (.reg 1#5 3#3) [] id |>.strand 0 0).reads = r :: x ∧ r.id < 1) ∧
    Available base .a [1#5, 2#5, 0#5, 3#5] :=
  ⟨by decide, by decide, no_reads (by decide), ⟨_, [], rfl, by decide⟩, fun _ => by decide⟩

/-! ## Witnesses: the stream engine -/

/-- `n` zero bytes with numbers written over them: offset, size, value. -/
def bytesOf (n : Nat) (fs : List (Nat × Nat × Nat)) : List Byte :=
  fs.foldl (fun l f => patch l f.1 (natBytes f.2.1 f.2.2)) (List.replicate n 0#8)
/-- A walk of `n` bytes from `base` on. -/
def lineWalk (base : Word) (n : Nat) : Walk := ⟨base, [n, 1, 1, 1], [1, 0, 0, 0], 1, 0#8⟩
/-- A card with CTRL = `ctrl` at `off`. -/
def cardOf (off ctrl : Nat) : List Byte := List.replicate off 0#8 ++ natBytes 4 ctrl ++ List.replicate (124 - off) 0#8
/-- A command of task 1 in entry 0 with its walks and its progress. -/
def cmdOf (kind : StrKind) (phase : StrPhase) (card : List Byte) (walks : List Walk) (src : List Nat) (dst : List (Nat × Nat)) : StrCmd :=
  { (default : StrCmd) with
    kind := kind, task := 1, tok := 5#5, phase := phase, card := card, walks := walks, cores := [0], srcDone := src, dstDone := dst
    seq := 1#64 }
def inQueue (c : StrCmd) : State := coreState fun k => { k with sq := [c] }
/-- Eight bytes from 0x1000 to 0x2000. -/
def copyOf (src : List Nat) (dst : List (Nat × Nat)) : StrCmd :=
  cmdOf .copy .flight (cardOf 8 1) [lineWalk 0x1000#64 8, lineWalk 0x2000#64 8] src dst

theorem witness_a_command_to_take :
    let c := { cmdOf .copy .waiting [] [] [] [] with s1 := 0x100#64 }
    ((inQueue c).core 0).nextStart = some c ∧ ((inQueue c).core 0).cmdAt c.slot = some c ∧ (c.kind, 128) ∈ cardSizes ∧
    (base.core 0).nextStart = none := by decide
/-- A command whose engine has read the first pieces of its records; the word at 0x100 is poisoned where `bad`. -/
def readingCmd (kind : StrKind) (stage : Nat) (card : List Byte) (need : List ReadPiece) (recs : List Host.Cell) : StrCmd :=
  { cmdOf kind .reading card [] [] [] with s1 := 0x100#64, stage := stage, need := need, recs := recs }
def readingState (c : StrCmd) (poison : List Nat) : State :=
  { (coreState fun k => { k with sq := [c], sram := ⟨[], poison⟩ }) with turns := [.record 0 0 0] }
theorem witness_a_poisoned_card :
    let p : ReadPiece := ⟨0x100, 0x100, 8⟩
    let c := readingCmd .copy 0 [] [p] []
    let d := readingCmd .copy 0 [] [p, ⟨0x108, 0x108, 8⟩] []
    let s := readingState c [0x20]
    s.turns = .record 0 0 0 :: [] ∧ (s.core 0).cmdAt 0 = some c ∧ c.need[0]? = some p ∧ c.need.eraseIdx 0 = [] ∧
    (c.recPois || (s.core 0).sram.poisoned p.addr p.len) = true ∧ d.need.eraseIdx 0 ≠ [] ∧
    (s.strand 0 c.strand).task = c.task := by decide
/-- The last piece of the card of a FILL, and the last of its walk record: eight bytes from 0x1000. -/
theorem witness_a_good_fill :
    let card := writeCells [] 0x100 (natBytes 8 0x140)
    let walk := writeCells [] 0x140 (bytesOf 64 [(0, 8, 0x1000), (8, 4, 8), (0xC, 4, 1), (0x10, 4, 1), (0x14, 4, 1), (0x18, 4, 1), (0x28, 1, 1)])
    let s := readingState (readingCmd .fill 0 [] [⟨0x138, 0x138, 8⟩] card) []
    GoodFillCard (readCells card 0x100 64) 0x140 ∧ GoodFillWalk s 0 (readCells walk 0x140 64) ∧ (s.core 0).sram.poisoned 0x138 8 = false := by
  unfold GoodFillCard GoodFillWalk; decide +kernel
theorem witness_broken_cards : ∀ x ∈ cardBreaks, x.2.2 (List.replicate x.2.1 0xFF#8) := by
  simp only [cardBreaks, List.forall_mem_cons, BadRecordAddr]
  refine ⟨?_, ?_, ?_, ?_, fun x h => nomatch h⟩ <;> decide +kernel
/-- The bytes of a walk record: `n` elements of `size` bytes from `base` on, `stride` apart. -/
def walkRecord (base n size stride : Nat) : List Byte :=
  bytesOf 64 [(0, 8, base), (8, 4, n), (0xC, 4, 1), (0x10, 4, 1), (0x14, 4, 1), (0x18, 4, stride), (0x28, 1, size)]
theorem witness_broken_walks_of_a_fill :
    let c := readingCmd .fill 1 (bytesOf 64 [(0, 8, 0x140)]) [⟨0x178, 0x178, 8⟩] []
    let s := readingState c []
    let r (base : Nat) := walkRecord base 8 1 1
    let w (base : Nat) := decodeWalk (r base)
    c.stage = 1 ∧ c.kind = .fill ∧ s.turns = .record 0 0 0 :: [] ∧ (s.core 0).cmdAt 0 = some c ∧ c.need.eraseIdx 0 = [] ∧
    BrokenFormat (walkRecord 0 8 0 0) [1, 2, 4, 8, 17, 25, 33] ∧
    ¬ BrokenFormat (r 0x6000000000000000) [1, 2, 4, 8, 17, 25, 33] ∧ 5 < (w 0x6000000000000000).tag ∧
    ¬ BrokenFormat (r 0x2FFFFC) [1, 2, 4, 8, 17, 25, 33] ∧ (w 0x2FFFFC).tag = 0 ∧ (w 0x2FFFFC).isZero = false ∧ ¬ InsideSram (w 0x2FFFFC) ∧
    s.walkHitsText 0 (w 0x2C0000) true = true := by
  unfold BrokenFormat InsideSram; decide +kernel
theorem witness_walks_of_a_copy_that_do_not_fit :
    let c := readingCmd .copy 1 (bytesOf 128 [(0, 8, 0x140), (8, 4, 1), (0x40, 8, 0x180)]) [⟨0x1B8, 0x1B8, 8⟩] []
    let s := { (coreState fun k => { k with sq := [c], slot := .mapped, regid := 1#64 }) with regions := [region1] }
    let a := decodeWalk (walkRecord 0x1000 8 1 1)
    let b := decodeWalk (walkRecord 0x1004 4 1 1)
    let d := decodeWalk (walkRecord 0x1008 8 1 0xFFFFFFFF)
    c.ndst = 1 ∧ c.chk = 0 ∧ c.follow = false ∧ s.anyFailed = false ∧ field c.card 0 8 = 0x140 ∧ entryWalk (c.dstEntry 0) = 0x180 ∧
    ¬ BrokenFormat (walkRecord 0x1000 8 1 1) [1, 2, 4, 8, 17, 25, 33] ∧ InsideSram a ∧ InsideSram b ∧ InsideSram d ∧
    ¬ BrokenFormat (walkRecord 0x1004 4 1 1) [1, 2, 4, 8, 17, 25, 33] ∧ ¬ BrokenFormat (walkRecord 0x1008 8 1 0xFFFFFFFF) [1, 2, 4, 8, 17, 25, 33] ∧
    s.target (s.regidOf c.task) (entryCore (c.dstEntry 0)) = some (.live 0) ∧ s.task? c.task ≠ none ∧
    s.walkHitsText 0 b false = false ∧ a.size ≠ b.size ∧ a.size = d.size ∧ ¬ (a.linear = true ∧ d.linear = true) ∧
    ∃ x ∈ a.addrs, x ∈ d.addrs := by
  unfold BrokenFormat InsideSram; decide +kernel
theorem witness_a_bad_chunk_header :
    let c := cmdOf .copy .flight (cardOf 8 0x11) [lineWalk 0x1000#64 8, lineWalk 0x2000#64 8] [1, 2, 3, 4, 5, 6, 7] []
    let p : ReadPiece := ⟨0, 0x1000, 8⟩
    ((inQueue c).core 0).cmdAt 0 = some c ∧ c.chk = 1 ∧ c.source.tag = 0 ∧ c.mayRead 0 = true ∧ c.srcPieces[0]? = some p ∧
    (∀ j, j < 8 → j ∈ (tookPiece c 0 p (List.replicate 8 0#8) false).srcDone) ∧ (tookPiece c 0 p (List.replicate 8 0#8) false).pois = [] ∧
    BadHeader (readCells (tookPiece c 0 p (List.replicate 8 0#8) false).data 0 64) c.payload := by
  unfold BadHeader; decide +kernel
theorem witness_a_piece_to_read :
    let c := copyOf [] []
    let h := cmdOf .copy .flight (cardOf 8 1) [lineWalk 0x5000000000001000#64 8, lineWalk 0x2000#64 8] [] []
    ((inQueue c).core 0).cmdAt 0 = some c ∧ c.mayRead 0 = true ∧ c.srcPieces[0]? = some ⟨0, 0x1000, 8⟩ ∧ c.lead = 0 ∧
    c.source.tag = 0 ∧ h.mayRead 0 = true ∧ h.source.tag = 5 ∧ h.lead = 0 := by decide +kernel
theorem witness_a_piece_to_write :
    let c := copyOf [0] []
    ((inQueue c).core 0).cmdAt 0 = some c ∧ c.mayWrite 0 0 = true ∧ (c.dstPieces 0)[0]? = some ⟨0, 0x2000, 8⟩ ∧
    (c.dest 0).tag = 0 ∧ (inQueue c).destTarget 0 c 0 = .live 0 ∧ c.inject = false := by decide +kernel

/-- A copy from tag 3; `held` holds it at its first byte. -/
def hbmCopy (held : Bool) : StrCmd :=
  { cmdOf .copy (if held then .held else .flight) (cardOf 8 1) [lineWalk 0x3000000000000000#64 8, lineWalk 0x2000#64 8] [] [] with
    fault := if held then some ⟨0x3000000000000000#64, 1, false, 1, 0#64, false, true⟩ else none }
/-- A page of 64 KiB at 0x5_0000 under offset 0 of region 1. -/
def pageTables : Ram := ⟨[(0x20000, 1#8), (0x20002, 3#8), (0x30000, 1#8), (0x30002, 4#8), (0x40000, 0xF#8), (0x40002, 5#8)], []⟩
def mapped (s : State) : State := { s with regions := [region1], hbm := pageTables }
theorem witness_a_translation_fault :
    let s := inQueue (hbmCopy false)
    let w := lineWalk 0x3000000000000000#64 8
    (s.core 0).cmdAt 0 = some (hbmCopy false) ∧ (hbmCopy false).pending (.src 0) = some (w, 0, false) ∧ w.tag = 3 ∧
    s.walkVa (s.contextOf (s.regidOf 1)) 0 false = .fault 1 1 0#64 ∧ s.task? 1 ≠ none ∧
    ((s.cluster (clusterOf 0)).rings.get 1).length < 64 := by decide +kernel
theorem witness_a_full_fault_queue :
    let s := (inQueue (hbmCopy false)).modCluster (clusterOf 0) fun k => { k with rings := k.rings.set 1 (List.replicate 64 0#256) }
    64 ≤ ((s.cluster (clusterOf 0)).rings.get 1).length := by decide +kernel
theorem witness_a_held_command :
    let s := mapped (inQueue (hbmCopy true))
    (s.core 0).cmdAt 0 = some (hbmCopy true) ∧ (hbmCopy true).phase = .held ∧
    (hbmCopy true).fault = some ⟨0x3000000000000000#64, 1, false, 1, 0#64, false, true⟩ ∧
    (0x3000000000000000#64).extractLsb' 60 4 = 3#4 ∧
    s.walkVa (s.contextOf (s.regidOf 1)) 0 false = .page 0x50000 0x10000 true true ∧ s.task? 1 = some task1 ∧
    s.region? task1.regid = some region1 := by decide +kernel
theorem witness_a_reserved_resolve_bit :
    (0x40000#64).extractLsb' 18 46 ≠ 0#46 ∧ (0x40000#64).getLsbD 17 = false ∧ (0x60000#64).extractLsb' 18 46 ≠ 0#46 ∧
    (0x60000#64).getLsbD 17 = true ∧ (base.die (0 / 4)).health = .healthy ∧
    ({ base with dies := [(15, { Die.reset with health := .retired })] }.die (63 / 4)).health = .retired := by decide
theorem witness_no_held_command : clusterOf 0 ≠ 63 ∧ (base.core 0).cmdAt 31 = none ∧ 4095 < 2 ^ 12 ∧ 31 < 2 ^ 5 := by decide

/-- All of a command has landed. -/
def settle (c : StrCmd) : StrCmd := { c with incSent := true }
/-- A checking copy of eight bytes, the first of them `b`. -/
def checked (b : Byte) : StrCmd :=
  { settle (cmdOf .copy .flight (cardOf 8 0x11) [lineWalk 0x1000#64 8, lineWalk 0x2000#64 8] (List.range 9)
      ((List.range 9).map fun k => (0, k))) with data := if b = 0#8 then [] else [(64, b)] }
theorem witness_copies_complete :
    let c := settle (copyOf [0] [(0, 0)])
    let z := settle (cmdOf .copy .flight (cardOf 8 1) [lineWalk 0x1000#64 0, lineWalk 0x2000#64 0] [] [])
    ((inQueue c).core 0).cmdAt 0 = some c ∧ Settled c ∧ c.isZero = false ∧ c.chk ≠ 1 ∧ Settled z ∧ z.isZero = true ∧ c.verdict = none ∧
    { c with verdict := some 5#64 }.verdict = some 5#64 ∧ (checked 0#8).taint = none ∧ (checked 1#8).taint = none := by
  unfold Settled; decide +kernel
theorem witness_checking_copies_complete :
    Settled (checked 0#8) ∧ (checked 0#8).chk = 1 ∧ (checked 0#8).isZero = false ∧ (checked 0#8).pois = [] ∧
    (checked 0#8).badDst = [] ∧ (checked 0#8).hit = false ∧
    (checked 0#8).readPair = headerPair (readCells (checked 0#8).data 0 64) ∧ Settled (checked 1#8) ∧
    (checked 1#8).readPair ≠ headerPair (readCells (checked 1#8).data 0 64) := by unfold Settled; decide +kernel
theorem witness_a_follow_on :
    let c := { cmdOf .copy .flight (patch (cardOf 8 0x101) 0x18 (natBytes 4 0xB000001B))
      [lineWalk 0x1000#64 8, lineWalk 0x2000#64 8] [0] [(0, 0)] with incSent := true }
    c.follow = true ∧ c.followed = false ∧ c.allLanded = true ∧ c.followCause = none ∧ ((inQueue c).core 0).mq.length < 16 := by
  decide +kernel
theorem witness_decompressions_complete :
    let d := { settle (cmdOf .dcmp .flight (cardOf 12 0) [lineWalk 0x1000#64 8, lineWalk 0x2000#64 8] [] []) with pos := 8, out := 8 }
    let m := { cmdOf .dcmp .flight (cardOf 12 0) [lineWalk 0x1000#64 8, lineWalk 0x2000#64 8] [0] [] with data := [(0, 0xFF#8)] }
    Settled d ∧ d.elements.2 = true ∧ m.allLanded = true ∧ m.isZero = false ∧ m.elements.2 = false := by unfold Settled; decide +kernel
theorem witness_fills :
    let f (dst : List (Nat × Nat)) := cmdOf .fill .flight (cardOf 16 0x40) [default, lineWalk 0x2000#64 8] [] dst
    (f []).allLanded = false ∧ (f []).mayWrite 0 0 = true ∧ ((f []).dstPieces 0)[0]? = some ⟨0, 0x2000, 8⟩ ∧ ((f []).dest 0).tag = 0 ∧
    0 + 8 ≤ (f []).payload ∧ (f [(0, 0)]).allLanded = true ∧ (f [(0, 0)]).incSent = false ∧ (f [(0, 0)]).semEn = true ∧
    Settled (settle (f [(0, 0)])) := by unfold Settled; decide +kernel
theorem witness_checksums :
    let c (ctrl : Nat) (src : List Nat) (dst : List (Nat × Nat)) :=
      cmdOf .csum .flight (cardOf 8 ctrl) [lineWalk 0x1000#64 8, lineWalk 0x1000#64 8] src dst
    (c 0 [] []).allRead = false ∧ (c 0 [] []).mayRead 0 = true ∧ (c 0 [] []).srcPieces[0]? = some ⟨0, 0x1000, 8⟩ ∧ (c 0 [] []).lead = 0 ∧
    (c 0 [0] [(0, 0), (0, 1)]).allRead = true ∧ Settled (settle (c 0 [0] [(0, 0), (0, 1)])) ∧ (c 0 [0] []).ctrl = 0 ∧
    Settled (settle (c 1 (List.range 9) [])) ∧ (c 1 (List.range 9) []).allRead = true ∧ (c 1 [] []).ctrl ≠ 0 ∧ (c 1 [] []).verdict = none ∧
    { c 1 [] [] with data := [(64, 1#8)] }.readPair ≠ headerPair (readCells { c 1 [] [] with data := [(64, 1#8)] }.data 0 64) ∧
    (c 1 [] []).readPair = headerPair (readCells (c 1 [] []).data 0 64) := by unfold Settled; decide +kernel

/-! ## Witnesses: messages, tasks, the matrix engine -/

/-- Mailbox 1 of task 1 is bound and a message stands at the ingress with `n` handlers waiting. -/
def messageState (n : Nat) (t : Option CmdRef) (bd : Option (Nat × BitVec 22)) : State :=
  coreState fun k =>
    { k with mailboxes := k.mailboxes.set 1 ⟨true, 0x1000#32, 64#32, 0x2C0000#32, 1, true⟩, pending := List.replicate n default
             ingress := [⟨1, 1#64, List.replicate 9 0#64, (0, 0), t, 64, bd⟩], sq := [{ cmdOf .send .flight [] [] [] [] with seq := 1#64 }] }
theorem witness_a_message_to_accept :
    let s := messageState 15 (some ⟨0, 0, 1#64⟩) none
    (s.core 0).ingress[0]? = some ⟨1, 1#64, List.replicate 9 0#64, (0, 0), some ⟨0, 0, 1#64⟩, 64, none⟩ ∧
    ((s.core 0).mailboxes.get 1).valid = true ∧ ((s.core 0).mailboxes.get 1).accepting = true ∧ s.regidOf 1 = 1#64 ∧
    s.task? 1 = some task1 ∧ task1.st = .running ∧ (s.core 0).pending.length < 16 ∧ (s.core 0).ingress.take 0 = [] ∧
    (s.cmd? ⟨0, 0, 1#64⟩).isSome = true := by decide +kernel
theorem witness_a_visible_copy_of_a_bound_mailbox :
    let s := messageState 15 none (some (1, 0x2C0000#22))
    (s.core 0).ingress[0]? = some ⟨1, 1#64, List.replicate 9 0#64, (0, 0), none, 64, some (1, 0x2C0000#22)⟩ ∧
    (s.core 0).pending.length < 16 ∧ (s.core 0).ingress.take 0 = [] := by decide
/-- An older SEND of the strand to the mailbox is in the queue. -/
theorem witness_an_older_message :
    let c := { cmdOf .send .flight [] [] [] [] with seq := 2#64, slot := 1 }
    let x := { cmdOf .send .flight [] [] [] [] with seq := 1#64 }
    let s := (messageState 15 (some ⟨0, 1, 2#64⟩) none).modCore 0 fun k => { k with sq := [x, c] }
    (s.core 0).ingress.map (·.token) = [some ⟨0, 1, 2#64⟩] ∧ s.cmd? ⟨0, 1, 2#64⟩ = some c ∧ x ∈ (s.core 0).sq ∧ x.kind = .send ∧
    x.strand = c.strand ∧ x.task = c.task ∧ x.s2 = c.s2 ∧ x.seq.toNat < c.seq.toNat ∧ (s.cmd? ⟨0, 0, 1#64⟩) = some x := by decide +kernel
theorem witness_a_spawn_to_store :
    let c := cmdOf .spawn .flight (List.replicate 256 0#8) [] [] []
    let s := { inQueue c with tasks := [{ task1 with st := .ended }] }
    let full := { inQueue c with tasks := (List.range 256).map fun i => { task1 with hdr := spawnAt (clusterOf 0) i } }
    (s.core 0).cmdAt 0 = some c ∧ (∀ x ∈ s.tasks, x.st = .ended ∨ x.hdr ≠ spawnAt (clusterOf 0) 0) ∧
    (full.core 0).cmdAt 0 = some c ∧ ∀ i, i < 256 → ¬ ∀ x ∈ full.tasks, x.st = .ended ∨ x.hdr ≠ spawnAt (clusterOf 0) i :=
  ⟨by decide +kernel, List.forall_mem_singleton.mpr (.inl rfl), by decide +kernel, fun i h f =>
    (f _ (List.mem_map.mpr ⟨i, List.mem_range.mpr h, rfl⟩)).elim
      (fun e => absurd (show task1.st = .ended from e) (by decide)) fun e => e rfl⟩
theorem witness_a_spawned_task :
    let v : Task := { task1 with st := .dependent, early := true, hdr := 0x100 }
    let w : Task := { task1 with st := .dependent, prods := [] }
    { base with tasks := [v] }.task? 1 = some v ∧ v.early = true ∧ { base with tasks := [w] }.task? 1 = some w ∧ w.prods = [] := by decide
theorem witness_a_handler_to_start :
    let s := coreState fun k => { k with pending := [⟨1, [], 1#64, 0x2C0000#22⟩] }
    (s.core 0).pending = ⟨1, [], 1#64, 0x2C0000#22⟩ :: [] ∧ s.task? 1 = some task1 ∧ task1.st = .running ∧ (s.strand 0 3).task = 0 := by
  decide

/-- A matrix command of strand 0. -/
def matCmd (word : BitVec 32) (started : Bool) (walks : List Walk) (left : List ReadPiece) (out : List (List Host.Cell)) : MatCmd :=
  { (default : MatCmd) with word := word, task := 1, numver := 3#2, started := started, walks := walks, left := left, out := out }
def matQueue (c : MatCmd) : State := coreState fun k => { k with mq := [c] }
theorem witness_a_matrix_command_to_start :
    let c := { matCmd 0xB000001B#32 false [] [] [] with mark := 1 }
    let s := (strandState fun t => { t with sbuf := [⟨0, some 0, false, [[(0, 1#8)]], [], 0, 1⟩], sbNext := 1 }).modCore 0 fun k => { k with mq := [c] }
    (s.core 0).mq = c :: [] ∧ (∃ x ∈ (s.strand 0 c.strand).sbuf, x.id < c.mark) ∧ encode (.mzero 3 1) = some c.word ∧
    (((matQueue c).strand 0 c.strand).sbuf = []) := by decide
theorem witness_a_matrix_piece_to_read :
    let c := matCmd 0xAA5214AB#32 true [] [⟨0, 0, 8⟩, ⟨8, 8, 8⟩] []
    c.op ∈ [.mma, .mmaSat, .mmas, .mld] ∧ c.left[1]? = some ⟨8, 8, 8⟩ ∧ 2 ≤ c.left.length := by decide
theorem witness_records_of_a_matrix_command :
    let c := matCmd 0xAA5214AB#32 false [] [⟨0, 0, 8⟩, ⟨8, 8, 8⟩] []
    let d := matCmd 0xAA5214AB#32 false [] [⟨8, 8, 8⟩] []
    let s := ((matQueue d).modCore 0 fun k => { k with sram := ⟨[], [1]⟩ }).modStrand 0 0 fun t => { t with trapvec := 0x2C0001#64 }
    c.left[1]? = some ⟨8, 8, 8⟩ ∧ 2 ≤ c.left.length ∧ (s.core 0).mq = d :: [] ∧ d.op ≠ .mzero ∧ (s.core 0).sram.poisoned 8 8 = true ∧
    (s.strand 0 d.strand).task ≠ 0 ∧ (s.strand 0 d.strand).task = d.task ∧ Takes s (s.strand 0 d.strand) ∧
    (s.strand 0 d.strand).sbuf = [] ∧ (s.strand 0 d.strand).reads = [] := by unfold Takes; decide
theorem witness_bad_walks_of_a_matrix_command :
    let d (a b : List Byte) : List Host.Cell := writeCells (writeCells [] 0 a) 64 b
    let c (x : List Host.Cell) := { matCmd 0xAA5214AB#32 false [] [⟨120, 120, 8⟩] [] with data := x }
    let r (base : Nat) := bytesOf 64 [(0, 8, base), (8, 4, 2), (0xC, 4, 8), (0x10, 4, 1), (0x14, 4, 1), (0x18, 4, 8), (0x1C, 4, 16), (0x28, 1, 1)]
    let x := d (r 0) (r 0x100)
    (c x).left = [⟨120, 120, 8⟩] ∧ (c x).op = .mma ∧ operandSize (c x).fa = 1 ∧ operandSize (c x).fb = 1 ∧ (c x).poisoned = false ∧
    BrokenFormat (List.replicate 64 0#8) [1] ∧ ¬ BrokenFormat (r 0x1000000000000000) [1] ∧ (decodeWalk (r 0x1000000000000000)).tag ≠ 0 ∧
    readCells x 0 64 = r 0 ∧ readCells x 64 64 = r 0x100 ∧ ¬ BrokenFormat (r 0) [1] ∧ ¬ BrokenFormat (r 0x100) [1] ∧
    InsideSram (decodeWalk (r 0)) ∧ InsideSram (decodeWalk (r 0x100)) ∧ (decodeWalk (r 0)).ext0 ≤ 64 ∧
    kOf (c x).fa (decodeWalk (r 0)) = kOf (c x).fb (decodeWalk (r 0x100)) ∧
    ∃ p ∈ (decodeWalk (r 0)).addrs, ∃ q ∈ (decodeWalk (r 0x100)).addrs, p / 0xC0000 = q / 0xC0000 := by
  unfold BrokenFormat InsideSram; decide +kernel
theorem witness_the_last_piece_of_a_block :
    let w : Walk := ⟨0x1000#64, [64, 32, 1, 1], [1, 64, 0, 0], 1, 0#8⟩
    let c := matCmd 0xAA5214AB#32 true [w, w] [⟨0, 0x1000, 8⟩] []
    c.op = .mma ∧ c.numver ≠ 2#2 ∧ c.fa = 5 ∧ c.fb = 5 ∧ (c.walk 0).ext0 ≤ 64 ∧ c.next < c.blockEnd ∧ c.blockEnd = kOf c.fa (c.walk 0) := by
  decide
theorem witness_a_beat_to_write :
    let c := matCmd 0xB4540003#32 true [] [] [[(0x1000, 1#8)]]
    c.op ∈ [.mst, .mstSat] ∧ c.out[0]? = some [(0x1000, 1#8)] ∧ (∀ q ∈ c.out.take 0, (q.headD default).1 / 8 ≠ 0x1000 / 8) := by decide
theorem witness_an_mst_to_complete :
    let c := { matCmd 0xB4540003#32 true [lineWalk 0x1000#64 4] [] [] with next := 4, poisoned := true }
    ((matQueue c).core 0).mq = [c] ∧ c.out = [] ∧ (c.walk 0).beats ≤ c.next ∧ c.poisoned = true ∧ c.told = false ∧
    { c with poisoned := false }.poisoned = false ∧ { c with told := true }.told = true := by decide +kernel

/-! ## Witnesses: ends, records, saves, collectives -/

/-- Task 1 in another state, with its strand idle or not. -/
def taskState (st : TaskState) (strand : Nat) (f : Task → Task) : State :=
  { (strandState fun t => { t with task := strand, stopped := true }) with tasks := [f { task1 with st := st }] }

theorem witness_a_task_to_end :
    let s := taskState .draining 0 id
    s.task? 1 = some { task1 with st := .draining } ∧ (∀ n, (s.strand 0 n).task ≠ 1) ∧ (s.core 0).pending = [] ∧
    (s.core 0).ingress = [] := by decide
theorem witness_a_firing :
    let s := taskState .running 1 fun t => { t with fired := true }
    (s.task? 1).isSome = true ∧ 1 ∉ (s.core 4095).firings := by decide
/-- An async cause waits. -/
def asyncState (v : Word) : State := strandState fun t => { t with trapvec := v, async := [4#64] }
theorem witness_async_causes :
    ((asyncState 0x2C0001#64).strand 0 0).async = 4#64 :: [] ∧ ((asyncState 0x2C0001#64).strand 0 0).task ≠ 0 ∧
    ((asyncState 0x2C0001#64).strand 0 0).stopped = false ∧ ((asyncState 0x2C0001#64).strand 0 0).trapvec.getLsbD 1 = false ∧
    ((asyncState 0x2C0001#64).strand 0 0).reads = [] ∧ (((asyncState 0#64).modStrand 0 0 fun t => { t with reads := [default] }).strand 0 0).reads ≠ [] ∧
    Takes (asyncState 0x2C0001#64) ((asyncState 0x2C0001#64).strand 0 0) ∧ ¬ Takes (asyncState 0#64) ((asyncState 0#64).strand 0 0) ∧
    ¬ Takes (asyncState 0x300001#64) ((asyncState 0x300001#64).strand 0 0) ∧ (asyncState 0#64).task? 1 = some task1 := by
  unfold Takes; decide
/-- A mapped core of region 1, logical core `l`. -/
def mappedState (l : BitVec 12) : State :=
  { (coreState fun k => { k with slot := .mapped, regid := 1#64, lcore := l }) with regions := [region1], hbm := pageTables }
theorem witness_records :
    let r (id : Word) (p : Nat) (h : Bool) : Record := ⟨id, p, List.replicate 8 0#64, h⟩
    ({ base with records := [r 9#64 1 false] }).records[0]? = some (r 9#64 1 false) ∧ base.region? 9#64 = none ∧ (r 9#64 1 false).port = (1 : Fin 2).val ∧
    (r 1#64 0 true).toHost = true ∧ (mappedState 0#12).region? 1#64 = some region1 ∧
    region1.ovr.getLsbD 10 = true ∧ region1.fdom.toNat / 2 ^ 12 ≠ 0 ∧ task1.st ≠ .saved ∧
    (mappedState 0#12).resolve region1.regid (region1.fdom.truncate 12) = some 0 ∧ PortUp base 1 ∧
    base.gone? 9#64 = none ∧ region1.parent = 0 := by unfold PortUp; decide
/-- Region 2 under region 1: it does not set FDOM, or names mailbox 0; region 9 under region 1 is gone. -/
def region2 (ovr : BitVec 32) : Region := { region1 with regid := 2#64, pa := 0x10080, parent := 0x10000, ovr := ovr, fdom := 0#16 }
theorem witness_records_that_climb :
    let r : Record := ⟨2#64, 0, List.replicate 8 0#64, false⟩
    let s (ovr : BitVec 32) := { base with records := [r], regions := [region1, region2 ovr], gone := [⟨9#64, 1#64, false, 0⟩] }
    (s 0#32).records[0]? = some r ∧ (s 0#32).region? 2#64 = some (region2 0#32) ∧ (s 0#32).regionAt? (region2 0#32).parent = some region1 ∧
    (s 0#32).region? region1.regid = some region1 ∧ AtDepth (s 0#32) 0 region1 ∧ (region2 0#32).ovr.getLsbD 10 = false ∧
    (region2 0x400#32).ovr.getLsbD 10 = true ∧ NoFaultBox (s 0x400#32) (region2 0x400#32) ∧ (s 0#32).region? 9#64 = none ∧
    (s 0#32).gone? 9#64 = some ⟨9#64, 1#64, false, 0⟩ ∧ (s 0#32).region? 1#64 = some region1 := by
  unfold AtDepth NoFaultBox; decide
theorem witness_a_record_for_a_saved_core :
    let v := { task1 with st := .saved, slotCoreSec := true, lcore := 0#16, regid := 1#64 }
    let s := { mappedState 0#12 with tasks := [v] }
    s.savedAt region1.regid (region1.fdom.truncate 12) = some v ∧ s.resolve region1.regid (region1.fdom.truncate 12) ≠ none := by decide
theorem witness_a_task_to_save :
    let s := taskState .stopping 1 id
    let v : Task := { task1 with st := .stopping }
    let u := taskState .stopping 1 fun t => { t with forTask := 7 }
    s.task? 1 = some v ∧ s.maySave v = true ∧ v.forTask = 0 ∧ u.maySave { v with forTask := 7 } = true := by decide +kernel
theorem witness_a_held_increment :
    let v : Task := { task1 with st := .saved, slotCoreSec := true, slotCore := 0, held := [.incr ⟨63, 1#64, none, none⟩, .incr ⟨0, 1#64, none, none⟩] }
    let s : State := { base with tasks := [v] }
    s.tasks.find? (fun x => x.st == .saved && x.slotCoreSec && x.slotCore == 0 && 0 < x.held.length) = some v ∧
    s.task? v.key = some v ∧ v.held[0]? = some (.incr ⟨63, 1#64, none, none⟩) ∧ v.stash = none ∧
    v.held[1]? = some (.incr ⟨0, 1#64, none, none⟩) ∧ (∃ j ∈ v.held.take 1, ∃ x, j = .incr x) ∧
    (∀ j ∈ [HeldDelivery.message ⟨1, 1#64, [], (0, 0), none, 64, none⟩], ∃ d, j = .message d ∧ d.token = none ∧ d.bound = none ∧
      leNat (s.hbm.bytes (slotBase 0 + 0x24C + 16 * d.mailbox.val) 4) % 2 = 0) :=
  ⟨by decide, by decide, by decide, by decide, by decide, ⟨_, List.mem_cons_self .., _, rfl⟩,
    List.forall_mem_singleton.mpr ⟨_, rfl, rfl, rfl, by decide⟩⟩
/-- A collective of 16 bytes of INT32 whose entry 1 does `op`, on one mapped core. -/
def collOf (op : Nat) : Coll := { (default : Coll) with
  key := 1, collid := 7#64, context := 1#64, regid := 1#64, origin := 5
  image := bytesOf 0x60 [(0, 8, 7), (0x10, 4, 16), (0x14, 1, 13), (0x15, 1, 2), (0x50, 1, op)] }
/-- Its packet at a place, waiting for entry 1, or with its last piece of the operand to read. -/
def packetOf (at_ : PacketAt) (left : List ReadPiece) : CollPacket := { (default : CollPacket) with
  coll := 1, no := 0, entry := 1, data := List.replicate 16 0#8, at_ := at_, ctx := 1#64, work := !left.isEmpty, left := left }
/-- The walk of entry 1: 16 bytes in four elements from 0. -/
def hopWalk1 : Walk := { lineWalk 0#64 4 with esize := 4 }
/-- The arming entry of the participant, with the pair that its notation has. -/
def armedBy (pair : Word × Word) : Arming :=
  { (default : Arming) with collid := 7#64, context := 1#64, regid := 1#64, armed := true, pair := pair, walks := [(1, hopWalk1)] }
def collState (op : Nat) (p : CollPacket) (link : BitVec 2) (a : List Arming) : State :=
  { (mappedState 0#12).modCore 0 fun k => { k with arming := a } with
    packets := [p], colls := [collOf op], links := State.reset.links.set 3 { Link.reset with st := link } }
theorem witness_collective_packets :
    let s (st : BitVec 2) := collState 0 (packetOf (.link 3) []) st []
    { base with packets := [packetOf .away []] }.packets[0]? = some (packetOf .away []) ∧ base.coll? 1 = none ∧
    (s 2#2).coll? 1 = some (collOf 0) ∧ (s 2#2).anyFailed = false ∧ ((s 2#2).link 3).st = 2#2 ∧ ((s 3#2).link 3).st = 3#2 ∧
    (s 3#2).region? 1#64 = some region1 ∧ ((s 1#2).link 3).st ≠ 2#2 ∧ collChk (collOf 0).image = false := by decide +kernel
/-- Entry 1 of this notation leaves device 9, the origin's, by its link 6, which leads to link 3 of this one. -/
theorem witness_packets_come_back :
    let img := bytesOf 0x80 [(0, 8, 7), (0x10, 4, 16), (0x14, 1, 13), (0x15, 1, 3), (0x1A, 2, 9), (0x54, 4, 0x10006)]
    let s (st : BitVec 2) (ctx : Word) := { collState 0 (packetOf .away []) 2#2 [] with
      colls := [{ collOf 0 with image := img }]
      links := State.reset.links.set 3 { Link.reset with st := st, peerDev := 9#12, peerLink := 6#4, ctx := ctx, known := true } }
    (s 2#2 1#64).coll? 1 = some { collOf 0 with image := img } ∧ (s 2#2 1#64).returnAt 1#64 img 1 = some (2, 3) ∧
    ((s 2#2 1#64).link 3).ctx ≠ 0#64 ∧ ((s 2#2 0#64).link 3).ctx = 0#64 ∧ (s 2#2 0#64).returnAt 1#64 img 1 = some (2, 3) := by
  decide +kernel
theorem witness_collective_hops :
    let p := packetOf (.core 0#12) []
    let f := collState 0 p 0#2 []
    let s (pair : Word × Word) := collState 1 p 0#2 [armedBy pair]
    f.ctxTarget 1#64 1#64 0#12 = some (.live 0) ∧ (hopAt (collOf 0).image 1).op = 0 ∧ p.work = false ∧ 0 ≠ (collOf 1).origin ∧
    (hopAt (collOf 1).image 1).op = 1 ∧ (hopAt (collOf 1).image 1).walk.testBit 31 = false ∧ (f.core 0).arming = [] ∧
    ((s (0#64, 0#64)).core 0).arming.find? (fun a => a.armed && a.collid == 7#64 && a.context == 1#64) = some (armedBy (0#64, 0#64)) ∧
    (collOf 1).pair = (0#64, 0#64) ∧ ((s (1#64, 0#64)).core 0).arming = [armedBy (1#64, 0#64)] ∧ (armedBy (1#64, 0#64)).pair ≠ (collOf 1).pair ∧
    (s (1#64, 0#64)).region? 1#64 = some region1 ∧ ((s (0#64, 0#64)).core 0).hopWalk 0 (collOf 1) 1#64 1 = some hopWalk1 := by
  decide +kernel
theorem witness_a_combination :
    let p := packetOf (.core 0#12) [⟨8, 8, 8⟩]
    p.work = true ∧ p.left = [⟨8, 8, 8⟩] ∧ p.entry ≠ 0 ∧ p.upset = none ∧ collChk (collOf 1).image = false ∧
    collFmt (collOf 1).image = 13 ∧ 4 * (3 + 1) ≤ p.data.length ∧ WholeWith (collOf 1) p ∧ (hopAt (collOf 4).image 1).op = 4 ∧
    (base.core 0).inject.getLsbD 32 = false ∧ (hopAt (patch (collOf 1).image 0x51 [0xC3#8]) 1).sem.testBit 7 = true := by unfold WholeWith; decide +kernel
/-- Entry 1 lands: over its own walk, or appended to the rows at 0x1000, of which `fill` of 6 are claimed. -/
def landColl (append : Bool) : Coll :=
  { collOf 5 with image := patch (collOf 5).image 0x58 (natBytes 4 (if append then 0x80001000 else 0)) }
def rowsState (fill : Nat) : State :=
  { (collState 5 (packetOf (.core 0#12) []) 0#2 []).modCore 0 fun k => { k with sram := k.sram.writeAll 0x1000 (natBytes 4 6 ++ natBytes 4 fill) } with
    colls := [landColl true] }
theorem witness_a_landing :
    let p := packetOf (.core 0#12) [⟨8, 8, 8⟩]
    let s := collState 5 (packetOf (.core 0#12) []) 0#2 [armedBy (0#64, 0#64)]
    (hopAt (landColl false).image 1).op = 5 ∧ (hopAt (landColl false).image 1).walk.testBit 31 = false ∧
    (s.core 0).hopWalk 0 (landColl false) 1#64 1 = some hopWalk1 ∧ p.work = true ∧ p.left = [⟨8, 8, 8⟩] ∧ p.pois = [] ∧
    collChk (landColl false).image = false ∧ (landColl false).bytesAt p.entry + p.data.length = collLen (landColl false).image ∧
    ({ landColl false with landed := [(1, 4)] }).bytesAt p.entry + p.data.length ≠ collLen (landColl false).image ∧
    (hopAt (landColl false).image 1).next.testBit 31 = false ∧
    (hopAt (patch (landColl false).image 0x54 (natBytes 4 0x80000000)) 1).next.testBit 31 = true := by decide +kernel
theorem witness_rows_to_claim :
    let a := (hopAt (landColl true).image 1).walk % 2 ^ 22
    let img (fill : Nat) := ((rowsState fill).core 0).sram.bytes 0x1000 64
    (hopAt (landColl true).image 1).op = 5 ∧ (hopAt (landColl true).image 1).walk.testBit 31 = true ∧ a = 0x1000 ∧
    (landColl true).granted = [] ∧ (img 5).drop 8 = List.replicate 56 0#8 ∧ field (img 5) 0 4 = 6 ∧ field (img 5) 4 4 = 5 ∧
    5 + (64 + collLen (landColl true).image + 4095) / 4096 ≤ 6 ∧ 0x1000 + 64 + 4096 * 6 ≤ 0x300000 ∧
    ((rowsState 5).core 0).sram.poisoned 0x1000 64 = false ∧ field (img 6) 4 4 = 6 ∧
    ¬ 6 + (64 + collLen (landColl true).image + 4095) / 4096 ≤ 6 ∧
    (landColl true).bytesAt 1 + (packetOf (.core 0#12) []).data.length = collLen (landColl true).image ∧
    ({ landColl true with landed := [(1, 4)] }).bytesAt 1 + 16 ≠ collLen (landColl true).image ∧
    [(1, 0)].find? (fun g : Nat × Nat => g.1 == 1) = some (1, 0) := by decide +kernel
theorem witness_collective_completions :
    let d : CollDone := ⟨1#64, 0#12, 7#64, 1#64, 0#64⟩
    let s := { collState 1 (packetOf .away []) 0#2 [armedBy (0#64, 0#64)] with collDones := [d] }
    let c : StrCmd := { cmdOf .coll .flight (collOf 1).image [] [] [] with slot := 2 }
    let o := (mappedState 0#12).modCore 0 fun k => { k with sq := [c] }
    s.collDones[0]? = some d ∧ s.ctxTarget 1#64 1#64 0#12 = some (.live 0) ∧ (s.core 0).originCmd d = none ∧
    ((s.core 0).arming.find? fun a => a.armed && a.collid == d.collid && a.context == d.context) = some (armedBy (0#64, 0#64)) ∧
    (∀ x ∈ s.tasks, x.key = 0 → x.st ≠ .saved) ∧ (o.core 0).originCmd d = some c := by decide +kernel

/-! ## Witnesses: the supervisor and the tasks it binds -/

/-- Supervisor of cluster 0 with x10 = `a`, x11 = `b`. -/
def supState (md : Mode) (a b : Word) (sram : List Host.Cell) : State :=
  base.modCluster 0 fun k => { k with sup := { k.sup with mode := md, x := (k.sup.x.set 10 a).set 11 b, sram := sram } }
theorem witness_supervisor_modes : (mySup (supState .u 0#64 0#64 [])).mode = .u ∧ (mySup (supState .s 0#64 0#64 [])).mode ≠ .u ∧
    (mySup (supState .s 0#64 0#64 [])).medeleg.getLsbD 24 = false := by decide
theorem witness_rfch :
    let s := (supState .m 3#64 0x7FFE0#64 []).modCluster 0 fun k => { k with rings := k.rings.set 3 [5#256] }
    PrivateRecord (supX (mySup s) 11#5) ∧ (supX (mySup s) 10#5).toNat = (3 : Fin 4).val ∧ (s.cluster 0).rings.get 3 = 5#256 :: [] ∧
    (s.cluster 0).rings.get 2 = [] ∧ 3 < (4#64).toNat ∧ ¬ PrivateRecord 0x80000#64 ∧ ¬ PrivateRecord 0x10#64 := by
  unfold PrivateRecord; decide
theorem witness_xfld :
    (2 ^ 12 ≤ (0x1000#64).toNat) ∧ 64 < (0x7C1#64).toNat % 64 + ((0xFC1#64).toNat / 64 % 64 + 1) ∧ (0xFC0#64).toNat < 2 ^ 12 ∧
    (0xFC0#64).toNat % 64 + ((0xFC0#64).toNat / 64 % 64 + 1) ≤ 64 ∧ (0x3F#64).toNat % 64 + ((0x3F#64).toNat / 64 % 64 + 1) ≤ 64 := by
  decide
theorem witness_sgwt :
    let s := (supState .m 0x80#64 0#64 []).modCluster 0 fun k => { k with events := 0x80#8 }
    (∀ i : Fin 4, (0x80#64).getLsbD i.val = !((s.cluster 0).rings.get i).isEmpty) ∧
    (∀ i : Nat, 4 ≤ i → (0x80#64).getLsbD i = (s.cluster 0).events.getLsbD i) ∧ supX (mySup s) 0#5 = 0#64 ∧
    0x80#64 &&& supX (mySup s) 10#5 ≠ 0#64 ∧ 0x80#64 &&& 1#64 = 0#64 ∧ 256 ≤ (0x100#64).toNat := by
  refine ⟨by decide, fun i _ => ?_, by decide, by decide, by decide, by decide⟩
  by_cases h : i < 8
  · interval_cases i <;> decide
  · rw [BitVec.getLsbD_of_ge _ i (by omega : 8 ≤ i)]
    by_cases h2 : i < 64
    · interval_cases i <;> decide
    · exact BitVec.getLsbD_of_ge _ i (by omega)
theorem witness_disp :
    let l := [3#8, 0#8] ++ natBytes 2 0xFFF ++ List.replicate 12 0#8 ++ natBytes 8 1 ++ List.replicate 8 0#8
    let s := supState .m 0x40#64 0#64 (writeCells [] 0x40 l)
    let f := supState .m 0x40#64 3#64 [(0x40, 4#8)]
    PrivateRecord (supX (mySup s) 10#5) ∧ readCells (mySup s).sram 0x40 32 = l ∧ Usable s 0 ∧ clusterOf 0 = s.cur.cluster ∧
    (s.core 0).slot ≠ .mapped ∧ ((mappedState 0#12).core 0).slot = .mapped ∧ ¬ Usable s 4096 ∧ clusterOf 4095 ≠ s.cur.cluster ∧
    readCells (mySup f).sram 0x40 32 = 4#8 :: List.replicate 31 0#8 ∧ (f.strand 0 0).task ≠ 0 ∧ (∀ n, (f.strand 3 n).task = 0) ∧
    (readCells (mySup (supState .m 0#64 0#64 [])).sram 0 32).head? = some 0#8 := by unfold PrivateRecord Usable; decide +kernel
theorem witness_bind_records :
    Usable base 4095 ∧ (base.core 4095).slot ≠ .mapped ∧ ((mappedState 0#12).core 0).slot = .mapped ∧ (∀ n, (base.strand 4095 n).task = 0) ∧
    (base.strand 0 0).task ≠ 0 ∧ (1#4) ≠ 0#4 ∧ task1.core = 0 ∧ task1.key ≠ 0 ∧ base.task? task1.key = some task1 ∧
    (∀ n : Fin 4, (1#4).getLsbD n.val = true → (base.strand 0 n).task = task1.key) ∧ (8#4).getLsbD (3 : Fin 4).val = true ∧
    (base.strand 0 3).task = 0 ∧ ¬ Usable { base with dies := [(0, { Die.reset with health := .retired })] } 0 := by unfold Usable; decide

/-- A code object of one EXIT word and one task entry of `n` strands. -/
def objectOf (n : Nat) : List Byte :=
  bytesOf 144 [(0, 4, 0x4E415652), (4, 2, 1), (6, 2, 3), (8, 4, 64), (0xC, 4, 4), (0x28, 4, 128), (0x2C, 4, 1), (64, 4, 0xC200001B),
    (132, 1, n), (134, 2, 16)]
/-- A task header at 0x6_0000: TASKID `tid`, the object at the page's start, text from 0x2C_0000. -/
def headerOf (tid : Nat) : List Byte :=
  bytesOf 256 [(0, 8, tid), (8, 8, 0x3000000000000000), (0x18, 4, 0x2C0000), (0x1C, 4, 0x300000), (0x26, 1, 1), (0x2A, 2, 0xFFFF)]
/-- A waiting task of that header, the object in memory, and core 1 mapped for it. -/
def startTask : Task := { task1 with key := 2, tid := 7#64, hdr := 0x60000, st := .waiting, core := 1, lcore := 1#16 }
def startState (tid n : Nat) (obj : Bool) : State :=
  { (mapped base).modCore 1 fun k => { k with slot := .mapped, regid := 1#64, lcore := 1#12 } with
    tasks := [task1, startTask], nextTask := 3
    hbm := ⟨(writeCells (if obj then writeCells pageTables.cells 0x50000 (objectOf n) else pageTables.cells) 0x60000 (headerOf tid)), []⟩ }
theorem witness_a_task_to_start :
    let s := startState 7 1 true
    Usable s 1 ∧ s.retiring = [] ∧ (s.core 1).slot = .mapped ∧ (s.core 1).regid = startTask.regid ∧ (∀ n, (s.strand 1 n).task = 0) ∧
    ((List.finRange 4).filter fun n => (1#4).getLsbD n.val).length = hdrStrands (s.hbm.bytes 0x60000 256) ∧
    s.tasks.find? (fun t => t.hdr == 0x60000 && t.regid == startTask.regid && t.waits) = some startTask ∧ (∀ n, (s.strand 1 n).task ≠ startTask.key) ∧
    startTask.st = .waiting ∧ (s.core 1).jobs = [] ∧
    (∀ t ∈ s.tasks, t.hdr = 0x60000 → t.regid = startTask.regid → t.st ≠ .dependent) ∧ s.task? startTask.key = some startTask ∧
    s.isNext (clusterOf 1) 1 startTask.key = true ∧ startTask.tid = hdrTid (s.hbm.bytes 0x60000 256) := by
  unfold Usable; decide +kernel
theorem witness_headers :
    let s (tid : Nat) := startState tid 1 true
    (s 0).headerBad 2 1#64 0x60000 ((s 0).headerAt 0 0x60000) = true ∧ (s 7).headerBad 2 1#64 0x60000 ((s 7).headerAt 0 0x60000) = false := by
  decide +kernel
/-- The loader message that a header gives. -/
def msgOf (s : State) : LoadMsg :=
  let h := s.hbm.bytes 0x60000 256
  ⟨hdrCode h, hdrArg h, hdrTaskIdx h, 1#4, hdrNumver h, hdrTextBase h, hdrDataBase h, hdrTid h, 1#64, 0#64, hdrTextEnd h⟩
theorem translate_unbuffered {s : State} {u : Nat} {ctx : Word} {va : Nat} {write : Bool} {pa size : Nat} {rd w : Bool}
    (h : s.unitTlb u = []) (hw : s.walkVa ctx va write = .page pa size rd w) :
    (s.translate u ctx va write).2 = .page pa size rd w := by
  unfold State.translate; rw [h, hw]; cases Config.freeBool s.free <;> rfl
/-- With nothing buffered an offset of tag 3 reaches the byte that a walk gives, where no die has failed. -/
theorem page_unbuffered {s : State} {sp : Space} {c off : Nat} {write : Bool} {pa size : Nat} {rd w : Bool}
    (h : s.unitTlb sp.unit = []) (hw : s.walkVa sp.context off write = .page pa size rd w) (hd : s.dies = []) :
    ∃ t, s.reach sp c 3 off write = (t, .loc ⟨.hbm, pa + off % size⟩) ∧ t.dies = [] := by
  have ht := translate_unbuffered h hw
  have hdies : (s.translate sp.unit sp.context off write).1.dies = [] := by
    unfold State.translate; rw [h, hw]
    unfold State.setTlb
    cases Config.freeBool s.free <;> (simp; split <;> exact hd)
  unfold State.reach State.locate
  generalize s.translate sp.unit sp.context off write = x at ht hdies
  obtain ⟨a, b⟩ := x
  simp only at ht hdies
  subst ht
  exact ⟨a, by simp [State.lostFrom, State.anyFailed, hdies], hdies⟩
/-- The loader of core 1, asked for the waiting task or by a boot message, has come to a phase. -/
def jobOf (boot : Bool) (phase : LoadPhase) (left : List ReadPiece) (data : List Host.Cell) (out : List (List Host.Cell)) (n : Nat) : LoadJob :=
  ⟨2, boot, msgOf (startState 7 1 true), none, phase, left, data, out, n⟩
def jobState (j : LoadJob) : State := (startState 7 1 true).modCore 1 fun k => { k with jobs := [j] }
theorem witness_a_loader_begins :
    let j := jobOf false .asked [] [] [] 0
    let s := jobState j
    Usable s 1 ∧ (s.core 1).jobs = j :: [] ∧ (∀ c ∈ (s.core 1).sq, c.phase ≠ .held) ∧ Mapped s 1 j.msg.regid ∧
    j.msg.code.toNat / 2 ^ 60 = 3 ∧ j.msg.code.toNat % 2 ^ 60 + 64 ≤ 2 ^ 52 ∧
    ¬ Mapped (s.modCore 1 fun k => { k with slot := .free }) 1 j.msg.regid ∧ (0x2000000000000000#64).toNat / 2 ^ 60 = 2 ∧
    ∃ c ∈ ((s.modCore 1 fun k => { k with sq := [hbmCopy true] }).core 1).sq, c.phase = .held := by
  refine ⟨by unfold Usable; decide, by decide, by decide, by unfold Mapped; decide +kernel, by decide +kernel, by decide +kernel,
    by unfold Mapped; decide, by decide, hbmCopy true, by decide, by decide⟩
/-- The last piece of the object's header, and the last of the object; the bytes of an object for two strands do not fit. -/
theorem witness_a_loader_reads :
    let p : ReadPiece := ⟨56, 56, 8⟩
    let q : ReadPiece := ⟨136, 136, 8⟩
    let o (n : Nat) := writeCells [] 0 (objectOf n)
    let s := jobState (jobOf false .head [p] (writeCells [] 0 ((objectOf 1).take 56)) [] 0)
    let h := readCells (o 1) 0 64
    (∃ w, (s.res .issued).reach (s.loadSpace 1 1#64) 1 3 56 false = (w, .loc ⟨.hbm, 0x50038⟩)) ∧
    (∃ w, (s.res .issued).reach (s.loadSpace 1 1#64) 1 3 136 false = (w, .loc ⟨.hbm, 0x50088⟩)) ∧ Clean s.hbm 0x50038 8 ∧
    ¬ Clean ⟨[], [0xA007]⟩ 0x50038 8 ∧ [p].eraseIdx 0 = [] ∧ [q].eraseIdx 0 = [] ∧ objHeadBad h = false ∧ objHeadBad (List.replicate 64 0#8) = true ∧
    64 < objExtent h ∧ objExtent h = 144 ∧ (msgOf s).textBase + field h 12 4 ≤ (msgOf s).textEnd ∧ 0x2C0000 < 0x2C0000 + field h 12 4 := by
  refine ⟨?_, ?_, clean_of _ _ rfl, fun h => absurd h (by unfold Clean; exact fun h => absurd (h 0xA007 (by decide) (by decide)) (by decide)),
    by decide, by decide, by decide +kernel, by decide, by decide +kernel, by decide +kernel, by decide +kernel, by decide +kernel⟩
  · obtain ⟨t, h, -⟩ := page_unbuffered (s := (jobState (jobOf false .head [⟨56, 56, 8⟩] (writeCells [] 0 ((objectOf 1).take 56)) [] 0)).res .issued)
      (sp := (jobState (jobOf false .head [⟨56, 56, 8⟩] (writeCells [] 0 ((objectOf 1).take 56)) [] 0)).loadSpace 1 1#64) (c := 1) (off := 56)
      (write := false) (pa := 0x50000) (size := 0x10000) (rd := true) (w := true) (by decide +kernel) (by decide +kernel) rfl
    exact ⟨t, h⟩
  · obtain ⟨t, h, -⟩ := page_unbuffered (s := (jobState (jobOf false .head [⟨56, 56, 8⟩] (writeCells [] 0 ((objectOf 1).take 56)) [] 0)).res .issued)
      (sp := (jobState (jobOf false .head [⟨56, 56, 8⟩] (writeCells [] 0 ((objectOf 1).take 56)) [] 0)).loadSpace 1 1#64) (c := 1) (off := 136)
      (write := false) (pa := 0x50000) (size := 0x10000) (rd := true) (w := true) (by decide +kernel) (by decide +kernel) rfl
    exact ⟨t, h⟩
theorem witness_a_loader_checks :
    let s := startState 7 1 true
    let b := (msgOf s).bases (objectOf 1)
    objBad (objectOf 1) = false ∧ (objLoaded (objectOf 1) b).isSome = true ∧ objBad (List.replicate 144 0#8) = true ∧
    s.misfit 1 2 (msgOf s) (objectOf 1) = false ∧ s.misfit 1 2 (msgOf s) (objectOf 2) = true ∧ s.task? s.nextTask = none ∧
    (s.core 1).loaded = none ∧ (jobOf true .body [] [] [] 0).boot = true ∧ (jobOf false .body [] [] [] 0).boot = false ∧
    (jobOf false .write [] [] [[(0x2C0000, 0x1B#8)]] 0).out[0]? = some [(0x2C0000, 0x1B#8)] := by decide +kernel
theorem witness_a_loader_is_done :
    let ok := jobOf false .done [] [] [] 0
    let bad := jobOf false .done [] [] [] 2
    FinalStatus (jobState ok) 1 ok 0 ∧ FinalStatus (jobState bad) 1 bad 2 ∧ (jobState ok).task? ok.key = some startTask ∧
    startTask.hdr = 0x60000 ∧ startTask.regid = 1#64 ∧ ok.msg.mask = 1#4 ∧ ok.resume = none :=
  ⟨⟨fun h => absurd (h.resolve_right fun h => absurd (h startTask (by decide +kernel)) (by decide)) (fun h => h (by unfold Mapped; decide +kernel)),
      fun _ _ => rfl, fun h => absurd rfl h⟩,
    ⟨fun _ h => absurd (show (2 : Nat) = 0 from h) (by decide), fun _ _ => rfl, fun _ => rfl⟩, by decide +kernel, rfl, rfl, by decide +kernel, rfl⟩
/-- A boot message is at the head of core 1, with its loader done or not. -/
theorem witness_boot_messages :
    let regs : List Word := [0x3000000000000000#64, 0#64, 0x10000#64, 0x2C0000#64, 7#64, 1#64, 0#64, 0x300000#64]
    let s (phase : LoadPhase) := (jobState (jobOf true phase [] [] [] 0)).modCore 1 fun k => { k with loader := [(regs, 0, 0)] }
    ((s .done).core 1).loader = (regs, (0 : Fin 2).val, 0) :: [] ∧ ((s .done).core 1).jobs = jobOf true .done [] [] [] 0 :: [] ∧
    (jobOf true .done [] [] [] 0).msg.reply = 0#64 ∧ (s .done).task? 2 = some startTask ∧ (jobOf true .asked [] [] [] 0).phase ≠ .done := by
  decide +kernel

/-! ## Witnesses: binding, pre-emption, stalemate -/

/-- A task that runs nowhere among the listed cores runs nowhere. -/
theorem runs_nowhere {s : State} {key : Nat} (h0 : key ≠ 0) (h : ∀ e ∈ s.cores, ∀ n : Fin 4, (e.2.strand n).task ≠ key) :
    ∀ c n, (s.strand c n).task ≠ key := fun c n => by
  unfold State.strand State.core
  have : ∀ l : List (Nat × Core), (∀ e ∈ l, (e.2.strand n).task ≠ key) → ((lookupD Core.reset l c).strand n).task ≠ key := by
    intro l
    induction l with
    | nil => intro _; exact fun h => h0 (h.symm.trans ((by decide : ∀ m : Fin 4, (Core.reset.strand m).task = 0) n))
    | cons e l ih =>
      intro hl
      unfold lookupD
      split
      · exact hl e (List.mem_cons_self ..)
      · exact ih fun x hx => hl x (List.mem_cons_of_mem _ hx)
  exact this s.cores fun e he => h e he n
/-- Cores 0 and 1 are mapped to region 1, which may hold two: task 1 runs on the first, and `v` waits, which came by the header. -/
def bindState (v : Task) : State :=
  { ((mapped base).modCore 0 fun k => { k with slot := .mapped, regid := 1#64 }).modCore 1 fun k =>
      { k with slot := .mapped, regid := 1#64, lcore := 1#12 } with
    regions := [{ region1 with cores := 2 }], tasks := [{ task1 with ran := 1 }, v], nextTask := 3
    hbm := ⟨writeCells pageTables.cells 0x60000 (headerOf 7), []⟩ }
/-- A task that may go anywhere, and one of four strands that must go to core 0. -/
def anyTask : Task := { startTask with lcore := 0xFFFF#16, core := 0, base := 4, e := 4, nstrands := 2 }
def wideTask : Task := { anyTask with lcore := 0#16, nstrands := 4 }
theorem only_two (v : Task) (c : Nat) (h : ((bindState v).core c).slot = .mapped) : c = 0 ∨ c = 1 := by
  by_cases h0 : c = 0
  · exact .inl h0
  by_cases h1 : c = 1
  · exact .inr h1
  have : (bindState v).core c = Core.reset := by
    have hc : (bindState v).cores.map (·.1) = [0, 1] := by rfl
    have hl : ∀ l : List (Nat × Core), l.map (·.1) = [0, 1] → lookupD Core.reset l c = Core.reset := by
      intro l hl
      match l, hl with
      | [(a, x), (b, y)], hl =>
        simp only [List.map_cons, List.map_nil, List.cons.injEq, and_true] at hl
        obtain ⟨rfl, rfl⟩ := hl
        unfold lookupD lookupD lookupD
        rw [if_neg (Ne.symm h0), if_neg (Ne.symm h1)]
    exact hl _ hc
  rw [this] at h
  exact absurd h (by decide)
theorem witness_a_task_to_bind :
    BoundaryRuns (bindState anyTask) 0 ∧ Keyed (bindState anyTask) anyTask ∧ anyTask.st = .waiting ∧
    FirstWaiting (promoted (bindState anyTask) 0) (bindState anyTask) 0 anyTask ∧ FirstWaiting id (bindState anyTask) 0 anyTask ∧
    Chosen (bindState anyTask) 0 anyTask 1 1#12 False ∧ HeaderGood (bindState anyTask) anyTask 1 := by
  have hf : Finds (bindState anyTask) 0 anyTask 1 1#12 False :=
    ⟨by unfold Usable; decide +kernel, by decide, by decide, by decide +kernel, by decide +kernel, by decide +kernel,
      fun h => absurd rfl h, fun _ => .inl ⟨by decide +kernel, by decide +kernel, by decide +kernel, id⟩⟩
  have hz : ∀ x, score (bindState anyTask) 0 anyTask x = 0 := fun x => by
    have hc : hdrChunks ((bindState anyTask).headerAt (0 / 4) anyTask.hdr) = [] := by decide +kernel
    unfold score; rw [hc]; rfl
  refine ⟨by unfold BoundaryRuns DueTask; decide +kernel, ⟨by decide +kernel, by decide +kernel, by decide +kernel, by decide,
      runs_nowhere (by decide) (by decide +kernel)⟩, by decide, by unfold FirstWaiting Ahead Waits DueTask; decide +kernel,
    by unfold FirstWaiting Ahead Waits DueTask; decide +kernel, ⟨hf, fun _ d m p hd hne => ?_⟩, by unfold HeaderGood; decide +kernel⟩
  have hd0 : d = 0 := by
    rcases hd.2.2.2.2.2.2.2 rfl with h | h
    · exact (only_two _ _ h.1).resolve_right hne
    · obtain ⟨r, hr, -, hlt⟩ := h.2.2.2.2
      exact absurd hlt (by
        have : (bindState anyTask).region? anyTask.regid = some { region1 with cores := 2 } := by decide +kernel
        rw [this] at hr
        rw [← Option.some.inj hr]; decide +kernel)
  subst hd0
  exact ⟨fun ⟨_, x, _, _, h⟩ => absurd (hz x) h, fun _ => .inl (by decide +kernel)⟩
theorem witness_a_task_to_preempt :
    let s := bindState wideTask
    BoundaryRuns s 0 ∧ FirstWaiting (promoted s 0) s 0 wideTask ∧ (∀ c l new, ¬ Finds s 0 wideTask c l new) ∧
    (∀ x ∈ s.tasks, x.st ≠ .stopping) ∧ MayPreempt s 0 (promoted s 0 wideTask) { task1 with ran := 1 } ∧ ¬ DueTask (promoted s 0 wideTask) ∧
    DueTask { wideTask with base := 7, e := 7, waited := 8 } ∧ (∀ x, MayPreempt s 0 (promoted s 0 wideTask) x → x.key = 1) := by
  refine ⟨by unfold BoundaryRuns DueTask; decide +kernel, by unfold FirstWaiting Ahead Waits DueTask; decide +kernel, fun c l new h => ?_,
    by decide +kernel, ?_, by unfold DueTask; decide +kernel, by unfold DueTask; decide, fun x h => ?_⟩
  · have h1 := (h.2.2.2.2.2.2.1 (by decide)).1
    have h2 : (bindState wideTask).resolve wideTask.regid (wideTask.lcore.truncate 12) = some 0 := by decide +kernel
    rw [h2] at h1
    cases h1
    exact absurd h.2.2.2.1 (by decide +kernel)
  · unfold MayPreempt Usable DueTask
    exact ⟨by decide +kernel, by decide, by decide, by decide +kernel, by decide, by decide +kernel, fun _ => by decide +kernel,
      fun h => absurd h (by decide), by decide +kernel⟩
  · have hm := h.1
    have hs := h.2.1
    have ht : (bindState wideTask).tasks = [{ task1 with ran := 1 }, wideTask] := rfl
    rw [ht] at hm
    rcases List.mem_cons.mp hm with rfl | hm
    · rfl
    · rw [List.mem_singleton.mp hm] at hs
      exact absurd hs (by decide)
theorem witness_logical_cores_to_give : (bindState anyTask).resolve 1#64 (BitVec.ofNat 12 2) = none ∧
    (bindState anyTask).resolve 1#64 (BitVec.ofNat 12 1) ≠ none ∧ ∀ i, i < 2 → (bindState anyTask).resolve 1#64 (BitVec.ofNat 12 i) ≠ none := by
  decide +kernel
/-- A core of another region on which nothing runs any more; and one that is held for its region. -/
theorem witness_room_to_give :
    let s := (bindState anyTask).modCore 2 fun k => { k with slot := .mapped, regid := 9#64, heldFor := [9#64] }
    (∀ n, (s.strand 2 n).task = 0) ∧ (s.core 2).slot = .mapped ∧ (s.core 2).regid ≠ anyTask.regid ∧
    (s.core 2).regid ∈ (s.core 2).heldFor ∧ (s.core 1).regid ∉ (s.core 1).heldFor ∧ Usable s 1 := by unfold Usable; decide +kernel
/-- A due save is still to be made. -/
theorem witness_a_save_that_is_due :
    let x : Task := { startTask with base := 7, e := 7, waited := 8 }
    let s := { taskState .stopping 1 fun t => { t with forTask := 2 } with tasks := [{ task1 with st := .stopping, forTask := 2 }, x] }
    s.task? 2 = some x ∧ Waits x.cluster x ∧ DueTask x ∧ (s.tasks.headD default).forTask ≠ 0 ∧ clusterOf task1.core = 0 := by
  unfold Waits DueTask; decide
theorem witness_tempo_boundaries :
    let s := { taskState .waiting 0 id with dies := [(0, { Die.reset with health := .retired })] }
    base.gangs = [] ∧ (task1.st ≠ .waiting ∧ task1.st ≠ .saved) ∧ clusterOf task1.core = 0 ∧ (s.die (0 / 4)).health = .retired ∧
    (base.die (0 / 4)).health = .healthy ∧ (taskState .waiting 0 id).tasks.map (·.st) = [.waiting] ∧
    (∃ r ∈ { base with retiring := [(0, 2, 0, 0)] }.retiring, r.1 = 0 / 4) ∧
    (s.task? 1).isSome = true ∧ clusterOf 4095 < 64 := by decide

/-! ## Witnesses: host queues and their packets -/

/-- A packet of `n` units at offset 0 of its ring with numbers in its body. -/
def packet (type n regid done : Nat) (fs : List (Nat × Nat × Nat)) : Packet :=
  ⟨9, 0, bytesOf (16 * n) ([(0, 1, type), (2, 2, n), (4, 4, 5), (8, 8, regid)] ++ fs), done, []⟩
/-- Queue 0 of port 0, at stage 4, with these packets issued. -/
def hostState (l : List Packet) (f : HostQueue → HostQueue) : State :=
  let s := mapped base
  let v := s.ports.get 0
  { s with
    bootstat := 4#64
    ports := s.ports.set 0 { v with
      queues := v.queues.set 0 (f { HostQueue.reset with en := true, qsize := 0x080C#64, cbase := 0x10000#64, issued := l }) } }
theorem heads_of {l : List Packet} {f : HostQueue → HostQueue} {k type : Nat} {x : Packet}
    (h : (((hostState l f).ports.get 0).queues.get 0).issued[k]? = some x) (ht : field x.bytes 0 1 = type) :
    PacketAtHead (hostState l f) 0 0 k type x := ⟨by
    have hd : (hostState l f).dies = [] := rfl
    unfold PortUp State.die; rw [hd]; decide, h, ht⟩

/-- A PAD of 32 bytes at offset 0 of the ring and the same at its last 16 bytes. -/
def ringState (f : HostQueue → HostQueue) : State :=
  { hostState [] f with hbm := ⟨[(2, 2#8), (0xFF2, 2#8)], []⟩ }
theorem witness_packets_are_fetched :
    let s := ringState fun u => { u with tail := 32 }
    let e := ringState fun u => { u with fetchAt := 0xFF0, fetcherr := true, tail := 0 }
    let h := readCells s.hbm.cells 0 16
    PortUp s 0 ∧ MayFetch ((s.ports.get 0).queues.get 0) ∧ MayFetch ((e.ports.get 0).queues.get 0) ∧
    RingBytes s 0 ((s.ports.get 0).queues.get 0).qbase 0 h ∧ field h 2 2 = 2 ∧ 0 + 16 * 2 ≤ 2 ^ 12 ∧ 32 ≤ (32 + 2 ^ 12 - 0) % 2 ^ 12 ∧
    RingBytes e 0 ((e.ports.get 0).queues.get 0).qbase 0xFF0 (readCells e.hbm.cells 0xFF0 16) ∧
    ¬ 0xFF0 + 16 * field (readCells e.hbm.cells 0xFF0 16) 2 2 ≤ 2 ^ 12 ∧ 16 ≤ (0 + 2 ^ 12 - 0xFF0) % 2 ^ 12 := by
  refine ⟨by unfold PortUp; decide, by unfold MayFetch; decide, by unfold MayFetch; decide, ⟨by decide, by decide, clean_of _ _ rfl, by decide⟩,
    by decide, by decide, by decide, ⟨by decide, by decide, clean_of _ _ rfl, by decide⟩, by decide, by decide⟩
theorem witness_a_poisoned_ring : ¬ Clean ⟨[], [1]⟩ 0 16 := fun h => absurd (h 1 (by decide) (by decide)) (by decide)
theorem witness_packets_issue :
    let x : Packet := packet 0 1 0 0 []
    let bad : Packet := packet 11 1 0 0 []
    let s (y : Packet) := { (hostState [] fun u => { u with fetched := [y] }) with hbm := ⟨writeCells [] 0 x.bytes, []⟩ }
    (((s x).ports.get 0).queues.get 0).mayIssue x = true ∧ RingBytes (s x) 0 0#64 x.off x.bytes ∧ x.bytes = x.bytes.take 16 ∧
    x.formatBad = false ∧ bad.formatBad = true ∧ x.bytes ≠ bad.bytes.take 16 ∧ (((s bad).ports.get 0).queues.get 0).mayIssue bad = true :=
  ⟨by decide, ⟨by decide, by decide, clean_of _ _ rfl, by decide⟩, by decide, by decide, by decide, by decide, by decide⟩
theorem witness_a_pad : PacketAtHead (hostState [packet 0 1 0 0 []] id) 0 0 0 0 (packet 0 1 0 0 []) := heads_of rfl rfl

/-- A root block of REGID `id`: clusters of die 0, 64 cores, tables at 0x2_0000, flags 2. -/
def regionPacket_ (op id pa : Nat) (cores : Nat) : Packet :=
  packet 2 10 id 0 [(0x10, 8, pa), (0x18, 1, op), (0x20, 8, id), (0x30, 4, 0xFFF), (0x36, 1, 3), (0x37, 1, 2), (0x38, 8, 1),
    (0x40, 4, cores), (0x60, 8, 0x20000)]
theorem witness_regions_are_created :
    let x := regionPacket_ 0 2 0x10080 64
    let y := regionPacket_ 0 1 0x10080 64
    let s := hostState [x] id
    PacketAtHead s 0 0 0 2 x ∧ field x.bytes 0x18 1 = 0 ∧ (s.createRegion 0 x).1 = 0 ∧ s.region? 2#64 = none ∧
    (s.createRegion 0 y).1 = 2 ∧ s.region? 1#64 ≠ none := ⟨heads_of rfl (by decide), by decide +kernel⟩
theorem witness_regions_are_modified :
    let x := regionPacket_ 1 1 0x10000 32
    let y := regionPacket_ 1 7 0x10000 32
    let s := hostState [x, y] id
    PacketAtHead s 0 0 0 2 x ∧ PacketAtHead s 0 0 1 2 y ∧ field x.bytes 0x18 1 = 1 ∧ (s.modifyRegion x).1 = 0 ∧
    s.region? 1#64 = some region1 ∧ x.bytes.length = 160 ∧ s.region? 7#64 = none := ⟨heads_of rfl (by decide), heads_of rfl (by decide), by decide +kernel⟩
theorem witness_regions_are_destroyed :
    let x := regionPacket_ 2 1 0x10000 0
    let y := packet 2 10 1 0 [(0x10, 8, 0x10000), (0x18, 1, 2)]
    let s := hostState [x] id
    PacketAtHead s 0 0 0 2 x ∧ field x.bytes 0x18 1 = 2 ∧ s.region? 1#64 = some region1 ∧ region1.pa = 0x10000 ∧
    region1.pa ≠ 0x10080 ∧ s.blockBad (regionOf (x.imageOf region1) 0x10000 region1.port) (x.imageOf region1) = false ∧
    s.blockBad (regionOf (y.imageOf region1) 0x10000 region1.port) (y.imageOf region1) = true ∧ (s.subtree region1).map (·.regid) = [1#64] ∧ (task1 ∈ s.tasks ∧ task1.regid = 1#64 ∧ task1.st = .running) ∧
    ({ s with tasks := [] }.tasks = []) ∧ s.packetLimits region1 (regionOf (x.imageOf region1) 0x10000 region1.port) = true ∧
    (let c := { region1 with regid := 2#64, pa := 0x10080, parent := 0x10000, depth := 1, cores := 65 };
      { s with regions := s.regions ++ [c] }.packetLimits region1 (regionOf (x.imageOf region1) 0x10000 region1.port) = false) ∧
    ({ task1 with st := .ended, fired := true }.fired = true ∧ s.contextOf task1.regid ∈ ((s.subtree region1).filter fun y =>
      y.ovr.getLsbD 2 && y.flags.getLsbD 1).map (·.regid)) := ⟨heads_of rfl (by decide), by decide +kernel⟩

theorem witness_maps :
    let x (pa : Nat) := packet 3 3 1 0 [(0x10, 8, pa), (0x18, 4, 2), (0x20, 1, 0xF), (0x22, 1, 6)]
    let s := hostState [x 0x40000, x 0x6000000000] id
    PacketAtHead s 0 0 0 3 (x 0x40000) ∧ PacketAtHead s 0 0 1 3 (x 0x6000000000) ∧ s.region? 1#64 ≠ none ∧
    tableRoom 0x40000 16 = true ∧ s.portLost 0 0x40000 = false ∧ s.portLost 0 (0x40000 + 8 * 2 - 1) = false ∧ (∀ i, i < 2 → entryInWindow (field (x 0x40000).bytes (0x20 + 8 * i) 8) = false) ∧
    0x6000000000 < 0x6000000000 + 8 * 2 ∧ s.region? 7#64 = none :=
  ⟨heads_of rfl (by decide), heads_of rfl (by decide), by decide +kernel⟩
theorem witness_unmaps :
    let x (pa : Nat) := packet 4 3 1 0 [(0x18, 8, 0x10000), (0x20, 8, pa), (0x28, 4, 1)]
    let s := hostState [x 0x40000, x 0x6000000000] id
    PacketAtHead s 0 0 0 4 (x 0x40000) ∧ (x 0x40000).done = 0 ∧ tableRoom 0x40000 8 = true ∧ s.portLost 0 0x40000 = false ∧ s.portLost 0 (0x40000 + 8 * 1 - 1) = false ∧ PacketAtHead s 0 0 1 4 (x 0x6000000000) ∧
    0x6000000000 < 0x6000000000 + 8 * 1 :=
  ⟨heads_of rfl (by decide), by decide, by decide, by decide +kernel, by decide +kernel, heads_of rfl (by decide), by decide⟩
theorem witness_invalidations :
    let x := packet 4 3 1 1 []
    let i (l : List Nat) : Inval := ⟨1#64, 0, 0x10000, l, some (0, 0, 9)⟩
    let o : Inval := { i [4095] with pkt := none }
    let s := { hostState [x] id with invals := [i [4096], i [0, 4096]] }
    s.invals[0]? = some (i [4096]) ∧ s.invals[1]? = some (i [0, 4096]) ∧ (0 ∈ (i [0, 4096]).units ∧ 4096 ≠ 0) ∧
    ({ s with invals := [i [4095]] }.invals[0]? = some (i [4095]) ∧ (4095 : Nat) < 4096) ∧ o.units = [4095] ∧ o.pkt = none ∧
    ((s.ports.get 0).queues.get 0).issued.find? (fun y => y.id == x.id) = some x ∧ (s.dies = []) := by decide
theorem witness_binds :
    let x (n : Nat) := packet 5 3 1 0 [(0x10, 2, 4095), (0x12, 1, 1), (0x18, 8, 0x1000), (0x20, 8, n)]
    let s := hostState [x 0x100, x 0] id
    PacketAtHead s 0 0 0 5 (x 0x100) ∧ PacketAtHead s 0 0 1 5 (x 0) ∧ s.region? 1#64 = some region1 ∧ region1.port = (0 : Fin 2).val ∧
    region1.port ≠ (1 : Fin 2).val := ⟨heads_of rfl (by decide), heads_of rfl (by decide), by decide +kernel⟩

/-- With nothing buffered a pointer of tag 3 reaches the byte that a walk gives, where the way to it stands. -/
theorem reach_unbuffered {s : State} {p : Fin 2} {sp : Space} {ptr : Nat} {write : Bool} {pa size : Nat} {rd w : Bool}
    (h3 : ptr / 2 ^ 60 = 3) (h : s.unitTlb sp.unit = []) (hw : s.walkVa sp.context (ptr % 2 ^ 60) write = .page pa size rd w)
    (hd : s.dies = []) :
    ∃ t, s.hostReach p sp ptr write = (t, some ⟨.hbm, pa + ptr % 2 ^ 60 % size⟩) := by
  obtain ⟨t, ht, hdies⟩ := page_unbuffered (c := sp.core) h hw hd
  unfold State.hostReach
  rw [h3, ht]
  refine ⟨t, ?_⟩
  simp [State.routeDead, State.die, hdies, lookupD, Die.reset]
/-- 16 bytes from the host to the last of a page, part done. -/
def hcopy (dst n done : Nat) : Packet := packet 6 3 1 done [(0x10, 8, 0x5000000000000000), (0x18, 8, dst), (0x20, 8, n)]
/-- Handle 0 of region 1 is 0x1000 bytes of the host. -/
def bound (s : State) : State := { s with handles := [⟨1#64, 0, 0x1000, 0x1000, 0, true⟩] }
theorem witness_page (k : Nat) : State.walkVa { bound (hostState [hcopy 0x3000000000000FF8 16 0, hcopy 0x3000000000000FF8 16 16,
    hcopy 0x3000000000000FF8 0x1001 0] id) with free := k } 1#64 (0x3000000000000FF8 % 2 ^ 60) true = .page 0x50000 0x10000 true true := by
  show State.walkVa (bound (hostState [hcopy 0x3000000000000FF8 16 0, hcopy 0x3000000000000FF8 16 16,
    hcopy 0x3000000000000FF8 0x1001 0] id)) 1#64 _ true = _
  decide +kernel
/-- A read of `n` host bytes through handle 0 gives bytes, whatever the host answers, and changes nothing but the free values taken. -/
theorem host_read {s : State} {sp : Space} {h : Handle} (hd : s.dies = []) (hh : s.handle? sp.context 0 = some h) :
    ∀ n ptr k, 0x5000000000000000 ≤ ptr → ptr + n ≤ 0x5001000000000000 →
      ∃ m bs bad, State.hostRead { s with free := k } 0 sp ptr n = ({ s with free := m }, some (bs, bad)) := by
  intro n
  induction n with
  | zero => intro ptr k _ _; exact ⟨k, [], false, rfl⟩
  | succ n ih =>
    intro ptr k h1 h2
    have ht : ptr / 2 ^ 60 = 5 := by omega
    have hn : ptr % 2 ^ 60 / 2 ^ 48 = 0 := by omega
    have hone : State.hostReach { s with free := k } 0 sp ptr false =
        ({ s with free := k }, some ⟨.host (Fin.ofNat 2 h.port), h.bus + ptr % 2 ^ 60 % 2 ^ 48⟩) := by
      have hr : State.reach { s with free := k } sp sp.core 5 (ptr % 2 ^ 60) false =
          ({ s with free := k }, .loc ⟨.host (Fin.ofNat 2 h.port), h.bus + ptr % 2 ^ 60 % 2 ^ 48⟩) := by
        have h0 : State.handle? { s with free := k } sp.context 0 = some h := hh
        have hl : ∀ a b, State.lostFrom { s with free := k } a b = false := fun a b => by simp [State.lostFrom, State.anyFailed, hd]
        unfold State.reach State.locate
        simp only [hn, h0, hl]
        rfl
      have hdead : ∀ a b, State.routeDead { s with free := k } a b = false := fun a b => by
        unfold State.routeDead State.die; simp [hd, Die.reset, lookupD]
      unfold State.hostReach
      rw [ht, hr]
      simp [hdead]
    unfold State.hostRead
    rw [hone]
    unfold State.readLoc
    obtain ⟨m, bs, bad, hm⟩ := ih (ptr + 1) (k + 2) (by omega) (by omega)
    by_cases hb : Config.freeBool (k + 1) = true
    · simp only [hb, if_true, hm]
      exact ⟨m, _, _, rfl⟩
    · simp only [hb, Bool.false_eq_true, if_false, hm]
      exact ⟨m, _, _, rfl⟩
theorem witness_hcopies :
    let d := 0x3000000000000FF8
    let s := bound (hostState [hcopy d 16 0, hcopy d 16 16, hcopy d 0x1001 0] id)
    let sp := s.packetSpace 0 1#64
    PacketAtHead s 0 0 0 6 (hcopy d 16 0) ∧ s.region? 1#64 ≠ none ∧ s.rangeOk sp 0x5000000000000000 16 false = true ∧
    s.rangeOk sp d 16 true = true ∧ PacketAtHead s 0 0 1 6 (hcopy d 16 16) ∧ 16 ≤ (hcopy d 16 16).done ∧
    PacketAtHead s 0 0 2 6 (hcopy d 0x1001 0) ∧ s.rangeOk sp 0x5000000000000000 0x1001 false = false ∧
    ∃ k bs bad t, s.hostRead 0 sp 0x5000000000000000 8 = ({ s with free := k }, some (bs, bad)) ∧
      State.hostReach { s with free := k } 0 sp d true = (t, some ⟨.hbm, 0x50000 + d % 2 ^ 60 % 0x10000⟩) := by
  refine ⟨heads_of rfl (by decide), by decide +kernel, by decide +kernel, by decide +kernel, heads_of rfl (by decide), by decide,
    heads_of rfl (by decide), by decide +kernel, ?_⟩
  obtain ⟨k, bs, bad, hk⟩ := host_read (s := bound (hostState [hcopy 0x3000000000000FF8 16 0, hcopy 0x3000000000000FF8 16 16,
    hcopy 0x3000000000000FF8 0x1001 0] id)) (sp := State.packetSpace (bound (hostState [hcopy 0x3000000000000FF8 16 0,
    hcopy 0x3000000000000FF8 16 16, hcopy 0x3000000000000FF8 0x1001 0] id)) 0 1#64) (h := ⟨1#64, 0, 0x1000, 0x1000, 0, true⟩) rfl
    (by decide +kernel) 8 0x5000000000000000 0 (by decide)
    (by decide)
  obtain ⟨t, ht⟩ := reach_unbuffered (s := { bound (hostState [hcopy 0x3000000000000FF8 16 0, hcopy 0x3000000000000FF8 16 16,
    hcopy 0x3000000000000FF8 0x1001 0] id) with free := k }) (p := 0) (sp := State.packetSpace (bound (hostState [hcopy 0x3000000000000FF8 16 0,
    hcopy 0x3000000000000FF8 16 16, hcopy 0x3000000000000FF8 0x1001 0] id)) 0 1#64) (ptr := 0x3000000000000FF8) (write := true)
    (pa := 0x50000) (size := 0x10000) (rd := true) (w := true) (by decide) rfl (witness_page k) rfl
  exact ⟨k, bs, bad, t, hk, ht⟩
/-- A copy onto a range above its source runs back. -/
theorem witness_a_copy_that_runs_back :
    let x := packet 6 3 1 0 [(0x10, 8, 0x3000000000000000), (0x18, 8, 0x3000000000000004), (0x20, 8, 16)]
    let y := { x with done := 4 }
    field x.bytes 0x10 8 < field x.bytes 0x18 8 ∧ field x.bytes 0x18 8 < field x.bytes 0x10 8 + 16 ∧
    (field x.bytes 0x18 8 + (16 - y.done) - 1) / 8 * 8 - field x.bytes 0x18 8 = 4 ∧ y.done < 16 := by decide
theorem witness_hsignals :
    let x (n done : Nat) := packet 7 2 n done [(0x10, 2, 0xFFF), (0x12, 1, 63), (0x18, 8, 1)]
    let s := (hostState [x 1 0, x 1 1, x 1 2, x 7 0] id).modCore 0 fun k => { k with slot := .mapped, regid := 1#64, lcore := 0xFFF#12 }
    ((s.ports.get 0).queues.get 0).issued.map (·.done) = [0, 1, 2, 0] ∧ s.region? 1#64 ≠ none ∧ s.region? 7#64 = none ∧
    s.target 1#64 (BitVec.ofNat 12 0xFFF) = some (.live 0) ∧ PortUp s 0 := by unfold PortUp; decide +kernel
/-- An HWAIT on the word at device-virtual `a` for the value `v`. -/
def hwait (a v done : Nat) : Packet := packet 8 2 1 done [(0x10, 8, a), (0x18, 8, v)]
theorem witness_hwaits :
    let x := hwait 0x3000000000000010 1 0
    let y := hwait 0x3000000000000010 1 1
    let s := hostState [x, y] id
    PacketAtHead s 0 0 0 8 x ∧ PacketAtHead s 0 0 1 8 y ∧ x.done = 0 ∧ y.done ≠ 0 ∧
    ((s.ports.get 0).queues.get 0).issued.find? (fun y => field y.bytes 0 1 == 8 && y.done != 0) = some y ∧
    s.rangeOk (s.packetSpace 0 1#64) 0x3000000000000010 8 false = true ∧
    s.rangeOk (s.packetSpace 0 1#64) 0x300FFFFFFFFFFFF9 8 false = false ∧
    (∃ t, s.hostReach 0 (s.packetSpace 0 1#64) 0x3000000000000010 false =
      (t, some ⟨.hbm, 0x50000 + 0x3000000000000010 % 2 ^ 60 % 0x10000⟩)) ∧ Clean s.hbm 0x50010 8 ∧
    leNat (readCells s.hbm.cells 0x50010 8) < 1 ∧ 0 ≤ leNat (readCells s.hbm.cells 0x50010 8) :=
  ⟨heads_of rfl (by decide), heads_of rfl (by decide), by decide, by decide, by decide, by decide +kernel, by decide +kernel,
    reach_unbuffered (rd := true) (w := true) (by decide) (by decide) (by decide +kernel) (by decide), clean_of _ _ rfl, by decide, by decide⟩

/-! ## Witnesses: gangs, retirement, resynchronisation -/

/-- A gang of one task whose header is at the pointer `hdr`. -/
def launchOf (hdr sig : Nat) : Packet :=
  packet 1 4 1 0 [(0x10, 8, 7), (0x18, 8, sig), (0x20, 4, 1), (0x28, 8, hdr), (0x32, 2, 1)]
theorem witness_launches :
    let x := launchOf 0x3000000000000000 0
    let y := launchOf 0x3000000000000000 0x300FFFFFFFFFFFF8
    let s := hostState [x] id
    let sp := s.packetSpace 0 1#64
    PacketAtHead s 0 0 0 1 x ∧ x.done = 0 ∧ s.region? 1#64 ≠ none ∧ s.donesigOk 0 sp 0#64 = (s, true) ∧ s.resync = 0 ∧
    s.retiring = [] ∧ s.gangs = [] ∧ (∃ v ∈ [gangOf 0 0 x], v.st = 0 ∧ v.fresh = true) ∧ PortUp s 0 ∧ field y.bytes 0x18 8 ≠ 0 ∧ s.rangeOk sp 0x300FFFFFFFFFFFF9 8 true = false :=
  ⟨heads_of rfl (by decide), by decide, by decide +kernel, by rfl, by decide, by decide, by decide, by decide, by unfold PortUp; decide, by decide,
    by decide +kernel⟩
/-- A gang of one task, which depends on nothing and has no strand, or whose strand does not wait. -/
theorem witness_gangs_at_a_boundary :
    let g (p : Option (List (Word × Word))) (n : Nat) : Gang :=
      { gangOf 0 0 (packet 1 4 1 0 [(0x10, 8, 7), (0x20, 4, 1)]) with st := n, tasks := [1], suspect := p }
    let s (st : TaskState) (g : Gang) := { mapped base with gangs := [g], tasks := [{ task1 with st := st }] }
    let d := { s .dependent (g (some []) 1) with cores := [] }
    BoundaryRuns d 0 ∧ (∀ v ∈ d.tasks, ¬ Waits 0 v) ∧ (d.tasks.map (·.key)).Nodup ∧ d.gangs[0]? = some (g (some []) 1) ∧
    (g (some []) 1).tasks.head?.bind d.task? = some { task1 with st := .dependent } ∧ task1.cluster = 0 ∧
    (∀ key ∈ (g (some []) 1).tasks, d.task? key ≠ none) ∧
    (∀ v ∈ d.tasks, v.st = .dependent ∧ v.prods = []) ∧ (d.core 0).sq = [] ∧ (d.core 0).pending = [] ∧ (d.core 0).ingress = [] ∧
    (d.core 0).arming = [] ∧ (∀ n, (d.strand 0 n).handler = false) ∧ d.colls = [] ∧ d.collDones = [] ∧
    d.gangStrands (g (some []) 1) = [] ∧ d.gangPassed (g (some []) 1) = [] ∧ d.gangPassed (g none 1) = [] ∧
    (s .running (g none 1)).gangStrands (g none 1) = [(0, 0)] ∧ (s .running (g none 1)).strandWaits 0 0 = false :=
  ⟨by unfold BoundaryRuns DueTask; decide +kernel, by unfold Waits; decide +kernel, by decide +kernel⟩
theorem witness_gang_attempts :
    let g (l : List (Word × Nat × Nat × Nat × Nat)) := { gangOf 0 0 (launchOf 0 0) with parts := l }
    let part (type unit : Nat) : Word × Nat × Nat × Nat × Nat := (0x3010000000000000#64, type, unit, 1, 0)
    let s (l : List (Word × Nat × Nat × Nat × Nat)) := { hostState [launchOf 0 0] id with gangs := [g l] }
    let att (l : List (Word × Nat × Nat × Nat × Nat)) :=
      (((s l).ring3 0 ((s l).packetSpace 0 1#64) region1 (g l) 0).grantParts 0 ((s l).packetSpace 0 1#64) region1 l 0 []).2
    (s []).gangs[0]? = some (g []) ∧ (g []).st = 0 ∧ (g []).fresh = true ∧ (s []).gangs.take 0 = [] ∧ (s []).region? (g []).regid = some region1 ∧ att [] = .granted [] ∧
    { s [] with gangs := [{ g [] with fresh := false }] }.gangs[0]? = some { g [] with fresh := false } ∧
    att [part 0 0] = .status 5 0 ∧ att [part 0 1] = .status 3 0 ∧ att [part 1 15] = .status 3 0 := by decide +kernel
theorem witness_a_gang_attempted_again :
    let g := { gangOf 0 0 (launchOf 0 0) with fresh := false }
    let s := { hostState [] id with gangs := [g] }
    s.gangs = [g] ∧ g.st = 0 ∧ s.resync = 0 ∧ s.retiring = [] ∧ PortUp s 0 ∧ (∀ v ∈ s.tasks, ¬ Waits 0 v) ∧
    (∀ v ∈ s.tasks, v.st = .stopping → v.forTask = 0) ∧
    (let f := { s with dies := [(0, { Die.reset with health := .failed })] }; ¬ PortUp f 0 ∧ PortUp f 1) := by
  unfold PortUp Waits; decide +kernel
theorem witness_gangs_end :
    let g (sig : Word) : Gang := { gangOf 0 0 (launchOf 0 0) with st := 1, tasks := [1], donesig := sig }
    let s (sig : Word) := { hostState [] id with gangs := [g sig], tasks := [{ task1 with st := .ended }] }
    (s 0#64).gangs[0]? = some (g 0#64) ∧ (g 0#64).st ≠ 0 ∧ (g 0#64).donesig = 0#64 ∧
    (s 0#64).task? 1 = some { task1 with st := .ended } ∧
    (let h := (s 0#64).modCore 0 fun k => { k with 
          slot := .mapped, regid := 1#64, lcore := task1.lcore.truncate 12, heldFor := [1#64], strands := Core.reset.strands };
      h.resolve task1.regid (task1.lcore.truncate 12) = some 0 ∧ (∀ n, (h.strand 0 n).task = 0) ∧
      task1.regid ∈ (h.core 0).heldFor ∧ task1.regid ∉ ((s 0#64).core 0).heldFor) ∧
    (∃ t, (s 0x3000000000000000#64).hostReach 0 ((s 0x3000000000000000#64).packetSpace 0 1#64) 0x3000000000000000 true =
      (t, some ⟨.hbm, 0x50000 + 0x3000000000000000 % 2 ^ 60 % 0x10000⟩)) ∧ Clean (hostState [] id).hbm 0x50000 8 :=
  ⟨by decide, by decide, by decide, by decide, by decide +kernel,
    reach_unbuffered (rd := true) (w := true) (by decide) (by decide) (by decide +kernel) (by decide), clean_of _ _ rfl⟩
theorem witness_retirement :
    let x := packet 9 2 0 0 [(0x10, 1, 15)]
    let y := packet 9 2 0 1 [(0x10, 1, 15)]
    let s := { hostState [x, y] id with tasks := [] }
    let f := { s with dies := [(15, { Die.reset with health := .retired })] }
    let r := { s with retiring := [(15, 2, 0, 0)] }
    PacketAtHead (hostState [x, y] id) 0 0 0 9 x ∧ PortUp s 0 ∧ (s.die 15).health = .healthy ∧ x.done = 0 ∧ s.retiring = [] ∧ y.done ≠ 0 ∧
    s.tasks = [] ∧ (∀ c, c / 256 = 15 → (s.core c).jobs = []) ∧ (f.die 15).health = .retired ∧ (15, 2, 0, 0) ∈ r.retiring ∧
    (let v := { task1 with st := .saved, loading := true, why := 1 }; v.st = .saved ∧ v.loading = true ∧ v.why = 1) ∧
    (packet 9 2 0 2 [(0x10, 1, 15)]).done = 2 ∧
    (task1 ∈ (hostState [x, y] id).tasks ∧ task1.st = .running ∧ task1.core / 256 = 0 ∧
      (hostState [x, y] id).region? task1.regid ≠ none) :=
  ⟨heads_of rfl (by decide), by unfold PortUp; decide, by decide +kernel, by decide, by decide, by decide, by decide,
    fun c h => by
      have hc : ∀ l : List (Nat × Core), (∀ e ∈ l, e.1 = 0) → (lookupD Core.reset l c).jobs = [] := by
        intro l hl
        induction l with
        | nil => rfl
        | cons e l ih =>
          unfold lookupD
          split
          · next he => have := hl e (List.mem_cons_self ..); omega
          · exact ih fun x hx => hl x (List.mem_cons_of_mem _ hx)
      exact hc _ (by decide +kernel), by decide +kernel⟩
theorem witness_resync :
    let x := packet 10 2 0 0 []
    let y := packet 10 2 0 1 []
    PacketAtHead (hostState [x, y] id) 0 0 0 10 x ∧ PacketAtHead (hostState [x, y] id) 0 0 1 10 y ∧ x.done = 0 ∧ y.done ≠ 0 ∧
    PortUp base 1 ∧ ¬ PortUp { base with dies := [(15, { Die.reset with health := .failed })] } 1 :=
  ⟨heads_of rfl (by decide), heads_of rfl (by decide), by decide, by decide, by unfold PortUp; decide, by unfold PortUp; decide⟩

/-! ## Witnesses: the host window, boot, links -/

theorem witness_queue_registers :
    let s := hostState [] id
    let u := (s.ports.get 0).queues.get 0
    Booted s 0 ∧ u.en = true ∧ ((s.ports.get 0).queues.get 1).en = false ∧ (0xFF0#64).toNat % 16 = 0 ∧ (0xFF0#64).toNat < 2 ^ 12 ∧
    ¬ (0x1000#64).toNat < 2 ^ 12 ∧ (0x8#64).toNat % 16 ≠ 0 ∧ u.configOk = true ∧ ((s.ports.get 0).queues.get 1).configOk = false := by
  unfold Booted PortUp; decide
theorem witness_qctl_values :
    let h := hostState [] fun u => { u with halted := true }
    h.portLost 0 (((h.ports.get 0).queues.get 0).qbase.toNat % 2 ^ 52 + ((h.ports.get 0).queues.get 0).head) = false ∧
    CtlOk 1#64 ∧ (1#64).getLsbD 0 = true ∧ (1#64).getLsbD 2 = false ∧ CtlOk 0xFC00#64 ∧ (0xFC00#64).getLsbD 0 = false ∧ CtlOk 0xD#64 ∧
    (0xD#64).getLsbD 2 = true ∧ (0xD#64).getLsbD 3 = true ∧ CtlOk 0x5#64 ∧ (0x5#64).getLsbD 3 = false ∧ ¬ CtlOk 0x10001#64 ∧
    ¬ CtlOk 0x3#64 ∧ ¬ CtlOk 0x107#64 ∧ ((h.ports.get 0).queues.get 0).halted = true ∧
    ((h.ports.get 0).queues.get 0).qbase.getLsbD 63 = false := by unfold CtlOk; decide
theorem witness_devnum_and_link_contexts :
    let s := mapped base
    let u := { s with links := s.links.set 15 { Link.reset with ctx := 1#64 } }
    s.devnum.getLsbD 12 = false ∧ (0x1FFF#64).toNat < 2 ^ 13 ∧ ¬ (0x2000#64).toNat < 2 ^ 13 ∧
    { s with devnum := 0x1000#64 }.devnum.getLsbD 12 = true ∧ (s.links.get 15).ctx = 0#64 ∧ s.region? 1#64 = some region1 ∧
    region1.ovr.getLsbD 2 = true ∧ region1.flags.getLsbD 1 = true ∧ region1.port = (0 : Fin 2).val ∧ region1.port ≠ (1 : Fin 2).val ∧
    (u.links.get 15).ctx = 1#64 ∧
    s.region? 9#64 = none := by decide +kernel
theorem witness_window_stages : 4 ≤ ((hostState [] id).bootstat.extractLsb' 0 4).toNat ∧
    ({ base with bootstat := 3#64 }.bootstat.extractLsb' 0 4).toNat < 4 ∧ ¬ (6 = 8 ∧ 8 % 8 = 0) ∧ ¬ (6 = 4 ∧ 8 % 4 = 0) ∧
    (0x1000#64).toNat % 4096 = 0 ∧ (0xFFF#64).toNat % 4096 ≠ 0 ∧ 1 ∈ [16, 8, 4, 1] ∧ 25 ∈ [640, 320, 160, 80, 50, 25] ∧
    (∀ x ∈ [16, 8, 4, 1], x ∈ [1, 4] → x ≤ 4) ∧ (∀ x ∈ [640, 320, 160, 80, 50, 25], x ∈ [25, 50] → x ≤ 50) ∧
    ∀ x ∈ [16, 8, 4, 1], x ∈ [16, 8, 4, 1] → x ≤ 16 := by decide
theorem witness_power_limits : PortUp base 0 ∧ (0xFFF#64).toNat < 2 ^ 12 ∧ 2 ^ 12 ≤ (0x1000#64).toNat ∧ (0#64).toNat < 2 ^ 12 := by
  unfold PortUp; decide
theorem witness_attestation :
    let s := hostState [] id
    Booted s 0 ∧ (s.ports.get 0).attstat.getLsbD 0 = false ∧ (0xC0001#64).toNat = 1 + 12 * 2 ^ 16 ∧ (0xFFFF0002#64).toNat = 2 + 0xFFFF * 2 ^ 16 ∧
    (s.ports.get 0).bootstatus.getLsbD 0 = false ∧ s.region? (s.ports.get 0).bootreg = none ∧ (0#64) ≠ 1#64 := by
  unfold Booted PortUp; decide +kernel
theorem witness_an_attestation_under_way :
    let s (op : Word) := { (withPort (hostState [] id) 1 fun r => { r with attcmd := op, attstat := 1#64 }) with turns := [.attest 1] }
    (s 1#64).turns = .attest 1 :: [] ∧ ((s 1#64).ports.get 1).attstat.getLsbD 0 = true ∧ Booted (s 1#64) 1 ∧
    ((s 1#64).ports.get 1).attcmd.extractLsb' 0 2 = 1#2 ∧ ((s 2#64).ports.get 1).attcmd.extractLsb' 0 2 = 2#2 := by
  unfold Booted PortUp; decide
theorem witness_a_boot_message_to_send :
    let s0 := (hostState [] id).modCore 4095 fun k => { k with slot := .mapped, regid := 1#64, lcore := 0xFFF#12 }
    let s := withPort s0 0 fun r => { r with bootreg := 1#64, bootcore := 0xFFF#64 }
    s.region? (s.ports.get 0).bootreg = some region1 ∧ region1.port = (0 : Fin 2).val ∧
    s.resolve (s.ports.get 0).bootreg ((s.ports.get 0).bootcore.truncate 12) = some 4095 := by decide +kernel
/-- Stage 0 has no concrete witness: the flash images are free values, and the three cases exclude each other and leave none out. -/
theorem witness_boot_stages :
    let s (n : Nat) := { base with bootstat := BitVec.ofNat 64 (0xFFFF * 2 ^ 16 + n) }
    (0 : Fin 16) = (s 1).bootDie ∧ (1 : Fin 16) ≠ (s 1).bootDie ∧ ((s 1).bootstat.extractLsb' 0 4).toNat = 1 ∧
    ((s 2).bootstat.extractLsb' 0 4).toNat = 2 ∧ ((s 3).bootstat.extractLsb' 0 4).toNat = 3 ∧ (s 3).bootstat.extractLsb' 40 8 = 0#8 ∧
    4 ≤ ((s 4).bootstat.extractLsb' 0 4).toNat ∧ ((s 0).bootstat.extractLsb' 0 4).toNat = 0 ∧
    (BitVec.ofNat 64 (2 ^ 40)).extractLsb' 40 8 ≠ 0#8 := by decide
theorem witness_dies_come_up : (State.reset.die 15).up = false ∧ ({ base with dies := [(15, { Die.reset with up := true })] }.die 15).up = true ∧
    (4095 : Nat) < 4096 := by decide
/-- Link 15 in a state, bound to region 1, DEVNUM 5 at stage 3. -/
def linkState (st : BitVec 2) (fails : Nat) (ctx : Word) : State :=
  let s := mapped base
  { s with
    bootstat := 3#64, devnum := 0x1005#64
    links := s.links.set 15 { Link.reset with st := st, fails := fails, ctx := ctx, retries := 0xFFFFFFFF#32 } }
theorem witness_links :
    let v (st : BitVec 2) (fails : Nat) := (linkState st fails 0#64).links.get 15
    3 ≤ ((linkState 0#2 0 0#64).bootstat.extractLsb' 0 4).toNat ∧ (linkState 0#2 0 0#64).devnum.getLsbD 12 = true ∧ (v 0#2 0).st = 0#2 ∧
    (v 3#2 0).st = 3#2 ∧ (v 1#2 0).st = 1#2 ∧ (v 2#2 0).st = 2#2 ∧ ((linkState 0#2 0 0#64).die 15).health ≠ .failed ∧
    (6#12).toNat ≠ (linkState 1#2 0 0#64).devnum.toNat % 4096 ∧ (5#12).toNat = (linkState 1#2 0 0#64).devnum.toNat % 4096 ∧
    (v 1#2 1).fails < 2 ∧ 2 ≤ (v 1#2 2).fails ∧ ¬ 3 ≤ (base.bootstat.extractLsb' 40 4).toNat := by
  refine ⟨by decide, by decide, by decide, by decide, by decide, by decide, by decide, by decide, by decide, by decide, by decide, ?_⟩
  have h : base.bootstat = (Config.fusedSvn.zeroExtend 64) <<< 32 := rfl
  rw [h]
  generalize Config.fusedSvn = v
  revert v
  decide +kernel
/-- A command held since link 15 failed. -/
theorem witness_a_command_that_lost_its_link :
    let c := { hbmCopy true with fault := some ⟨0x4F00000000000000#64, 6, false, 0, 0#64, true, true⟩ }
    let s := (linkState 1#2 0 0#64).modCore 0 fun k => { k with sq := [c] }
    (s.core 0).cmdAt 0 = some c ∧ c.phase = .held ∧ (s.links.get 15).st = 1#2 ∧ (0x4F00000000000000#64).extractLsb' 60 4 = 4#4 ∧
    (0x4F00000000000000#64).extractLsb' 56 4 = BitVec.ofNat 4 (15 : Fin 16).val := by decide
/-- A collective packet that waits for link 15. -/
theorem witness_a_packet_at_a_failing_link :
    let s := { linkState 1#2 2 0#64 with packets := [packetOf (.link 15) []], colls := [collOf 0] }
    packetOf (.link 15) [] ∈ s.packets ∧ s.coll? 1 = some (collOf 0) ∧ s.region? (collOf 0).regid ≠ none ∧ (s.links.get 15).st = 1#2 ∧
    2 ≤ (s.links.get 15).fails ∧ task1 ∈ s.tasks ∧ task1.regid = (collOf 0).regid := by decide +kernel
theorem witness_a_route_over_a_failed_die :
    let s := linkState 2#2 0 1#64
    s.routeDead 15 (Loc.die ⟨.hbm, 0x5FFFF⟩) = false ∧
    { s with dies := [(0, { Die.reset with health := .failed })] }.routeDead 15 (Loc.die ⟨.hbm, 0x5FFFF⟩) = true := by decide +kernel
theorem witness_a_piece_from_a_peer :
    let s := linkState 2#2 0 1#64
    (s.links.get 15).st = 2#2 ∧ (s.links.get 15).ctx = 1#64 ∧ s.walkVa 1#64 (0xFFFF#52).toNat true = .page 0x50000 0x10000 true true ∧
    s.walkVa 1#64 (0x10000#52).toNat true = .fault 1 3 0#64 ∧ (linkState 2#2 0 0#64).links.get 15 = { (s.links.get 15) with ctx := 0#64 } := by
  decide +kernel

/-! ## Witnesses: fetching, groups, decoding -/

/-- The state after reset with this word placed, and another after it. -/
def wordState (w w2 : BitVec 32) : State :=
  let s := State.reset.withFetchWord 32 w.toNat
  s.modCore 0 fun k => { k with sram := k.sram.write 0x2C0004 (natBytes 4 w2.toNat) }
theorem witness_a_word_runs :
    let s := wordState 0x0463000B#32 0#32
    Runs s [] 0 0 .a ∧ Fetches s 0 0 .a ∧ decode (bytesAt s 0 0 .a) = .ok (.addi 6 6 1 .acc 1, []) ∧
    (wordOf s 0 0 .a).extractLsb' 1 2 ≠ otherTag .a ∧ (s.strand 0 0).held .a = none ∧ endsGroup (.addi 6 6 1 .acc 1) = true :=
  ⟨by unfold Runs; decide, ⟨by decide, by decide, clean_of _ _ (by decide)⟩, by decide, by decide, by decide, by decide⟩
theorem witness_other_turns :
    let s := State.reset.withFetchWord 32 0x00B5328B
    s.turns = [.supervisor 0] ∧ 0 < 64 ∧ decodeSup (readCells (s.cluster 0).sup.sram (s.cluster 0).sup.pc.toNat 4) = .ok (.disp 11 10 5, []) ∧
    (s.die (0 / 4)).health = .healthy ∧ (s.cluster 0).sup.pc.toNat + 4 ≤ 0x80000 ∧ encode (.junctionLimit 15) = none ∧
    State.reset.turns = [] := by decide
/-- Supervisor 0 at these words, x10 at 16 and x11 at 7. -/
def supWords (l : List Nat) : State :=
  let s := State.reset.modCluster 0 fun k =>
    { k with sup := { k.sup with sram := writeCells k.sup.sram k.sup.pc.toNat (l.flatMap (natBytes 4))
                                 x := (k.sup.x.set 10 16#64).set 11 7#64 } }
  { s with turns := [.supervisor 0] }
def supAfter (l : List Nat) : Option Supervisor := match step (supWords l) with | .next t => some (t.cluster 0).sup | _ => none

theorem witness_base_words :
    SupRuns (supWords [0x00150513]) [] 0 ∧ SupRuns (supWords [0x00B53023]) [] 0 ∧ SupRuns (supWords [0x73]) [] 0 ∧
    readCells ((supWords [0x00150513]).cluster 0).sup.sram 0 4 = natBytes 4 0x00150513 ∧
    readCells ((supWords [0x00B53023]).cluster 0).sup.sram 0 4 = natBytes 4 0x00B53023 ∧
    readCells ((supWords [0x73]).cluster 0).sup.sram 0 4 = natBytes 4 0x73 ∧
    ((supWords []).cluster 0).sup.pc = 0#64 ∧ ((supWords []).cluster 0).sup.x.get 10 = 16#64 ∧ ((supWords []).cluster 0).sup.mode = .m :=
  ⟨by unfold SupRuns; decide, by unfold SupRuns; decide, by unfold SupRuns; decide, by decide, by decide, by decide, by decide, by decide, by decide⟩
theorem test_sup_addi : (supAfter [0x00150513]).map (fun u => (u.x.get 10, u.pc, u.minstret)) = some (17#64, 4#64, 1#64) := by decide
theorem test_sup_sd : (supAfter [0x00B53023]).map (fun u => (readCells u.sram 16 8, u.pc)) = some ([7#8, 0#8, 0#8, 0#8, 0#8, 0#8, 0#8, 0#8], 4#64) := by decide
theorem test_sup_ecall : (supAfter [0x73]).map (fun u => (u.mcause, u.mepc, u.minstret)) = some (11#64, 0#64, 0#64) := by decide
/-- A compressed word: `C.LI x10, -1`, 0x557D. -/
theorem test_sup_c : (supAfter [0x557D]).map (fun u => (u.x.get 10, u.pc)) = some (-1#64, 2#64) := by decide
/-- `SUB a3, a0, a5` in the middle of a group with `ADDI a6, a6, 1`. -/
theorem witness_a_group :
    let i1 : Instr := .addi 6 6 1 .acc 0
    let i : Instr := .sub 3 0 5 .acc 1
    let s0 := wordState ((encode i1).getD 0#32) ((encode i).getD 0#32)
    let s := s0.modStrand 0 0 fun t => { t with pcA := 0x2C0004#22, heldA := some (0x2C0000#22, i1) }
    let first (s : State) := exec i1 { acting s [] 0 0 .a with cur := { (acting s [] 0 0 .a).cur with pc := 0x2C0000#22, phase := .first } }
    let res (o : Host.Outcome State Fault Refusal) : Option Res := match o with | .next t => some t.cur.res | _ => none
    Runs s [] 0 0 .a ∧ Fetches s 0 0 .a ∧ decode (bytesAt s 0 0 .a) = .ok (i, []) ∧ (wordOf s 0 0 .a).extractLsb' 1 2 ≠ otherTag .a ∧
    (s.strand 0 0).held .a = some (0x2C0000#22, i1) ∧ secondIllegal (s.strand 0 0) i1 i = false ∧
    secondIllegal (s.strand 0 0) i1 i1 = true ∧ lead (s.strand 0 0) .a + 2 ≤ (s.strand 0 0).slipw.toNat ∧ res (first s) = some .issued := by
  refine ⟨by unfold Runs; decide, ⟨by decide, by decide, clean_of _ _ (by decide)⟩, by decide, by decide, by decide, by decide, by decide,
    by decide, by decide⟩
/-- R41, R413: a first word that would raise QUEUE-FAULT waits with a second whose queue is short. -/
theorem witness_a_queue_fault_that_waits :
    let i : Instr := .xrcv 1 0 0
    let j : Instr := .xrcv 2 1 0
    let s := acting (strandState fun t => { t with qax := t.qax.set 0 ⟨0#5, [.row 7#2048]⟩ }) [] 0 0 .x
    let first := exec i { s with cur := { s.cur with pc := 0x2C0000#22, phase := .first } }
    let res (o : Host.Outcome State Fault Refusal) : Option Res := match o with | .next t => some t.cur.res | _ => none
    res first = some (.trapped 0x2C0000#22 5 0#16) ∧
    (match first with
      | .next t => res (exec j { t with cur := { t.cur with pc := 0x2C0004#22, phase := .second, res := .none } })
      | _ => none) = some .waiting := by decide
theorem witness_words_that_are_not_executed :
    let s := wordState 0x3032200D#32 0#32
    let at_ (w : BitVec 32) (k : Ctr) := { wordState w 0#32 with turns := [.counter 0 0 k] }
    Runs (at_ 0x0463000D#32 .a) [] 0 0 .a ∧ (wordOf (at_ 0x0463000D#32 .a) 0 0 .a).extractLsb' 1 2 = otherTag .a ∧
    (wordOf (at_ 0x0463000D#32 .a) 0 0 .a) >>> 1 ≠ 0xC200001B#32 >>> 1 ∧ Runs (at_ 0xC200001B#32 .x) [] 0 0 .x ∧
    wordOf (at_ 0xC200001B#32 .x) 0 0 .x = 0xC200001B#32 ∧ wordOf (at_ 0xC200002B#32 .x) 0 0 .x = 0xC200002B#32 ∧
    (match decode (bytesAt (at_ 0x00000007#32 .a) 0 0 .a) with | .ok _ => false | .error _ => true) = true ∧
    (wordOf (at_ 0x00000007#32 .a) 0 0 .a).extractLsb' 1 2 ≠ otherTag .a ∧ (s.textOf (s.strand 0 0)) = (0x2C0000, 0x300000) := by
  unfold Runs; decide
theorem witness_places_outside_the_text_and_poisoned :
    let s := (wordState 0x0463000B#32 0#32).modStrand 0 0 fun t => { t with pcA := 0x300000#22 }
    let b := (wordState 0x0463000B#32 0#32).modCore 0 fun k => { k with sram := { k.sram with poison := [0x58000] } }
    Runs s [] 0 0 .a ∧ ¬ ((s.strand 0 0).pc .a).toNat < (s.textOf (s.strand 0 0)).2 ∧ Runs b [] 0 0 .a ∧
    ¬ Clean (b.core 0).sram ((b.strand 0 0).pc .a).toNat 4 :=
  ⟨by unfold Runs; decide, by decide, by unfold Runs; decide, fun h => absurd (h 0x58000 (by decide) (by decide)) (by decide)⟩
theorem witness_words_read_back : (Instr.add 3 4 5 .both 1).WellFormed ∧ encode (.add 3 4 5 .both 1) = some 0x02321401#32 ∧
    decode [0x01#8, 0x14#8, 0x32#8, 0x02#8] = .ok (.add 3 4 5 .both 1, []) ∧ storesNow (.add 3 4 5 .both 1) = false ∧
    decodeSup [0x8B#8, 0x32#8, 0xB5#8, 0x00#8] = .ok (.disp 11 10 5, []) := by decide
theorem witness_legal_registers : LegalRegisters State.reset := by unfold LegalRegisters; decide

/-! ## Worked results of the spec -/

/-- The state after a step of strand 0 of core 0 over `w`, its registers set by `f`. -/
def stepped (s : State) : State := match step s with
  | .next t => t
  | _ => State.reset
def after (w : Nat) (f : Strand → Strand) : State := stepped ((State.reset.withFetchWord 32 w).modStrand 0 0 f)
/-- Registers a4 = x4 = `v` and a5 = x5 = `w`. -/
def regs (v w : Word) (t : Strand) : Strand :=
  { t with areg := (t.areg.set 4 v).set 5 w, xreg := (t.xreg.set 4 v).set 5 w }
def aOf (s : State) (r : BitVec 5) : Word := (s.strand 0 0).reg .a r
def xOf (s : State) (r : BitVec 5) : Word := (s.strand 0 0).reg .x r

/-- The worked line of SUB (16_reference_g_to_s.md). -/
theorem test_sub_wraps : aOf (after 0x0232140B (regs 0#64 1#64)) 3#5 = 0xFFFFFFFFFFFFFFFF#64 := by decide
/-- The worked lines of BFX. -/
theorem test_bfx : aOf (after 0x12320643 (regs 0x0A5C#64 0#64)) 3#5 = 0xA#64 := by decide
/-- The worked line of BFX.s64. -/
theorem test_bfx_signed : aOf (after ((encode (.bfxS64 3 4 3 8 .acc 1)).getD 0#32).toNat (regs 0x0A5C#64 0#64)) 3#5 =
    0xFFFFFFFFFFFFFFFA#64 := by decide
/-- The worked line of LUI. -/
theorem test_lui : aOf (after 0x18301603 id) 3#5 = 0x2C0000#64 := by decide
/-- The worked line of SRA: a register count of 200. -/
theorem test_sra_of_a_large_count :
    xOf (after ((encode (.sra 3 4 5 .exe 1)).getD 0#32).toNat (regs 0x8000000000000000#64 200#64)) 3#5 = 0xFFFFFFFFFFFFFFFF#64 := by decide
/-- The worked lines of MULH. -/
theorem test_mulh :
    aOf (after ((encode (.mulhS64 3 4 5 .acc 1)).getD 0#32).toNat (regs 0xFFFFFFFFFFFFFFFF#64 1#64)) 3#5 = 0xFFFFFFFFFFFFFFFF#64 ∧
    aOf (after ((encode (.mulhZ64 3 4 5 .acc 1)).getD 0#32).toNat (regs 0xFFFFFFFFFFFFFFFF#64 2#64)) 3#5 = 1#64 := by decide
/-- The worked line of BR: five words back. -/
theorem test_br_back :
    let s := (State.reset.placed.modCore 0 fun k => { k with sram := k.sram.write 0x2C0100 (natBytes 4 0x21FFFFDB) }).modStrand 0 0 fun t =>
      { t with pcA := 0x2C0100#22 }
    ((stepped { s with turns := [.counter 0 0 .a] }).strand 0 0).pcA = 0x2C00EC#22 := by decide
/-- R63: x0 reads zero and keeps it. -/
theorem test_register_0_discards : aOf (after ((encode (.addi 0 4 1 .acc 1)).getD 0#32).toNat (regs 1#64 0#64)) 0#5 = 0#64 := by decide
/-- The worked lines of DIV. -/
theorem test_div :
    xOf (after ((encode (.div 3 4 5 0 1)).getD 0#32).toNat (regs (-7) 2)) 3#5 = BitVec.ofInt 64 (-3) ∧
    xOf (after ((encode (.divRem 3 4 5 0 1)).getD 0#32).toNat (regs (-7) 2)) 3#5 = BitVec.ofInt 64 (-1) ∧
    xOf (after ((encode (.div 3 4 5 1 1)).getD 0#32).toNat (regs (-7) 2)) 3#5 = 0x7FFFFFFFFFFFFFFC#64 ∧
    xOf (after ((encode (.divRem 3 4 5 1 1)).getD 0#32).toNat (regs (-7) 2)) 3#5 = 1#64 := by decide +kernel
/-- The worked line of FMA: exact and with no flag. -/
theorem test_fma :
    let s := after 0x82321005 fun t => { t with xreg := (t.xreg.set 4 0x3F800800#64).set 3 0xBF800000#64 }
    xOf s 3#5 = 0x3A000400#64 ∧ (s.strand 0 0).fpstat = 0#64 ∧ (s.strand 0 0).fpPend = [] := by decide +kernel
/-- The worked line of VSRA.s8: 0x90 by a count of 200. -/
theorem test_panel_shift_of_a_large_count :
    let s := after ((encode (.vsra 1 2 3 11 1)).getD 0#32).toNat fun t =>
      { t with panels := (t.panels.set 2 (panelOfRows (List.replicate 16 0x90#2048))).set 3 (panelOfRows (List.replicate 16 200#2048)) }
    ((s.strand 0 0).panels.get 1).extractLsb' 0 8 = 0xFF#8 := by decide +kernel
/-- The worked line of TRAP, with the handler at 0x2C_1000: TRAPCAUSE and TRAPPC. -/
theorem test_trap_enters_its_handler :
    let s0 := (State.reset.placed.modCore 0 fun k => { k with sram := k.sram.write 0x2C0100 (natBytes 4 0xC400003B) }).modStrand 0 0 fun t =>
      { t with pcA := 0x2C0100#22, pcX := 0x2C00F8#22, passedA := 50#64, passedX := 48#64, trapvec := 0x2C1001#64 }
    let t := stepped { s0 with turns := [.counter 0 0 .a] }
    (t.strand 0 0).trapcause = 0x0007000200000008#64 ∧ (t.strand 0 0).trappc = 0x002C00F8002C0104#64 ∧
        (t.strand 0 0).pcA = 0x2C1000#22 ∧ (t.strand 0 0).pcX = 0x2C1000#22 ∧ (t.strand 0 0).passedX = 50#64 := by decide
/-- R286 and the worked delivery of 13_traps_preemption.md: ERET takes passed(X) back by SLIP and both counters to TRAPPC. -/
theorem test_eret_returns :
    let s := after 0xC200002B fun t => { t with trapcause := 0x0000000300010005#64, trappc := 0x002C0040002C0058#64,
                                                passedA := 1212#64, passedX := 1212#64, xstop := .eret, trapvec := 0x2C1003#64 }
    (s.strand 0 0).pcX = 0x2C0040#22 ∧ (s.strand 0 0).pcA = 0x2C0058#22 ∧ (s.strand 0 0).passedA = 1213#64 ∧
    (s.strand 0 0).passedX = 1210#64 := by decide
/-- Worked conversions of 04_number_formats.md: FP32 codes to E4M3, MK8, E2M1, BF16 and INT8. -/
theorem test_worked_conversions :
    let cvt (f code : Nat) (m : Rnd) (sat : Bool) : Nat × Flags := encodeVal (fmtOf f) (decodeVal (fmtOf 0) code) m sat
    cvt 5 0x43960000 .rne false = (0x79, flagNX) ∧ cvt 5 0x43E60000 .rne false = (0x7E, flagNX) ∧
    cvt 5 0x44160000 .rne false = (0x7F, flagOF ||| flagNX) ∧ cvt 5 0x44160000 .rne true = (0x7E, flagOF ||| flagNX) ∧
    cvt 9 0x3E99999A .rne false = (0x52, flagNX) ∧ cvt 9 0x459C4000 .rne false = (0x04, flagNX) ∧
    cvt 9 0xC69C4000 .rne false = (0x82, flagOF ||| flagNX) ∧ cvt 9 0x38400000 .rne false = (0x03, flagNX) ∧
    cvt 8 0x40200000 .rne false = (4, flagNX) ∧ cvt 3 0x3F818000 .rne false = (0x3F82, flagNX) ∧
    cvt 11 0xC0200000 .rne false = (0xFE, flagNX) ∧ cvt 11 0xC0200000 .rdn false = (0xFD, flagNX) ∧
    cvt 11 0x43960000 .rne false = (44, flagNV) ∧ cvt 11 0x43960000 .rne true = (127, flagNV) := by decide +kernel
/-- The last rows of the same table: VRSHR's rounding shift. -/
theorem test_worked_requantisations :
    intNarrow true 8 (rshiftRound (-3) 1) true = (-2, 0#6) ∧ intNarrow true 8 (rshiftRound 5 1) true = (3, 0#6) ∧
    intNarrow true 8 (rshiftRound 1000 2) true = (127, flagIS) := by decide
/-- The worked element of 05_numeric_versions.md: BF16 codes in one block, or one product at a time under version 1. -/
theorem test_three_versions_of_one_element :
    let v (c : Nat) : Val × Val := (decodeVal (fmtOf 3) c, .fin false 1 0)
    let acc (ver : Nat) (as bs : List Nat) : Nat :=
      let zero := decodeVal (fmtOf 0) 0
      codeOf (fmtOf 0) (if ver = 1 then (as.zip bs).foldl (fun s p => blockAcc 1 (fmtOf 0) false false [v p.1] [v p.2] s) zero
        else blockAcc ver (fmtOf 0) false false (as.map v) (bs.map v) zero)
    [3, 2, 1].map (fun n => acc n [0x3F80, 0x3F80, 0x35C0] [0x3F80, 0xBF80, 0x3580]) = [0x2BC00000, 0, 0x2BC00000] ∧
    [3, 2, 1].map (fun n => acc n [0x3F80, 0x3980, 0x3980] [0x3F80, 0x3980, 0x3980]) = [0x3F800001, 0x3F800001, 0x3F800000] := by
  decide +kernel
/-- The walk worked through in 09_address_spaces_translation.md: a single entry and a 2 MiB group. -/
theorem test_worked_walk :
    let tables (leaf : List (Nat × Byte)) : Ram :=
      ⟨[(0x20010, 1#8), (0x20012, 4#8), (0x48488, 1#8), (0x4848A, 6#8)] ++ leaf, []⟩
    let single := tables [(0x60000 + 8 * 0x1456, 0xF#8), (0x60004 + 8 * 0x1456, 0x1F#8)]
    let group := tables ((List.range 32).flatMap fun i => [(0x60000 + 8 * (0x1440 + i), 0x1F#8), (0x60004 + 8 * (0x1440 + i), 0x1F#8)])
    walkTables single (fun _ => false) 0xA1234567890 false [1, 2, 3] 0x20000 = .page 0x1F00000000 0x10000 true true ∧
    walkTables group (fun _ => false) 0xA1234567890 false [1, 2, 3] 0x20000 = .page 0x1F00000000 0x200000 true true := by decide +kernel
/-- R58, R41: QSND to an empty queue leaves one scalar. -/
theorem test_qsnd : (((after 0x94028003 (regs 0#64 7#64)).strand 0 0).qax.get 0).entries = [.scalar 7#64] := by decide
/-- R333: a signed displacement below zero, LD.s16 at a10 + 8 over bytes F0 FF (the worked line of LD). -/
theorem test_ld_sign_extends :
    let s0 := (State.reset.withFetchWord 32 ((encode (.ld 5 10 8 5 1)).getD 0#32).toNat).modStrand 0 0 fun t => { t with areg := t.areg.set 10 0x1000#64 }
    let t := stepped (s0.modCore 0 fun k => { k with sram := k.sram.write 0x1008 [0xF0#8, 0xFF#8] })
    aOf (stepped { t with turns := [.event (.loadPerform 0 0 0)] }) 5#5 = 0xFFFFFFFFFFFFFFF0#64 := by decide

end Sys2Proof.Tests
end

section
/-! PROOFS. The round trip of encoding (O52, O53). From instruction to word it rests on the per-row lemmas of
Sys2Proof/Laws/PerInstr.lean. From word to instruction, a map is read row by row: what its row tests and what it takes as fields
together name all 32 bits of the word, and as numbers they telescope. -/

namespace Sys2Proof.Laws.EncodeDecode

/-- Every constructor's row, put together. -/
theorem statement (i : Instr) : Statement i :=
  Instr.casesOn (motive := Statement) i nop add sub and or xor shl shr sra slt sltu minS64 minZ64 maxS64 maxZ64 mul mulhS64
    mulhZ64 madd addi andi ori xori shlImm shrImm sraImm bfxZ64 bfxS64 bfi lui limm csrr csrw br call ret beq bne blt bge bltu
    bgeu loop brkl ld ldAcq st stRel amo cas pld pst gath scat qsnd qrcv copy dcmp fill csum seminc semset semwait send mbreg
    mma mmaSat mmas mzero mld mst mstSat coll reside evict rquery spawn fence trig dwait exit yield eret trap fadd fsub fmul
    fmin fmax fdiv fsqrt fma fcmp fcvt div divRem xsndScalar xsndPanel xrcv vadd vsub vmul vfma vmin vmax vabs vneg vand vor
    vxor vnot vshl vshr vsra vcmp vsel vcvt vcvtSat vrshr vexp2 vlog2 vrcp vrsq vredr vredc vbcr vbcc vrotr vrotc vscan vperm
    part vtopk vmov vmovi vins vext wrot fmtset fmtsel rfch xfld sgwt disp bindStart bindPreempt bindMap bindFree
    translationRetry translationKill pad launch regionCreate regionModify regionDestroy map unmap bind hcopy hsignal hwait
    retire resync packetFetch packetIssue fetchRetry hwaitPoll doorbell qctlEnable qctlDisable restart chead devnum pwrlim
    linkctx attcmdReport attcmdChain bootgo hostRegisterWrite loaderMessage streamCommandStart copyLand copyComplete
    followOnEntry dcmpComplete fillComplete csumComplete sendAccept spawnStore spawnRingEntry matrixCommandPerform mstComplete
    storeDrain loadPerform rowComplete semincApply semIncrementArrival residencyOpPerform translationFault invalidation
    handlerStart taskEnd asyncCauseDelivery errorRecord collHop collCompletion gangRetry gangEnd tempoBoundary firingArrival
    preemptSave saveUnitApply retirementRequest dieFailure linkTraining linkLossOfLock scrub boot bootFallback dieReset
    completionTimeout tag4PieceArrival linkLevelRetry junctionLimit hostPortLinkTraining

end Sys2Proof.Laws.EncodeDecode

namespace Sys2Proof

/-! ## The bytes of a word (R1) -/

/-- Four bytes joined into a word are its bytes. -/
theorem bytesOfWord_wordOfBytes (b0 b1 b2 b3 : Byte) : bytesOfWord (wordOfBytes b0 b1 b2 b3) = [b0, b1, b2, b3] := by
  have h0 : (wordOfBytes b0 b1 b2 b3).extractLsb' 0 8 = b0 := Bits.low BitVec.extractLsb'_eq_self
  have h1 : (wordOfBytes b0 b1 b2 b3).extractLsb' 8 8 = b1 := Bits.up (Bits.low BitVec.extractLsb'_eq_self)
  have h2 : (wordOfBytes b0 b1 b2 b3).extractLsb' 16 8 = b2 := Bits.up (Bits.up (Bits.low BitVec.extractLsb'_eq_self))
  have h3 : (wordOfBytes b0 b1 b2 b3).extractLsb' 24 8 = b3 := Bits.up (Bits.up (Bits.up BitVec.extractLsb'_eq_self))
  rw [bytesOfWord, h0, h1, h2, h3]

/-- What both decoders do, with the reader `f` of a word: the first four bytes are the word, and the others are left. -/
def decodeWith (f : BitVec 32 → Except DecodeErr Instr) : List Byte → Except DecodeErr (Instr × List Byte)
  | b0 :: b1 :: b2 :: b3 :: rest => (f (wordOfBytes b0 b1 b2 b3)).map fun i => (i, rest)
  | _ => .error .short

theorem decode_eq_decodeWith : ∀ l : List Byte, decode l = decodeWith decodeRivan l
  | _ :: _ :: _ :: _ :: _ => by
    simp only [decode, decodeWith]
    cases decodeRivan _ <;> rfl
  | [] | [_] | [_, _] | [_, _, _] => rfl

theorem decodeSup_eq_decodeWith : ∀ l : List Byte, decodeSup l = decodeWith decodeSupervisor l
  | _ :: _ :: _ :: _ :: _ => by
    simp only [decodeSup, decodeWith]
    cases decodeSupervisor _ <;> rfl
  | [] | [_] | [_, _] | [_, _, _] => rfl

theorem decodeWith_bytesOfWord (f : BitVec 32 → Except DecodeErr Instr) (w : BitVec 32) :
    decodeWith f (bytesOfWord w) = (f w).map fun i => (i, []) := by
  rw [bytesOfWord, decodeWith, wordOfBytes_bytesOfWord]

/-- Bytes that are read begin with those of a word that the reader reads. -/
theorem decodeWith_ok {f : BitVec 32 → Except DecodeErr Instr} {l rest : List Byte} {i : Instr}
    (h : decodeWith f l = .ok (i, rest)) : ∃ w, f w = .ok i ∧ l = bytesOfWord w ++ rest := by
  unfold decodeWith at h
  split at h
  next b0 b1 b2 b3 tail =>
    refine ⟨wordOfBytes b0 b1 b2 b3, ?_⟩
    cases hf : f (wordOfBytes b0 b1 b2 b3) <;> rw [hf] at h <;> cases h
    exact ⟨rfl, by rw [bytesOfWord_wordOfBytes]; rfl⟩
  next => cases h

/-! ## From instruction to word and back (O52) -/

/-- A word that the Rivan maps read is read as their row, by `decode`. -/
theorem decodeTableWord_of_rivan {w : BitVec 32} {i : Instr} (h : decodeRivan w = .ok i) :
    decodeTableWord 32 w.toNat = some i := by
  simp [decodeTableWord, decode_eq_decodeWith, decodeWith_bytesOfWord, h, Except.map]

/-- A word that the Rivan maps refuse and the supervisor's map reads is read as the latter's row. -/
theorem decodeTableWord_of_supervisor {w : BitVec 32} {i : Instr} {r : DecodeErr} (h : decodeRivan w = .error r)
    (hs : decodeSupervisor w = .ok i) : decodeTableWord 32 w.toNat = some i := by
  simp [decodeTableWord, decode_eq_decodeWith, decodeSup_eq_decodeWith, decodeWith_bytesOfWord, h, hs, Except.map]

theorem decodeRivan_of_space {w : BitVec 32} {i : Instr} (h : decodeSpace w = .ok i) (hw : i.WellFormed) :
    decodeRivan w = .ok i := by
  simp only [decodeRivan, h, checked, if_pos hw]

theorem decodeRivan_of_space_error {w : BitVec 32} {r : DecodeErr} (h : decodeSpace w = .error r) :
    decodeRivan w = .error r := by
  simp only [decodeRivan, h]

/-- Settles O52: the word of an instruction selects the map and the row that give it back, and a well-formed one passes the
check. -/
theorem everyWellFormedWordIsReadBack : Obligations.EveryWellFormedWordIsReadBack := by
  intro i w hw he
  obtain h | ⟨h, hs⟩ := Laws.EncodeDecode.statement i w he
  · exact decodeTableWord_of_rivan (decodeRivan_of_space h hw)
  · exact decodeTableWord_of_supervisor (decodeRivan_of_space_error h) hs

/-! ## From word to instruction and back (O53) -/

/-- The bits of a word at `s` and above, as a number. -/
def Bits.above (w : BitVec 32) (s : Nat) : Int := (w.toNat / 2 ^ s : Nat)

theorem Bits.above_zero (w : BitVec 32) : Bits.above w 0 = w.toNat := by simp [Bits.above]

theorem Bits.above_all (w : BitVec 32) : Bits.above w 32 = 0 := by
  rw [Bits.above, Nat.div_eq_of_lt w.isLt, Int.natCast_zero]

/-- A field is a difference of what stands above its two ends: the fields of a word telescope. -/
theorem Bits.toNat_extract (w : BitVec 32) (s l : Nat) :
    ((w.extractLsb' s l).toNat : Int) = Bits.above w s - 2 ^ l * Bits.above w (s + l) := by
  have h := Nat.mod_add_div (w.toNat / 2 ^ s) (2 ^ l)
  rw [BitVec.extractLsb'_toNat, Nat.shiftRight_eq_div_pow, Bits.above, Bits.above, Nat.pow_add, ← Nat.div_div_eq_div_mul]
  zify at h ⊢
  linarith

theorem Bits.toNat_append {a b : Nat} (x : BitVec a) (y : BitVec b) : (x ++ y).toNat = x.toNat * 2 ^ b + y.toNat := by
  rw [BitVec.toNat_append, ← Nat.shiftLeft_add_eq_or_of_lt y.isLt, Nat.shiftLeft_eq]

/-- Equality of bits as an equation of numbers. -/
theorem Bits.eq_iff {n : Nat} {x y : BitVec n} : x = y ↔ (x.toNat : Int) = y.toNat := by
  rw [BitVec.toNat_eq, Int.natCast_inj]

/-- An instruction that a map reads from the word `w` has the word `w`. -/
def ReadsBack (w : BitVec 32) : Except DecodeErr Instr → Prop
  | .ok i => encode i = some w
  | .error _ => True

theorem ReadsBack.word {w : BitVec 32} {r : Except DecodeErr Instr} {i : Instr} (h : ReadsBack w r) (hr : r = .ok i) :
    encode i = some w := by
  rwa [hr] at h

theorem ReadsBack.error {w : BitVec 32} {e : DecodeErr} : ReadsBack w (.error e) := trivial

/-- A row is read back under what it tests of the word, and the rows after it whatever it tests. -/
theorem ReadsBack.row {w : BitVec 32} {c : Prop} [Decidable c] {t r : Except DecodeErr Instr} (h : c → ReadsBack w t)
    (hr : ReadsBack w r) : ReadsBack w (if c then t else r) := by
  split
  · exact h ‹c›
  · exact hr

/-- R73 to R82, R265: every row of the three maps, under the H and G that select them, and of the supervisor's map is read back.
A row's word joins the row's codes, which `w` was found to hold, and the fields that the row took from `w`; as numbers over
`Bits.above w`, the sum of these parts is linear and leaves `w`. -/
theorem maps_readBack (w : BitVec 32) (g : Tag) :
    (w.extractLsb' 31 1 = 0#1 → w.extractLsb' 1 2 = g.bits → ReadsBack w (decodeShared g w)) ∧
    (w.extractLsb' 31 1 = 1#1 → w.extractLsb' 1 2 = 1#2 → ReadsBack w (decodeAccess w)) ∧
    (w.extractLsb' 31 1 = 1#1 → w.extractLsb' 1 2 = 2#2 → ReadsBack w (decodeExecute w)) ∧
    ReadsBack w (decodeSupervisor w) := by
  unfold decodeShared decodeAccess decodeExecute decodeSupervisor
  refine ⟨fun _ _ => ?_, fun _ _ => ?_, fun _ _ => ?_, ReadsBack.row (fun _ => ?_) ReadsBack.error⟩
  all_goals split
  all_goals repeat' apply ReadsBack.row
  any_goals exact ReadsBack.error
  all_goals
    intros
    refine congrArg some (Bits.eq_iff.2 ?_ : _ = w)
    simp only [Bits.toNat_append, Int.natCast_add, Int.natCast_mul, Bits.eq_iff, Bits.toNat_extract, ← Int.natCast_inj] at *
    simp only [Nat.reduceAdd, ← Bits.above_zero w, Bits.above_all] at *
    lia

theorem decodeSpace_readsBack (w : BitVec 32) : ReadsBack w (decodeSpace w) := by
  obtain ⟨hboth, haccess, hexecute, _⟩ := maps_readBack w .both
  unfold decodeSpace
  split
  case h_1 hh hg => exact hboth (BitVec.eq_of_toNat_eq hh) (BitVec.eq_of_toNat_eq hg)
  case h_2 hh hg => exact (maps_readBack w .acc).1 (BitVec.eq_of_toNat_eq hh) (BitVec.eq_of_toNat_eq hg)
  case h_3 hh hg => exact (maps_readBack w .exe).1 (BitVec.eq_of_toNat_eq hh) (BitVec.eq_of_toNat_eq hg)
  case h_4 => exact ReadsBack.error
  case h_5 hh hg => exact haccess (BitVec.eq_of_toNat_eq hh) (BitVec.eq_of_toNat_eq hg)
  case h_6 hh hg => exact hexecute (BitVec.eq_of_toNat_eq hh) (BitVec.eq_of_toNat_eq hg)
  case h_7 => exact ReadsBack.error

/-- A Rivan word that is read is the word of a well-formed instruction. -/
theorem decodeRivan_ok {w : BitVec 32} {i : Instr} (h : decodeRivan w = .ok i) : i.WellFormed ∧ encode i = some w := by
  unfold decodeRivan checked at h
  split at h
  next hs =>
    split at h
    next hw =>
      cases h
      exact ⟨hw, (decodeSpace_readsBack w).word hs⟩
    next => cases h
  next => cases h

/-- A supervisor word that is read is the word of a well-formed instruction: its four rows take any field. -/
theorem decodeSupervisor_ok {w : BitVec 32} {i : Instr} (h : decodeSupervisor w = .ok i) : i.WellFormed ∧ encode i = some w := by
  obtain ⟨_, _, _, hback⟩ := maps_readBack w .both
  refine ⟨?_, hback.word h⟩
  unfold decodeSupervisor at h
  split at h
  · split at h <;> cases h <;> rfl
  · cases h

/-- Settles O53: both decoders read four bytes as a word, and each row that they read gives all of the word's bits. -/
theorem decodedBytesAreTheInstructionsWord : Obligations.DecodedBytesAreTheInstructionsWord := by
  rintro l i rest (h | h)
  · obtain ⟨w, hw, hl⟩ := decodeWith_ok ((decode_eq_decodeWith l).symm.trans h)
    obtain ⟨hwf, he⟩ := decodeRivan_ok hw
    exact ⟨hwf, w, he, hl⟩
  · obtain ⟨w, hw, hl⟩ := decodeWith_ok ((decodeSup_eq_decodeWith l).symm.trans h)
    obtain ⟨hwf, he⟩ := decodeSupervisor_ok hw
    exact ⟨hwf, w, he, hl⟩

end Sys2Proof
end

section
/-! PROOFS. What a word that issues alone in its group leaves (R33, R37, R44, R46, R48): the counter has passed it. A word with an
effect then retires with that effect. -/

namespace Sys2Proof.Machine

/-! ## Passing an end word (R44) -/

/-- A level whose end word is passed with more than one iteration left goes on; another that ends there becomes inactive. -/
def Level.goesOn (l : Level) (pc : BitVec 22) : Bool := l.endsAt pc && 1#32 < l.rem
def Level.again (l : Level) : Level := { l with rem := l.rem - 1#32 }
def Level.ended (l : Level) (pc : BitVec 22) : Level := if l.endsAt pc then { l with active := false } else l

theorem Level.endsAt_iff (l : Level) (pc : BitVec 22) : l.endsAt pc = true ↔ l.Ends pc := by
  simp [Level.endsAt, Level.Ends, and_assoc]

theorem Level.goesOn_iff (l : Level) (pc : BitVec 22) : l.goesOn pc = true ↔ l.Ends pc ∧ 1 < l.rem.toNat := by
  simp [Level.goesOn, Level.endsAt_iff, BitVec.lt_def]

theorem Level.goesOn_eq_false {l : Level} {pc : BitVec 22} (h : l.Ends pc → l.rem.toNat ≤ 1) : l.goesOn pc = false := by
  rw [Bool.eq_false_iff, ne_eq, Level.goesOn_iff]
  rintro ⟨he, hr⟩
  exact absurd (h he) (Nat.not_le.2 hr)

theorem Level.ended_of_ends {l : Level} {pc : BitVec 22} (h : l.Ends pc) : l.ended pc = { l with active := false } :=
  if_pos ((l.endsAt_iff pc).2 h)

theorem Level.ended_of_not_ends {l : Level} {pc : BitVec 22} (h : ¬ l.Ends pc) : l.ended pc = l :=
  if_neg fun e => h ((l.endsAt_iff pc).1 e)

theorem levels_eta (ls : Vector Level 3) : ls = #v[ls.get 0, ls.get 1, ls.get 2] := by
  ext i hi
  match i, hi with
  | 0, _ => rfl
  | 1, _ => rfl
  | 2, _ => rfl

theorem levels_ext {ls ms : Vector Level 3} (h : ∀ i, ls.get i = ms.get i) : ls = ms := by
  rw [levels_eta ls, levels_eta ms, h 0, h 1, h 2]

/-- The levels in order, up to the first that goes on. -/
theorem passEnd_eq (ls : Vector Level 3) (pc : BitVec 22) :
    passEnd ls pc =
      if (ls.get 0).goesOn pc then (#v[(ls.get 0).again, ls.get 1, ls.get 2], some (ls.get 0).start, (ls.get 0).endsAt pc)
      else if (ls.get 1).goesOn pc then
        (#v[(ls.get 0).ended pc, (ls.get 1).again, ls.get 2], some (ls.get 1).start, (ls.get 0).endsAt pc)
      else if (ls.get 2).goesOn pc then
        (#v[(ls.get 0).ended pc, (ls.get 1).ended pc, (ls.get 2).again], some (ls.get 2).start, (ls.get 0).endsAt pc)
      else (#v[(ls.get 0).ended pc, (ls.get 1).ended pc, (ls.get 2).ended pc], none, (ls.get 0).endsAt pc) := by
  obtain ⟨l0, l1, l2, rfl⟩ : ∃ l0 l1 l2, ls = #v[l0, l1, l2] := ⟨_, _, _, levels_eta ls⟩
  have g0 : #v[l0, l1, l2].get 0 = l0 := rfl
  have g1 : #v[l0, l1, l2].get 1 = l1 := rfl
  have g2 : #v[l0, l1, l2].get 2 = l2 := rfl
  simp only [passEnd, Level.goesOn, Level.ended, Level.again, g0, g1, g2]
  by_cases h0 : l0.endsAt pc <;> by_cases h1 : l1.endsAt pc <;> by_cases h2 : l2.endsAt pc <;> simp [h0, h1, h2]

/-- An iteration of level 0 ends where the level's end word is passed (R46). -/
theorem passEnd_iteration (ls : Vector Level 3) (pc : BitVec 22) : (passEnd ls pc).2.2 = (ls.get 0).endsAt pc := by
  rw [passEnd_eq]
  repeat' split
  all_goals rfl

/-- The lowest level that goes on takes the counter back to its start; those below it end. -/
theorem passEnd_back {ls : Vector Level 3} {pc : BitVec 22} {j : Fin 3} (hj : (ls.get j).Ends pc) (hr : 1 < (ls.get j).rem.toNat)
    (hl : ∀ i, i < j → (ls.get i).Ends pc → (ls.get i).rem.toNat ≤ 1) :
    (passEnd ls pc).2.1 = some (ls.get j).start ∧
    ∀ i, (passEnd ls pc).1.get i = if i < j then (ls.get i).ended pc else if i = j then (ls.get j).again else ls.get i := by
  have hg : (ls.get j).goesOn pc = true := (Level.goesOn_iff _ _).2 ⟨hj, hr⟩
  have hn (i : Fin 3) (hi : i < j) : (ls.get i).goesOn pc = false := Level.goesOn_eq_false (hl i hi)
  rw [passEnd_eq]
  match j with
  | 0 =>
    rw [if_pos hg]
    exact ⟨rfl, fun | 0 => rfl | 1 => rfl | 2 => rfl⟩
  | 1 =>
    rw [if_neg (by simp [hn 0]), if_pos hg]
    exact ⟨rfl, fun | 0 => rfl | 1 => rfl | 2 => rfl⟩
  | 2 =>
    rw [if_neg (by simp [hn 0]), if_neg (by simp [hn 1]), if_pos hg]
    exact ⟨rfl, fun | 0 => rfl | 1 => rfl | 2 => rfl⟩

/-- Where no level goes on the counter falls through, and the levels that end there are inactive. -/
theorem passEnd_out {ls : Vector Level 3} {pc : BitVec 22} (h : ∀ j, (ls.get j).Ends pc → (ls.get j).rem.toNat ≤ 1) :
    (passEnd ls pc).2.1 = none ∧ ∀ i, (passEnd ls pc).1.get i = (ls.get i).ended pc := by
  rw [passEnd_eq]
  simp only [fun i => Level.goesOn_eq_false (h i), Bool.false_eq_true, if_false]
  exact ⟨trivial, fun | 0 => rfl | 1 => rfl | 2 => rfl⟩

/-! ## Passing a word -/

/-- The low bits of a word, as a number. -/
theorem and_lowBits (x : Word) (n : Nat) (h : n ≤ 63) :
    x &&& BitVec.ofNat 64 (2 ^ n - 1) = BitVec.ofNat 64 (x.toNat % 2 ^ n) := by
  apply BitVec.eq_of_toNat_eq
  have : 2 ^ n - 1 < 2 ^ 64 := by
    have := Nat.pow_le_pow_right (n := 2) (by omega) h
    omega
  rw [BitVec.toNat_and, BitVec.toNat_ofNat, Nat.mod_eq_of_lt this, Nat.and_two_pow_sub_one_eq_mod, BitVec.toNat_ofNat,
    Nat.mod_eq_of_lt (lt_of_le_of_lt (Nat.mod_le _ _) x.isLt)]

/-- BASE one further, modulo 8 (R46). -/
theorem advanceRot_of_enabled {r : Word} (h : r.getLsbD 3 = true) :
    advanceRot r = (r &&& ~~~7#64) ||| BitVec.ofNat 64 ((r.toNat % 8 + 1) % 8) := by
  have low := and_lowBits (r + 1#64) 3 (by decide)
  rw [advanceRot, if_pos h, show (7#64 : Word) = BitVec.ofNat 64 (2 ^ 3 - 1) from rfl, low, BitVec.toNat_add]
  congr 2
  rw [Nat.mod_mod_of_dvd _ (by decide), BitVec.toNat_ofNat]
  omega

theorem advanceRot_of_not_enabled {r : Word} (h : ¬ r.getLsbD 3 = true) : advanceRot r = r := by
  rw [advanceRot, if_neg h]

/-- The synchronisation of IDX changes FMTIDX at most. -/
theorem Strand.syncIdx_eq (t : Strand) : t.syncIdx = { t with fmtidx := t.syncIdx.fmtidx } := by
  unfold syncIdx
  split
  · dsimp only
    split <;> rfl
  · rfl

/-- IDX after the synchronisation follows the level it is bound to (R48). -/
theorem Strand.syncIdx_idx {u t : Strand} (h : t.fmtidx = u.fmtidx) : IdxFollows u t.syncIdx := by
  intro l hl
  rw [← h] at hl ⊢
  have hf : Fin.ofNat 3 ((t.fmtidx.extractLsb' 4 2).toNat % 3) = l := by
    apply Fin.ext
    simp only [hl, Fin.ofNat, Nat.mod_mod]
    exact Nat.mod_eq_of_lt l.isLt
  have hloops : t.syncIdx.loopsX = t.loopsX := by rw [syncIdx_eq]
  rw [hloops]
  unfold syncIdx
  simp only [hf]
  constructor
  · intro h6 ha
    have low := and_lowBits (((t.loopsX.get l).count - (t.loopsX.get l).rem).zeroExtend 64) 4 (by decide)
    rw [if_pos h6, if_pos ha]
    dsimp only
    rw [show (15#64 : Word) = BitVec.ofNat 64 (2 ^ 4 - 1) from rfl, low]
    congr 3
  · intro h
    split
    · rw [if_neg fun ha => h ⟨‹_›, ha⟩]
    · rfl

/-- A strand has passed a word alone when its counter's place and levels are those of R44 and its registers those of R46
and R48. -/
theorem Passed.of_passEnd {k : Ctr} {pc : BitVec 22} {rotw : Bool} {u m : Strand}
    (hcount : m.passed k = u.passed k + 1#64 ∧ m.held k = none) (hloops : m.loops k = (passEnd (u.loops k) pc).1)
    (hpc : m.pc k = (passEnd (u.loops k) pc).2.1.getD (pc + 4#22)) (hother : SameOther k u m)
    (haccess : k = .a → m.rotbase = u.rotbase ∧ m.fmtidx = u.fmtidx)
    (hrot : k = .x → m.rotbase = if (u.loopsX.get 0).endsAt pc && !rotw then advanceRot u.rotbase else u.rotbase)
    (hidx : k = .x → IdxFollows u m) : Passed k pc rotw u m where
  count := hcount
  on h := by
    obtain ⟨hb, hg⟩ := passEnd_out fun j e => absurd e (h j)
    rw [hpc, hb, hloops]
    exact ⟨rfl, levels_ext fun i => (hg i).trans (Level.ended_of_not_ends (h i))⟩
  back j hj hr hl := by
    obtain ⟨hb, hg⟩ := passEnd_back hj hr hl
    rw [hpc, hb, hloops]
    refine ⟨rfl, ?_, fun i hi he => ?_, fun i hne hi => ?_⟩
    · rw [hg, if_neg (lt_irrefl j), if_pos rfl]
      rfl
    · rw [hg, if_pos hi, Level.ended_of_ends he]
    · rw [hg, if_neg hne]
      split
      · exact Level.ended_of_not_ends (hi.resolve_left (lt_asymm ‹_›))
      · rfl
  out := fun _ h => by
    obtain ⟨hb, hg⟩ := passEnd_out h
    rw [hpc, hb, hloops]
    exact ⟨rfl, fun i he => (hg i).trans (Level.ended_of_ends he), fun i he => (hg i).trans (Level.ended_of_not_ends he)⟩
  other := hother
  access := haccess
  turn hk he hen hw := by
    rw [hrot hk, (Level.endsAt_iff _ _).2 he, hw]
    exact advanceRot_of_enabled hen
  still hk h := by
    rw [hrot hk]
    split
    · next hc =>
      simp only [Bool.and_eq_true, Bool.not_eq_true', Level.endsAt_iff] at hc
      exact advanceRot_of_not_enabled fun hen => h ⟨hc.1, hen, hc.2⟩
    · rfl
  idx := hidx

/-- ROTBASE turned where `b` (R46). -/
def Strand.turn (t : Strand) (b : Bool) : Strand := { t with rotbase := if b then advanceRot t.rotbase else t.rotbase }

theorem Strand.turn_eq (t : Strand) (b : Bool) : t.turn b = if b then { t with rotbase := advanceRot t.rotbase } else t := by
  cases b <;> rfl

/-- A counter that issues a word alone has passed it. -/
theorem Strand.advance_passed (u : Strand) (k : Ctr) (pc : BitVec 22) (rotw : Bool) :
    Passed k pc rotw u (((u.addPassed k 1).setHeld k none).advance k pc rotw) := by
  cases k with
  | a =>
    apply Passed.of_passEnd <;>
      simp [advance, passed, addPassed, held, setHeld, loops, setLoops, Strand.pc, setPc, SameOther]
  | x =>
    simp only [advance, ← turn_eq, passEnd_iteration]
    apply Passed.of_passEnd
    case hidx => exact fun _ => syncIdx_idx (by simp [turn, addPassed, setHeld, setLoops, setPc])
    all_goals
      rw [syncIdx_eq]
      simp [turn, passed, addPassed, held, setHeld, loops, setLoops, Strand.pc, setPc, SameOther]

/-! ## What an issued word leaves -/

/-- A word with the effect `w`, alone in its group, has passed. -/
theorem Retired.of_issued {w : State} (h : w.cur.phase = .single) : Retired w (w.issued 1 w.cur.pc) := by
  rw [Retired, if_pos h]
  exact ⟨_, by simp, Strand.advance_passed _ _ _ _, rfl⟩

/-- A word whose effect is `w` retires with that effect. -/
theorem issueWord_retired {i : Instr} {e : BitVec 1} {body : State → Act} {s w : State} (hb : body s = .done w)
    (he : Issues s e) (hphase : w.cur.phase = s.cur.phase) (hpc : w.cur.pc = s.cur.pc) :
    ∃ t, issueWord i e body s = .next t ∧ Retired w t := by
  refine ⟨_, issueWord_done hb he, ?_⟩
  split
  next h => exact hpc ▸ Retired.of_issued (hphase.trans h)
  next h => rw [Retired, if_neg (hphase ▸ h)]

end Sys2Proof.Machine
end

section
/-! PROOFS. CSRR and CSRW (O2). -/

namespace Sys2Proof.Machine

open Sys2Proof.Claims

/-! ## Registers and CSRs -/

theorem wrote_eq (s : State) (k : Ctr) (d : BitVec 5) (v : Word) : wrote s k d v = (s.actAs k).modMe fun t => t.setReg k d v := by
  cases k <;> rfl

/-- Available registers are not waited for (R49). -/
theorem waits_of_available {s : State} {k : Ctr} {rs : List (BitVec 5)} (h : Available s k rs) : s.me.waits k rs = false := by
  cases k with
  | a =>
    have hbusy : rs.any s.me.isBusy = false := List.any_eq_false.2 fun r hr => by simp [h rfl r hr]
    rw [Strand.waits, hbusy, Bool.and_false]
  | x => rfl

/-- A word on FPSTAT waits exactly where the flags of earlier instructions are not there (R113). -/
theorem awaitsFlags_iff (s : State) (k : Ctr) (c : BitVec 12) : s.awaitsFlags k c.toNat = true ↔ ¬ FlagsThere s k c := by
  have hc : c.toNat = 0x014 ↔ c = 0x014#12 := (BitVec.toNat_eq (y := 0x014#12)).symm
  simp only [State.awaitsFlags, FlagsThere, Bool.and_eq_true, beq_iff_eq, hc]
  cases s.cur.phase <;> simp [and_assoc]

/-- CSRR reads each listed CSR (R75, R347). -/
theorem readCsr_csrValues : ∀ p ∈ csrValues, csrListed p.1.toNat = true ∧ ∀ s : State, s.readCsr p.1.toNat = p.2 s := by
  have hid (s : State) : s.coreId = (s.core s.cur.core).lcore.zeroExtend 64 + BitVec.ofNat 64 (s.cur.core * 2 ^ 16) := by
    rw [State.coreId, BitVec.ofNat_add, BitVec.ofNat_toNat, State.myCore]
  simp only [csrValues, List.forall_mem_cons, List.not_mem_nil]
  refine ⟨?_, ⟨rfl, hid⟩, ?_, ?_, ?_, ?_, ?_, ?_, ?_, ?_, ?_, ?_, ?_, ?_, nofun⟩ <;> exact ⟨rfl, fun _ => rfl⟩

/-! ## A counter's own view of its CSRs (R368) -/

theorem State.writeCsr_actAs (s : State) (k : Ctr) (c : Nat) (v : Word) (x : Cur) :
    { (s.actAs k).writeCsr c v with cur := x } = { s.writeCsr c v with cur := x } := by
  unfold State.writeCsr
  split <;> rfl

/-- A CSR's own late effect does not depend on which counter acts. -/
theorem State.applyLate_actAs (s : State) (k : Ctr) (c : Nat) (n : Fin 4) {o : LateOp} (h : o.kind.own = true) :
    (s.actAs k).applyLate c n o = (s.applyLate c n o).actAs k := by
  unfold State.applyLate
  split <;> rename_i hk <;> simp only [hk, LateKind.own, Bool.false_eq_true] at h
  · rfl
  · exact State.writeCsr_actAs { s with cur := { s.cur with core := c, strand := n } } k _ _ _
  · rfl

theorem State.view_actAs (s : State) (j k : Ctr) : (s.actAs j).view k = (s.view k).actAs j := by
  have fold (l : List LateOp) (hl : ∀ o ∈ l, o.kind.own = true) : ∀ s : State,
      l.foldl (fun s o => s.applyLate s.cur.core s.cur.strand o) (s.actAs j) =
        (l.foldl (fun s o => s.applyLate s.cur.core s.cur.strand o) s).actAs j := by
    induction l with
    | nil => exact fun _ => rfl
    | cons o l ih =>
      intro s
      obtain ⟨ho, hl⟩ := List.forall_mem_cons.1 hl
      simp only [List.foldl_cons, actAs_core, actAs_strand, applyLate_actAs _ _ _ _ ho]
      exact ih hl _
  unfold State.view
  by_cases h : (k == Ctr.x || s.me.reads.isEmpty) = true
  · rw [if_pos h]
    exact if_pos h
  · rw [if_neg h]
    exact (if_neg h).trans (fold _ (fun o ho => (List.mem_filter.1 ho).2) s)

theorem State.readCsr_actAs (s : State) (k : Ctr) (c : Nat) : (s.actAs k).readCsr c = s.readCsr c := rfl

/-! ## CSRR and CSRW (R347, R348) -/

theorem csrrReadsEveryListedCsr : CsrrReadsEveryListedCsr := by
  intro p hp d g e s he ha
  obtain ⟨hlisted, hread⟩ := readCsr_csrValues p hp
  have hw := waits_of_available ha
  rw [wrote_eq, Holds, exec_csrr, execCsrr]
  constructor
  · intro hf
    have hflags := Bool.eq_false_iff.2 fun h => (awaitsFlags_iff (s.actAs (tagCtr g s)) _ _).1 h hf
    refine issueWord_retired ?_ he rfl rfl
    simp [hlisted, hw, hflags, State.view_actAs, State.readCsr_actAs, ← hread]
  · intro hf
    have hflags := (awaitsFlags_iff (s.actAs (tagCtr g s)) _ _).2 hf
    exact issueWord_wait (by simp [hlisted, hw, hflags]) he

/-- CSRW of `v` to CSR `c` is not refused (R75, R348). -/
def CsrAccepts (s : State) (c : Nat) (v : Word) : Prop :=
  csrListed c = true ∧ csrReadOnly c = false ∧ s.csrRefuses c v = none

/-- Every CSR that CSRW writes accepts a value with its reserved bits 0 that meets its further rule (R31, R122, R48, R224). -/
theorem writableCsrs_accept : ∀ p ∈ writableCsrs, ∀ (s : State) (v : Word), v &&& p.2.1 = 0#64 → p.2.2 s v →
    CsrAccepts s p.1.toNat v := by
  simp only [writableCsrs, List.forall_mem_cons, List.not_mem_nil]
  refine ⟨?_, ?_, ?_, ?_, ?_, ?_, ?_, ?_, ?_, ?_, nofun⟩ <;> intro s v hm hv <;>
    simp_all [CsrAccepts, State.csrRefuses, csrReserved, csrReadOnly, csrListed]

/-- SLIPW, FPSTAT, TRAPCAUSE and TRAPPC are among them, with no further rule. -/
theorem plainCsrs_accept : ∀ p ∈ plainCsrs, ∀ (s : State) (v : Word), v &&& p.2.1 = 0#64 → CsrAccepts s p.1.toNat v := by
  have hsub : ∀ p ∈ plainCsrs, (p.1, p.2.1, fun (_ : State) (_ : Word) => True) ∈ writableCsrs := by
    simp [plainCsrs, writableCsrs]
  exact fun p hp s v hm => writableCsrs_accept _ (hsub p hp) s v hm trivial

theorem clampSlip_eq (v : Word) : clampSlip v = BitVec.ofNat 64 (max 16 (min v.toNat 1024)) := by
  unfold clampSlip
  split
  · rw [max_eq_left (by omega)]
  · split
    · rw [min_eq_right (by omega)]
      rfl
    · rw [min_eq_left (by omega), max_eq_right (by omega), BitVec.ofNat_toNat, BitVec.setWidth_eq]

/-- The effect of CSRW on them (R348, R38). -/
theorem writeCsr_plainCsrs : ∀ p ∈ plainCsrs, ∀ (s : State) (v : Word), s.writeCsr p.1.toNat v = withMe s (p.2.2 v) := by
  simp only [plainCsrs, List.forall_mem_cons, List.not_mem_nil, ← clampSlip_eq]
  exact ⟨fun _ _ => rfl, fun _ _ => rfl, fun _ _ => rfl, fun _ _ => rfl, nofun⟩

theorem State.writeCsr_phase (s : State) (c : Nat) (v : Word) : (s.writeCsr c v).cur.phase = s.cur.phase := by
  unfold State.writeCsr
  split <;> rfl

theorem State.writeCsr_pc (s : State) (c : Nat) (v : Word) : (s.writeCsr c v).cur.pc = s.cur.pc := by
  unfold State.writeCsr
  split <;> rfl

theorem State.csrRefuses_actAs (s : State) (k : Ctr) (c : Nat) (v : Word) : (s.actAs k).csrRefuses c v = s.csrRefuses c v := rfl

theorem hides_actAs (s : State) (k : Ctr) : (s.actAs k).hides = hidden s := by
  simp only [State.hides, State.ahead, Claims.hidden, State.actAs_phase, State.me_actAs]
  cases s.cur.phase <;> rfl

theorem rdMark_actAs (s : State) (k : Ctr) : (s.actAs k).rdMark = mark s := by
  simp only [State.rdMark, State.ahead, mark, State.actAs_phase, State.me_actAs]
  cases s.cur.phase <;> rfl

/-- What a read hides is kept until the read is done. -/
theorem effect_of_hidden {s : State} (h : hidden s = true) (kind : LateKind) : (s.actAs .a).effect kind = deferred s kind := by
  rw [State.effect, hides_actAs, if_pos h, rdMark_actAs, deferred]

section
variable {a : BitVec 5} {c : BitVec 12} {g : Tag} {e : BitVec 1} {s : State}

/-- An accepted CSRW that no read hides takes effect at once. -/
theorem csrw_direct (he : Issues s e) (ha : Available s (tagCtr g s) [a])
    (hc : CsrAccepts s c.toNat (s.me.reg (tagCtr g s) a)) (hd : Direct s (tagCtr g s))
    (hf : FlagsThere s (tagCtr g s) c) :
    ∃ t, exec (.csrw a c g e) s = .next t ∧ Retired ((s.actAs (tagCtr g s)).writeCsr c.toNat (s.me.reg (tagCtr g s) a)) t := by
  obtain ⟨hlisted, hwritable, haccepted⟩ := hc
  have hflags := Bool.eq_false_iff.2 fun h => (awaitsFlags_iff (s.actAs (tagCtr g s)) _ _).1 h hf
  have hseen : tagCtr g s = .x ∨ hidden s = false := by
    cases hk : tagCtr g s
    · exact .inr (hd hk)
    · exact .inl rfl
  rw [exec_csrw, execCsrw]
  refine issueWord_retired ?_ he (State.writeCsr_phase _ _ _) (State.writeCsr_pc _ _ _)
  simp [hlisted, hwritable, waits_of_available ha, State.csrRefuses_actAs, haccepted, hflags, hides_actAs, hseen]

/-- An accepted CSRW by the access counter that a read hides is kept until the read is done (R368). -/
theorem csrw_deferred (he : Issues s e) (hk : tagCtr g s = .a) (ha : Available s .a [a])
    (hc : CsrAccepts s c.toNat (s.me.reg .a a)) (hh : hidden s = true) :
    ∃ t, exec (.csrw a c g e) s = .next t ∧
      Retired (deferred s (if c = 0x021#12 then .inject (s.me.reg .a a) s.me.streamCount else .csr c.toNat (s.me.reg .a a))) t := by
  obtain ⟨hlisted, hwritable, haccepted⟩ := hc
  rw [exec_csrw, execCsrw, hk]
  refine issueWord_retired ?_ he rfl rfl
  simp [hlisted, hwritable, waits_of_available ha, State.csrRefuses_actAs, haccepted, State.awaitsFlags, hides_actAs, hh,
    effect_of_hidden]

theorem csrw_waits (he : Issues s e) (ha : Available s (tagCtr g s) [a])
    (hc : CsrAccepts s c.toNat (s.me.reg (tagCtr g s) a)) (hf : ¬ FlagsThere s (tagCtr g s) c) :
    Holds (.csrw a c g e) (tagCtr g s) s := by
  obtain ⟨hlisted, hwritable, haccepted⟩ := hc
  have hflags := (awaitsFlags_iff (s.actAs (tagCtr g s)) _ _).2 hf
  rw [Holds, exec_csrw, execCsrw]
  exact issueWord_wait (by simp [hlisted, hwritable, waits_of_available ha, State.csrRefuses_actAs, haccepted, hflags]) he

end

theorem csrwReplacesPlainCsrs : CsrwReplacesPlainCsrs := by
  intro p hp a g e s he ha hm
  have hc := plainCsrs_accept p hp s _ hm
  refine ⟨fun hd hf => ?_, csrw_waits he ha hc⟩
  rw [← writeCsr_plainCsrs p hp]
  exact csrw_direct he ha hc hd hf

theorem csrwBehindAReadWaitsToBeSeen : CsrwBehindAReadWaitsToBeSeen := by
  intro p hp a g e s he hk ha hh hm hv
  exact csrw_deferred he hk ha (writableCsrs_accept p hp s _ hm hv) hh

/-- Settles O2: CSRR reads the listed CSR in its counter's view, and an accepted CSRW takes effect at once, waits for flags, or is
kept behind a read. -/
theorem csrsReadAndPlainCsrsAreReplaced : Obligations.CsrsReadAndPlainCsrsAreReplaced :=
  ⟨csrrReadsEveryListedCsr, csrwReplacesPlainCsrs, csrwBehindAReadWaitsToBeSeen⟩

end Sys2Proof.Machine
end

section
/-! PROOFS. A CSRW that raises a cause, and NUMVER (O7). -/

namespace Sys2Proof.Machine

open Sys2Proof.Claims

/-! ## What a precise cause leaves of its strand (R284) -/

/-- The model's entry, 20 bits of TRAPVEC before two zeros, is ENTRY × 4. -/
theorem Strand.entry_eq (t : Strand) : t.entry = handlerAt t := by
  apply BitVec.eq_of_toNat_eq
  rw [entry, handlerAt, BitVec.toNat_append, BitVec.extractLsb'_toNat, BitVec.toNat_ofNat, Nat.shiftRight_eq_div_pow]
  simp only [BitVec.toNat_ofNat, Nat.zero_mod, Nat.or_zero, Nat.shiftLeft_eq]
  omega

/-- A ready handler is one that the model can enter and that is not active. -/
theorem handlerReady_iff (s : State) : HandlerReady s ↔ (s.canHandle s.me && !s.me.trapvec.getLsbD 1) = true := by
  simp only [HandlerReady, State.canHandle, inRange, Strand.entry_eq, Bool.and_eq_true, Bool.not_eq_true', decide_eq_true_eq]
  tauto

/-- With its handler ready, a strand that raises a cause waits for its reads or enters the handler. -/
theorem me_deliver_of_handlerReady {s : State} (h : HandlerReady s) (pc : BitVec 22) (cause : Nat) (detail : BitVec 16) :
    (s.deliver pc cause detail).me = s.me ∨
    ∃ word pa px, (s.deliver pc cause detail).me = s.me.enterHandler word pa px := by
  unfold State.deliver
  split
  · exact .inl rfl
  · rw [State.deliverNow, if_pos ((handlerReady_iff s).1 h), State.me_setMe]
    exact .inr ⟨_, _, _, rfl⟩

theorem numver_deliver_of_handlerReady {s : State} (h : HandlerReady s) (pc : BitVec 22) (cause : Nat) (detail : BitVec 16) :
    (s.deliver pc cause detail).me.numver = s.me.numver := by
  obtain hwait | ⟨word, pa, px, henter⟩ := me_deliver_of_handlerReady h pc cause detail
  · rw [hwait]
  · rw [henter, Strand.enterHandler]

/-- A word that raises a cause leaves NUMVER where its strand goes on: in its handler, or while its pair's turn has the cause
still to deliver. -/
theorem numver_of_raises {i : Instr} {k : Ctr} {cause : Nat} {detail : BitVec 16} {s : State} (h : Raises i k cause detail s)
    (hon : HandlerReady s ∨ s.cur.phase ≠ .single) : ∃ t, exec i s = .next t ∧ t.me.numver = s.me.numver := by
  refine ⟨_, h, ?_⟩
  split
  next hsingle =>
    have hready : HandlerReady (s.actAs k) := hon.resolve_right (absurd hsingle)
    exact numver_deliver_of_handlerReady hready _ _ _
  next => rfl

/-! ## What a retired word leaves of its strand -/

/-- The passing of a word does not touch NUMVER. -/
theorem numver_of_retired {w t : State} (h : Retired w t) : t.me.numver = w.me.numver := by
  unfold Retired at h
  split at h
  · obtain ⟨m, hm, _, rfl⟩ := h
    rw [State.me_res, State.me_setMe]
    exact (congrArg Strand.numver hm :)
  · rw [h, State.me_res]

/-! ## Refused writes (R348) -/

/-- CSRW of a value that its CSR refuses raises the cause of the refusal. -/
theorem csrw_raises {a : BitVec 5} {c : BitVec 12} {g : Tag} {e : BitVec 1} {s : State} {cause : Nat} (he : Issues s e)
    (ha : Available s (tagCtr g s) [a]) (hlisted : csrListed c.toNat = true) (hwritable : csrReadOnly c.toNat = false)
    (hc : s.csrRefuses c.toNat (s.me.reg (tagCtr g s) a) = some cause) : Raises (.csrw a c g e) (tagCtr g s) cause 0#16 s := by
  rw [Raises, exec_csrw, execCsrw]
  exact issueWord_trap (by simp [hlisted, hwritable, waits_of_available ha, State.csrRefuses_actAs, hc]) he

/-! ## NUMVER (R122) -/

theorem csrRefuses_numver_of_reserved (s : State) {v : Word} (h : v &&& 0xFFFFFFFFFFFFFFFC#64 ≠ 0#64) :
    s.csrRefuses 0x010 v = some causeIllegal := by
  simp [State.csrRefuses, csrReadOnly, csrReserved, h]

theorem csrRefuses_numver_of_zero (s : State) : s.csrRefuses 0x010 0#64 = some causeNumver := by
  simp [State.csrRefuses, csrReadOnly, csrReserved]

/-- The versions, 1, 2 and 3, are what NUMVER accepts. -/
theorem csrAccepts_numver (s : State) {v : Word} (h : v = 1#64 ∨ v = 2#64 ∨ v = 3#64) : CsrAccepts s (0x010#12).toNat v := by
  obtain ⟨hreserved, hzero⟩ : v &&& 0xFFFFFFFFFFFFFFFC#64 = 0#64 ∧ v ≠ 0#64 := by
    obtain rfl | rfl | rfl := h <;> decide
  exact writableCsrs_accept (0x010#12, 0xFFFFFFFFFFFFFFFC#64, fun _ v => v ≠ 0#64) (by simp [writableCsrs]) s v hreserved hzero

section
variable {a : BitVec 5} {g : Tag} {e : BitVec 1} {s : State}

theorem csrw_numver_reserved (he : Issues s e) (ha : Available s (tagCtr g s) [a])
    (hv : s.me.reg (tagCtr g s) a &&& 0xFFFFFFFFFFFFFFFC#64 ≠ 0#64) : Raises (.csrw a 0x010#12 g e) (tagCtr g s) 1 0#16 s :=
  csrw_raises he ha rfl rfl (csrRefuses_numver_of_reserved s hv)

theorem csrw_numver_zero (he : Issues s e) (ha : Available s (tagCtr g s) [a]) (hv : s.me.reg (tagCtr g s) a = 0#64) :
    Raises (.csrw a 0x010#12 g e) (tagCtr g s) 7 0#16 s :=
  csrw_raises he ha rfl rfl (hv ▸ csrRefuses_numver_of_zero s)

theorem csrw_numver_version (he : Issues s e) (ha : Available s (tagCtr g s) [a]) (hd : Direct s (tagCtr g s))
    (hv : s.me.reg (tagCtr g s) a = 1#64 ∨ s.me.reg (tagCtr g s) a = 2#64 ∨ s.me.reg (tagCtr g s) a = 3#64) :
    ∃ t, exec (.csrw a 0x010#12 g e) s = .next t ∧
      Retired (withMe (s.actAs (tagCtr g s)) fun u => { u with numver := s.me.reg (tagCtr g s) a }) t :=
  csrw_direct he ha (csrAccepts_numver s hv) hd fun _ h => absurd h (by decide)

end

/-- Settles O7: the checks of a CSRW to NUMVER in their order, a reserved bit and then 0; a cause keeps the register, and what
passes both is written. -/
theorem numverWritesAreCheckedInOrder : Obligations.NumverWritesAreCheckedInOrder := by
  intro a g e s he ha
  refine ⟨csrw_numver_reserved he ha, csrw_numver_zero he ha, fun hv hon => ?_, fun hv hd => ?_⟩
  · obtain hzero | hreserved := hv
    · exact numver_of_raises (csrw_numver_zero he ha hzero) hon
    · exact numver_of_raises (csrw_numver_reserved he ha hreserved) hon
  · obtain ⟨t, ht, hretired⟩ := csrw_numver_version he ha hd hv
    exact ⟨t, ht, by rw [numver_of_retired hretired, withMe, State.me_modMe], hretired⟩

end Sys2Proof.Machine
end

section
/-! PROOFS. The accesses of local SRAM that raise a cause (O11): the model's tests of an address say where its bytes lie, and each
of the words traps where its test fails. -/

namespace Sys2Proof.Machine

open Sys2Proof.Claims

/-! ## Where the bytes of an access lie (R134, R135) -/

/-- The immediate that the model concatenates is the number of R62 and R66. -/
theorem imm_eq_immediate (s : State) {w : Nat} (f : BitVec w) : s.imm f = immediate s f := by
  cases hext : s.cur.ext with
  | none => simp only [State.imm, immediate, hext]
  | some x =>
    have happend : (x ++ f).toInt = 2 ^ w * x.toInt + f.toNat :=
      BitVec.toInt_append.trans (if_neg (by decide))
    simp only [State.imm, immediate, hext]
    rw [happend, BitVec.toInt_eq_msb_cond x]
    split
    · push_cast
      ring
    · ring

theorem outsideLocal_iff (base : Word) (o : Int) (n : Nat) : outsideLocal base o n = true ↔ ¬ InLocal (base.toNat + o) n := by
  simp only [outsideLocal, InLocal, Bool.or_eq_true, decide_eq_true_eq]
  unfold sramSize
  omega

theorem outsideSram_iff (addr : Word) (n : Nat) : outsideSram addr n = true ↔ ¬ InSram addr n := by
  have htag : addr.extractLsb' 60 4 = 0#4 ↔ addr.toNat < 2 ^ 60 := by
    rw [BitVec.toNat_eq, BitVec.extractLsb'_toNat, Nat.shiftRight_eq_div_pow, BitVec.toNat_ofNat]
    omega
  simp only [outsideSram, InSram, Bool.or_eq_true, bne_iff_ne, ne_eq, htag, decide_eq_true_eq]
  unfold sramSize
  omega

theorem meetsText_iff (s : State) (a n : Nat) : s.meetsText s.cur.core a n = true ↔ ¬ OutOfText s a n := by
  simp only [State.meetsText, OutOfText, List.any_eq_true, Bool.and_eq_true, decide_eq_true_eq, not_forall, not_or, not_le,
    exists_prop]

/-- A sum that lies in local SRAM is not wrapped by the 64 bits of the model's address. -/
theorem toNat_add_wordOf {base : Word} {o : Int} {n : Nat} (h : InLocal (base.toNat + o) n) :
    (base + wordOf o).toNat = ((base.toNat : Int) + o).toNat := by
  obtain ⟨hnonneg, hbound⟩ := h
  have hsum : base + wordOf o = BitVec.ofInt 64 (base.toNat + o) := by
    rw [BitVec.ofInt_add, wordOf, BitVec.ofInt_natCast, BitVec.ofNat_toNat, BitVec.setWidth_eq]
  rw [hsum, BitVec.toNat_ofInt]
  omega

/-! ## The words as words of the access counter -/

theorem exec_loadWords (d a : BitVec 5) (o : BitVec 9) (ty : BitVec 3) (e : BitVec 1) (s : State) :
    ∀ p ∈ loadWords, exec (p d a o ty e) s = aWord (p d a o ty e) e (load d a o ty) s :=
  List.forall_mem_cons.2 ⟨rfl, List.forall_mem_singleton.2 rfl⟩

theorem exec_storeWords (d a : BitVec 5) (o : BitVec 9) (ty : BitVec 2) (e : BitVec 1) (s : State) :
    ∀ p ∈ storeWords, ∃ rel, exec (p d a o ty e) s = aWord (p d a o ty e) e (store rel d a o ty) s :=
  List.forall_mem_cons.2 ⟨⟨false, rfl⟩, List.forall_mem_singleton.2 ⟨true, rfl⟩⟩

/-- A word of the access counter whose body traps raises the cause. -/
theorem raises_of_aWord {i : Instr} {e : BitVec 1} {body : State → Act} {s : State} {cause : Nat} {detail : BitVec 16}
    (hi : exec i s = aWord i e body s) (he : Issues s e) (hb : body (s.actAs .a) = .trap cause detail) :
    Raises i .a cause detail s :=
  hi.trans (issueWord_trap hb he)

/-! ## Where they trap (R134, R135, R141) -/

section
variable {d a b : BitVec 5} {o : BitVec 9} {s : State}

theorem load_trap_of_outside {ty : BitVec 3} (ha : Available s .a [a])
    (h : ¬ InLocal (loadAddr s a o) (typeBytes ty.toNat)) : load d a o ty (s.actAs .a) = .trap causeSpace 0#16 := by
  have houtside : outsideLocal (s.me.a a) (s.imm o) (accessSize ty.toNat) = true :=
    (outsideLocal_iff _ _ _).2 (imm_eq_immediate s o ▸ h)
  simp [load, waits_of_available ha, houtside]

theorem store_trap_of_outside {rel : Bool} {ty : BitVec 2} (hda : Available s .a [d, a])
    (h : ¬ (InLocal (loadAddr s a o) (typeBytes ty.toNat) ∧ OutOfText s (loadAddr s a o).toNat (typeBytes ty.toNat))) :
    store rel d a o ty (s.actAs .a) = .trap causeSpace 0#16 := by
  rw [loadAddr, ← imm_eq_immediate] at h
  have hrefused : (outsideLocal (s.me.a a) (s.imm o) (accessSize ty.toNat) ||
      s.meetsText s.cur.core (s.me.a a + wordOf (s.imm o)).toNat (accessSize ty.toNat)) = true := by
    rw [Bool.or_eq_true, outsideLocal_iff, meetsText_iff]
    by_cases hlocal : InLocal ((s.me.a a).toNat + s.imm o) (typeBytes ty.toNat)
    · exact .inr (toNat_add_wordOf hlocal ▸ fun hout => h ⟨hlocal, hout⟩)
    · exact .inl hlocal
  rw [store, State.me_actAs, waits_of_available hda]
  exact if_pos hrefused

theorem atomic_trap_of_outside {n : Nat} {f : Nat → Option Nat} (ha : Available s .a [a])
    (h : ¬ (InSram (s.me.a a) n ∧ OutOfText s (s.me.a a).toNat n)) :
    atomic d a b n f (s.actAs .a) = .trap causeSpace 0#16 := by
  have hrefused : (outsideSram (s.me.a a) n || s.meetsText s.cur.core (s.me.a a).toNat n) = true := by
    rw [Bool.or_eq_true, outsideSram_iff, meetsText_iff]
    exact not_and_or.1 h
  rw [atomic, State.me_actAs, waits_of_available ha]
  exact if_pos hrefused

/-- The alignment is tested before the other registers, the store buffer and the reads are waited for (R335). -/
theorem atomic_trap_of_misaligned {n : Nat} {f : Nat → Option Nat} (ha : Available s .a [a]) (hin : InSram (s.me.a a) n)
    (hout : OutOfText s (s.me.a a).toNat n) (halign : (s.me.a a).toNat % n ≠ 0) :
    atomic d a b n f (s.actAs .a) = .trap causeAlign 0#16 := by
  have hallowed : ¬ (outsideSram (s.me.a a) n || s.meetsText s.cur.core (s.me.a a).toNat n) = true := by
    rw [Bool.or_eq_true, outsideSram_iff, meetsText_iff]
    tauto
  rw [atomic, State.me_actAs, waits_of_available ha]
  exact (if_neg hallowed).trans (if_pos halign)

end

/-- Settles O11: the address is tested once its register is available, and a failed test is the word's cause. -/
theorem accessesOutsideTheirBoundsTrap : Obligations.AccessesOutsideTheirBoundsTrap := by
  intro d a b o e s he ha
  refine ⟨fun p hp ty h => ?_, fun hd p hp ty h => ?_, fun u z p => ⟨fun h => ?_, fun hin hout halign => ?_⟩⟩
  · exact raises_of_aWord (exec_loadWords d a o ty e s p hp) he (load_trap_of_outside ha h)
  · have hda : Available s .a [d, a] := fun hk => List.forall_mem_cons.2 ⟨hd hk d (List.mem_singleton_self d), ha hk⟩
    obtain ⟨rel, hi⟩ := exec_storeWords d a o ty e s p hp
    exact raises_of_aWord hi he (store_trap_of_outside hda h)
  · exact ⟨raises_of_aWord (exec_amo ..) he (atomic_trap_of_outside ha h),
      raises_of_aWord (exec_cas ..) he (atomic_trap_of_outside ha h)⟩
  · exact ⟨raises_of_aWord (exec_amo ..) he (atomic_trap_of_misaligned ha hin hout halign),
      raises_of_aWord (exec_cas ..) he (atomic_trap_of_misaligned ha hin hout halign)⟩

end Sys2Proof.Machine
end

section
/-! PROOFS. What the shared operations of the engines leave, and how they end a command (for O26, O28, O30): the memories, the
strands and the stream queue after a cause is raised, a token written, a command changed, dropped, failed or finished. -/

namespace Sys2Proof.Machine

open Sys2Proof.Claims

/-! ## Memory -/

theorem SameMemory.refl (s : State) : SameMemory s s := ⟨fun _ => rfl, rfl, fun _ => rfl, fun _ => rfl⟩

theorem SameMemory.trans {s t u : State} (hst : SameMemory s t) (htu : SameMemory t u) : SameMemory s u := by
  obtain ⟨hsram, hhbm, hpool, hdie⟩ := hst
  obtain ⟨hsram', hhbm', hpool', hdie'⟩ := htu
  exact ⟨fun c => (hsram' c).trans (hsram c), hhbm'.trans hhbm, fun k => (hpool' k).trans (hpool k),
    fun d => (hdie' d).trans (hdie d)⟩

theorem SameMemory.modCore {s : State} {c : Nat} {f : Core → Core} (h : (f (s.core c)).sram = (s.core c).sram) :
    SameMemory s (s.modCore c f) := by
  refine ⟨fun d => ?_, rfl, fun _ => rfl, fun _ => rfl⟩
  rw [State.core_modCore]
  split
  next hd => exact hd ▸ h
  next => rfl

theorem SameMemory.setCore {s : State} {c : Nat} {k : Core} (h : k.sram = (s.core c).sram) : SameMemory s (s.setCore c k) :=
  SameMemory.modCore (f := fun _ => k) h

theorem SameMemory.foldl {α : Type} {f : State → α → State} (h : ∀ s x, SameMemory s (f s x)) (l : List α) (s : State) :
    SameMemory s (l.foldl f s) := by
  induction l generalizing s with
  | nil => exact .refl s
  | cons x l ih => exact (h s x).trans (ih (f s x))

theorem SramOnly.modCore {s : State} {d : Nat} {f : Core → Core} : SramOnly s (s.modCore d f) d (f (s.core d)).sram := by
  refine ⟨by rw [State.core_modCore, if_pos rfl], fun c hc => ?_, rfl, fun _ => rfl, fun _ => rfl⟩
  rw [State.core_modCore, if_neg hc.symm]

theorem SramOnly.trans_same {s t u : State} {d : Nat} {m : Ram} (hst : SramOnly s t d m) (htu : SameMemory t u) :
    SramOnly s u d m := by
  obtain ⟨hsram, hother, hhbm, hpool, hdie⟩ := hst
  obtain ⟨hsram', hhbm', hpool', hdie'⟩ := htu
  exact ⟨(hsram' d).trans hsram, fun c hc => (hsram' c).trans (hother c hc), hhbm'.trans hhbm,
    fun k => (hpool' k).trans (hpool k), fun k => (hdie' k).trans (hdie k)⟩

theorem SramOnly.of_same {s t : State} {d : Nat} {m : Ram} (h : SameMemory s t) (hm : m = (s.core d).sram) : SramOnly s t d m := by
  obtain ⟨hsram, hhbm, hpool, hdie⟩ := h
  exact ⟨(hsram d).trans hm.symm, fun c _ => hsram c, hhbm, hpool, hdie⟩

/-! ## Strands -/

/-- A change of a core that leaves its strands leaves every strand. -/
theorem State.strand_modCore {s : State} {c : Nat} {f : Core → Core} (h : (f (s.core c)).strands = (s.core c).strands)
    (d : Nat) (n : Fin 4) : (s.modCore c f).strand d n = s.strand d n := by
  rw [State.strand, State.strand, State.core_modCore]
  split
  next hd => subst hd; rw [Core.strand, h, Core.strand]
  next => rfl

theorem SameMemory.setStrand (s : State) (c : Nat) (n : Fin 4) (t : Strand) : SameMemory s (s.setStrand c n t) := .modCore rfl

/-! ## The end of a task by escalation (R289) -/

/-- Two states of a core with the same local SRAM and stream queue. -/
def Core.SameStore (j k : Core) : Prop := k.sram = j.sram ∧ k.sq = j.sq

theorem Core.SameStore.trans {i j k : Core} (hij : i.SameStore j) (hjk : j.SameStore k) : i.SameStore k :=
  ⟨hjk.1.trans hij.1, hjk.2.trans hij.2⟩

theorem Core.SameStore.foldl {α : Type} {f : Core → α → Core} (h : ∀ k x, Core.SameStore k (f k x)) (l : List α) (k : Core) :
    k.SameStore (l.foldl f k) := by
  induction l generalizing k with
  | nil => exact ⟨rfl, rfl⟩
  | cons x l ih => exact (h k x).trans (ih (f k x))

theorem Core.sameStore_settleAll (k : Core) (n : Fin 4) : k.SameStore (k.settleAll n) := by
  have hlate (k : Core) (o : LateOp) : k.SameStore (match o.kind with | .take m v => k.takeSem m v.toNat | _ => k) := by
    split <;> exact ⟨rfl, rfl⟩
  have hreads : k.SameStore (match (k.strand n).reads with | [] => k | o :: _ => k.settle n o.id []) := by
    split <;> exact ⟨rfl, rfl⟩
  exact hreads.trans (.foldl hlate _ _)

theorem Core.sameStore_stopTask (k : Core) (key : Nat) : k.SameStore (k.stopTask key) := by
  refine .foldl (fun k n => ?_) _ k
  split
  · exact (k.sameStore_settleAll n).trans ⟨rfl, rfl⟩
  · exact ⟨rfl, rfl⟩

/-- A command after the end of task `key`, which takes the token registers of its commands (R289). -/
def StrCmd.afterEnd (key : Nat) (c : StrCmd) : StrCmd := if c.task == key then { c with tok := 0#5 } else c

/-- A queue whose commands have at most lost their token registers. -/
def TokensDropped (l m : List StrCmd) : Prop := ∃ key, m = l ∨ m = l.map (StrCmd.afterEnd key)

theorem SameMemory.report (s : State) (regid : Word) (ws : List Word) : SameMemory s (s.report regid ws) :=
  ⟨fun _ => rfl, rfl, fun _ => rfl, fun _ => rfl⟩

theorem SameMemory.modTask (s : State) (key : Nat) (f : Task → Task) : SameMemory s (s.modTask key f) :=
  ⟨fun _ => rfl, rfl, fun _ => rfl, fun _ => rfl⟩

theorem SameMemory.pushRing (s : State) (cl : Nat) (ring : Fin 4) (e : BitVec 256) : SameMemory s (s.pushRing cl ring e) := by
  refine ⟨fun _ => rfl, rfl, fun k => ?_, fun _ => rfl⟩
  rw [State.pushRing, State.cluster_modCluster]
  split
  next hk => rw [hk]
  next => rfl

/-- What the end of a task leaves of its core's local SRAM and stream queue. -/
theorem Core.store_ended (k : Core) (key : Nat) :
    (((k.stopTask key).unbindTask key).dropTokens key).sram = k.sram ∧
      (((k.stopTask key).unbindTask key).dropTokens key).sq = k.sq.map (StrCmd.afterEnd key) := by
  have hstop := k.sameStore_stopTask key
  generalize k.stopTask key = j at hstop ⊢
  exact ⟨hstop.1, congrArg (List.map (StrCmd.afterEnd key)) hstop.2⟩

theorem SameMemory.escalate (s : State) (c key : Nat) (cause pc : Word) : SameMemory s (s.escalate c key cause pc) := by
  rw [State.escalate]
  split
  · exact .refl s
  · refine .trans (.trans (.trans ?_ (.modTask ..)) (.pushRing ..)) (.report ..)
    exact .modCore (Core.store_ended _ key).1

theorem State.sq_escalate (s : State) (c key : Nat) (cause pc : Word) (d : Nat) :
    TokensDropped (s.core d).sq ((s.escalate c key cause pc).core d).sq := by
  refine ⟨key, ?_⟩
  rw [State.escalate]
  split
  · exact .inl rfl
  next t _ =>
    have hcore (u : State) (g : Task → Task) (cl : Nat) (e : BitVec 256) (regid : Word) (ws : List Word) :
        (((u.modTask key g).pushRing cl 2 e).report regid ws).core d = u.core d := rfl
    dsimp only [State.completion]
    rw [hcore, State.core_modCore]
    split
    next hd => exact .inr (hd ▸ (Core.store_ended (s.core c) key).2)
    next => exact .inl rfl

/-! ## Asynchronous causes (R281, R284, R287) -/

theorem canHandle_iff_takes (s : State) (u : Strand) : s.canHandle u = true ↔ Takes s u := by
  simp only [State.canHandle, inRange, Takes, Strand.entry_eq, Bool.and_eq_true, decide_eq_true_eq]

theorem causeWord_eq_asyncCause (cause : Nat) (eng : Bool) (tok : BitVec 5) (count : Word) :
    causeWord cause 0 true eng (BitVec.ofNat 16 (tok.toNat + count.toNat % 2048 * 32)) 0 = asyncCause cause eng tok count := by
  have hdetail : (tok.toNat + count.toNat % 2048 * 32) % 2 ^ 16 = tok.toNat + count.toNat % 2048 * 32 :=
    Nat.mod_eq_of_lt (by have := tok.isLt; omega)
  rw [causeWord, asyncCause, BitVec.toNat_ofNat, hdetail]
  simp

/-- A strand that takes causes keeps an engine's cause for its delivery. -/
theorem raiseAsync_of_takes {s : State} {c key : Nat} {n : Fin 4} (hrun : (s.strand c n).task ≠ 0) (htask : (s.strand c n).task = key)
    (htakes : Takes s (s.strand c n)) (cause : Nat) (eng : Bool) (tok : BitVec 5) (count : Word) :
    s.raiseAsync c n key cause eng tok count =
      s.setStrand c n { s.strand c n with async := (s.strand c n).async ++ [asyncCause cause eng tok count] } := by
  subst htask
  rw [State.raiseAsync, if_neg (by simpa using hrun), if_pos ((canHandle_iff_takes s _).2 htakes), causeWord_eq_asyncCause]

theorem SameMemory.raiseAsync (s : State) (c : Nat) (n : Fin 4) (key cause : Nat) (eng : Bool) (tok : BitVec 5) (count : Word) :
    SameMemory s (s.raiseAsync c n key cause eng tok count) := by
  rw [State.raiseAsync]
  split
  · exact .refl s
  · split
    · exact .setStrand ..
    · exact .escalate ..

theorem State.sq_raiseAsync (s : State) (c : Nat) (n : Fin 4) (key cause : Nat) (eng : Bool) (tok : BitVec 5) (count : Word) (d : Nat) :
    TokensDropped (s.core d).sq ((s.raiseAsync c n key cause eng tok count).core d).sq := by
  rw [State.raiseAsync]
  split
  · exact ⟨0, .inl rfl⟩
  · split
    · refine ⟨0, .inl ?_⟩
      rw [State.setStrand, State.core_modCore]
      split
      next hd => rw [hd, Core.setStrand_sq]
      next => rfl
    · exact State.sq_escalate ..

/-! ## Tokens (R50, R51) -/

theorem Strand.arrive_eq_arrived {r : BitVec 5} (hr : r ≠ 0#5) (u : Strand) (w : Word) : u.arrive r (some w) = arrived u r w := by
  simp only [Strand.arrive, Strand.setA, Strand.clearBusy, arrived, if_neg hr]

/-- A token is written at a strand that still runs the task of its command. -/
theorem State.writeToken_eq (s : State) (c : Nat) (n : Fin 4) (task : Nat) (r : BitVec 5) (w : Word) :
    s.writeToken c n task r w =
      if r = 0#5 ∨ task = 0 ∨ (s.strand c n).task ≠ task then s else s.setStrand c n (arrived (s.strand c n) r w) := by
  rw [State.writeToken]
  simp only [Bool.or_eq_true, decide_eq_true_eq, bne_iff_ne, ne_eq, or_assoc]
  split
  · rfl
  next h => rw [Strand.arrive_eq_arrived (not_or.1 h).1]

theorem SameMemory.writeToken (s : State) (c : Nat) (n : Fin 4) (task : Nat) (r : BitVec 5) (w : Word) :
    SameMemory s (s.writeToken c n task r w) := by
  rw [State.writeToken_eq]
  split
  · exact .refl s
  · exact .setStrand ..

theorem tokened_writeToken (s : State) (c : Nat) (n : Fin 4) (task : Nat) (r : BitVec 5) (w : Word) :
    Tokened s (s.writeToken c n task r w) c n task r w := by
  rw [Tokened, State.writeToken_eq]
  split
  · exact ⟨rfl, fun _ _ _ => rfl⟩
  · exact ⟨by simp, fun d m h => by rw [State.strand_setStrand, if_neg fun hd => h.elim (· hd.1.symm) (· hd.2.symm)]⟩

/-- A token is written to a strand: the rest of each core and the records stay. -/
theorem State.writeToken_leaves (s : State) (c : Nat) (n : Fin 4) (task : Nat) (r : BitVec 5) (w : Word) :
    (∀ d, ∃ v, (s.writeToken c n task r w).core d = { s.core d with strands := v }) ∧
      (s.writeToken c n task r w).records = s.records := by
  rw [State.writeToken_eq]
  split
  · exact ⟨fun d => ⟨_, rfl⟩, rfl⟩
  · refine ⟨fun d => ?_, rfl⟩
    rw [State.setStrand, State.core_modCore]
    split
    next hd => exact ⟨_, by rw [← hd]; rfl⟩
    next => exact ⟨_, rfl⟩

/-! ## Commands of the stream queue -/

theorem Core.slot_of_cmdAt {k : Core} {slot : Nat} {c : StrCmd} (h : k.cmdAt slot = some c) : c.slot = slot :=
  eq_of_beq (List.find?_some h :)

/-- The command of a slot after a change that keeps each command's slot. -/
theorem Core.cmdAt_of_map {j k : Core} {slot : Nat} {c : StrCmd} {g : StrCmd → StrCmd} (hsq : k.sq = j.sq.map g)
    (hg : ∀ x, ((g x).slot == slot) = (x.slot == slot)) (h : j.cmdAt slot = some c) : k.cmdAt slot = some (g c) := by
  rw [Core.cmdAt] at h ⊢
  have hfind : (fun x => (g x).slot == slot) = fun x => x.slot == slot := funext hg
  rw [hsq, List.find?_map, Function.comp_def, hfind, h, Option.map_some]

theorem State.cmdAt_modCmd {s : State} {core slot : Nat} {c : StrCmd} {f : StrCmd → StrCmd} (h : (s.core core).cmdAt slot = some c)
    (hf : ∀ x, x.slot = slot → (f x).slot = slot) : ((s.modCmd core slot f).core core).cmdAt slot = some (f c) := by
  have hslot := Core.slot_of_cmdAt h
  refine (Core.cmdAt_of_map (g := fun x => if x.slot == slot then f x else x) ?_ (fun x => ?_) h).trans ?_
  · rw [State.modCmd, State.core_modCore, if_pos rfl]
  · by_cases hx : x.slot = slot
    · simp [hx, hf x hx]
    · simp [hx]
  · simp [hslot]

theorem SameMemory.modCmd (s : State) (core slot : Nat) (f : StrCmd → StrCmd) : SameMemory s (s.modCmd core slot f) := .modCore rfl

theorem State.strand_modCmd (s : State) (core slot : Nat) (f : StrCmd → StrCmd) (d : Nat) (n : Fin 4) :
    (s.modCmd core slot f).strand d n = s.strand d n := State.strand_modCore rfl d n

theorem SameMemory.dropCmd (s : State) (core slot : Nat) : SameMemory s (s.dropCmd core slot) := .modCore rfl

theorem State.strand_dropCmd (s : State) (core slot : Nat) (d : Nat) (n : Fin 4) :
    (s.dropCmd core slot).strand d n = s.strand d n := State.strand_modCore rfl d n

/-- A command that ends changes nothing of its core but INJECT and its choice. -/
theorem State.disarmFor_leaves (s : State) (core : Nat) (c : StrCmd) :
    (∀ d, ∃ v w, (s.disarmFor core c).core d = { s.core d with inject := v, chosen := w }) ∧
      (s.disarmFor core c).records = s.records ∧ (s.disarmFor core c).tasks = s.tasks ∧ SameMemory s (s.disarmFor core c) := by
  rw [State.disarmFor]
  split
  · refine ⟨fun d => ?_, rfl, rfl, .modCore rfl⟩
    rw [State.core_modCore]
    split
    next hd => exact ⟨_, _, by rw [← hd]; rfl⟩
    next => exact ⟨_, _, rfl⟩
  · exact ⟨fun d => ⟨_, _, rfl⟩, rfl, rfl, .refl s⟩

theorem State.strand_disarmFor (s : State) (core : Nat) (c : StrCmd) (d : Nat) (n : Fin 4) :
    (s.disarmFor core c).strand d n = s.strand d n := by
  obtain ⟨v, w, hcore⟩ := (s.disarmFor_leaves core c).1 d
  rw [State.strand, hcore, State.strand, Core.strand, Core.strand]

theorem State.sq_disarmFor (s : State) (core : Nat) (c : StrCmd) (d : Nat) : ((s.disarmFor core c).core d).sq = (s.core d).sq := by
  obtain ⟨v, w, hcore⟩ := (s.disarmFor_leaves core c).1 d
  rw [hcore]

theorem State.sq_dropCmd (s : State) (core slot : Nat) :
    ((s.dropCmd core slot).core core).sq = (s.core core).sq.filter fun x => x.slot ≠ slot := by
  rw [State.dropCmd, State.core_modCore, if_pos rfl]
  exact List.filter_congr fun x _ => by simp [bne, beq_eq_decide]

/-- What a strand takes depends on its own state and on the tasks. -/
theorem takes_of_tasks {s t : State} (h : t.tasks = s.tasks) {u : Strand} (hu : Takes s u) : Takes t u := by
  have htext : t.textOf u = s.textOf u := by rw [State.textOf, State.task?, h, State.textOf, State.task?]
  rwa [Takes, htext]

theorem fails_failCmd (s : State) (core : Nat) (c : StrCmd) (cause : Nat) : Fails s (s.failCmd core c cause) core c cause := by
  have hmem : SameMemory s ((s.disarmFor core c).dropCmd core c.slot) :=
    (s.disarmFor_leaves core c).2.2.2.trans (.dropCmd ..)
  have hstrand (d : Nat) (n : Fin 4) : ((s.disarmFor core c).dropCmd core c.slot).strand d n = s.strand d n :=
    (State.strand_dropCmd ..).trans (State.strand_disarmFor ..)
  have htasks : ((s.disarmFor core c).dropCmd core c.slot).tasks = s.tasks := (s.disarmFor_leaves core c).2.2.1
  have hsq : (((s.disarmFor core c).dropCmd core c.slot).core core).sq = (s.core core).sq.filter fun x => x.slot ≠ c.slot := by
    rw [State.sq_dropCmd, State.sq_disarmFor]
  rw [State.failCmd]
  generalize (s.disarmFor core c).dropCmd core c.slot = u at hmem hstrand htasks hsq
  refine ⟨fun hrun htask htakes => ?_, hmem.trans (.raiseAsync ..)⟩
  rw [raiseAsync_of_takes (by rwa [hstrand]) (by rwa [hstrand]) (by rw [hstrand]; exact takes_of_tasks htasks htakes), hstrand]
  refine ⟨?_, by rw [State.strand_setStrand, if_pos ⟨rfl, rfl⟩], fun d n h => ?_⟩
  · rw [← hsq, State.setStrand, State.core_modCore, if_pos rfl, Core.setStrand_sq]
  · rw [State.strand_setStrand, if_neg fun hd => h.elim (· hd.1.symm) (· hd.2.symm), hstrand]

theorem finished_finishCmd (s : State) (core : Nat) (c : StrCmd) (w : Word) :
    SameMemory s (s.finishCmd core c w) ∧ (s.finishCmd core c w).records = s.records ∧ Finished s (s.finishCmd core c w) core c w := by
  obtain ⟨_, hrecords, _, hmem⟩ := s.disarmFor_leaves core c
  have hstrand := s.strand_disarmFor core c
  have hsq := s.sq_disarmFor core c core
  rw [State.finishCmd]
  generalize s.disarmFor core c = u at hrecords hmem hstrand hsq
  obtain ⟨hcore, hrecords'⟩ := u.writeToken_leaves core c.strand c.task c.tok w
  obtain ⟨hown, hother⟩ := tokened_writeToken u core c.strand c.task c.tok w
  refine ⟨(hmem.trans (.writeToken ..)).trans (.dropCmd ..), hrecords'.trans hrecords, ?_, ?_, fun d n h => ?_⟩
  · obtain ⟨v, hv⟩ := hcore core
    rw [State.sq_dropCmd, hv, hsq]
  · rw [State.strand_dropCmd, hown, hstrand]
  · rw [State.strand_dropCmd, hother d n h, hstrand]

end Sys2Proof.Machine
end

section
/-! PROOFS. Pieces of stream commands at local SRAM (for O26, O28): one read piece enters the command, and one write piece lands,
whatever handlers and follow-on its landing lets go. -/

namespace Sys2Proof.Machine

open Sys2Proof.Claims

/-! ## Deliveries (R53) leave memories and stream queues -/

/-- No memory and no stream queue differs. -/
def QueuesKept (s t : State) : Prop := SameMemory s t ∧ ∀ d, (t.core d).sq = (s.core d).sq

theorem QueuesKept.refl (s : State) : QueuesKept s s := ⟨.refl s, fun _ => rfl⟩

theorem QueuesKept.trans {s t u : State} (hst : QueuesKept s t) (htu : QueuesKept t u) : QueuesKept s u :=
  ⟨hst.1.trans htu.1, fun d => (htu.2 d).trans (hst.2 d)⟩

theorem QueuesKept.foldl {α : Type} {f : State → α → State} (h : ∀ s x, QueuesKept s (f s x)) (l : List α) (s : State) :
    QueuesKept s (l.foldl f s) := by
  induction l generalizing s with
  | nil => exact .refl s
  | cons x l ih => exact (h s x).trans (ih (f s x))

theorem QueuesKept.modCore {s : State} {c : Nat} {f : Core → Core} (hsram : (f (s.core c)).sram = (s.core c).sram)
    (hsq : (f (s.core c)).sq = (s.core c).sq) : QueuesKept s (s.modCore c f) := by
  refine ⟨.modCore hsram, fun d => ?_⟩
  rw [State.core_modCore]
  split
  next hd => exact hd ▸ hsq
  next => rfl

theorem QueuesKept.sendTo (s : State) (t : Target) (d : Delivery) : QueuesKept s (s.sendTo t d) := by
  cases t with
  | live c => exact .modCore rfl rfl
  | saved key => exact ⟨.modTask .., fun _ => rfl⟩

theorem QueuesKept.queueCopy (s : State) (c : Nat) (d : Delivery) : QueuesKept s (s.queueCopy c d) := by
  rw [State.queueCopy]
  split
  · exact .sendTo ..
  · split
    · exact .modCore (f := fun _ => { s.core c with pending := _ }) rfl rfl
    · exact .sendTo ..

theorem QueuesKept.queueHandlers (s : State) (t : Target) (issuer start bytes : Nat) (addrs : List Nat) :
    QueuesKept s (s.queueHandlers t issuer start bytes addrs) := by
  cases t with
  | live c =>
    refine .foldl (fun s m => ?_) _ s
    dsimp only
    split
    · exact .refl s
    · exact .queueCopy ..
  | saved key =>
    refine .foldl (fun s m => ?_) _ s
    dsimp only
    split
    · split
      · exact .refl s
      · exact .sendTo ..
    · exact .refl s

/-! ## What follows a landing leaves the command's progress (R53, R172) -/

/-- No memory differs, and the command of a slot is where it was, with the pieces written that it had written. -/
def ProgressKept (core slot : Nat) (s t : State) : Prop :=
  SameMemory s t ∧ ∀ c, (s.core core).cmdAt slot = some c →
    ∃ c', (t.core core).cmdAt slot = some c' ∧ c'.dstDone = c.dstDone ∧ c'.phase = c.phase

theorem ProgressKept.refl (core slot : Nat) (s : State) : ProgressKept core slot s s := ⟨.refl s, fun c h => ⟨c, h, rfl, rfl⟩⟩

theorem ProgressKept.trans {core slot : Nat} {s t u : State} (hst : ProgressKept core slot s t) (htu : ProgressKept core slot t u) :
    ProgressKept core slot s u := by
  refine ⟨hst.1.trans htu.1, fun c h => ?_⟩
  obtain ⟨c', h', hdone, hphase⟩ := hst.2 c h
  obtain ⟨c'', h'', hdone', hphase'⟩ := htu.2 c' h'
  exact ⟨c'', h'', hdone'.trans hdone, hphase'.trans hphase⟩

theorem ProgressKept.of_queuesKept {core slot : Nat} {s t : State} (h : QueuesKept s t) : ProgressKept core slot s t :=
  ⟨h.1, fun c hc => ⟨c, by rw [Core.cmdAt, h.2]; exact hc, rfl, rfl⟩⟩

theorem ProgressKept.modCmd {core slot : Nat} {s : State} {f : StrCmd → StrCmd}
    (hf : ∀ x, (f x).slot = x.slot ∧ (f x).dstDone = x.dstDone ∧ (f x).phase = x.phase) :
    ProgressKept core slot s (s.modCmd core slot f) :=
  ⟨.modCmd .., fun c hc => ⟨f c, State.cmdAt_modCmd hc fun x hx => (hf x).1.trans hx, (hf c).2.1, (hf c).2.2⟩⟩

theorem ProgressKept.raiseAsync (core slot : Nat) (s : State) (d : Nat) (n : Fin 4) (key cause : Nat) (eng : Bool) (tok : BitVec 5)
    (count : Word) : ProgressKept core slot s (s.raiseAsync d n key cause eng tok count) := by
  refine ⟨.raiseAsync .., fun c hc => ?_⟩
  obtain ⟨key', hsq | hsq⟩ := s.sq_raiseAsync d n key cause eng tok count core
  · exact ⟨c, by rw [Core.cmdAt, hsq]; exact hc, rfl, rfl⟩
  · have hkeeps (x : StrCmd) : (x.afterEnd key').slot = x.slot ∧ (x.afterEnd key').dstDone = x.dstDone ∧
        (x.afterEnd key').phase = x.phase := by
      rw [StrCmd.afterEnd]
      split <;> exact ⟨rfl, rfl, rfl⟩
    exact ⟨_, Core.cmdAt_of_map hsq (fun x => by rw [(hkeeps x).1]) hc, (hkeeps c).2⟩

theorem ProgressKept.copyVisible (core slot : Nat) (s : State) : ProgressKept core slot s (s.copyVisible core slot) := by
  rw [State.copyVisible]
  split
  · exact .refl ..
  · split
    · exact .refl ..
    · refine .trans (.modCmd (f := fun c => { c with queued := true }) fun x => ⟨rfl, rfl, rfl⟩)
        (.of_queuesKept (.foldl (fun s n => ?_) _ _))
      dsimp only
      split
      · exact .queueHandlers ..
      · exact .refl s

theorem ProgressKept.tryFollow (core slot : Nat) (s : State) : ProgressKept core slot s (s.tryFollow core slot) := by
  rw [State.tryFollow]
  split
  · exact .refl ..
  · split
    · exact .refl ..
    · refine .trans (.modCmd (f := fun c => { c with followed := true }) fun x => ⟨rfl, rfl, rfl⟩) ?_
      dsimp only
      split
      · exact .raiseAsync ..
      · split <;> exact .of_queuesKept (.modCore rfl rfl)

theorem ProgressKept.afterLanding (core slot : Nat) (s : State) :
    ProgressKept core slot s ((s.copyVisible core slot).tryFollow core slot) :=
  (ProgressKept.copyVisible core slot s).trans (.tryFollow core slot _)

/-! ## Write pieces (R166, R182) -/

/-- A memory after bytes have landed at `a`, poisoned when one of them is (R166). -/
def Ram.land (m : Ram) (a : Nat) (v : List PByte) : Ram :=
  if v.any (·.2) then m.writePoisoned a (v.map (·.1)) else m.write a (v.map (·.1))

/-- A write piece that no corruption changes lands at the local SRAM of its destination. -/
theorem writeStep_lands {s : State} {core slot n k d : Nat} {c : StrCmd} {p : ReadPiece} (hat : (s.core core).cmdAt slot = some c)
    (hp : (c.dstPieces n)[k]? = some p) (hmay : c.mayWrite n k = true) (htag : (c.dest n).tag = 0)
    (hdest : s.destTarget core c n = .live d) (hclean : c.target (s.core core).inject = none) :
    SramOnly s (s.writeStep core c n k) d ((s.core d).sram.land p.addr ((List.range p.len).map fun i => c.outByte (p.off + i))) ∧
      ∃ c', ((s.writeStep core c n k).core core).cmdAt slot = some c' ∧ c'.dstDone = (n, k) :: c.dstDone ∧ c'.phase = c.phase := by
  have hslot := Core.slot_of_cmdAt hat
  subst hslot
  generalize hv : ((List.range p.len).map fun i => c.outByte (p.off + i)) = v
  have hbytes : c.pieceBytes (s.core core).inject n p = (v.map (·.1), v.any (·.2), false) := by
    rw [StrCmd.pieceBytes, hclean, hv]
  generalize hs1 : (s.modCore d fun k => { k with sram := k.sram.land p.addr v }) = s1
  generalize hbad : s.landsPoisoned ⟨.sram d, p.addr⟩ (v.map (·.1)).length (v.any (·.2)) = bad
  have hland : s.landBytes core c n p.addr (v.map (·.1)) (v.any (·.2)) = some (s1, bad) := by
    rw [State.landBytes, if_pos htag, hdest, ← hs1, ← hbad]
    rfl
  have hsram : SramOnly s s1 d ((s.core d).sram.land p.addr v) := hs1 ▸ SramOnly.modCore
  have hat1 : (s1.core core).cmdAt c.slot = some c := by
    rw [← hat, ← hs1, State.core_modCore]
    split
    next hd => rw [← hd]; rfl
    next => rfl
  have hwritten := State.cmdAt_modCmd (f := fun x => { x with
    dstDone := (n, k) :: x.dstDone, hit := x.hit || false, badDst := if bad && !(v.any (·.2)) then n :: x.badDst else x.badDst })
    hat1 fun _ hx => hx
  rw [State.writeStep, hp]
  simp only [hmay, hbytes, hland, Bool.not_true, Bool.false_eq_true, if_false]
  exact ⟨SramOnly.trans_same hsram (.trans (.modCmd ..) (ProgressKept.afterLanding ..).1), (ProgressKept.afterLanding ..).2 _ hwritten⟩

/-! ## Read pieces (R166, R182) -/

/-- A read of local SRAM while no die has failed. -/
theorem fetchPiece_local {s : State} {c : StrCmd} (htag : c.source.tag = 0) (halive : s.anyFailed = false) (core : Nat)
    (p : ReadPiece) :
    s.fetchPiece core c p = some (s, (s.core core).sram.bytes p.addr p.len, (s.core core).sram.poisoned p.addr p.len) := by
  have hreach (sp : Space) : s.reach sp core 0 p.addr false = (s, .loc ⟨.sram core, p.addr⟩) := by
    simp [State.reach, State.locate, State.lostFrom, halive]
  rw [State.fetchPiece, htag, hreach]
  rfl

theorem readStep_local {s : State} {core k : Nat} {c : StrCmd} {p : ReadPiece} (hp : c.srcPieces[k]? = some p)
    (hmay : c.mayRead k = true) (htag : c.source.tag = 0) (halive : s.anyFailed = false) :
    s.readStep core c k = s.landRead core c k p ((s.core core).sram.bytes p.addr p.len) ((s.core core).sram.poisoned p.addr p.len) := by
  rw [State.readStep, hp]
  simp only [hmay, fetchPiece_local htag halive, Bool.not_true, Bool.false_eq_true, if_false]

/-- Without a header that leads the string, a piece that is read enters the command. -/
theorem landRead_payload {s : State} {core slot : Nat} {c : StrCmd} (hlead : c.lead = 0) (hslot : c.slot = slot) (k : Nat)
    (p : ReadPiece) (v : List Byte) (z : Bool) :
    s.landRead core c k p v z = s.modCmd core slot fun _ => tookPiece c k p v z := by
  have hcount : (c.took k p v z).headCount = 0 := congrArg (· / 8) hlead
  rw [State.landRead, hcount, ← hslot]
  simp only [Nat.not_lt_zero, decide_false, Bool.and_false, Bool.false_and, Bool.false_eq_true, if_false]
  rfl

theorem readStep_payload {s : State} {core slot k : Nat} {c : StrCmd} {p : ReadPiece} (hat : (s.core core).cmdAt slot = some c)
    (hp : c.srcPieces[k]? = some p) (hmay : c.mayRead k = true) (htag : c.source.tag = 0) (halive : s.anyFailed = false)
    (hlead : c.lead = 0) : SameMemory s (s.readStep core c k) ∧
      ((s.readStep core c k).core core).cmdAt slot =
        some (tookPiece c k p ((s.core core).sram.bytes p.addr p.len) ((s.core core).sram.poisoned p.addr p.len)) := by
  have hslot := Core.slot_of_cmdAt hat
  rw [readStep_local hp hmay htag halive, landRead_payload hlead hslot]
  exact ⟨.modCmd .., State.cmdAt_modCmd (f := fun _ => tookPiece c k p _ _) hat fun _ _ => hslot⟩

end Sys2Proof.Machine
end

section
/-! PROOFS. The completion of copies, decompressions, follow-ons, fills and checksums (O28): one equation for each way in which
a command ends, and what each of them does to the token. -/

namespace Sys2Proof.Machine

open Sys2Proof.Claims

/-! ## A settled command ends at once (R171, R332) -/

theorem completeStep_of_settled {s : State} {core : Nat} {c : StrCmd} (hat : (s.core core).cmdAt c.slot = some c) (h : Settled c)
    (f : State → StrCmd → State) : s.completeStep core c f = f s c := by
  obtain ⟨hphase, hlanded, hsent, hincs, hfollow⟩ := h
  have hdone : c.settled = true := by
    rw [StrCmd.settled, hsent, hincs]
    cases hf : c.follow with
    | false => rfl
    | true => simp [hfollow hf]
  rw [State.completeStep, if_neg (by simp [hphase, hlanded])]
  simp only [hsent, if_true, hat, hdone]

/-! ## Records (R220, R222) -/

/-- A command whose check fails sends a record of the two pairs, and keeps its token's word for the event after it. -/
theorem recordsSent_cmdRecord {s : State} {core slot : Nat} {c : StrCmd} (hat : (s.core core).cmdAt slot = some c)
    (h : List Byte) (kind : Nat) (hop : Nat × Nat) (e f : Word × Word) (w : Word) :
    let t := (s.cmdRecord core c h kind hop e f).recordsSent core c w
    ∃ r, SameMemory s t ∧ t.records = s.records ++ [r] ∧ r.regid = s.regidOf c.task ∧
      (r.words.drop 3).take 4 = [e.1, e.2, f.1, f.2] ∧ (∀ d n, t.strand d n = s.strand d n) ∧
      (t.core core).cmdAt slot = some { c with verdict := some w } := by
  refine ⟨_, (SameMemory.report ..).trans (.modCmd ..), rfl, rfl, rfl, fun d n => State.strand_modCmd .., ?_⟩
  have hslot := Core.slot_of_cmdAt hat
  subst hslot
  exact State.cmdAt_modCmd (s := s.cmdRecord core c h kind hop e f) (f := fun x => { x with verdict := some w }) hat fun _ hx => hx

/-! ## COPY (R169, R171) -/

theorem copyEnd_of_verdict {s : State} {core : Nat} {c : StrCmd} {w : Word} (h : c.verdict = some w) :
    s.copyEnd core c = s.finishCmd core c w := by
  rw [State.copyEnd, h]

theorem copyEnd_of_isZero {s : State} {core : Nat} {c : StrCmd} (hv : c.verdict = none) (hz : c.isZero = true) :
    s.copyEnd core c = s.finishCmd core c (status 0 false 0 0) := by
  rw [State.copyEnd, hv]
  exact if_pos hz

theorem copyEnd_unchecked {s : State} {core : Nat} {c : StrCmd} (hv : c.verdict = none) (hz : c.isZero = false) (hchk : c.chk ≠ 1) :
    s.copyEnd core c = s.finishCmd core c (status 0 (!c.pois.isEmpty || c.taint.isSome) 0 (c.bytes * c.ndst)) := by
  rw [State.copyEnd, hv]
  simp only [hz, beq_iff_eq, hchk]
  rfl

theorem poisoned_eq_false {c : StrCmd} (hpois : c.pois = []) (htaint : c.taint = none) : c.poisoned = false := by
  rw [StrCmd.poisoned, hpois, htaint]
  rfl

/-- The source check and every landing check of a copy match (R169). -/
theorem copyChecks_of_match {s : State} {core : Nat} {c : StrCmd} (hclean : c.poisoned = false) (hbad : c.badDst = [])
    (hhit : c.hit = false) (hpair : c.readPair = headerPair (readCells c.data 0 64)) : s.copyChecks core c = (s, true) := by
  rw [State.copyChecks]
  simp only [hclean, hpair, bne_self_eq_false, hbad, hhit]
  exact List.foldl_fixed' (fun n => by simp) _

theorem copyChecks_of_mismatch {s : State} {core : Nat} {c : StrCmd} (hclean : c.poisoned = false)
    (hpair : c.readPair ≠ headerPair (readCells c.data 0 64)) :
    s.copyChecks core c = (s.cmdRecord core c (readCells c.data 0 64) 3 (s.walkHop core c core c.source c.source.hdr)
      (headerPair (readCells c.data 0 64)) c.readPair, false) := by
  rw [State.copyChecks]
  simp only [hclean, bne_iff_ne, ne_eq, hpair, not_false_eq_true, if_true, Bool.false_eq_true, if_false]

theorem copyEnd_checked {s : State} {core : Nat} {c : StrCmd} (hv : c.verdict = none) (hz : c.isZero = false) (hchk : c.chk = 1)
    (hclean : c.poisoned = false) :
    s.copyEnd core c =
      if (s.copyChecks core c).2 then s.finishCmd core c (status 0 false 1 (c.bytes * c.ndst))
      else (s.copyChecks core c).1.recordsSent core c (status 2 false 2 (c.bytes * c.ndst)) := by
  rw [State.copyEnd, hv]
  simp only [hz, hchk, hclean, beq_self_eq_true, if_true, Bool.false_eq_true, if_false]
  rfl

theorem execCopyComplete_of_settled {s : State} {core slot : Nat} {c : StrCmd} (hat : (s.core core).cmdAt slot = some c)
    (hk : c.kind = .copy) (h : Settled c) : exec (.copyComplete core slot) s = .next (s.copyEnd core c) := by
  have hslot := Core.slot_of_cmdAt hat
  subst hslot
  rw [exec_copyComplete, execCopyComplete, hat]
  simp only [hk, bne_self_eq_false, Bool.false_eq_true, if_false, completeStep_of_settled hat h]

/-! ## Follow-ons (R172) -/

/-- A follow-on enters the matrix queue, and its strand counts it while it runs the copy's task. -/
theorem tryFollow_enters {s : State} {core slot : Nat} {c : StrCmd} (hat : (s.core core).cmdAt slot = some c)
    (hready : c.followReady = true) (hcause : c.followCause = none) (hroom : c.followRoom (s.core core) = true) :
    let u := s.strand core c.strand
    s.tryFollow core slot = (s.modCmd core slot fun c => { c with followed := true }).modCore core fun k =>
      { (if u.task = c.task then k.setStrand c.strand u.countMatrix else k) with
        mq := k.mq ++ [c.followCmd (if u.task = c.task then u.matrixCount + 1 else 0#64)] } := by
  rw [State.tryFollow, hat]
  simp only [hready, hroom, hcause, State.strand_modCmd, Bool.not_true, Bool.or_false, Bool.false_eq_true, if_false]
  split <;> rfl

theorem followOnEntry_enters {s : State} {core slot : Nat} {c : StrCmd} (hat : (s.core core).cmdAt slot = some c)
    (hready : c.followReady = true) (hcause : c.followCause = none) (hroom : c.followRoom (s.core core) = true) :
    let u := s.strand core c.strand
    ∃ t m, exec (.followOnEntry core slot) s = .next t ∧ SameMemory s t ∧
      (t.core core).mq = (s.core core).mq ++ [m] ∧ m.word = c.fword ∧ m.s1 = BitVec.ofNat 64 c.fopa ∧
      m.s2 = BitVec.ofNat 64 c.fopb ∧ m.tok = 0#5 ∧ m.strand = c.strand ∧ m.task = c.task ∧ m.follow = true ∧
      m.numver = c.numver ∧ m.started = false ∧ (t.core core).cmdAt slot = some { c with followed := true } ∧
      t.strand core c.strand = if u.task = c.task then u.countMatrix else u := by
  have hexec : exec (.followOnEntry core slot) s = .next (s.tryFollow core slot) := by
    rw [exec_followOnEntry, execFollowOnEntry, hat]
    simp only [hready, hroom, Bool.and_self, if_true]
  have hat' := State.cmdAt_modCmd (f := fun c => { c with followed := true }) hat fun _ hx => hx
  have hstrand := s.strand_modCmd core slot (fun c => { c with followed := true }) core c.strand
  have hmq : ((s.modCmd core slot fun c => { c with followed := true }).core core).mq = (s.core core).mq := by
    rw [State.modCmd, State.core_modCore, if_pos rfl]
  rw [tryFollow_enters hat hready hcause hroom] at hexec
  have hmem : SameMemory s (s.modCmd core slot fun c => { c with followed := true }) := .modCmd ..
  refine ⟨_, c.followCmd (if (s.strand core c.strand).task = c.task then (s.strand core c.strand).matrixCount + 1 else 0#64), hexec,
    hmem.trans (.modCore (by dsimp only; split <;> rfl)), ?_, rfl, rfl, rfl, rfl, rfl, rfl, rfl, rfl, rfl, ?_, ?_⟩
  · rw [State.core_modCore, if_pos rfl, ← hmq]
  · rw [State.core_modCore, if_pos rfl, ← hat']
    split <;> rfl
  · rw [← hstrand, State.strand, State.core_modCore, if_pos rfl]
    split
    · exact (Core.strand_setStrand ..).trans (if_pos rfl)
    · rfl

/-! ## DCMP (R175) -/

theorem execDcmpComplete_of_settled {s : State} {core slot : Nat} {c : StrCmd} (hat : (s.core core).cmdAt slot = some c)
    (hk : c.kind = .dcmp) (hformed : c.isZero = true ∨ c.elements.2 = true) (h : Settled c) :
    exec (.dcmpComplete core slot) s =
      .next (s.finishCmd core c (status 0 (c.output.any (·.2) || c.taint.isSome) 0 c.bytes)) := by
  have hslot := Core.slot_of_cmdAt hat
  subst hslot
  have hwell : (!c.isZero && !c.elements.2) = false := by
    obtain hz | he := hformed <;> simp [*]
  rw [exec_dcmpComplete, execDcmpComplete, hat]
  simp only [hk, h.1, h.2.1, hwell, completeStep_of_settled hat h, bne_self_eq_false, Bool.not_true, Bool.or_false,
    Bool.false_eq_true, if_false]
  rfl

theorem execDcmpComplete_of_malformed {s : State} {core slot : Nat} {c : StrCmd} (hat : (s.core core).cmdAt slot = some c)
    (hk : c.kind = .dcmp) (hphase : c.phase = .flight) (hlanded : c.allLanded = true) (hz : c.isZero = false)
    (he : c.elements.2 = false) : exec (.dcmpComplete core slot) s = .next (s.failCmd core c causeStream) := by
  rw [exec_dcmpComplete, execDcmpComplete, hat]
  simp only [hk, hphase, hlanded, hz, he, bne_self_eq_false, Bool.not_true, Bool.or_false, Bool.false_eq_true, if_false,
    Bool.not_false, Bool.and_self, if_true]

theorem copiesAndDecompressionsComplete : CopiesAndDecompressionsComplete := by
  intro core slot s c hat
  have hslot := Core.slot_of_cmdAt hat
  have finishes (w : Word) := finished_finishCmd s core c w
  refine ⟨fun hk hset w hv => ⟨_, execCopyComplete_of_settled hat hk hset, ?_⟩, fun hk hset hv => ⟨fun hz hchk => ?_, fun hz => ?_,
    fun hz hchk hpois htaint hbad hhit => ?_⟩, fun hfollow hf hphase hlanded hcause hroom => ?_,
    fun hk hphase hlanded => ⟨fun hformed hset => ?_, fun hz he => ?_⟩⟩
  · rw [copyEnd_of_verdict hv]
    exact finishes w
  · refine ⟨_, execCopyComplete_of_settled hat hk hset, ?_⟩
    rw [copyEnd_unchecked hv hz hchk]
    exact finishes _
  · refine ⟨_, execCopyComplete_of_settled hat hk hset, ?_⟩
    rw [copyEnd_of_isZero hv hz]
    exact finishes _
  · have hclean := poisoned_eq_false hpois htaint
    have hend := copyEnd_checked (s := s) (core := core) hv hz hchk hclean
    refine ⟨fun hpair => ⟨_, execCopyComplete_of_settled hat hk hset, ?_⟩, fun hpair => ?_⟩
    · rw [hend, copyChecks_of_match hclean hbad hhit hpair, if_pos rfl]
      exact finishes _
    · rw [copyChecks_of_mismatch hclean hpair, if_neg Bool.false_ne_true] at hend
      obtain ⟨r, hsent⟩ := recordsSent_cmdRecord hat _ _ _ _ _ _
      exact ⟨_, r, (execCopyComplete_of_settled hat hk hset).trans (congrArg _ hend), hsent⟩
  · refine followOnEntry_enters hat ?_ hcause ?_
    · simp only [StrCmd.followReady, hfollow, hf, hphase, hlanded, Bool.not_false, beq_self_eq_true, Bool.and_self]
    · simp only [StrCmd.followRoom, hcause, hroom, Option.isSome_none, decide_true, Bool.or_true]
  · obtain ⟨hmem, _, hfin⟩ := finishes (status 0 (c.output.any (·.2) || c.taint.isSome) 0 c.bytes)
    exact ⟨_, execDcmpComplete_of_settled hat hk hformed hset, hmem, hfin⟩
  · exact ⟨_, execDcmpComplete_of_malformed hat hk hphase hlanded hz he, fails_failCmd s core c causeStream⟩

/-! ## FILL (R176, R363) -/

/-- The bytes of a fill repeat the 8 bytes of VALUE, none of them poisoned. -/
theorem outByte_of_fill {c : StrCmd} (hk : c.kind = .fill) {o n : Nat} (h : o + n ≤ c.payload) :
    ((List.range n).map fun i => c.outByte (o + i)) =
      ((List.range n).map fun i => BitVec.ofNat 8 (field c.card (8 + (o + i) % 8) 1)).map fun b => (b, false) := by
  rw [List.map_map]
  refine List.map_congr_left fun i hi => ?_
  have hlt : o + i < c.payload := by have := List.mem_range.1 hi; omega
  rw [StrCmd.outByte, hk]
  exact if_pos hlt

theorem Ram.land_clean (m : Ram) (a : Nat) (l : List Byte) : m.land a (l.map fun b => (b, false)) = m.write a l := by
  have hnone : (l.map fun b => ((b, false) : PByte)).any (·.2) = false := by simp
  rw [Ram.land, hnone, List.map_map, Function.comp_def, List.map_id']
  rfl

theorem target_of_not_copy {c : StrCmd} (hk : c.kind ≠ .copy) (inj : Word) : c.target inj = none := by
  rw [StrCmd.target]
  exact if_neg (by simp [hk])

theorem fillComplete_writes {s : State} {core slot k : Nat} {c : StrCmd} {p : ReadPiece} (hat : (s.core core).cmdAt slot = some c)
    (hk : c.kind = .fill) (hlanded : c.allLanded = false) (hmay : c.mayWrite 0 k = true) (hp : (c.dstPieces 0)[k]? = some p)
    (htag : (c.dest 0).tag = 0) (hlen : p.off + p.len ≤ c.payload) :
    ∃ t c', exec (.fillComplete core slot k) s = .next t ∧
      SramOnly s t core ((s.core core).sram.write p.addr ((List.range p.len).map fun i =>
        BitVec.ofNat 8 (field c.card (8 + (p.off + i) % 8) 1))) ∧
      (t.core core).cmdAt slot = some c' ∧ c'.dstDone = (0, k) :: c.dstDone := by
  have hexec : exec (.fillComplete core slot k) s = .next (s.writeStep core c 0 k) := by
    rw [exec_fillComplete, execFillComplete, hat]
    simp only [hk, hlanded, bne_self_eq_false, Bool.false_eq_true, if_false, Bool.not_false, if_true]
  have hdest : s.destTarget core c 0 = .live core := by
    rw [State.destTarget, hk]
    rfl
  obtain ⟨hsram, c', hat', hdone, _⟩ := writeStep_lands hat hp hmay htag hdest (target_of_not_copy (by simp [hk]) _)
  rw [outByte_of_fill hk hlen, Ram.land_clean] at hsram
  exact ⟨_, c', hexec, hsram, hat', hdone⟩

theorem execFillComplete_of_landed {s : State} {core slot : Nat} {c : StrCmd} (hat : (s.core core).cmdAt slot = some c)
    (hk : c.kind = .fill) (hlanded : c.allLanded = true) (k : Nat) : exec (.fillComplete core slot k) s =
      .next (s.completeStep core c fun s c => s.finishCmd core c (status 0 false 0 c.bytes)) := by
  rw [exec_fillComplete, execFillComplete, hat]
  simp only [hk, hlanded, bne_self_eq_false, Bool.false_eq_true, if_false, Bool.not_true]
  rfl

/-- A command whose increments are on their way. -/
def StrCmd.sent (c : StrCmd) : StrCmd := { c with incSent := true, incs := if c.semEn then c.ndst else 0 }

/-- The one destination of a fill is its issuing core. -/
theorem sendIncs_of_fill {s : State} {core : Nat} {c : StrCmd} (hk : c.kind = .fill) (hsem : c.semEn = true) :
    s.sendIncs core c = (s.modCmd core c.slot StrCmd.sent).modCore core fun k => { k with
      incs := k.incs ++ [⟨Fin.ofNat 64 c.sem, BitVec.ofNat 64 c.incAmount, some ⟨core, c.slot, c.seq⟩, none⟩] } := by
  have hndst : c.ndst = 1 := by rw [StrCmd.ndst, hk]; rfl
  have hdest (t : State) : t.destTarget core c 0 = .live core := by
    rw [State.destTarget, hk]
    rfl
  rw [State.sendIncs]
  simp only [hsem, hndst, Bool.not_true, Bool.false_eq_true, if_false, List.range_one, List.foldl_cons, List.foldl_nil, hdest, ite_self]
  rfl

theorem fillComplete_sends {s : State} {core slot k : Nat} {c : StrCmd} (hat : (s.core core).cmdAt slot = some c)
    (hk : c.kind = .fill) (hphase : c.phase = .flight) (hlanded : c.allLanded = true) (hunsent : c.incSent = false)
    (hsem : c.semEn = true) :
    ∃ t, exec (.fillComplete core slot k) s = .next t ∧ SameMemory s t ∧
      (t.core core).incs = (s.core core).incs ++
        [⟨Fin.ofNat 64 c.sem, BitVec.ofNat 64 c.incAmount, some ⟨core, c.slot, c.seq⟩, none⟩] ∧
      (t.core core).cmdAt slot = some { c with incSent := true, incs := 1 } := by
  have hslot := Core.slot_of_cmdAt hat
  subst hslot
  have hsent : c.sent = { c with incSent := true, incs := 1 } := by
    have hndst : c.ndst = 1 := by rw [StrCmd.ndst, hk]; rfl
    rw [StrCmd.sent, hsem, hndst]
    rfl
  have hat' : ((s.sendIncs core c).core core).cmdAt c.slot = some { c with incSent := true, incs := 1 } := by
    rw [sendIncs_of_fill hk hsem, State.core_modCore, if_pos rfl, ← hsent]
    exact State.cmdAt_modCmd (f := StrCmd.sent) hat fun _ hx => hx
  refine ⟨s.sendIncs core c, ?_, ?_, ?_, hat'⟩
  · rw [execFillComplete_of_landed hat hk hlanded, State.completeStep]
    simp only [hphase, hlanded, hunsent, hat', StrCmd.settled, bne_self_eq_false, Bool.not_true, Bool.or_false, Bool.false_eq_true,
      if_false, one_ne_zero, decide_false, Bool.and_false, Bool.false_and]
  · rw [sendIncs_of_fill hk hsem]
    exact (SameMemory.modCmd ..).trans (.modCore rfl)
  · rw [sendIncs_of_fill hk hsem, State.core_modCore, if_pos rfl, State.modCmd, State.core_modCore, if_pos rfl]

/-! ## CSUM (R177, R349) -/

theorem execCsumComplete_of_unread {s : State} {core slot : Nat} {c : StrCmd} (hat : (s.core core).cmdAt slot = some c)
    (hk : c.kind = .csum) (hread : c.allRead = false) (k : Nat) :
    exec (.csumComplete core slot k) s = .next (s.readStep core c k) := by
  rw [exec_csumComplete, execCsumComplete, hat]
  simp only [hk, hread, bne_self_eq_false, Bool.false_eq_true, if_false, Bool.not_false, if_true]

theorem execCsumComplete_of_settled {s : State} {core slot : Nat} {c : StrCmd} (hat : (s.core core).cmdAt slot = some c)
    (hk : c.kind = .csum) (hread : c.allRead = true) (h : Settled c) (k : Nat) :
    exec (.csumComplete core slot k) s = .next (s.csumEnd core c) := by
  have hslot := Core.slot_of_cmdAt hat
  subst hslot
  rw [exec_csumComplete, execCsumComplete, hat]
  simp only [hk, hread, h.2.1, completeStep_of_settled hat h, bne_self_eq_false, Bool.false_eq_true, if_false, Bool.not_true]

theorem csumEnd_of_verdict {s : State} {core : Nat} {c : StrCmd} {w : Word} (h : c.verdict = some w) :
    s.csumEnd core c = s.finishCmd core c w := by
  rw [State.csumEnd, h]

theorem csumEnd_computing {s : State} {core : Nat} {c : StrCmd} (hv : c.verdict = none) (h : c.isZero = true ∨ c.ctrl = 0) :
    s.csumEnd core c = s.finishCmd core c (status 0 false 0 c.bytes) := by
  rw [State.csumEnd, hv]
  exact if_pos (by simpa using h)

theorem csumEnd_verifying {s : State} {core : Nat} {c : StrCmd} (hv : c.verdict = none) (hz : c.isZero = false) (hctrl : c.ctrl ≠ 0)
    (hclean : c.poisoned = false) :
    s.csumEnd core c =
      if c.readPair = headerPair (readCells c.data 0 64) then s.finishCmd core c (status 0 false 1 c.bytes)
      else (s.cmdRecord core c (readCells c.data 0 64) 3 (s.walkHop core c core c.source c.source.off)
        (headerPair (readCells c.data 0 64)) c.readPair).recordsSent core c (status 2 false 2 c.bytes) := by
  have hverify : (c.isZero || c.ctrl == 0) = false := by simp [hz, hctrl]
  rw [State.csumEnd, hv]
  simp only [hverify, hclean, bne_iff_ne, ne_eq, ite_not, Bool.false_eq_true, if_false]
  rfl

theorem fillsAndChecksumsComplete : FillsAndChecksumsComplete := by
  intro core slot k s c hat
  have finishes (w : Word) := finished_finishCmd s core c w
  refine ⟨fun hk => ⟨fun p hlanded hmay hp htag hlen => fillComplete_writes hat hk hlanded hmay hp htag hlen,
    fun hphase hlanded hunsent hsem => fillComplete_sends hat hk hphase hlanded hunsent hsem, fun hset => ?_⟩,
    fun hk => ⟨fun p hread hmay hp htag hlead halive => ?_, fun hread hset w hv => ?_, fun hread hset hv =>
      ⟨fun h => ?_, fun hz hctrl hpois htaint hpair => ?_, fun hz hctrl hpois htaint hpair => ?_⟩⟩⟩
  · obtain ⟨hmem, _, hfin⟩ := finishes (status 0 false 0 c.bytes)
    have hslot := Core.slot_of_cmdAt hat
    subst hslot
    refine ⟨_, (execFillComplete_of_landed hat hk hset.2.1 k).trans ?_, hmem, hfin⟩
    rw [completeStep_of_settled hat hset]
  · exact ⟨_, execCsumComplete_of_unread hat hk hread k, readStep_payload hat hp hmay htag halive hlead⟩
  · refine ⟨_, execCsumComplete_of_settled hat hk hread hset k, ?_⟩
    rw [csumEnd_of_verdict hv]
    exact finishes w
  · obtain ⟨hmem, _, hfin⟩ := finishes (status 0 false 0 c.bytes)
    exact ⟨_, (execCsumComplete_of_settled hat hk hread hset k).trans (congrArg _ (csumEnd_computing hv h)), hmem, hfin⟩
  · refine ⟨_, execCsumComplete_of_settled hat hk hread hset k, ?_⟩
    rw [csumEnd_verifying hv hz hctrl (poisoned_eq_false hpois htaint), if_pos hpair]
    exact finishes _
  · have hend := csumEnd_verifying (s := s) (core := core) hv hz hctrl (poisoned_eq_false hpois htaint)
    rw [if_neg hpair] at hend
    obtain ⟨r, hmem, hrecords, hregid, _, hstrand, hat'⟩ := recordsSent_cmdRecord hat _ _ _ _ _ _
    exact ⟨_, r, (execCsumComplete_of_settled hat hk hread hset k).trans (congrArg _ hend), hmem, hrecords, hregid, hstrand, hat'⟩

/-- Settles O28: each way in which a command ends has its equation, and ending it writes its token or sends its record. -/
theorem copiesFillsAndChecksumsComplete : Obligations.CopiesFillsAndChecksumsComplete :=
  ⟨copiesAndDecompressionsComplete, fillsAndChecksumsComplete⟩

end Sys2Proof.Machine
end

section
/-! PROOFS. Walk records (for O26, O30): WALK-FORMAT as the model tests it is the break of R145 that the statements name, and the
bytes of a walk lie between its lowest and its highest offset. -/

namespace Sys2Proof.Machine

open Sys2Proof.Claims

/-! ## WALK-FORMAT (R143, R145) -/

theorem esizeListed_iff (n : Nat) : esizeListed n = true ↔ n ∈ [1, 2, 4, 8, 17, 25, 33] := by
  simp [esizeListed, or_assoc]

/-- A record that breaks its format for the sizes that a command admits is bad to a command that admits no replay. -/
theorem formatBad_of_broken {l : List Byte} {sizes : List Nat} {ok : Nat → Bool}
    (hsizes : ∀ n, esizeListed n = true → ok n = true → n ∈ sizes) (h : BrokenFormat l sizes) :
    (decodeWalk l).formatBad (walkReserved l) false ok = true := by
  simp only [Walk.formatBad, Bool.or_eq_true, Bool.and_eq_true, Bool.not_eq_true', Bool.not_false, and_true, bne_iff_ne, ne_eq]
  obtain hres | hsize | hreplay | hlinear | hhdr := h
  · simp [hres]
  · have hbad : esizeListed (decodeWalk l).esize = false ∨ ok (decodeWalk l).esize = false := by
      by_contra hgood
      simp only [not_or, Bool.not_eq_false] at hgood
      exact hsize (hsizes _ hgood.1 hgood.2)
    tauto
  · simp [hreplay]
  · simp [hlinear]
  · simp [hhdr]

theorem formatBad_eq_false {l : List Byte} {sizes : List Nat} {ok : Nat → Bool}
    (hsizes : ∀ n ∈ sizes, esizeListed n = true ∧ ok n = true) (h : ¬ BrokenFormat l sizes) (replayOk : Bool) :
    (decodeWalk l).formatBad (walkReserved l) replayOk ok = false := by
  simp only [BrokenFormat, not_or, not_and, not_not, Bool.not_eq_true, Bool.not_eq_false] at h
  obtain ⟨hres, hsize, hreplay, hlinear, hhdr⟩ := h
  obtain ⟨hlisted, hok⟩ := hsizes _ hsize
  have hfwd : ((decodeWalk l).fwd && !(decodeWalk l).linear) = false := by
    cases hf : (decodeWalk l).fwd with
    | false => rfl
    | true => rw [hlinear hf]; rfl
  have hcsumc : ((decodeWalk l).csumc && (decodeWalk l).hdr % 64 != 0) = false := by
    cases hc : (decodeWalk l).csumc with
    | false => rfl
    | true => rw [hhdr hc]; rfl
  simp only [Walk.formatBad, hres, hlisted, hok, hreplay, hfwd, hcsumc, Bool.not_true, Bool.and_false, Bool.false_and, Bool.or_false]

/-! ## Where the bytes of a walk lie (R144) -/

theorem walkStep_bounds (es : List Nat) (ds : List Int) (n : Nat) (h : ∀ e ∈ es, e ≠ 0) :
    (walkSpan es ds).1 ≤ walkStep es ds n ∧ walkStep es ds n ≤ (walkSpan es ds).2 := by
  induction es generalizing ds n with
  | nil => simp [walkSpan, walkStep]
  | cons e es ih =>
    cases ds with
    | nil => simp [walkSpan, walkStep]
    | cons d ds =>
      obtain ⟨he, hes⟩ := List.forall_mem_cons.1 h
      obtain ⟨hlow, hhigh⟩ := ih ds (n / e) hes
      have hidx : ((n % e : Nat) : Int) ≤ ((e - 1 : Nat) : Int) := by
        have := Nat.mod_lt n (Nat.pos_of_ne_zero he)
        omega
      have hterm : min 0 (((e - 1 : Nat) : Int) * d) ≤ (n % e : Nat) * d ∧ (n % e : Nat) * d ≤ max 0 (((e - 1 : Nat) : Int) * d) := by
        obtain hd | hd := le_total 0 d
        · exact ⟨(min_le_left ..).trans (mul_nonneg (Int.natCast_nonneg _) hd),
            (mul_le_mul_of_nonneg_right hidx hd).trans (le_max_right ..)⟩
        · exact ⟨(min_le_right ..).trans (mul_le_mul_of_nonpos_right hidx hd),
            (mul_nonpos_of_nonneg_of_nonpos (Int.natCast_nonneg _) hd).trans (le_max_left ..)⟩
      simp only [walkSpan, walkStep]
      exact ⟨by linarith only [hterm.1, hlow], by linarith only [hterm.2, hhigh]⟩

theorem Walk.mem_addrs {w : Walk} {x : Nat} : x ∈ w.addrs ↔ ∃ n < w.count, ∃ j < w.esize, x = (w.elem n).toNat + j := by
  simp only [Walk.addrs, Walk.bytesFrom, List.mem_flatMap, List.mem_range, List.mem_map, Nat.zero_add, eq_comm]

theorem Walk.elem_bounds {w : Walk} (hz : w.isZero = false) (n : Nat) :
    w.off + (walkSpan w.ext w.stride).1 ≤ w.elem n ∧ w.elem n ≤ w.off + (walkSpan w.ext w.stride).2 := by
  have hpos : ∀ e ∈ w.ext, e ≠ 0 := by
    simpa [Walk.isZero] using hz
  obtain ⟨hlow, hhigh⟩ := walkStep_bounds w.ext w.stride n hpos
  exact ⟨by rw [Walk.elem]; omega, by rw [Walk.elem]; omega⟩

/-- A walk of local SRAM starts at or above 0 and ends below its size, its header too. -/
theorem limits_of_insideSram {w : Walk} (h : InsideSram w) :
    0 ≤ w.off + (walkSpan w.ext w.stride).1 ∧ w.high ≤ 0x300000 ∧ (!w.csumc || w.hdr + 64 ≤ 0x300000) = true := by
  obtain ⟨-, -, hinside, -⟩ := h
  simpa [Walk.inside, and_assoc] using hinside

theorem addrs_bounds_of_insideSram {w : Walk} (h : InsideSram w) {x : Nat} (hx : x ∈ w.addrs) :
    w.low ≤ x ∧ (x : Int) < w.high ∧ x < 0x300000 := by
  obtain ⟨hlow, hlimit, -⟩ := limits_of_insideSram h
  obtain ⟨n, -, j, hj, rfl⟩ := Walk.mem_addrs.1 hx
  obtain ⟨hmin, hmax⟩ := Walk.elem_bounds h.2.2.2 n
  have hhigh : (((w.elem n).toNat + j : Nat) : Int) < w.high := by
    rw [Walk.high]
    omega
  exact ⟨(min_le_right ..).trans (by omega), hhigh, by omega⟩

end Sys2Proof.Machine
end

section
/-! PROOFS. Stream commands start, read their records, fail or go into flight, and move their pieces (O26). A record piece is a
turn of its own; with the last one the stage's check decides, and each check is told by the first test that it fails. -/

namespace Sys2Proof.Machine

open Sys2Proof.Claims

/-! ## The start (R161, R162) -/

theorem cardLen_of_cardSizes {c : StrCmd} {n : Nat} (h : (c.kind, n) ∈ cardSizes) : c.cardLen = n := by
  simp only [cardSizes, List.mem_cons, Prod.mk.injEq, List.not_mem_nil, or_false] at h
  obtain ⟨hk, rfl⟩ | ⟨hk, rfl⟩ | ⟨hk, rfl⟩ | ⟨hk, rfl⟩ | ⟨hk, rfl⟩ | ⟨hk, rfl⟩ := h <;> simp only [StrCmd.cardLen, hk]

/-- A command that starts has its card to read. -/
def StrCmd.begun (c : StrCmd) : StrCmd :=
  { c with phase := .reading, stage := 0, recs := [], recPois := false, need := readPieces c.s1.toNat c.s1.toNat c.cardLen }

theorem streamCommandsBeginToRead : StreamCommandsBeginToRead := by
  intro core s
  refine ⟨fun hnone => by rw [exec_streamCommandStart, execStreamCommandStart, hnone], fun c n hnext hat hphase hsize => ?_⟩
  let served := s.modCore core fun k => { k with served := c.strand }
  have hexec : exec (.streamCommandStart core) s = .next (served.modCmd core c.slot StrCmd.begun) := by
    rw [exec_streamCommandStart, execStreamCommandStart, hnext]
    simp only [State.startCmd, hphase]
    rfl
  have hat' : (served.core core).cmdAt c.slot = some c := by
    rw [State.core_modCore, if_pos rfl]
    exact hat
  have hmem : SameMemory s served := .modCore rfl
  refine ⟨_, hexec, ?_, hmem.trans (.modCmd ..), ?_, fun d n => ?_⟩
  · rw [State.modCmd, State.core_modCore, if_pos rfl, State.core_modCore, if_pos rfl]
  · rw [← cardLen_of_cardSizes hsize]
    exact State.cmdAt_modCmd (f := StrCmd.begun) hat' fun _ hx => hx
  · rw [State.strand_modCmd, State.strand_modCore rfl]

/-! ## A piece of a record (R147, R182) -/

/-- The command after piece `k` of its records has been read from `m`. -/
def StrCmd.readRecord (c : StrCmd) (m : Ram) (k : Nat) (p : ReadPiece) : StrCmd :=
  { c with
    need := c.need.eraseIdx k, recs := writeCells c.recs p.off (m.bytes p.addr p.len)
    recPois := c.recPois || m.poisoned p.addr p.len }

/-- The state in which a turn of the schedule acts. -/
def State.inTurn (s : State) : State := s.takeTurn.res .issued

theorem step_record {s : State} {core slot k : Nat} {l : List Turn} (h : s.turns = .record core slot k :: l) (hcore : core < 4096) :
    step s = .next (s.inTurn.recordTurn core slot k) := by
  rw [step, State.nextTurn, h]
  exact if_neg (Nat.not_le.2 hcore)

/-- The turn of a record piece: the command reads on, or its stages follow the last piece. -/
theorem recordTurn_eq {s : State} {core slot k : Nat} {c : StrCmd} {p : ReadPiece} (hat : (s.core core).cmdAt slot = some c)
    (hphase : c.phase = .reading) (hp : c.need[k]? = some p) (hplain : ¬ (c.kind = .spawn ∧ c.stage ≠ 0)) :
    s.recordTurn core slot k =
      if (c.need.eraseIdx k).isEmpty then s.recordStages core 3 (c.readRecord (s.core core).sram k p)
      else s.modCmd core slot fun _ => c.readRecord (s.core core).sram k p := by
  have hplain' : (c.kind == .spawn && c.stage != 0) = false := by simpa using hplain
  have hreading : (c.phase == .reading) = true := beq_iff_eq.2 hphase
  rw [State.recordTurn, hat]
  simp only [hreading, hp, hplain', Bool.false_eq_true, if_false]
  rfl

section
variable {s : State} {core slot k : Nat} {c : StrCmd} {p : ReadPiece} {l : List Turn} (hturn : s.turns = .record core slot k :: l)
  (hcore : core < 4096) (hat : (s.core core).cmdAt slot = some c) (hphase : c.phase = .reading) (hp : c.need[k]? = some p)
include hturn hcore hat hphase hp

/-- A command with pieces left keeps what it has read. -/
theorem step_readsOn (hplain : ¬ (c.kind = .spawn ∧ c.stage ≠ 0)) (hrest : c.need.eraseIdx k ≠ []) :
    ∃ t, step s = .next t ∧ SameMemory s t ∧ (∀ d n, t.strand d n = s.strand d n) ∧
      (t.core core).cmdAt slot = some (c.readRecord (s.core core).sram k p) := by
  have hslot := Core.slot_of_cmdAt hat
  refine ⟨_, (step_record hturn hcore).trans (congrArg _ (recordTurn_eq (s := s.inTurn) hat hphase hp hplain)), ?_⟩
  rw [if_neg (by simpa using hrest)]
  exact ⟨.modCmd s.inTurn .., fun d n => s.inTurn.strand_modCmd .., State.cmdAt_modCmd (s := s.inTurn) hat fun _ _ => hslot⟩

/-- The last piece of a stage whose check fails ends the command with the cause of that check. -/
theorem step_fails (hplain : ¬ (c.kind = .spawn ∧ c.stage ≠ 0)) (hrest : c.need.eraseIdx k = []) {cause : Nat}
    (hcheck : s.inTurn.stageDone core (c.readRecord (s.core core).sram k p) = .fails cause) :
    ∃ t, step s = .next t ∧ Fails s t core c cause := by
  refine ⟨_, (step_record hturn hcore).trans (congrArg _ (recordTurn_eq (s := s.inTurn) hat hphase hp hplain)), ?_⟩
  have hfails : s.inTurn.recordStages core 3 (c.readRecord (s.core core).sram k p) =
      s.inTurn.failCmd core (c.readRecord (s.core core).sram k p) cause := by
    rw [State.recordStages, hcheck]
  rw [if_pos (by simpa using hrest)]
  exact (congrArg (Fails s · core c cause) hfails).mpr (fails_failCmd s.inTurn core (c.readRecord (s.core core).sram k p) cause)

end

/-! ## Cards (R163 to R165, R173, R176, R177, R345) -/

theorem stageDone_card (s : State) (core : Nat) {c : StrCmd} (hk : c.kind ∈ [.copy, .dcmp, .fill, .csum]) (hstage : c.stage = 0) :
    s.stageDone core c = c.cardRead := by
  simp only [List.mem_cons, List.not_mem_nil, or_false] at hk
  obtain hk | hk | hk | hk := hk <;> simp only [State.stageDone, hk, hstage, if_true]

theorem stageDone_walks (s : State) (core : Nat) {c : StrCmd} (hk : c.kind ∈ [.copy, .dcmp, .fill, .csum]) (hstage : c.stage = 1) :
    s.stageDone core c = s.walksStart core c := by
  simp only [List.mem_cons, List.not_mem_nil, or_false] at hk
  obtain hk | hk | hk | hk := hk <;> simp only [State.stageDone, hk, hstage, one_ne_zero, if_false]

theorem stageDone_of_poisoned (s : State) (core : Nat) {c : StrCmd} (hk : c.kind ∈ [.copy, .dcmp, .fill, .csum, .coll])
    (hstage : c.stage = 0) (hpois : c.recPois = true) : s.stageDone core c = .fails causePoison := by
  by_cases hcoll : c.kind = .coll
  · simp only [State.stageDone, hcoll, hstage, if_true, StrCmd.collHeader, hpois]
  · have hcard : c.kind ∈ [.copy, .dcmp, .fill, .csum] := by
      simpa [hcoll] using hk
    rw [stageDone_card s core hcard hstage, StrCmd.cardRead]
    simp only [hpois, if_true]

theorem walkAddrOk_eq_false_iff (a : Nat) : walkAddrOk a = false ↔ BadRecordAddr a := by
  rw [walkAddrOk, Bool.and_eq_false_iff, beq_eq_false_iff_ne, decide_eq_false_iff_not, Nat.not_le, sramSize, BadRecordAddr]

/-- Every break of a card's layout that is listed is one to the model. -/
theorem cardBad_of_break : ∀ x ∈ cardBreaks, ∀ c : StrCmd, c.kind = x.1 → x.2.2 c.card → c.cardBad = true := by
  simp only [cardBreaks, List.forall_mem_cons, List.not_mem_nil, false_imp_iff, implies_true, and_true, ← walkAddrOk_eq_false_iff]
  refine ⟨fun c hk h => ?_, fun c hk h => ?_, fun c hk h => ?_, fun c hk h => ?_⟩
  · simp only [StrCmd.cardBad, hk, StrCmd.copyCardBad, StrCmd.ctrl, StrCmd.ndst, StrCmd.chk, StrCmd.semAmt, beq_self_eq_true, if_true,
      Bool.or_eq_true, Bool.not_eq_true', decide_eq_true_eq, beq_iff_eq]
    tauto
  · simp only [StrCmd.cardBad, hk, StrCmd.smallCtrlBad, StrCmd.ctrl, StrCmd.semAmt, Bool.or_eq_true, Bool.not_eq_true', decide_eq_true_eq]
    tauto
  · simp only [StrCmd.cardBad, hk, StrCmd.smallCtrlBad, StrCmd.ctrl, StrCmd.semAmt, Bool.or_eq_true, Bool.not_eq_true', decide_eq_true_eq]
    tauto
  · simp only [StrCmd.cardBad, hk, StrCmd.ctrl, Bool.or_eq_true, Bool.not_eq_true', decide_eq_true_eq]
    tauto

theorem cardLen_of_cardBreaks : ∀ x ∈ cardBreaks, ∀ c : StrCmd, c.kind = x.1 →
    c.cardLen = x.2.1 ∧ c.kind ∈ [.copy, .dcmp, .fill, .csum] := by
  simp only [cardBreaks, List.forall_mem_cons, List.not_mem_nil, false_imp_iff, implies_true, and_true]
  refine ⟨fun c hk => ?_, fun c hk => ?_, fun c hk => ?_, fun c hk => ?_⟩ <;> simp [StrCmd.cardLen, hk]

/-- A command with the card that it has read. -/
def StrCmd.withCard (c : StrCmd) : StrCmd := { c with card := readCells c.recs c.s1.toNat c.cardLen }

theorem StrCmd.cardRead_eq (c : StrCmd) : c.cardRead =
    if c.recPois then .fails causePoison
    else if c.withCard.cardBad then .fails causeCard
    else .go { c.withCard with
      stage := 1, recs := [], need := c.withCard.walkAddrs.dedup.flatMap fun a => readPieces a a 64 } := rfl

/-- A card that breaks its layout ends its command with CARD-FORMAT. -/
theorem cardRead_of_break {x : StrKind × Nat × (List Byte → Prop)} (hx : x ∈ cardBreaks) {c : StrCmd} (hk : c.kind = x.1)
    (hpois : c.recPois = false) (h : x.2.2 (readCells c.recs c.s1.toNat x.2.1)) : c.cardRead = .fails causeCard := by
  rw [← (cardLen_of_cardBreaks x hx c hk).1] at h
  rw [StrCmd.cardRead_eq, hpois, if_neg Bool.false_ne_true, if_pos (cardBad_of_break x hx c.withCard hk h)]

/-! ## FILL (R176, R363) -/

theorem cardBad_of_goodFillCard {c : StrCmd} (hk : c.kind = .fill) {a : Nat} (h : GoodFillCard c.card a) : c.cardBad = false := by
  obtain ⟨haddr, halign, hend, hctrl, hzeros, hamount, hreserved⟩ := h
  have hplace : walkAddrOk (field c.card 0 8) = true := by
    rw [← haddr, ← Bool.not_eq_false, walkAddrOk_eq_false_iff, BadRecordAddr]
    omega
  simp only [StrCmd.cardBad, hk, StrCmd.smallCtrlBad, StrCmd.ctrl, StrCmd.semAmt, Bool.or_eq_false_iff, decide_eq_false_iff_not,
    Nat.not_le, Bool.not_eq_false']
  exact ⟨⟨⟨⟨hctrl, hamount⟩, hreserved⟩, hplace⟩, hzeros⟩

/-- A good fill card lets the engine read the one walk record that it names. -/
theorem cardRead_of_goodFillCard {c : StrCmd} (hk : c.kind = .fill) (hpois : c.recPois = false) {a : Nat}
    (h : GoodFillCard (readCells c.recs c.s1.toNat 64) a) :
    c.cardRead =
      .go { c with card := readCells c.recs c.s1.toNat 64, stage := 1, recs := [], need := readPieces a a 64 } := by
  have hcard : c.withCard = { c with card := readCells c.recs c.s1.toNat 64 } := by rw [StrCmd.withCard, StrCmd.cardLen, hk]
  have haddrs : c.withCard.walkAddrs = [a] := by
    rw [hcard, StrCmd.walkAddrs, hk, h.1]
  have hgood : c.withCard.cardBad = false := cardBad_of_goodFillCard hk (by rwa [hcard])
  have hneed : ([a].dedup.flatMap fun a => readPieces a a 64) = readPieces a a 64 := by simp
  rw [StrCmd.cardRead_eq, if_neg (by simp [hpois]), hgood, if_neg Bool.false_ne_true, haddrs, hcard, hneed]

/-! ## Walks of local SRAM (R145) -/

theorem walkOutside_local {s : State} {sp : Space} {w : Walk} (htag : w.tag = 0) (hz : w.isZero = false) (write : Bool) :
    s.walkOutside sp w write = true ↔ ¬ InsideSram w := by
  have hlimits : s.limits sp 0 w.hdr write = if w.hdr < 2 ^ 22 then some (0, 0x300000) else none := rfl
  rw [State.walkOutside, htag, hlimits, InsideSram]
  by_cases hhdr : w.hdr < 2 ^ 22
  · rw [if_pos hhdr]
    simp only [htag, hz, hhdr, Bool.not_eq_true', true_and, and_true, Bool.not_eq_true]
  · rw [if_neg hhdr]
    simp only [hhdr, false_and, and_false, not_false_eq_true]

/-- What R145 finds of a walk whose record is well formed: a tag that is not admitted is SPACE. -/
theorem walkCause_of_tag {s : State} {sp : Space} {w : Walk} {res zero replayOk write hdr : Bool} {top : Nat} {dst : Option Nat}
    (hformat : w.formatBad res replayOk (fun _ => true) = false) (htag : top < w.tag) :
    s.walkCause sp w res zero replayOk top write hdr dst = some causeSpace := by
  simp only [State.walkCause, hformat, Bool.false_eq_true, if_false, htag, if_true]

/-- A walk of tag 0 that leaves local SRAM is SPACE, and one that does not meets the text of its destination or nothing. -/
theorem walkCause_local {s : State} {sp : Space} {w : Walk} {res replayOk write hdr : Bool} {top : Nat} {dst : Option Nat}
    (hformat : w.formatBad res replayOk (fun _ => true) = false) (htag : w.tag = 0) :
    s.walkCause sp w res false replayOk top write hdr dst =
      if s.walkOutside sp w write || (write && dst.any fun d => s.walkHitsText d w hdr) then some causeSpace else none := by
  simp only [State.walkCause, hformat, htag, Nat.not_lt_zero, Bool.false_eq_true, if_false, beq_self_eq_true, Bool.and_true]
  cases hout : s.walkOutside sp w write <;> cases dst <;> simp

theorem walkDead_of_alive {s : State} (h : s.anyFailed = false) (sp : Space) (c : Nat) (w : Walk) : s.walkDead sp c w = false := by
  rw [State.walkDead, h, Bool.false_and]

/-! ## The walk of a FILL (R363) -/

/-- What R145 finds of the walk record of a fill. -/
def State.fillCause (s : State) (core : Nat) (c : StrCmd) (r : List Byte) : Option Nat :=
  s.walkCause (s.spaceOf core c.task) (decodeWalk r) (walkReserved r) (decodeWalk r).isZero false 5 true true (some core)

theorem fillStart_fails {s : State} {core cause : Nat} {c : StrCmd} (hpois : c.recPois = false)
    (h : s.fillCause core c (c.record (field c.card 0 8)) = some cause) : s.fillStart core c = .fails cause := by
  rw [State.fillCause] at h
  simp only [State.fillStart, firstCause, hpois, failIf, List.findSome?_cons, id_eq, Bool.false_eq_true, if_false, h]

theorem fillStart_goes {s : State} {core : Nat} {c : StrCmd} (hpois : c.recPois = false)
    (h : s.fillCause core c (c.record (field c.card 0 8)) = none) (halive : s.anyFailed = false) :
    s.fillStart core c = .go { c with walks := [default, decodeWalk (c.record (field c.card 0 8))], cores := [core] } := by
  rw [State.fillCause] at h
  rw [State.fillStart, hpois]
  simp only [firstCause, failIf, List.findSome?_cons, List.findSome?_nil, id_eq, Bool.false_eq_true, if_false, h,
    walkDead_of_alive halive, Bool.and_false]

theorem fillCause_of_broken {s : State} {core : Nat} {c : StrCmd} {r : List Byte} (h : BrokenFormat r [1, 2, 4, 8, 17, 25, 33]) :
    s.fillCause core c r = some causeWalk := by
  have hformat := formatBad_of_broken (ok := fun _ => true) (fun n hn _ => (esizeListed_iff n).1 hn) h
  simp only [State.fillCause, State.walkCause, hformat, if_true]

/-- A record that keeps its format for all listed sizes, as the stream engine tests it. -/
theorem streamFormat_of_not_broken {r : List Byte} (h : ¬ BrokenFormat r [1, 2, 4, 8, 17, 25, 33]) (replayOk : Bool) :
    (decodeWalk r).formatBad (walkReserved r) replayOk (fun _ => true) = false :=
  formatBad_eq_false (fun n hn => ⟨(esizeListed_iff n).2 hn, rfl⟩) h replayOk

theorem not_broken_of_goodFillWalk {s : State} {core : Nat} {r : List Byte} (h : GoodFillWalk s core r) :
    ¬ BrokenFormat r [1, 2, 4, 8, 17, 25, 33] := by
  obtain ⟨hres, hsize, hreplay, hlinear, hhdr, -⟩ := h
  rintro (hb | hb | hb | ⟨hf, hb⟩ | ⟨hc, hb⟩)
  · simp [hb] at hres
  · exact hb hsize
  · simp [hb] at hreplay
  · simp [hlinear hf] at hb
  · exact hb (hhdr hc)

theorem fillCause_of_goodFillWalk {s : State} {core : Nat} {c : StrCmd} {r : List Byte} (h : GoodFillWalk s core r) :
    s.fillCause core c r = none := by
  have hformat := streamFormat_of_not_broken (not_broken_of_goodFillWalk h) false
  obtain ⟨-, -, -, -, -, htag, hhdr, hinside, hz, htext, -⟩ := h
  have hin : s.walkOutside (s.spaceOf core c.task) (decodeWalk r) true = false := by
    rw [← Bool.not_eq_true, walkOutside_local htag hz]
    exact not_not.2 ⟨htag, hhdr, hinside, hz⟩
  rw [State.fillCause, hz, walkCause_local hformat htag, hin]
  simp [htext]

theorem fillCause_of_outside {s : State} {core : Nat} {c : StrCmd} {r : List Byte} (h : ¬ BrokenFormat r [1, 2, 4, 8, 17, 25, 33])
    (htag : (decodeWalk r).tag = 0) (hz : (decodeWalk r).isZero = false)
    (hbad : ¬ InsideSram (decodeWalk r) ∨ s.walkHitsText core (decodeWalk r) true = true) :
    s.fillCause core c r = some causeSpace := by
  rw [State.fillCause, hz, walkCause_local (streamFormat_of_not_broken h false) htag, if_pos]
  rw [Bool.or_eq_true, walkOutside_local htag hz]
  simpa using hbad

/-! ## The records of a command (R147, R162, R332, R363) -/

theorem tryFollow_of_not_copy {s : State} {core slot : Nat} {c : StrCmd} (hat : (s.core core).cmdAt slot = some c)
    (hk : c.kind ≠ .copy) : s.tryFollow core slot = s := by
  have hready : c.followReady = false := by
    simp [StrCmd.followReady, StrCmd.follow, hk]
  rw [State.tryFollow, hat]
  simp only [hready, Bool.not_false, Bool.true_or, if_true]

/-- A fill whose card is good reads on. -/
theorem recordStages_fill_card {s : State} {core fuel : Nat} {c d : StrCmd} (hk : c.kind = .fill) (hstage : c.stage = 0)
    (hgo : s.stageDone core c = .go d) (hneed : d.need ≠ []) :
    s.recordStages core (fuel + 1) c = s.modCmd core d.slot fun _ => d := by
  have hmore : d.need.isEmpty = false := by simpa using hneed
  rw [State.recordStages, hgo, hk, hstage]
  simp only [hmore]
  rfl

/-- A command in flight. -/
def StrCmd.launched (c : StrCmd) : StrCmd := { c with phase := .flight }

theorem recordsDone_fill {s : State} {core : Nat} {c : StrCmd} (hk : c.kind = .fill) :
    s.recordsDone core c = (s.modCmd core c.slot fun _ => c.launched).tryFollow core c.slot := by
  rw [State.recordsDone]
  split
  next h => exact absurd (hk.symm.trans h) (by decide)
  next h => exact absurd (hk.symm.trans h) (by decide)
  next h => exact absurd (hk.symm.trans h) (by decide)
  next => rfl

/-- A fill whose walk is good goes into flight. -/
theorem recordStages_fill_walk {s : State} {core fuel : Nat} {c d : StrCmd} (hk : c.kind = .fill) (hstage : c.stage = 1)
    (hgo : s.stageDone core c = .go d) (hd : d.kind = .fill) (hat : (s.core core).cmdAt d.slot ≠ none) :
    s.recordStages core (fuel + 1) c = s.modCmd core d.slot fun _ => d.launched := by
  obtain ⟨x, hx⟩ := Option.ne_none_iff_exists'.1 hat
  have hat' := State.cmdAt_modCmd (f := fun _ => d.launched) hx fun _ _ => rfl
  have hnot : d.launched.kind ≠ .copy := by
    rw [show d.launched.kind = d.kind from rfl, hd]
    decide
  rw [State.recordStages, hgo, hk, hstage]
  exact (recordsDone_fill hd).trans (tryFollow_of_not_copy hat' hnot)


section
variable {s : State} {core slot k : Nat} {c d : StrCmd} {p : ReadPiece} {l : List Turn} (hturn : s.turns = .record core slot k :: l)
  (hcore : core < 4096) (hat : (s.core core).cmdAt slot = some c) (hphase : c.phase = .reading) (hp : c.need[k]? = some p)
  (hrest : c.need.eraseIdx k = [])
include hturn hcore hat hphase hp hrest

/-- The last piece of a stage that leaves the command as `d`. -/
theorem step_becomes (hplain : ¬ (c.kind = .spawn ∧ c.stage ≠ 0)) (hd : d.slot = slot)
    (hstages : s.inTurn.recordStages core 3 (c.readRecord (s.core core).sram k p) = s.inTurn.modCmd core d.slot fun _ => d) :
    ∃ t, step s = .next t ∧ SameMemory s t ∧ (∀ e n, t.strand e n = s.strand e n) ∧ (t.core core).cmdAt slot = some d := by
  refine ⟨_, (step_record hturn hcore).trans (congrArg _ (recordTurn_eq (s := s.inTurn) hat hphase hp hplain)), ?_⟩
  rw [if_pos (by simpa using hrest)]
  have hlast := (hd ▸ hstages :
    s.inTurn.recordStages core 3 (c.readRecord (s.core core).sram k p) = s.inTurn.modCmd core slot fun _ => d)
  have hkept : SameMemory s (s.inTurn.modCmd core slot fun _ => d) ∧
      (∀ e n, (s.inTurn.modCmd core slot fun _ => d).strand e n = s.strand e n) ∧
      ((s.inTurn.modCmd core slot fun _ => d).core core).cmdAt slot = some d :=
    ⟨.modCmd s.inTurn .., fun e n => s.inTurn.strand_modCmd .., State.cmdAt_modCmd (s := s.inTurn) hat fun _ _ => hd⟩
  exact hlast ▸ hkept

end

theorem readPieces_ne_nil {n : Nat} (hn : n ≠ 0) (off a : Nat) : readPieces off a n ≠ [] := by
  simp [readPieces, wordsOf, hn]

theorem commandRecordsAreReadPieceByPiece : CommandRecordsAreReadPieceByPiece := by
  intro core slot k s c p l m rest recs bad now hturn hcore hat hphase hp
  have hslot := Core.slot_of_cmdAt hat
  refine ⟨fun hrest hplain => step_readsOn hturn hcore hat hphase hp hplain hrest, fun hrest hstage hk hbad => ?_,
    fun hrest hstage hk hbad a hcard => ?_, fun hrest hstage hk hbad hwalk => ?_⟩
  · exact step_fails hturn hcore hat hphase hp (fun h => h.2 hstage) hrest (stageDone_of_poisoned s.inTurn core hk hstage hbad)
  · have hgo := (stageDone_card s.inTurn core (c := now) (by simp [now, hk]) hstage).trans (cardRead_of_goodFillCard (c := now) hk hbad hcard)
    exact step_becomes hturn hcore hat hphase hp hrest (by simp [hstage]) hslot
      (recordStages_fill_card (c := now) hk hstage hgo (readPieces_ne_nil (by decide) a a))
  · have hcause : s.inTurn.fillCause core now (now.record (field c.card 0 8)) = none := fillCause_of_goodFillWalk hwalk
    have halive : s.inTurn.anyFailed = false := hwalk.2.2.2.2.2.2.2.2.2.2
    have hwalks : s.inTurn.walksStart core now = s.inTurn.fillStart core now := by
      rw [State.walksStart, show now.kind = .fill from hk]
    have hgo := (stageDone_walks s.inTurn core (c := now) (by simp [now, hk]) hstage).trans
      (hwalks.trans (fillStart_goes hbad hcause halive))
    have hplaced : (s.inTurn.core core).cmdAt c.slot ≠ none := by
      rw [hslot]
      exact ne_of_eq_of_ne hat (Option.some_ne_none c)
    exact step_becomes hturn hcore hat hphase hp hrest (by simp [hk]) hslot
      (recordStages_fill_walk (c := now) (d := { now with walks := _, cores := _ }) hk hstage hgo hk hplaced)

/-! ## A copy within local SRAM (R166, R167, R345) -/

theorem failIf_false (cause : Nat) : failIf false cause = none := rfl

theorem firstCause_none_cons (l : List (Option Nat)) : firstCause (none :: l) = firstCause l := rfl

theorem firstCause_cons_none_cons (x : Option Nat) (l : List (Option Nat)) : firstCause (x :: none :: l) = firstCause (x :: l) := by
  cases x <;> rfl

theorem regid_spaceOf (s : State) (core key : Nat) : (s.spaceOf core key).regid = s.regidOf key := by
  rw [State.spaceOf, State.regidOf]
  cases s.task? key <;> rfl

/-- Two walks of one local SRAM that share a byte overlap. -/
theorem walksOverlap_of_shared {a b : Walk} (ha : InsideSram a) (hb : InsideSram b) (hshared : ∃ x ∈ a.addrs, x ∈ b.addrs)
    (t : Target) : walksOverlap a b t t false false = true := by
  obtain ⟨x, hxa, hxb⟩ := id hshared
  obtain ⟨hlowa, hhigha, -⟩ := addrs_bounds_of_insideSram ha hxa
  obtain ⟨hlowb, hhighb, -⟩ := addrs_bounds_of_insideSram hb hxb
  have hrange : a.low < b.high ∧ b.low < a.high := by omega
  simpa [walksOverlap, Walk.touched, ha.1, hb.1, hrange] using hshared

section
variable {s : State} {core : Nat} {c : StrCmd} (hk : c.kind = .copy) (hndst : c.ndst = 1) (hchk : c.chk = 0)
  (hfollow : c.follow = false) (hpois : c.recPois = false) (halive : s.anyFailed = false)
  (ha : ¬ BrokenFormat (c.record (field c.card 0 8)) [1, 2, 4, 8, 17, 25, 33])
  (hb : ¬ BrokenFormat (c.record (entryWalk (c.dstEntry 0))) [1, 2, 4, 8, 17, 25, 33])
  (hina : InsideSram (decodeWalk (c.record (field c.card 0 8)))) (hinb : InsideSram (decodeWalk (c.record (entryWalk (c.dstEntry 0)))))
  (htarget : s.target (s.regidOf c.task) (entryCore (c.dstEntry 0)) = some (.live core))
  (htext : s.walkHitsText core (decodeWalk (c.record (entryWalk (c.dstEntry 0)))) false = false)
include hk hndst hchk hfollow hpois halive ha hb hina hinb htarget htext

/-- Of the checks of an unchecked copy from one good walk of its local SRAM to another, the sizes and the overlap are left. -/
theorem copyStart_local_fails {a b : Walk} (hra : decodeWalk (c.record (field c.card 0 8)) = a)
    (hrb : decodeWalk (c.record (entryWalk (c.dstEntry 0))) = b) {cause : Nat}
    (h : firstCause [failIf (b.size != a.size) causeWalk,
      failIf (walksOverlap a b (.live core) (.live core) false false && !(a.linear && b.linear)) causeOverlap] = some cause) :
    s.copyStart core c = .fails cause := by
  have hreplay : b.replay = false := by
    simp only [BrokenFormat, not_or, Bool.not_eq_true, hrb] at hb
    exact hb.2.2.1
  have hformata := streamFormat_of_not_broken ha false
  have hformatb := streamFormat_of_not_broken hb true
  have haddrs : c.walkAddrs = [field c.card 0 8, entryWalk (c.dstEntry 0)] := by
    rw [StrCmd.walkAddrs, hk, hndst]
    rfl
  rw [hra] at hina hformata
  rw [hrb] at hinb htext hformatb
  have hza : a.isZero = false := hina.2.2.2
  have hzb : b.isZero = false := hinb.2.2.2
  have hinside {w : Walk} (hw : InsideSram w) (sp : Space) (write : Bool) : s.walkOutside sp w write = false := by
    rw [← Bool.not_eq_true, walkOutside_local hw.1 hw.2.2.2]
    exact not_not.2 hw
  have hsrc (sp : Space) : s.walkCause sp a (walkReserved (c.record (field c.card 0 8))) false false 5 false false none = none := by
    rw [walkCause_local hformata hina.1, hinside hina]
    rfl
  have hdst (sp : Space) :
      s.walkCause sp b (walkReserved (c.record (entryWalk (c.dstEntry 0)))) false true 5 true false none = none := by
    rw [walkCause_local hformatb hinb.1, hinside hinb]
    rfl
  have hclear : s.targetText (.live core) b false = false := htext
  simp only [State.copyStart, haddrs, List.map_cons, List.map_nil, hndst, List.range_one, List.headD_cons, List.drop_succ_cons,
    List.drop_zero, List.any_cons, List.any_nil, List.getD_cons_zero, List.getD_cons_succ, hra, hrb, hza, hzb, hinb.1, hpois,
    hchk, hfollow, hreplay, hsrc, hdst, hclear, regid_spaceOf, htarget, walkDead_of_alive halive, beq_self_eq_true, bne_self_eq_false,
    Bool.or_false, Bool.false_and, Bool.and_false, Bool.not_false, Bool.true_and, Bool.and_true, if_true, Option.getD_some,
    Option.isNone_some, lt_self_iff_false, decide_false, failIf_false, List.cons_append, List.nil_append, firstCause_none_cons,
    firstCause_cons_none_cons, beq_eq_false_iff_ne.2 zero_ne_one]
  rw [h]

end

/-! ## Headers (R169, R217) -/

theorem headerBad_of_badHeader {h : List Byte} {n : Nat} (hbad : BadHeader h n) : headerBad h n = true := by
  simpa [headerBad, BadHeader, or_assoc] using hbad

/-- The piece that completes the header of a checking copy ends the copy when the header breaks R217. -/
theorem landRead_of_badHeader {s : State} {core k : Nat} {c : StrCmd} {p : ReadPiece} {v : List Byte} {z : Bool}
    (hchk : c.chk = 1) (hk8 : k < 8) (hread : ∀ j, j < 8 → j ∈ (tookPiece c k p v z).srcDone)
    (hclean : ∀ x ∈ (tookPiece c k p v z).pois, 64 ≤ x) (hbad : BadHeader (readCells (tookPiece c k p v z).data 0 64) c.payload) :
    s.landRead core c k p v z = s.failCmd core (c.took k p v z) causeHeader := by
  have hlead : (c.took k p v z).lead = 64 := by
    rw [show (c.took k p v z).lead = c.lead from rfl, StrCmd.lead, hchk]
    rfl
  have hcount : (c.took k p v z).headCount = 8 := by rw [StrCmd.headCount, hlead]
  have hwhole : (c.took k p v z).headRead = true := by
    rw [StrCmd.headRead, hcount, List.all_eq_true]
    exact fun j hj => List.contains_iff_mem.2 (hread j (List.mem_range.1 hj))
  have hunmarked : (c.took k p v z).poisIn 0 64 = false := by
    rw [StrCmd.poisIn, List.any_eq_false]
    intro x hx
    have := hclean x hx
    simp only [Bool.and_eq_true, decide_eq_true_eq]
    omega
  have hfails : (c.took k p v z).headerFails = true := by
    rw [StrCmd.headerFails, hlead, hunmarked]
    exact headerBad_of_badHeader hbad
  rw [State.landRead]
  simp only [hwhole, hcount, hk8, hfails, decide_true, Bool.and_self, if_true]

/-! ## What fails (R332, R345, R349, R350, R363) -/

theorem execCopyLand_eq {s : State} {core slot : Nat} {c : StrCmd} (hat : (s.core core).cmdAt slot = some c)
    (hk : c.kind = .copy ∨ c.kind = .dcmp) (p : CopyPiece) : exec (.copyLand core slot p) s = .next (s.pieceStep core c p) := by
  have hmoves : (c.kind == .copy || c.kind == .dcmp) = true := by simpa using hk
  rw [exec_copyLand, execCopyLand, hat]
  exact if_pos hmoves

theorem brokenCardsAndWalksFail : BrokenCardsAndWalksFail := by
  refine ⟨?_, ?_⟩
  · intro core slot k s c p l m recs ends hturn hcore hat hphase hp hrest hpois
    let now := c.readRecord m k p
    have hends {cause : Nat} (hstage : c.stage = 0 ∨ c.kind ∈ [.copy, .fill]) (h : s.inTurn.stageDone core now = .fails cause) :
        ends cause := by
      refine step_fails hturn hcore hat hphase hp (fun hspawn => ?_) hrest h
      obtain hstage | hkind := hstage
      · exact hspawn.2 hstage
      · rw [hspawn.1] at hkind
        exact absurd hkind (by decide)
    refine ⟨fun x hx hstage hk hbreak => hends (.inl hstage) ?_, ?_, ?_⟩
    · rw [stageDone_card s.inTurn core (c := now) (cardLen_of_cardBreaks x hx now hk).2 hstage]
      exact cardRead_of_break hx (c := now) hk hpois hbreak
    · intro hstage hk r w
      have hwalk {cause : Nat} (h : s.inTurn.fillCause core now r = some cause) : ends cause := by
        refine hends (.inr (by simp [hk])) ?_
        rw [stageDone_walks s.inTurn core (c := now) (by simp [now, StrCmd.readRecord, hk]) hstage, State.walksStart,
          show now.kind = .fill from hk]
        exact fillStart_fails (c := now) hpois h
      exact ⟨fun hb => hwalk (fillCause_of_broken hb),
        fun hb htag => hwalk (walkCause_of_tag (streamFormat_of_not_broken hb false) htag),
        fun hb htag hz hout => hwalk (fillCause_of_outside (s := s.inTurn) hb htag hz hout)⟩
    · intro hstage hk hndst hchk hfollow halive ra rb a b ha hb hina hinb htarget _ htext
      have hwalks {cause : Nat} (h : firstCause [failIf (b.size != a.size) causeWalk,
          failIf (walksOverlap a b (.live core) (.live core) false false && !(a.linear && b.linear)) causeOverlap] = some cause) :
          ends cause := by
        refine hends (.inr (by simp [hk])) ?_
        rw [stageDone_walks s.inTurn core (c := now) (by simp [now, StrCmd.readRecord, hk]) hstage, State.walksStart,
          show now.kind = .copy from hk]
        exact copyStart_local_fails (s := s.inTurn) (c := now) hk hndst hchk hfollow hpois halive ha hb hina hinb htarget htext rfl rfl h
      refine ⟨fun hsize => hwalks ?_, fun hsize hlinear hshared => hwalks ?_⟩
      · simp [firstCause, failIf, Ne.symm hsize, causeWalk]
      · rw [walksOverlap_of_shared hina hinb hshared, hsize]
        simp [firstCause, failIf, hlinear, causeOverlap]
  · intro core slot k s c p m now hat hk hchk htag halive hk8 hmay hp hread hclean hbad
    refine ⟨_, execCopyLand_eq hat (.inl hk) (.src k), ?_⟩
    rw [State.pieceStep, readStep_local hp hmay htag halive, landRead_of_badHeader hchk hk8 hread hclean hbad]
    exact fails_failCmd s core (c.took k p _ _) causeHeader

/-! ## Pieces (R166, R182, R202) -/

/-- A host read that timed out brings free bytes, poisoned. -/
theorem completionTimeout_reads {s : State} {core slot k : Nat} {c : StrCmd} {p : ReadPiece} (hat : (s.core core).cmdAt slot = some c)
    (hp : c.srcPieces[k]? = some p) (hmay : c.mayRead k = true) (hlead : c.lead = 0) (htag : c.source.tag = 5) :
    ∃ t v, exec (.completionTimeout core slot (.src k)) s = .next t ∧ v.length = p.len ∧
      SameMemory s t ∧ (t.core core).cmdAt slot = some (tookPiece c k p v true) := by
  have hslot := Core.slot_of_cmdAt hat
  have hlands (u : State) (hu : SameMemory s u) (hat' : (u.core core).cmdAt slot = some c) :
      ∃ t v, (.next (({ u with free := u.free + p.len } : State).landRead core c k p (freeBytes u.free p.len) true) :
        Host.Outcome State Fault Refusal) = .next t ∧ v.length = p.len ∧ SameMemory s t ∧ (t.core core).cmdAt slot = some (tookPiece c k p v true) := by
    rw [landRead_payload hlead hslot]
    exact ⟨_, _, rfl, by simp [freeBytes], hu.trans (.modCmd ..),
      State.cmdAt_modCmd (f := fun _ => tookPiece c k p (freeBytes u.free p.len) true) hat' fun _ _ => hslot⟩
  rw [exec_completionTimeout]
  simp only [execCompletionTimeout, hat, hp, hmay, htag, decide_true, Bool.and_self, if_true]
  split
  · exact hlands (s.portError _ _) ⟨fun _ => rfl, rfl, fun _ => rfl, fun _ => rfl⟩ hat
  · exact hlands s (.refl s) hat

theorem piecesAreReadAndLand : PiecesAreReadAndLand := by
  refine ⟨fun core slot k s c p hat hmay hp hlead => ⟨fun hk htag halive => ?_, completionTimeout_reads hat hp hmay hlead⟩, ?_⟩
  · exact ⟨_, execCopyLand_eq hat hk (.src k), readStep_payload hat hp hmay htag halive hlead⟩
  · intro core slot n k d s c p v hat hk hmay hp htag hdest hinject
    have hclean : c.target (s.core core).inject = none := by
      simp [StrCmd.target, hinject]
    have hflight : c.phase = .flight := by
      simp only [StrCmd.mayWrite, Bool.and_eq_true, beq_iff_eq] at hmay
      exact hmay.1.1.1.1
    obtain ⟨hsram, c', hat', hdone, hphase⟩ := writeStep_lands hat hp hmay htag hdest hclean
    exact ⟨_, c', execCopyLand_eq hat hk (.dst n k), hsram, hat', hdone, hphase.trans hflight⟩

/-- Settles O26: a turn reads one record piece, the first failed check of a stage names the cause, and a piece of a command in
flight enters the command or lands at its memory. -/
theorem streamCommandsStartAndLand : Obligations.StreamCommandsStartAndLand :=
  ⟨streamCommandsBeginToRead, commandRecordsAreReadPieceByPiece, brokenCardsAndWalksFail, piecesAreReadAndLand⟩

end Sys2Proof.Machine
end

section
/-! PROOFS. The matrix engine's command (for O30): the head of the queue, the pieces of its walk records, and the check at its start
(R147, R157, R190, R383). -/

namespace Sys2Proof.Machine

open Sys2Proof.Claims

/-! ## The head of the queue (R157, R368) -/

/-- The engine performs `c`: the oldest command of the queue, kept back by no outstanding read. -/
def Core.Heads (k : Core) (c : MatCmd) (l : List MatCmd) : Prop := k.mq = c :: l ∧ (k.strand c.strand).visible c.rd = true

theorem Strand.visible_of_readsDone {u : Strand} {n : Nat} (h : ReadsDone u n) : u.visible n = true := by
  rw [Strand.visible]
  cases hr : u.reads with
  | nil => rfl
  | cons r l => exact decide_eq_true (h r l hr)

section
variable {k : Core} {c : MatCmd} {l : List MatCmd} (h : k.Heads c l)
include h

theorem Core.Heads.unseen : k.unseen = 0 := by
  obtain ⟨hmq, hvis⟩ := h
  simp [Core.unseen, hmq, hvis]

theorem Core.Heads.mqHead? : k.mqHead? = some c := by
  rw [Core.mqHead?, h.unseen, h.1, List.getElem?_cons_zero]

theorem Core.Heads.setHead (d : MatCmd) : k.setHead d = { k with mq := d :: l } := by
  rw [Core.setHead, h.unseen, h.1, List.set_cons_zero]

theorem Core.Heads.dropHead : k.dropHead = { k with mq := l } := by
  rw [Core.dropHead, h.unseen, h.1, List.eraseIdx_cons_zero]

end

/-- A core that keeps its strands and holds another form of the command at the head performs that form. -/
theorem Core.Heads.of_strands {j k : Core} {c d : MatCmd} {l : List MatCmd} (h : k.Heads c l) (hmq : j.mq = d :: l)
    (hstrands : j.strands = k.strands) (hstrand : d.strand = c.strand) (hrd : d.rd = c.rd) : j.Heads d l :=
  ⟨hmq, by rw [Core.strand, hstrands, hstrand, hrd]; exact h.2⟩

theorem perform_of_started {s : State} {core k : Nat} {c : MatCmd} {l : List MatCmd} (h : (s.core core).Heads c l)
    (hstarted : c.started = true) : exec (.matrixCommandPerform core k) s = .next (s.matrixPiece core c k) := by
  rw [exec_matrixCommandPerform, execMatrixCommandPerform, h.mqHead?]
  exact if_pos hstarted

theorem perform_of_waiting {s : State} {core k : Nat} {c : MatCmd} {l : List MatCmd} (h : (s.core core).Heads c l)
    (hstarted : c.started = false) :
    exec (.matrixCommandPerform core k) s =
      if (s.strand core c.strand).drained c.mark then .next (s.matrixRecord core c k) else .next (s.res .stutter) := by
  rw [exec_matrixCommandPerform, execMatrixCommandPerform, h.mqHead?]
  exact if_neg (by simp [hstarted])

theorem perform_of_drained {s : State} {core k : Nat} {c : MatCmd} {l : List MatCmd} (h : (s.core core).Heads c l)
    (hstarted : c.started = false) (hdrained : ∀ x ∈ (s.strand core c.strand).sbuf, c.mark ≤ x.id) :
    exec (.matrixCommandPerform core k) s = .next (s.matrixRecord core c k) := by
  rw [perform_of_waiting h hstarted, if_pos]
  simpa [Strand.drained] using hdrained

/-! ## A read piece (R147, R158, R182) -/

/-- The command after its piece `k` has been read from `m`. -/
def MatCmd.took (c : MatCmd) (m : Ram) (k : Nat) (p : ReadPiece) : MatCmd :=
  { c with
    left := c.left.eraseIdx k, data := writeCells c.data p.off (m.bytes p.addr p.len)
    poisoned := c.poisoned || m.poisoned p.addr p.len }

theorem eraseIdx_ne_nil {α : Type} {l : List α} {k : Nat} (h : 2 ≤ l.length) : l.eraseIdx k ≠ [] := by
  rw [ne_eq, List.eraseIdx_eq_nil_iff]
  rintro (rfl | ⟨hlen, -⟩)
  · exact absurd h (by simp)
  · omega

theorem matrixRecord_readsOn {s : State} {core k : Nat} {c : MatCmd} {p : ReadPiece} (hp : c.left[k]? = some p)
    (hrest : 2 ≤ c.left.length) :
    s.matrixRecord core c k = s.setCore core ((s.core core).setHead (c.took (s.core core).sram k p)) := by
  rw [State.matrixRecord]
  simp only [hp]
  exact if_neg (by simpa using eraseIdx_ne_nil hrest)

theorem matrixRecord_last {s : State} {core : Nat} {c : MatCmd} {p : ReadPiece} (hleft : c.left = [p]) :
    s.matrixRecord core c 0 =
      (s.setCore core ((s.core core).setHead (c.took (s.core core).sram 0 p))).startMatrix core (c.took (s.core core).sram 0 p) := by
  have hp : c.left[0]? = some p := by rw [hleft, List.getElem?_cons_zero]
  rw [State.matrixRecord]
  simp only [hp]
  exact if_pos (by simp [hleft])

/-! ## A command that fails its check (R287, R383) -/

/-- The engine drops a command that fails, and its strand takes the cause. -/
theorem startMatrix_fails {s : State} {core cause : Nat} {c : MatCmd} {l : List MatCmd} (h : (s.core core).Heads c l)
    (hcheck : s.matCheck core c = .fails cause) (hrun : (s.strand core c.strand).task ≠ 0)
    (htask : (s.strand core c.strand).task = c.task) (htakes : Takes s (s.strand core c.strand)) :
    let u := s.strand core c.strand
    let t := s.startMatrix core c
    SameMemory s t ∧ (t.core core).mq = l ∧ (t.core core).planes = (s.core core).planes ∧
      t.strand core c.strand = { u with async := u.async ++ [asyncCause cause true c.tok c.count] } := by
  have hstrand : (s.modCore core Core.dropHead).strand core c.strand = s.strand core c.strand := State.strand_modCore rfl ..
  have heq : s.startMatrix core c = (s.modCore core Core.dropHead).setStrand core c.strand
      { s.strand core c.strand with async := (s.strand core c.strand).async ++ [asyncCause cause true c.tok c.count] } := by
    rw [State.startMatrix, hcheck, ← hstrand]
    exact raiseAsync_of_takes (s := s.modCore core Core.dropHead) (by rwa [hstrand]) (by rwa [hstrand])
      (by rw [hstrand]; exact takes_of_tasks rfl htakes) ..
  intro u t
  rw [show t = _ from heq]
  refine ⟨.trans (.modCore rfl) (.setStrand ..), ?_, ?_, by rw [State.strand_setStrand, if_pos ⟨rfl, rfl⟩]⟩
  · rw [State.setStrand, State.core_modCore, if_pos rfl, State.core_modCore, if_pos rfl, h.dropHead]
    rfl
  · rw [State.setStrand, State.core_modCore, if_pos rfl, State.core_modCore, if_pos rfl, h.dropHead]
    rfl

/-- The last record piece of a command that fails its check ends it. -/
theorem lastRecord_fails {s : State} {core cause : Nat} {c : MatCmd} {l : List MatCmd} {p : ReadPiece} (h : (s.core core).Heads c l)
    (hstarted : c.started = false) (hdrained : ∀ x ∈ (s.strand core c.strand).sbuf, c.mark ≤ x.id) (hleft : c.left = [p])
    (hcheck : ∀ t : State, t.matCheck core (c.took (s.core core).sram 0 p) = .fails cause)
    (hrun : (s.strand core c.strand).task ≠ 0) (htask : (s.strand core c.strand).task = c.task)
    (htakes : Takes s (s.strand core c.strand)) :
    let u := s.strand core c.strand
    ∃ t, exec (.matrixCommandPerform core 0) s = .next t ∧ SameMemory s t ∧ (t.core core).mq = l ∧
      (t.core core).planes = (s.core core).planes ∧
      t.strand core c.strand = { u with async := u.async ++ [asyncCause cause true c.tok c.count] } := by
  let now := c.took (s.core core).sram 0 p
  let t := s.setCore core ((s.core core).setHead now)
  have hcore : t.core core = (s.core core).setHead now := by rw [State.core_setCore, if_pos rfl]
  have hstrand : t.strand core c.strand = s.strand core c.strand := State.strand_modCore (f := fun _ => (s.core core).setHead now) rfl ..
  have hhead : (t.core core).Heads now l := by
    rw [hcore]
    exact h.of_strands (by rw [h.setHead]) rfl rfl rfl
  have hfails := startMatrix_fails hhead (hcheck t)
  rw [show now.strand = c.strand from rfl, hstrand] at hfails
  obtain ⟨hmem, hmq, hplanes, hasync⟩ := hfails hrun htask (takes_of_tasks rfl htakes)
  refine ⟨_, (perform_of_drained h hstarted hdrained).trans (congrArg _ (matrixRecord_last hleft)), ?_, hmq, ?_, hasync⟩
  · exact .trans (t := t) (.setCore rfl) hmem
  · rw [hplanes, hcore]
    rfl

/-! ## The check of a command (R145, R149, R153, R154, R383) -/

/-- The element size that a command asks of its first walk (R153, R154). -/
def MatCmd.firstSize (c : MatCmd) : Nat :=
  if c.op = .mld then 4 else if c.op ∈ [.mst, .mstSat] then (fmtOf c.fb).bytes else operandSize c.fa

theorem MatCmd.firstSize_of_product {c : MatCmd} (hop : c.op ∈ [.mma, .mmaSat, .mmas]) : c.firstSize = operandSize c.fa := by
  simp only [List.mem_cons, List.not_mem_nil, or_false] at hop
  obtain hop | hop | hop := hop <;> simp [MatCmd.firstSize, hop]

theorem MatCmd.firstSize_of_mst {c : MatCmd} (hop : c.op ∈ [.mst, .mstSat]) : c.firstSize = mstSize c.fb := by
  simp only [List.mem_cons, List.not_mem_nil, or_false] at hop
  obtain hop | hop := hop <;> simp [MatCmd.firstSize, hop, mstSize]

theorem matCheck_of_poisoned (s : State) (core : Nat) {c : MatCmd} (hop : c.op ≠ .mzero) (hpois : c.poisoned = true) :
    s.matCheck core c = .fails causePoison := by
  cases hc : c.op with
  | mzero => exact absurd hc hop
  | mma | mmaSat | mmas | mld | mst | mstSat => simp only [State.matCheck, hc, hpois, if_true]

/-- A first walk that fails decides the cause. -/
theorem matCheck_of_firstWalk (s : State) (core : Nat) {c : MatCmd} {cause : Nat} (hop : c.op ≠ .mzero) (hclean : c.poisoned = false)
    (hwalk : ∀ zero, matWalkCause (decodeWalk (c.record 0)) (walkReserved (c.record 0)) zero c.firstSize = some cause) :
    s.matCheck core c = .fails cause := by
  cases hc : c.op with
  | mzero => exact absurd hc hop
  | mma | mmaSat | mmas =>
    rw [MatCmd.firstSize_of_product (by simp [hc])] at hwalk
    simp only [State.matCheck, hc, hclean, Bool.false_eq_true, if_false, hwalk]
  | mld =>
    rw [MatCmd.firstSize, if_pos hc] at hwalk
    simp only [State.matCheck, hc, hclean, Bool.false_eq_true, if_false, hwalk]
  | mst | mstSat =>
    rw [MatCmd.firstSize_of_mst (by simp [hc])] at hwalk
    simp only [State.matCheck, hc, hclean, Bool.false_eq_true, if_false, hwalk]

theorem matWalkCause_of_broken {l : List Byte} {n : Nat} (h : BrokenFormat l [n]) (zero : Bool) :
    matWalkCause (decodeWalk l) (walkReserved l) zero n = some causeWalk :=
  if_pos (formatBad_of_broken (by simp) h)

/-- A walk of a listed size that breaks nothing has a good format. -/
theorem formatBad_eq_false_of_size {l : List Byte} {n : Nat} (hn : n ∈ [1, 2, 4, 8, 17, 25, 33]) (h : ¬ BrokenFormat l [n]) :
    (decodeWalk l).formatBad (walkReserved l) false (· == n) = false :=
  formatBad_eq_false (by simpa using (esizeListed_iff n).2 hn) h false

theorem matWalkCause_of_tag {l : List Byte} {n : Nat} (hn : n ∈ [1, 2, 4, 8, 17, 25, 33]) (h : ¬ BrokenFormat l [n])
    (htag : (decodeWalk l).tag ≠ 0) (zero : Bool) : matWalkCause (decodeWalk l) (walkReserved l) zero n = some causeSpace := by
  rw [matWalkCause, formatBad_eq_false_of_size hn h]
  simp [htag]

theorem matWalkCause_of_insideSram {l : List Byte} {n : Nat} (hn : n ∈ [1, 2, 4, 8, 17, 25, 33]) (h : ¬ BrokenFormat l [n])
    (hin : InsideSram (decodeWalk l)) (zero : Bool) : matWalkCause (decodeWalk l) (walkReserved l) zero n = none := by
  obtain ⟨hlow, hhigh, hhdr⟩ := limits_of_insideSram hin
  have hwithin : (decodeWalk l).within sramSize = true := by
    rw [Walk.within, Bool.and_eq_true, Bool.and_eq_true, decide_eq_true_eq, decide_eq_true_eq]
    exact ⟨⟨hlow, hhigh⟩, hhdr⟩
  rw [matWalkCause, formatBad_eq_false_of_size hn h, hwithin, hin.1]
  simp

/-- A byte of a walk lies in one of its bank groups. -/
theorem Walk.inGroup_of_mem {w : Walk} {x : Nat} (h : x ∈ w.addrs) : w.inGroup (x / 0xC0000) = true := by
  obtain ⟨n, hn, j, hj, rfl⟩ := Walk.mem_addrs.1 h
  rw [Walk.inGroup, List.any_eq_true]
  have hlast : (w.elem n).toNat + j ≤ (w.elem n).toNat + w.esize - 1 := by omega
  refine ⟨n, List.mem_range.2 hn, Bool.and_eq_true_iff.2 ⟨decide_eq_true ?_, decide_eq_true (Nat.div_le_div_right hlast)⟩⟩
  exact Nat.div_le_div_right (Nat.le_add_right ..)

theorem operandConflict_of_sharedGroup {a b : Walk} (ha : InsideSram a) {x y : Nat} (hx : x ∈ a.addrs) (hy : y ∈ b.addrs)
    (hgroup : x / 0xC0000 = y / 0xC0000) : operandConflict a b = true := by
  have hfour : x / 0xC0000 ∈ [0, 1, 2, 3] := by
    have := (addrs_bounds_of_insideSram ha hx).2.2
    simp only [List.mem_cons, List.not_mem_nil, or_false]
    omega
  have hshared : ([0, 1, 2, 3].any fun g => a.inGroup g && b.inGroup g) = true :=
    List.any_eq_true.2 ⟨_, hfour, by rw [Walk.inGroup_of_mem hx, hgroup, Walk.inGroup_of_mem hy, Bool.and_self]⟩
  rw [operandConflict, hshared, Bool.true_or, Bool.true_or]

theorem matCheck_of_conflict (s : State) (core : Nat) {c : MatCmd} (hop : c.op ∈ [.mma, .mmaSat, .mmas]) (hclean : c.poisoned = false)
    (ha : ∀ zero, matWalkCause (decodeWalk (c.record 0)) (walkReserved (c.record 0)) zero (operandSize c.fa) = none)
    (hb : ∀ zero, matWalkCause (decodeWalk (c.record 1)) (walkReserved (c.record 1)) zero (operandSize c.fb) = none)
    (hza : (decodeWalk (c.record 0)).isZero = false) (hzb : (decodeWalk (c.record 1)).isZero = false)
    (hea : (decodeWalk (c.record 0)).ext0 ≤ 64) (heb : (decodeWalk (c.record 1)).ext0 ≤ 64)
    (hk : kOf c.fa (decodeWalk (c.record 0)) = kOf c.fb (decodeWalk (c.record 1)))
    (hconflict : operandConflict (decodeWalk (c.record 0)) (decodeWalk (c.record 1)) = true) :
    s.matCheck core c = .fails causeConflict := by
  have hsize : (decide (64 < (decodeWalk (c.record 0)).ext0) || decide (64 < (decodeWalk (c.record 1)).ext0) ||
      kOf c.fa (decodeWalk (c.record 0)) != kOf c.fb (decodeWalk (c.record 1))) = false := by
    simp [Nat.not_lt.2 hea, Nat.not_lt.2 heb, hk]
  have hop' : c.op = .mma ∨ c.op = .mmaSat ∨ c.op = .mmas := by simpa using hop
  obtain hop | hop | hop := hop' <;>
    simp only [State.matCheck, hop, hclean, ha, hb, hza, hzb, hsize, hconflict, Bool.or_self, Bool.false_eq_true, if_false, if_true]

end Sys2Proof.Machine
end

section
/-! PROOFS. The k-blocks of the matrix engine (for O30): a plane from its elements, the operands of formats without scales, and the
rounded exact sum that each accumulator element takes (R126, R127, R129, R150 to R153). -/

namespace Sys2Proof.Machine

open Sys2Proof.Claims

/-! ## Elements of a plane (R150) -/

theorem packElems_div_mod (w n : Nat) (l : List Nat) : packElems w l / 2 ^ (w * n) % 2 ^ w = l.getD n 0 % 2 ^ w := by
  induction l generalizing n with
  | nil => simp [packElems]
  | cons v l ih =>
    cases n with
    | zero => simp [packElems]
    | succ n =>
      have hrest : (v % 2 ^ w + 2 ^ w * packElems w l) / 2 ^ w = packElems w l := by
        rw [Nat.add_mul_div_left _ _ (Nat.two_pow_pos w), Nat.div_eq_of_lt (Nat.mod_lt _ (Nat.two_pow_pos w)), Nat.zero_add]
      rw [packElems, Nat.mul_succ, Nat.add_comm (w * n), pow_add, ← Nat.div_div_eq_div_mul, hrest, ih, List.getD_cons_succ]

theorem extractLsb'_ofNat_toNat {n s w : Nat} (a : Nat) (h : s + w ≤ n) :
    ((BitVec.ofNat n a).extractLsb' s w).toNat = a / 2 ^ s % 2 ^ w := by
  have hpow : 2 ^ n = 2 ^ s * 2 ^ (n - s) := by rw [← pow_add]; congr 1; omega
  rw [BitVec.extractLsb'_toNat, BitVec.toNat_ofNat, Nat.shiftRight_eq_div_pow, hpow, Nat.mod_mul_right_div_self,
    Nat.mod_mod_of_dvd _ (pow_dvd_pow 2 (by omega))]

/-- An element of a plane after an update: the low 32 bits of the new one, or what it was. -/
theorem Plane.elem_update (p : Plane) (f : Nat → Option Nat) {n : Nat} (hn : n < 4096) :
    (p.update f).elem n = ((f n).getD (p.elem n)) % 2 ^ 32 := by
  rw [Plane.elem, Plane.update, extractLsb'_ofNat_toNat _ (by omega), packElems_div_mod]
  simp [List.getD_eq_getElem?_getD, hn]

theorem Plane.elem_mod (p : Plane) (n : Nat) : p.elem n % 2 ^ 32 = p.elem n := Nat.mod_eq_of_lt (BitVec.isLt _)

/-! ## The bytes of a k-block -/

theorem readCells_take (m : List Host.Cell) (a k n : Nat) : (readCells m a n).take k = readCells m a (min k n) := by
  induction n generalizing a k with
  | zero => simp [readCells]
  | succ n ih =>
    cases k with
    | zero => simp [readCells]
    | succ k => rw [readCells, List.take_succ_cons, ih, Nat.succ_min_succ, readCells]

theorem readCells_drop (m : List Host.Cell) (a k n : Nat) : (readCells m a n).drop k = readCells m (a + k) (n - k) := by
  induction k generalizing a n with
  | zero => simp
  | succ k ih =>
    cases n with
    | zero => simp [readCells]
    | succ n => rw [readCells, List.drop_succ_cons, ih, Nat.succ_sub_succ, Nat.add_right_comm, Nat.add_assoc]

/-- A part of the bytes read. -/
theorem readCells_slice (m : List Host.Cell) {a o e n : Nat} (h : o + e ≤ n) :
    ((readCells m a n).drop o).take e = readCells m (a + o) e := by
  rw [readCells_drop, readCells_take, min_eq_left (by omega)]

/-! ## Operands without scales (R99, R153) -/

/-- The formats of one k index to a walk element, without scales: FP32, FP16, BF16, E4M3, E5M2 and INT8 (R153). -/
def plainFormats : List Nat := [0, 2, 3, 4, 5, 11]

theorem perElement_of_plain {code : Nat} (h : code ∈ plainFormats) : perElement code = 1 := by
  revert code
  decide

theorem operandVal_of_plain {code : Nat} (h : code ∈ plainFormats) (applies : Bool) (l : List Byte) (t : Nat) :
    operandVal code applies l t = (decodeVal (fmtOf code) (leNat l), .fin false 1 0) := by
  simp only [plainFormats, List.mem_cons, List.not_mem_nil, or_false] at h
  obtain rfl | rfl | rfl | rfl | rfl | rfl := h <;> rfl

theorem elemsFor_one {k0 k1 : Nat} (h : k0 < k1) (m : Nat) : elemsFor 1 m k0 k1 = (m * k0, m * (k1 - k0)) := by
  rw [elemsFor, Nat.div_one, Nat.div_one, show k1 - 1 + 1 - k0 = k1 - k0 by omega]

/-- Operand row `i`, k index `j` of a block, of bytes read from `o` on. -/
def plainOperand (code : Nat) (w : Walk) (d : List Host.Cell) (o i j : Nat) : Val :=
  decodeVal (fmtOf code) (leNat (readCells d (o + (j * w.ext0 + i) * w.esize) w.esize))

theorem operandTable_of_plain {code : Nat} (h : code ∈ plainFormats) (applies : Bool) (w : Walk) (d : List Host.Cell) (o k0 k1 n : Nat)
    (hn : w.ext0 * (k1 - k0) * w.esize ≤ n) :
    operandTable code applies w (readCells d o n) k0 k1 = (List.range w.ext0).map fun i =>
      (List.range (k1 - k0)).map fun j => (plainOperand code w d o i j, .fin false 1 0) := by
  rw [operandTable, perElement_of_plain h]
  refine List.map_congr_left fun i hi => List.map_congr_left fun j hj => ?_
  rw [List.mem_range] at hi hj
  have hindex : w.ext0 * ((k0 + j) / 1) + i - w.ext0 * (k0 / 1) = j * w.ext0 + i := by
    rw [Nat.div_one, Nat.div_one, Nat.mul_add, Nat.mul_comm j]
    omega
  have hrow : j * w.ext0 + i + 1 ≤ w.ext0 * (k1 - k0) := by
    calc j * w.ext0 + i + 1 ≤ j * w.ext0 + w.ext0 := by omega
      _ = w.ext0 * (j + 1) := by ring
      _ ≤ w.ext0 * (k1 - k0) := Nat.mul_le_mul_left _ hj
  have hbytes : (j * w.ext0 + i) * w.esize + w.esize ≤ n := by
    calc (j * w.ext0 + i) * w.esize + w.esize = (j * w.ext0 + i + 1) * w.esize := by ring
      _ ≤ w.ext0 * (k1 - k0) * w.esize := Nat.mul_le_mul_right _ hrow
      _ ≤ n := hn
  dsimp only
  rw [hindex, operandVal_of_plain h, readCells_slice d hbytes, plainOperand]

/-! ## The sum of a k-block (R126, R127, R129) -/

theorem accTag_of_plain {code : Nat} (h : code ∈ plainFormats) : accTag code = if code = 11 then 1#2 else 0#2 := by
  revert code
  decide

theorem blockAcc_of_unscaled {ver : Nat} (hver : ver ≠ 2) (f : Fmt) (sat : Bool) (as bs : List (Val × Val)) (acc : Val) :
    blockAcc ver f sat false as bs acc = accRound f (exactSum (products as bs ++ [acc]) .rne).1 sat := by
  rw [blockAcc, if_neg hver]
  rfl

/-- The code that an accumulator element takes is the rounded exact sum. -/
theorem codeOf_blockAcc {ver code : Nat} (h : code ∈ plainFormats) (hver : ver ≠ 2) (sat : Bool) (as bs : List (Val × Val)) (acc : Nat) :
    codeOf (tagFmt (accTag code)) (blockAcc ver (tagFmt (accTag code)) sat false as bs (decodeVal (tagFmt (accTag code)) acc)) =
      blockSum (code == 11) sat (products as bs) acc := by
  rw [blockAcc_of_unscaled hver, accTag_of_plain h]
  by_cases hint : code = 11
  · subst hint; rfl
  · rw [if_neg hint, show (code == 11) = false by simpa using hint]
    rfl

theorem products_map_range (n : Nat) (f g : Nat → Val) (u v : Val) :
    products ((List.range n).map fun q => (f q, u)) ((List.range n).map fun q => (g q, v)) =
      (List.range n).map fun q => (exactMul (f q) (g q)).1 := by
  rw [products, List.zipWith_map, List.zipWith_self]

theorem Core.writePlane_single {tag : BitVec 2} (h : tag ≠ 2#2) (k : Core) (p : Fin 4) (f : Nat → Option Nat) (mark : Bool) :
    k.writePlane p tag f mark =
      { k with
        planes := k.planes.set p { (k.planes.get p).update f with tag := tag, poisoned := (k.planes.get p).poisoned || mark } } :=
  if_neg h

/-- The products of a k-block for the accumulator element (i, j). -/
def MatCmd.plainProducts (c : MatCmd) (i j : Nat) : List Val :=
  (List.range (c.blockEnd - c.next)).map fun q =>
    (exactMul (plainOperand c.fa (c.walk 0) c.data 0 i q)
      (plainOperand c.fb (c.walk 1) c.data ((c.walk 0).ext0 * (c.blockEnd - c.next) * (c.walk 0).esize) j q)).1

/-- What element `n` of a plane takes from a k-block of formats without scales. -/
def MatCmd.plainElem (c : MatCmd) (old : Plane) (n : Nat) : Option Nat :=
  if n / 64 < (c.walk 0).ext0 ∧ n % 64 < (c.walk 1).ext0 then
    some (blockSum (c.fa == 11) (c.op == .mmaSat) (c.plainProducts (n / 64) (n % 64)) (old.elem n))
  else none

/-- The plane after a k-block of formats without scales. -/
def MatCmd.plainPlane (c : MatCmd) (old : Plane) : Plane :=
  { old.update (c.plainElem old) with tag := if c.fa = 11 then 1#2 else 0#2, poisoned := old.poisoned || c.poisoned }

theorem blockResult_of_plain {c : MatCmd} (hver : c.numver ≠ 2#2) (hfa : c.fa ∈ plainFormats)
    (hfb : c.fb ∈ plainFormats) (hnext : c.next < c.blockEnd) (k : Core) :
    c.blockResult k = { k with planes := k.planes.set c.plane (c.plainPlane (k.planes.get c.plane)) } := by
  have hver' : c.numver.toNat ≠ 2 := fun h => hver (BitVec.eq_of_toNat_eq h)
  have htag : accTag c.fa ≠ 2#2 := by
    rw [accTag_of_plain hfa]
    split <;> decide
  have hblk : decide (19 ≤ c.fa) = false := by
    have : ∀ code ∈ plainFormats, decide (19 ≤ code) = false := by decide
    exact this _ hfa
  have ha := operandTable_of_plain hfa (sclA c.scl || c.op != .mmas) (c.walk 0) c.data 0 c.next c.blockEnd _ le_rfl
  have hb := operandTable_of_plain hfb (sclB c.scl || c.op != .mmas) (c.walk 1) c.data
    ((c.walk 0).ext0 * (c.blockEnd - c.next) * (c.walk 0).esize) c.next c.blockEnd _ le_rfl
  rw [MatCmd.blockResult, perElement_of_plain hfa, perElement_of_plain hfb, elemsFor_one hnext, elemsFor_one hnext]
  dsimp only
  rw [readCells_take, readCells_drop, min_eq_left (Nat.le_add_right ..), Nat.add_sub_cancel_left, Nat.zero_add, ha, hb, hblk,
    MatCmd.plainPlane, ← accTag_of_plain hfa, ← Core.writePlane_single htag]
  refine congrArg (fun f => k.writePlane c.plane (accTag c.fa) f c.poisoned) (funext fun n => ?_)
  rw [MatCmd.plainElem]
  by_cases hi : n / 64 < (c.walk 0).ext0
  · by_cases hj : n % 64 < (c.walk 1).ext0
    · simp only [List.getElem?_map, List.getElem?_range, hi, hj, Option.map_some, and_self, if_true, codeOf_blockAcc hfa hver']
      rw [products_map_range, Core.planeBits, if_neg htag, MatCmd.plainProducts]
    · simp [hi, hj]
  · simp [hi]

end Sys2Proof.Machine
end

section
/-! PROOFS. The units of the matrix engine and the settlement of O30: a plane zeroed, a k-block accumulated, a beat written, and the
end of an MST (R151, R155, R156, R158, R388, R389). -/

namespace Sys2Proof.Machine

open Sys2Proof.Claims

/-! ## MZERO (R151, R389) -/

theorem op_plane_of_mzero {p : BitVec 2} {e : BitVec 1} {c : MatCmd} (h : encode (.mzero p e) = some c.word) :
    c.op = .mzero ∧ c.plane = p.toFin := by
  have hword : c.word = 0x5800000#27 ++ p ++ 0x1#2 ++ e := (Option.some.inj h).symm
  obtain ⟨-, -, hplane, -, hmajor, -⟩ := Bits.layout36 _ _ _ _ c.word hword
  rw [MatCmd.op, matOp, hmajor, MatCmd.plane, hplane]
  exact ⟨rfl, rfl⟩

theorem startMatrix_mzero {s : State} {core : Nat} {c : MatCmd} {l : List MatCmd} {p : Fin 4} (h : (s.core core).Heads c l)
    (hop : c.op = .mzero) (hplane : c.plane = p) :
    s.startMatrix core c = s.modCore core fun v =>
      { v with mq := l, planes := v.planes.set p { v.planes.get p with bits := 0#131072, poisoned := false } } := by
  subst hplane
  have hzero : ((s.core core).zeroPlane c.plane).Heads c l := h.of_strands h.1 rfl rfl rfl
  have hcheck : s.matCheck core c = .go := by rw [State.matCheck, hop]
  have hunit (d : MatCmd) (hd : d.op = .mzero) (hplane : d.plane = c.plane) :
      (if d.op == .mzero then (s.core core).zeroPlane d.plane else s.core core).prepare d =
        { (s.core core).zeroPlane c.plane with mq := l } := by
    rw [if_pos (beq_iff_eq.2 hd), hplane, Core.prepare, hd]
    exact hzero.dropHead
  rw [State.startMatrix, hcheck]
  exact congrArg (s.setCore core) (hunit _ hop rfl)

/-! ## A unit of an operand command (R158, R182) -/

/-- The commands that read their units: the products and MLD. -/
def MatOp.reads (o : MatOp) : Prop := o ∈ [.mma, .mmaSat, .mmas, .mld]

theorem matrixPiece_of_reads {s : State} {core k : Nat} {c : MatCmd} {p : ReadPiece} (hop : c.op.reads) (hp : c.left[k]? = some p) :
    s.matrixPiece core c k =
      if (c.left.eraseIdx k).isEmpty then s.unitRead core (c.took (s.core core).sram k p)
      else s.setCore core ((s.core core).setHead (c.took (s.core core).sram k p)) := by
  simp only [MatOp.reads, List.mem_cons, List.not_mem_nil, or_false] at hop
  obtain hop | hop | hop | hop := hop <;> simp only [State.matrixPiece, hop, hp] <;> rfl

/-- The next unit of a command changes nothing of a core but the queue. -/
theorem Core.prepare_queue (k : Core) (c : MatCmd) : ∃ q, k.prepare c = { k with mq := q } := by
  rw [Core.prepare]
  split
  · exact ⟨_, rfl⟩
  · split <;> exact ⟨_, rfl⟩
  · exact ⟨_, rfl⟩
  · exact ⟨_, rfl⟩
  · split <;> exact ⟨_, rfl⟩

theorem Core.prepare_after_last {k : Core} {c : MatCmd} (hop : c.op ∈ [.mma, .mmaSat, .mmas])
    (hlast : kOf c.fa (c.walk 0) ≤ c.next) : k.prepare c = k.dropHead := by
  simp only [List.mem_cons, List.not_mem_nil, or_false] at hop
  obtain hop | hop | hop := hop <;> simp only [Core.prepare, hop, if_neg (Nat.not_lt.2 hlast)]

/-- The k-block of formats without scales enters its plane, and the command goes on to its next block. -/
theorem unitRead_of_plain {s : State} {core : Nat} {c : MatCmd} (hop : c.op ∈ [.mma, .mmaSat, .mmas]) (hver : c.numver ≠ 2#2)
    (hfa : c.fa ∈ plainFormats) (hfb : c.fb ∈ plainFormats) (hnext : c.next < c.blockEnd) :
    s.unitRead core c = s.modCore core fun v =>
      { v with planes := v.planes.set c.plane (c.plainPlane (v.planes.get c.plane)) }.prepare
        { c with next := c.blockEnd, data := [] } := by
  have hmld : (c.op == .mld) = false := by
    simp only [List.mem_cons, List.not_mem_nil, or_false] at hop
    obtain hop | hop | hop := hop <;> rw [hop] <;> rfl
  rw [State.unitRead]
  simp only [hmld, Bool.false_eq_true, if_false, blockResult_of_plain hver hfa hfb hnext, perElement_of_plain hfa, Nat.mod_one,
    bne_self_eq_false, Bool.and_false]
  rfl

theorem kBlock_enters {s : State} {core : Nat} {c : MatCmd} {l : List MatCmd} {p : ReadPiece} (h : (s.core core).Heads c l)
    (hstarted : c.started = true) (hop : c.op ∈ [.mma, .mmaSat, .mmas]) (hver : c.numver ≠ 2#2) (hfa : c.fa ∈ plainFormats)
    (hfb : c.fb ∈ plainFormats) (hleft : c.left = [p]) (hnext : c.next < c.blockEnd) :
    let now := c.took (s.core core).sram 0 p
    ∃ t, exec (.matrixCommandPerform core 0) s = .next t ∧ SameMemory s t ∧ (∀ e m, t.strand e m = s.strand e m) ∧
      (t.core core).planes = (s.core core).planes.set c.plane (now.plainPlane ((s.core core).planes.get c.plane)) ∧
      (c.blockEnd = kOf c.fa (c.walk 0) → (t.core core).mq = l) := by
  let now := c.took (s.core core).sram 0 p
  let k : Core := { s.core core with
    planes := (s.core core).planes.set c.plane (now.plainPlane ((s.core core).planes.get c.plane)) }
  let next : MatCmd := { now with next := now.blockEnd, data := [] }
  have hreads : c.op.reads := by
    simp only [MatOp.reads, List.mem_cons, List.not_mem_nil, or_false] at hop ⊢
    tauto
  have hexec : exec (.matrixCommandPerform core 0) s = .next (s.setCore core (k.prepare next)) := by
    rw [perform_of_started h hstarted, matrixPiece_of_reads hreads (by rw [hleft, List.getElem?_cons_zero]), if_pos (by simp [hleft]),
      unitRead_of_plain (c := now) hop hver hfa hfb hnext]
    rfl
  obtain ⟨q, hq⟩ := k.prepare_queue next
  refine ⟨_, hexec, ?_, ?_, ?_, fun hlast => ?_⟩
  · rw [hq]
    exact .setCore rfl
  · rw [hq]
    exact State.strand_modCore (f := fun _ => { k with mq := q }) rfl
  · rw [hq, State.core_setCore, if_pos rfl]
  · have hhead : k.Heads c l := h.of_strands h.1 rfl rfl rfl
    rw [State.core_setCore, if_pos rfl, Core.prepare_after_last (c := next) hop (le_of_eq hlast.symm), hhead.dropHead]

/-- Element (i, j) of the plane after the block (R126, R127, R129). -/
theorem planeElem_plainPlane (c : MatCmd) (old : Plane) {i j : Nat} (hi : i < 64) (hj : j < 64) :
    planeElem (c.plainPlane old) i j =
      if i < (c.walk 0).ext0 ∧ j < (c.walk 1).ext0 then
        blockSum (c.fa == 11) (c.op == .mmaSat) (c.plainProducts i j) (planeElem old i j) % 2 ^ 32
      else planeElem old i j := by
  have hrow : (64 * i + j) / 64 = i := by omega
  have hcol : (64 * i + j) % 64 = j := by omega
  rw [show planeElem (c.plainPlane old) i j = (old.update (c.plainElem old)).elem (64 * i + j) from rfl,
    Plane.elem_update old _ (by omega), MatCmd.plainElem, hrow, hcol]
  split
  · rfl
  · exact old.elem_mod _

/-! ## MST (R155, R156, R388) -/

theorem pieceWord_eq (p : List Host.Cell) : pieceWord p = (p.headD default).1 / 8 := by
  cases p <;> rfl

theorem partReady_of_first {parts : List (List Host.Cell)} {k : Nat} {p : List Host.Cell} (hp : parts[k]? = some p)
    (hfirst : ∀ q ∈ parts.take k, (q.headD default).1 / 8 ≠ pieceWord p) : partReady parts k = true := by
  rw [partReady, hp]
  simpa [pieceWord_eq] using hfirst

/-- A piece of a beat that may be written lands in local SRAM; the strands stay. -/
theorem matrixWrite_lands {s : State} {core k r : Nat} {v : Byte} {q : List Host.Cell} {c : MatCmd}
    (hp : c.out[k]? = some ((r, v) :: q)) (hfirst : ∀ q ∈ c.out.take k, (q.headD default).1 / 8 ≠ r / 8) :
    ∃ j : Core, s.matrixWrite core c k = s.setCore core j ∧ j.strands = (s.core core).strands ∧
      j.sram = if c.poisoned then (s.core core).sram.writePoisoned r (((r, v) :: q).map Prod.snd)
        else (s.core core).sram.store ((r, v) :: q) := by
  have hready : partReady c.out k = true := partReady_of_first hp hfirst
  rw [State.matrixWrite]
  simp only [hready, Bool.not_true, Bool.false_eq_true, if_false, List.getD_eq_getElem?_getD, hp, Option.getD_some]
  split
  · obtain ⟨mq, hmq⟩ := Core.prepare_queue _ _
    exact ⟨_, rfl, by rw [hmq], by rw [hmq]; rfl⟩
  · exact ⟨_, rfl, rfl, rfl⟩

theorem matrixPiece_of_mst {s : State} {core k : Nat} {c : MatCmd} (hop : c.op ∈ [.mst, .mstSat]) :
    s.matrixPiece core c k = s.matrixWrite core c k := by
  simp only [List.mem_cons, List.not_mem_nil, or_false] at hop
  obtain hop | hop := hop <;> simp only [State.matrixPiece, hop]

theorem tokened_of_strands {s t u : State} {core task : Nat} {n : Fin 4} {r : BitVec 5} {w : Word} (h : Tokened t u core n task r w)
    (hs : ∀ d m, t.strand d m = s.strand d m) : Tokened s u core n task r w := by
  obtain ⟨hown, hother⟩ := h
  exact ⟨by rw [hown, hs], fun d m hd => by rw [hother d m hd, hs]⟩

/-- The pair of the bytes written enters the header, unless the plane was poisoned or the command names no header (R156). -/
def State.writePair (s : State) (core : Nat) (c : MatCmd) : State :=
  if c.poisoned || c.s2 = 0#64 then s
  else s.modCore core fun k =>
    let pair := csumPair (c.mstAll (s.core core))
    { k with sram := (k.sram.write (c.s2.toNat + 0x28) (bytes8 pair.1)).write (c.s2.toNat + 0x30) (bytes8 pair.2) }

theorem State.strand_writePair (s : State) (core : Nat) (c : MatCmd) (d : Nat) (n : Fin 4) :
    (s.writePair core c).strand d n = s.strand d n := by
  rw [State.writePair]
  split
  · rfl
  · exact State.strand_modCore rfl d n

theorem State.mq_writePair (s : State) (core : Nat) (c : MatCmd) : ((s.writePair core c).core core).mq = (s.core core).mq := by
  rw [State.writePair]
  split
  · rfl
  · rw [State.core_modCore, if_pos rfl]

theorem State.records_writePair (s : State) (core : Nat) (c : MatCmd) : (s.writePair core c).records = s.records := by
  rw [State.writePair]
  split <;> rfl

/-- What the header of an MST's destination holds after it: the pair of the bytes written (R156). -/
theorem State.sramOnly_writePair {s : State} {core : Nat} {c : MatCmd} (hclean : c.poisoned = false) :
    let m := (s.core core).sram
    let pair := csumPair (c.mstAll (s.core core))
    SramOnly s (s.writePair core c) core (if c.s2 = 0#64 then m
      else (m.write (c.s2.toNat + 0x28) (natBytes 8 pair.1.toNat)).write (c.s2.toNat + 0x30) (natBytes 8 pair.2.toNat)) := by
  intro m pair
  by_cases hnone : c.s2 = 0#64
  · rw [State.writePair, if_pos (by simp [hnone]), if_pos hnone]
    exact SramOnly.of_same (.refl s) rfl
  · rw [State.writePair, if_neg (by simp [hnone, hclean]), if_neg hnone]
    exact SramOnly.modCore

theorem State.writePair_of_poisoned {s : State} {core : Nat} {c : MatCmd} (h : c.poisoned = true) : s.writePair core c = s :=
  if_pos (by rw [h, Bool.true_or])

section
variable {s : State} {core : Nat} {c : MatCmd} {l : List MatCmd} (h : (s.core core).Heads c l) (hstarted : c.started = true)
  (hop : c.op ∈ [.mst, .mstSat]) (hout : c.out = []) (hbeats : (c.walk 0).beats ≤ c.next)
include h hstarted hop hout hbeats

theorem execMstComplete_of_done : execMstComplete core s = .next (
    if c.poisoned && !c.told then (s.mstRecord core c).modCore core fun k => k.setHead { c with told := true }
    else ((s.writePair core c).modCore core Core.dropHead).writeToken core c.strand c.task c.tok
      (status 0 c.poisoned 0 ((c.walk 0).count * (c.walk 0).esize))) := by
  have hdone : (!(c.started && (c.op == .mst || c.op == .mstSat) && c.out.isEmpty && decide ((c.walk 0).beats ≤ c.next))) = false := by
    have hmst : (c.op == .mst || c.op == .mstSat) = true := by simpa using hop
    simp [hstarted, hmst, hout, hbeats]
  rw [execMstComplete, h.mqHead?]
  simp only [hdone, Bool.false_eq_true, if_false]
  split
  · rfl
  · rfl

/-- An MST of a poisoned plane sends its record first (R156, R222). -/
theorem mstComplete_sends (hpois : c.poisoned = true) (htold : c.told = false) :
    ∃ t r, exec (.mstComplete core) s = .next t ∧ SameMemory s t ∧ t.records = s.records ++ [r] ∧ r.regid = s.regidOf c.task ∧
      (t.core core).mq = { c with told := true } :: l ∧ ∀ d n, t.strand d n = s.strand d n := by
  have hexec := execMstComplete_of_done h hstarted hop hout hbeats
  rw [if_pos (by rw [hpois, htold]; rfl)] at hexec
  refine ⟨_, _, hexec, .trans (.report ..) (.modCore rfl), rfl, rfl, ?_, fun d n => ?_⟩
  · rw [State.core_modCore, if_pos rfl]
    exact congrArg Core.mq (h.setHead _)
  · exact State.strand_modCore (s := s.mstRecord core c) rfl d n

/-- An MST ends with the pair and its token, one of a poisoned plane with the token alone (R156, R388). -/
theorem mstComplete_ends (hready : c.poisoned = false ∨ c.told = true) :
    let m := (s.core core).sram
    let pair := csumPair (c.mstAll (s.core core))
    ∃ t, exec (.mstComplete core) s = .next t ∧ (t.core core).mq = l ∧ t.records = s.records ∧
      Tokened s t core c.strand c.task c.tok (status 0 c.poisoned 0 ((c.walk 0).count * (c.walk 0).esize)) ∧
      (c.poisoned = true → SameMemory s t) ∧
      (c.poisoned = false → SramOnly s t core (if c.s2 = 0#64 then m
        else (m.write (c.s2.toNat + 0x28) (natBytes 8 pair.1.toNat)).write (c.s2.toNat + 0x30) (natBytes 8 pair.2.toNat))) := by
  intro m pair
  have hexec := execMstComplete_of_done h hstarted hop hout hbeats
  rw [if_neg (by obtain hr | hr := hready <;> simp [hr])] at hexec
  let u := (s.writePair core c).modCore core Core.dropHead
  have hstrand (d : Nat) (n : Fin 4) : u.strand d n = s.strand d n :=
    (State.strand_modCore rfl d n).trans (s.strand_writePair core c d n)
  have hmq : (u.core core).mq = l := by
    have hhead : ((s.writePair core c).core core).Heads c l :=
      ⟨(s.mq_writePair core c).trans h.1, (congrArg (·.visible c.rd) (s.strand_writePair core c core c.strand)).trans h.2⟩
    rw [State.core_modCore, if_pos rfl, hhead.dropHead]
  have hmem : SameMemory (s.writePair core c) u := .modCore rfl
  let w := status 0 c.poisoned 0 ((c.walk 0).count * (c.walk 0).esize)
  have hlast : SameMemory u (u.writeToken core c.strand c.task c.tok w) := .writeToken ..
  obtain ⟨hcores, hrecords⟩ := u.writeToken_leaves core c.strand c.task c.tok w
  refine ⟨_, hexec, ?_, hrecords.trans (s.records_writePair core c), tokened_of_strands (tokened_writeToken u ..) hstrand, fun hpois => ?_, fun hclean => ?_⟩
  · obtain ⟨v, hv⟩ := hcores core
    rw [hv]
    exact hmq
  · have := hmem.trans hlast
    rwa [State.writePair_of_poisoned hpois] at this
  · exact SramOnly.trans_same (State.sramOnly_writePair hclean) (hmem.trans hlast)

end

/-! ## The statement -/

/-- A first walk that breaks its format, one of another tag, and operands that meet in a bank group fail the command with the last
piece of its records (R145, R149, R383). -/
theorem badWalks_fail {s : State} {core : Nat} {c : MatCmd} {l : List MatCmd} {p : ReadPiece} (h : (s.core core).Heads c l)
    (hstarted : c.started = false) (hdrained : ∀ x ∈ (s.strand core c.strand).sbuf, c.mark ≤ x.id) (hleft : c.left = [p])
    (hop : c.op ≠ .mzero) (hclean : (c.poisoned || (s.core core).sram.poisoned p.addr p.len) = false)
    (hrun : (s.strand core c.strand).task ≠ 0) (htask : (s.strand core c.strand).task = c.task)
    (htakes : Takes s (s.strand core c.strand)) (hsize : c.firstSize ∈ [1, 2, 4, 8, 17, 25, 33]) :
    let now := c.took (s.core core).sram 0 p
    let ra := now.record 0
    let rb := now.record 1
    let a := decodeWalk ra
    let b := decodeWalk rb
    let u := s.strand core c.strand
    let ends (cause : Nat) : Prop := ∃ t, exec (.matrixCommandPerform core 0) s = .next t ∧ SameMemory s t ∧
      (t.core core).mq = l ∧ (t.core core).planes = (s.core core).planes ∧
      t.strand core c.strand = { u with async := u.async ++ [asyncCause cause true c.tok c.count] }
    (BrokenFormat ra [c.firstSize] → ends 11) ∧
    (¬ BrokenFormat ra [c.firstSize] → a.tag ≠ 0 → ends 2) ∧
    (c.op ∈ [.mma, .mmaSat, .mmas] → ¬ BrokenFormat ra [c.firstSize] → ¬ BrokenFormat rb [operandSize c.fb] →
      operandSize c.fb ∈ [1, 2, 4, 8, 17, 25, 33] → InsideSram a → InsideSram b → a.ext0 ≤ 64 → b.ext0 ≤ 64 →
      kOf c.fa a = kOf c.fb b → (∃ x ∈ a.addrs, ∃ y ∈ b.addrs, x / 0xC0000 = y / 0xC0000) → ends 9) := by
  intro now ra rb a b u ends
  have hends {cause : Nat} (hcheck : ∀ t : State, t.matCheck core now = .fails cause) : ends cause :=
    lastRecord_fails h hstarted hdrained hleft hcheck hrun htask htakes
  refine ⟨fun hbroken => hends fun t => ?_, fun hformat htag => hends fun t => ?_, ?_⟩
  · exact matCheck_of_firstWalk t core (c := now) hop hclean fun zero => matWalkCause_of_broken hbroken zero
  · exact matCheck_of_firstWalk t core (c := now) hop hclean fun zero => matWalkCause_of_tag hsize hformat htag zero
  · rintro hmma hformat hformat' hsize' hina hinb hexta hextb hk ⟨x, hx, y, hy, hgroup⟩
    rw [MatCmd.firstSize_of_product hmma] at hsize hformat
    exact hends fun t => matCheck_of_conflict t core (c := now) hmma hclean
      (fun zero => matWalkCause_of_insideSram hsize hformat hina zero) (fun zero => matWalkCause_of_insideSram hsize' hformat' hinb zero)
      hina.2.2.2 hinb.2.2.2 hexta hextb hk (operandConflict_of_sharedGroup hina hx hy hgroup)

/-- Settles O30: the engine performs the head of its queue, one piece to an event; a check, a sum or a token follows the last piece. -/
theorem matrixEngineSteps : Obligations.MatrixEngineSteps := by
  refine ⟨fun core k s c l hmq hreads => ?_, fun core s c l hmq hreads hstarted hop hout hbeats => ?_⟩
  · have h : (s.core core).Heads c l := ⟨hmq, Strand.visible_of_readsDone hreads⟩
    refine ⟨?_, ?_, ?_, ?_, ?_, ?_, ?_, ?_⟩
    · rintro hstarted ⟨x, hx, hold⟩
      rw [perform_of_waiting h hstarted, if_neg]
      simp only [Strand.drained, List.all_eq_true, decide_eq_true_eq, not_forall]
      exact ⟨x, hx, Nat.not_le.2 hold⟩
    · intro p hstarted hdrained hp hrest
      rw [perform_of_drained h hstarted hdrained, matrixRecord_readsOn hp hrest, h.setHead]
      rfl
    · rintro p hstarted hdrained hleft rfl hop hpois u hrun htask htakes
      obtain ⟨t, hexec, hmem, hqueue, -, hasync⟩ := lastRecord_fails h hstarted hdrained hleft
        (fun t => matCheck_of_poisoned t core (c := c.took (s.core core).sram 0 p) hop hpois) hrun htask htakes
      exact ⟨t, hexec, hmem, hqueue, hasync⟩
    · rintro p hstarted hdrained hleft rfl hop hclean d ra rb a b size u ends hrun htask htakes hsize
      exact badWalks_fail h hstarted hdrained hleft hop hclean hrun htask htakes hsize
    · intro p e hword hstarted hleft hdrained
      obtain ⟨hop, hplane⟩ := op_plane_of_mzero hword
      have hstart : s.matrixRecord core c k = s.startMatrix core c := by
        rw [State.matrixRecord, hleft]
        rfl
      rw [perform_of_drained h hstarted hdrained, hstart, startMatrix_mzero h hop hplane]
    · intro p hstarted hop hp hrest
      rw [perform_of_started h hstarted, matrixPiece_of_reads hop hp, if_neg (by simpa using eraseIdx_ne_nil hrest), h.setHead]
      rfl
    · rintro p hstarted hop hver hfa hfb hleft rfl v a b d bad n x y old hexta hextb hnext
      have hmma : c.op ∈ [.mma, .mmaSat, .mmas] := by
        simp only [List.mem_cons, List.not_mem_nil, or_false] at hop ⊢
        tauto
      obtain ⟨t, hexec, hmem, hstrand, hplanes, hlast⟩ := kBlock_enters h hstarted hmma hver hfa hfb hleft hnext
      refine ⟨t, _, hexec, hmem, hstrand, hplanes, rfl, rfl, fun i j hi hj => ?_, hlast⟩
      rw [planeElem_plainPlane _ _ hi hj]
      simp only [MatCmd.plainProducts, plainOperand, Nat.zero_add]
      rfl
    · rintro _ r v q hstarted hop hp rfl hfirst
      obtain ⟨j, hwrite, hstrands, hsram⟩ := matrixWrite_lands hp hfirst
      refine ⟨_, by rw [perform_of_started h hstarted, matrixPiece_of_mst hop, hwrite], fun e m => ?_, ?_⟩
      · exact State.strand_modCore (f := fun _ => j) hstrands e m
      · rw [← hsram]
        exact SramOnly.modCore (f := fun _ => j)
  · have h : (s.core core).Heads c l := ⟨hmq, Strand.visible_of_readsDone hreads⟩
    exact ⟨mstComplete_sends h hstarted hop hout hbeats, mstComplete_ends h hstarted hop hout hbeats⟩

end Sys2Proof.Machine
end

section
/-! PROOFS. Which instruction words leave every memory as it is (O59): a word changes the strands and queues of its own core, and
its stores and commands reach a memory in later events (R138, R184, R185). What a word's body answers and the outcome of its issue
have a predicate each, and each form that words share (R73 to R81, R265) has one lemma for all its operands. -/

namespace Sys2Proof.Machine

open Sys2Proof.Claims

/-! ## Updates of the state that leave every memory -/

theorem SameMemory.modCluster {s : State} {c : Nat} {f : Cluster → Cluster} (h : (f (s.cluster c)).pool = (s.cluster c).pool) :
    SameMemory s (s.modCluster c f) := by
  refine ⟨fun _ => rfl, rfl, fun k => ?_, fun _ => rfl⟩
  rw [State.cluster_modCluster]
  split
  next hk => exact hk ▸ h
  next => rfl

theorem SameMemory.withCur {s t : State} (h : SameMemory s t) (c : Cur) : SameMemory s { t with cur := c } := h

theorem SameMemory.withTasks {s t : State} (h : SameMemory s t) (l : List Task) : SameMemory s { t with tasks := l } := h

theorem SameMemory.modMe (s : State) (f : Strand → Strand) : SameMemory s (s.modMe f) := .setStrand ..

theorem SameMemory.modSup (s : State) (f : Supervisor → Supervisor) : SameMemory s (s.modSup f) := .modCluster rfl

theorem SameMemory.startRead (s : State) (kind : ReadKind) (pieces : List ReadPiece) : SameMemory s (s.startRead kind pieces) :=
  .modMe ..

theorem SameMemory.writeInject (s : State) (c : Nat) (n : Fin 4) (v : Word) (seq : Option Word) :
    SameMemory s (s.writeInject c n v seq) :=
  .withTasks (.modCore rfl) _

theorem SameMemory.writeCsr (s : State) (c : Nat) (v : Word) : SameMemory s (s.writeCsr c v) := by
  unfold State.writeCsr
  split
  case h_3 => exact .withCur (.modMe ..) _ -- ROTBASE
  case h_6 => exact .modCore rfl -- CONFLICTS
  case h_7 => exact .writeInject .. -- INJECT
  case h_11 => exact .refl s -- no CSR
  all_goals exact .modMe ..

theorem SameMemory.bindBox (s : State) (c : Nat) (m : Fin 16) (b : Mailbox) : SameMemory s (s.bindBox c m b) := .modCore rfl

theorem SameMemory.fireTask (s : State) (c key : Nat) : SameMemory s (s.fireTask c key) := by
  refine .trans (.modTask ..) (.modCore ?_)
  split <;> rfl

theorem SameMemory.applyLate (s : State) (c : Nat) (n : Fin 4) (o : LateOp) : SameMemory s (s.applyLate c n o) := by
  obtain ⟨rd, kind⟩ := o
  cases kind with
  | take m v => exact .modCore rfl
  | bind m b =>
    simp only [State.applyLate]
    split
    · exact .refl s
    · exact .bindBox ..
  | fire => exact .fireTask ..
  | yield => exact .modTask ..
  | csr a v => exact SameMemory.writeCsr { s with cur := { s.cur with core := c, strand := n } } a v
  | inject v seq => exact .writeInject ..
  | eret px pc => exact .setStrand ..

theorem SameMemory.effect (s : State) (k : LateKind) : SameMemory s (s.effect k) := by
  rw [State.effect]
  split
  · exact .modMe ..
  · exact .applyLate ..

/-- A strand that ends leaves the memories: its task drains (R32, R55). -/
theorem SameMemory.endStrand (s : State) (c : Nat) (n : Fin 4) : SameMemory s (s.endStrand c n) := by
  have hstrand : SameMemory s (s.modStrand c n Strand.ended) := .setStrand ..
  simp only [State.endStrand]
  split
  · exact hstrand
  · split
    · split
      · exact (hstrand.trans (.modTask ..)).trans (.modCore rfl)
      · exact hstrand
    · exact hstrand

theorem SameMemory.enqueueStream (s : State) (kind : StrKind) (i : Instr) (d : BitVec 5) (s1 s2 : Word) (slot : Nat) :
    SameMemory s (s.enqueueStream kind i d s1 s2 slot) :=
  .trans (.setStrand ..) (.modCore rfl)

theorem SameMemory.enqueueMatrix (s : State) (i : Instr) (n : Nat) (tok : BitVec 5) (s1 s2 : Word) :
    SameMemory s (s.enqueueMatrix i n tok s1 s2) :=
  .trans (.setStrand ..) (.modCore rfl)

theorem SameMemory.deliver (s : State) (pc : BitVec 22) (cause : Nat) (detail : BitVec 16) :
    SameMemory s (s.deliver pc cause detail) := by
  rw [State.deliver]
  split
  · exact .refl s
  · simp only [State.deliverNow]
    split
    · exact .setStrand ..
    · exact .escalate ..

theorem SameMemory.issued (s : State) (n : Nat) (pc : BitVec 22) : SameMemory s (s.issued n pc) := .withCur (.modMe ..) _

theorem SameMemory.jumped (s : State) (n : Nat) (pc : BitVec 22) (target : Int) : SameMemory s (s.jumped n pc target) := by
  rw [State.jumped]
  split
  · exact .issued ..
  · exact .withCur (.modMe ..) _

/-! ## Issuing (R33, R34, R56) -/

/-- An act whose effect, if it has one, leaves the memories of `s`. -/
inductive Act.KeepsMemory (s : State) : Act → Prop
  | done {t : State} (h : SameMemory s t) : KeepsMemory s (.done t)
  | jump {t : State} {target : Int} (h : SameMemory s t) : KeepsMemory s (.jump t target)
  | final {t : State} (h : SameMemory s t) : KeepsMemory s (.final t)
  | wait : KeepsMemory s .wait
  | queueFault {t : State} (h : SameMemory s t) : KeepsMemory s (.queueFault t)
  | trap {cause : Nat} {detail : BitVec 16} : KeepsMemory s (.trap cause detail)
  | trapAt {pc : BitVec 22} {cause : Nat} {detail : BitVec 16} : KeepsMemory s (.trapAt pc cause detail)

theorem Act.KeepsMemory.ite {s : State} {c : Prop} [Decidable c] {a b : Act} (ha : a.KeepsMemory s) (hb : b.KeepsMemory s) :
    (if c then a else b).KeepsMemory s := by
  split
  · exact ha
  · exact hb

/-- An outcome whose next state, if it has one, has the memories of `s`. -/
def KeepsMemory (s : State) (o : Host.Outcome State Fault Refusal) : Prop := ∀ t, o = .next t → SameMemory s t

theorem KeepsMemory.next {s t : State} (h : SameMemory s t) : KeepsMemory s (.next t) := by
  rintro _ ⟨⟩
  exact h

theorem KeepsMemory.issueWord {i : Instr} {e : BitVec 1} {body : State → Act} {s : State} (h : (body s).KeepsMemory s) :
    KeepsMemory s (issueWord i e body s) := by
  rw [Machine.issueWord]
  generalize body s = a at h ⊢
  split
  · split
    · exact .next (.withCur (.modMe ..) _)
    · cases h with
      | done h => exact .next (h.trans (.issued ..))
      | jump h => exact .next (h.trans (.jumped ..))
      | final h => exact .next h
      | wait => exact .next (.refl s)
      | queueFault _ | trap | trapAt => exact .next (.deliver ..)
  · cases h with
    | done h | jump h | final h | queueFault h => exact .next h
    | wait | trap | trapAt => exact .next (.refl s)

/-! ## The forms of a word -/

section

variable {s : State} {e : BitVec 1}

theorem KeepsMemory.sharedWord {i : Instr} {k : Ctr} {body : State → Act} (h : ∀ s, (body s).KeepsMemory s) :
    KeepsMemory s (Machine.issueWord i e body (s.actAs k)) := .issueWord (h _)

theorem KeepsMemory.aWord {i : Instr} {body : State → Act} (h : ∀ s, (body s).KeepsMemory s) :
    KeepsMemory s (Machine.aWord i e body s) := .sharedWord h

theorem KeepsMemory.xWord {i : Instr} {body : State → Act} (h : ∀ s, (body s).KeepsMemory s) :
    KeepsMemory s (Machine.xWord i e body s) := .sharedWord h

/-! ### Shared words (R73, R74) -/

theorem KeepsMemory.writeReg {i : Instr} {g : Tag} {d : BitVec 5} {rs : List (BitVec 5)} {f : Strand → Ctr → Word} :
    KeepsMemory s (Machine.writeReg i g e d rs f s) :=
  .sharedWord fun _ => .ite .wait <| .done (.modMe ..)

theorem KeepsMemory.alu {i : Instr} {g : Tag} {d a b : BitVec 5} {op : Word → Word → Word} :
    KeepsMemory s (Machine.alu i g e d a b op s) := .writeReg

theorem KeepsMemory.aluImm {i : Instr} {g : Tag} {d a : BitVec 5} {imm : BitVec 12} {op : Word → Word → Word} :
    KeepsMemory s (Machine.aluImm i g e d a imm op s) := .writeReg

theorem KeepsMemory.branchIf {i : Instr} {a b : BitVec 5} {o : BitVec 12} {g : Tag} {cond : Word → Word → Bool} :
    KeepsMemory s (Machine.branchIf i a b o g e cond s) :=
  .sharedWord fun s => .ite .wait <| .ite (.jump (.refl s)) (.done (.refl s))

theorem KeepsMemory.csrr {d : BitVec 5} {c : BitVec 12} {g : Tag} : KeepsMemory s (execCsrr d c g e s) :=
  .sharedWord fun _ => .ite .trap <| .ite .wait <| .done (.modMe ..)

theorem KeepsMemory.csrw {a : BitVec 5} {c : BitVec 12} {g : Tag} : KeepsMemory s (execCsrw a c g e s) := by
  unfold execCsrw
  extract_lets k
  refine .sharedWord fun s => .ite .trap <| .ite .wait ?_
  split
  · exact .trap
  · refine .ite .wait (.done ?_)
    split
    · exact .writeCsr ..
    · exact .effect ..

theorem KeepsMemory.loop {l : BitVec 2} {a : BitVec 5} {n : BitVec 12} {g : Tag} : KeepsMemory s (execLoop l a n g e s) :=
  .sharedWord fun _ => .ite .trap <| .ite (.ite .trapAt .trap) <| .ite .trap <| .ite .wait <|
    .ite (.jump (.modMe ..)) (.done (.modMe ..))

theorem KeepsMemory.brkl {l : BitVec 2} {g : Tag} : KeepsMemory s (execBrkl l g e s) :=
  .sharedWord fun s => .ite .trap <| .ite (.jump (.modMe ..)) (.done (.refl s))

/-! ### Access words (R77) -/

theorem Act.KeepsMemory.load {d a : BitVec 5} {o : BitVec 9} {ty : BitVec 3} : (Machine.load d a o ty s).KeepsMemory s :=
  .ite .wait <| .ite .trap <| .ite .wait <| .ite .trap <| .done (.trans (.startRead ..) (.modMe ..))

/-- A store enters the store buffer of its strand (R184). -/
theorem Act.KeepsMemory.store {rel : Bool} {d a : BitVec 5} {o : BitVec 9} {ty : BitVec 2} :
    (Machine.store rel d a o ty s).KeepsMemory s := by
  refine .ite .wait <| .ite .trap ?_
  split
  · exact .wait
  · exact .ite .trap <| .done (SameMemory.setStrand ..)

theorem KeepsMemory.pld {q : BitVec 2} {a r : BitVec 5} : KeepsMemory s (execPld q a r e s) :=
  .aWord fun _ => .ite .wait <| .ite .trap <| .ite .trap <| .ite .wait <| .ite .trap <|
    .done (.trans (.startRead ..) (.modMe ..))

theorem KeepsMemory.pst {q : BitVec 2} {a r : BitVec 5} : KeepsMemory s (execPst q a r e s) := by
  refine .aWord fun s => .ite .wait <| .ite .trap <| .ite .trap <| .ite .wait ?_
  split
  · exact .queueFault (.modMe ..)
  · exact .done (.modMe ..)

theorem KeepsMemory.gath {q : BitVec 2} {a : BitVec 5} {j : BitVec 2} {r : BitVec 5} {sz : BitVec 2} :
    KeepsMemory s (execGath q a j r sz e s) := by
  refine .aWord fun s => .ite .wait <| .ite .trap <| .ite .wait ?_
  split
  · exact .queueFault (.modMe ..)
  · exact .ite .trap <| .ite .trap <| .done (.trans (.startRead ..) (.modMe ..))

theorem KeepsMemory.scat {q : BitVec 2} {a : BitVec 5} {j : BitVec 2} {r : BitVec 5} {sz : BitVec 2} :
    KeepsMemory s (execScat q a j r sz e s) := by
  refine .aWord fun s => .ite .wait <| .ite .trap <| .ite .wait ?_
  split
  · exact .ite .trap <| .ite (.done (.modMe ..)) (.done (.trans (.startRead ..) (.modMe ..)))
  · exact .queueFault (.modMe ..)

theorem KeepsMemory.qsnd {q : BitVec 2} {a : BitVec 5} : KeepsMemory s (execQsnd q a e s) :=
  .aWord fun _ => .ite .wait <| .done (.modMe ..)

theorem KeepsMemory.qrcv {d : BitVec 5} {q : BitVec 2} : KeepsMemory s (execQrcv d q e s) := by
  refine .aWord fun s => .ite .wait ?_
  split
  · exact .done (.modMe ..)
  · exact .queueFault (.modMe ..)

theorem KeepsMemory.semOp {i : Instr} {set : Bool} {a : BitVec 5} {n : BitVec 6} : KeepsMemory s (Machine.semOp i set a n e s) :=
  .aWord fun _ => .ite .wait <| .done (.modMe ..)

theorem KeepsMemory.semwait {a : BitVec 5} {n : BitVec 6} : KeepsMemory s (execSemwait a n e s) :=
  .aWord fun _ => .ite .wait <| .ite .trap <| .ite .wait <| .done (.effect ..)

/-- A stream command enters the stream queue of its core (R332). -/
theorem KeepsMemory.streamWord {i : Instr} {kind : StrKind} {d a : BitVec 5} {rs : List (BitVec 5)} {check : Strand → Option Nat}
    {s2 : Strand → Word} : KeepsMemory s (Machine.streamWord i kind d a rs check s2 e s) := by
  refine .aWord fun s => .ite .wait ?_
  split
  · exact .trap
  · refine .ite .wait ?_
    split
    · exact .wait
    · exact .done (.enqueueStream ..)

theorem KeepsMemory.cardWord {i : Instr} {kind : StrKind} {n : Nat} {d a : BitVec 5} :
    KeepsMemory s (Machine.cardWord i kind n d a e s) := .streamWord

theorem KeepsMemory.mbreg {d a b : BitVec 5} {m : BitVec 4} : KeepsMemory s (execMbreg d a b m e s) := by
  refine .aWord fun s => .ite .wait ?_
  split
  · exact .trap
  · exact .done (.effect ..)

/-- A matrix command enters the matrix queue of its core (R157). -/
theorem KeepsMemory.matrixWord {i : Instr} {ws : List (BitVec 5)} {hdr : Option (BitVec 5)} {v1 : Bool} {tok a b : BitVec 5} :
    KeepsMemory s (Machine.matrixWord i ws hdr v1 tok a b e s) := by
  refine .aWord fun s => .ite .trap <| .ite .wait ?_
  split
  · exact .trap
  · split
    · exact .trap
    · exact .ite .wait <| .done (.enqueueMatrix ..)

theorem KeepsMemory.residencyWord {i : Instr} {kind : ResKind} {d a b : BitVec 5} :
    KeepsMemory s (Machine.residencyWord i kind d a b e s) :=
  .aWord fun _ => .ite .wait <| .done (.modMe ..)

theorem KeepsMemory.fence : KeepsMemory s (execFence s) := .aWord fun _ => .done (.modMe ..)

theorem KeepsMemory.trig : KeepsMemory s (execTrig e s) :=
  .aWord fun s => .ite (.done (.refl s)) (.done (.effect ..))

theorem KeepsMemory.dwait : KeepsMemory s (execDwait s) := by
  refine .aWord fun s => ?_
  split
  · exact .done (.refl s)
  · exact .ite (.done (.refl s)) .wait

theorem KeepsMemory.exit : KeepsMemory s (execExit s) := .aWord fun _ => .ite (.final (.endStrand ..)) .wait

theorem KeepsMemory.yield : KeepsMemory s (execYield s) :=
  .aWord fun s => .ite (.done (.refl s)) (.done (.effect ..))

theorem KeepsMemory.eret : KeepsMemory s (execEret s) :=
  .aWord fun _ => .ite .trap <| .ite (.final (.trans (.trans (.modMe ..) (.modMe ..)) (.effect ..))) .wait

theorem KeepsMemory.trap {c : BitVec 12} : KeepsMemory s (execTrap c s) := .aWord fun _ => .trap

/-! ### Execute words (R80, R81) -/

/-- A word of the execute counter that writes its strand alone. -/
theorem KeepsMemory.xWrites {i : Instr} {f : State → Strand → Strand} :
    KeepsMemory s (Machine.xWord i e (fun s => .done (s.modMe (f s))) s) :=
  .xWord fun _ => .done (.modMe ..)

theorem KeepsMemory.fpWord {i : Instr} {d : BitVec 5} {t r : BitVec 2} {f : Strand → Fmt → Val × Flags} :
    KeepsMemory s (Machine.fpWord i e d t r f s) := .xWrites

theorem KeepsMemory.xsndScalar {q : BitVec 2} {a : BitVec 5} : KeepsMemory s (execXsndScalar q a e s) :=
  .xWord fun _ => .ite .wait <| .done (.setStrand ..)

theorem KeepsMemory.xsndPanel {q : BitVec 2} {p : BitVec 5} {r f : BitVec 4} : KeepsMemory s (execXsndPanel q p r f e s) :=
  .xWord fun _ => .ite .wait <| .done (.setStrand ..)

theorem KeepsMemory.xrcv {d : BitVec 5} {q : BitVec 2} : KeepsMemory s (execXrcv d q e s) := by
  refine .xWord fun s => .ite .wait ?_
  split
  · exact .done (.setStrand ..)
  · exact .queueFault (.setStrand ..)
  · exact .wait

theorem KeepsMemory.wrot {n : BitVec 1} {b : BitVec 3} : KeepsMemory s (execWrot n b e s) :=
  .xWord fun _ => .done (.withCur (.modMe ..) _)

theorem KeepsMemory.fmtset {a : BitVec 5} {k : BitVec 4} : KeepsMemory s (execFmtset a k e s) :=
  .xWord fun _ => .ite (.done (.modMe ..)) .trap

theorem KeepsMemory.panel1 {i : Instr} {a : BitVec 5} {rows : Nat} {f : Strand → Panel → Strand} :
    KeepsMemory s (Machine.panel1 i e a rows f s) := by
  refine .xWord fun s => ?_
  split
  · exact .wait
  · exact .queueFault (.setStrand ..)
  · exact .done (.setStrand ..)

theorem KeepsMemory.unary {i : Instr} {d a : BitVec 5} {f : Fmt} {op : Nat → Nat × Flags} :
    KeepsMemory s (Machine.unary i e d a f op s) := .panel1

theorem KeepsMemory.funcUnit {i : Instr} {d a : BitVec 5} {m : BitVec 2} {t : BitVec 5} {op : Val → Val × Flags} :
    KeepsMemory s (Machine.funcUnit i e d a m t op s) := .unary

theorem KeepsMemory.convert {i : Instr} {d a sc ty : BitVec 5} {rnd : Rnd} {sat : Bool} :
    KeepsMemory s (Machine.convert i e d a sc ty rnd sat s) := .panel1

theorem KeepsMemory.panel2 {i : Instr} {a b : BitVec 5} {ra rb : Nat} {f : Strand → Panel → Panel → Strand} :
    KeepsMemory s (Machine.panel2 i e a b ra rb f s) := by
  refine .xWord fun s => ?_
  split
  · exact .wait
  · split
    · exact .wait
    · exact .queueFault (.setStrand ..)
    · exact .queueFault (.setStrand ..)
  · split
    · exact .wait
    · exact .queueFault (.setStrand ..)
    · exact .done (.setStrand ..)

theorem KeepsMemory.arith {i : Instr} {d a b : BitVec 5} {m : BitVec 2} {ty : BitVec 5}
    {op : Rnd → Val → Val → Val → Val × Flags} : KeepsMemory s (Machine.arith i e d a b m ty op s) := .panel2

theorem KeepsMemory.binary {i : Instr} {d a b : BitVec 5} {f : Fmt} {op : Nat → Nat → Nat} :
    KeepsMemory s (Machine.binary i e d a b f op s) := .panel2

/-! ### Supervisor words (R265) -/

/-- What a supervisor word does leaves the memories of `s`. -/
inductive SupAct.KeepsMemory (s : State) : SupAct → Prop
  | done {d : BitVec 5} {v : Word} {t : State} (h : SameMemory s t) : KeepsMemory s (.done d v t)
  | wait : KeepsMemory s .wait
  | fault {cause : Nat} {tval : Word} : KeepsMemory s (.fault cause tval)

theorem SupAct.KeepsMemory.ite {s : State} {c : Prop} [Decidable c] {a b : SupAct} (ha : a.KeepsMemory s) (hb : b.KeepsMemory s) :
    (if c then a else b).KeepsMemory s := by
  split
  · exact ha
  · exact hb

theorem KeepsMemory.supWord {word : Word} {body : State → SupAct} (h : (body s).KeepsMemory s) :
    KeepsMemory s (Machine.supWord word body s) := by
  rw [Machine.supWord]
  generalize body s = a at h ⊢
  split
  · exact .next (.withCur (.modSup ..) _)
  · cases h with
    | done h => exact .next (h.trans (.withCur (.modSup ..) _))
    | wait => exact .next (.refl s)
    | fault => exact .next (.withCur (.modSup ..) _)

/-- RFCH writes the private SRAM of its supervisor (R266). -/
theorem KeepsMemory.rfch {b a d : BitVec 5} : KeepsMemory s (execRfch b a d s) := by
  refine .supWord <| .ite .fault <| .ite .fault ?_
  extract_lets r
  split
  · exact .done (.refl s)
  · exact .done (.modCluster rfl)

theorem KeepsMemory.xfld {b a d : BitVec 5} : KeepsMemory s (execXfld b a d s) :=
  .supWord <| .ite .fault <| .done (.refl s)

theorem KeepsMemory.sgwt {b a d : BitVec 5} : KeepsMemory s (execSgwt b a d s) :=
  .supWord <| .ite .fault <| .ite .fault <| .ite .wait <| .done (.modCluster rfl)

end

/-! ## The statement -/

/-- Every word but AMO, CAS and DISP leaves the memories, by the form that it has. -/
theorem exec_keepsMemory {i : Instr} {w : BitVec 32} (hword : encode i = some w) (hstores : storesNow i = false) (s : State) :
    KeepsMemory s (exec i s) := by
  cases i
  case amo | cas | disp => cases hstores
  all_goals dsimp only [exec]
  case nop => exact .sharedWord fun s => .done (.refl s)
  case add | sub | and | or | xor | shl | shr | sra | slt | sltu | minS64 | minZ64 | maxS64 | maxZ64 | mul | mulhS64 | mulhZ64 =>
    exact .alu
  case addi | andi | ori | xori => exact .aluImm
  case madd | shlImm | shrImm | sraImm | bfxZ64 | bfxS64 | bfi | lui => exact .writeReg
  case limm => exact .sharedWord fun s => .done (.refl s)
  case csrr => exact .csrr
  case csrw => exact .csrw
  case br => exact .sharedWord fun s => .jump (.refl s)
  case call => exact .sharedWord fun _ => .ite .wait <| .jump (.modMe ..)
  case ret => exact .sharedWord fun s => .ite .wait <| .ite .trap <| .jump (.refl s)
  case beq | bne | blt | bge | bltu | bgeu => exact .branchIf
  case loop => exact .loop
  case brkl => exact .brkl
  case ld | ldAcq => exact .aWord fun _ => .load
  case st | stRel => exact .aWord fun _ => .store
  case pld => exact .pld
  case pst => exact .pst
  case gath => exact .gath
  case scat => exact .scat
  case qsnd => exact .qsnd
  case qrcv => exact .qrcv
  case copy | dcmp | fill | csum | coll | spawn => exact .cardWord
  case send => exact .streamWord
  case seminc | semset => exact .semOp
  case semwait => exact .semwait
  case mbreg => exact .mbreg
  case mma | mmaSat | mmas | mzero | mld | mst | mstSat => exact .matrixWord
  case reside | evict | rquery => exact .residencyWord
  case fence => exact .fence
  case trig => exact .trig
  case dwait => exact .dwait
  case exit => exact .exit
  case yield => exact .yield
  case eret => exact .eret
  case trap => exact .trap
  case fadd | fsub | fmul | fmin | fmax | fdiv | fsqrt | fma => exact .fpWord
  case fcmp | fcvt | div | divRem | vmovi | vins | vext | fmtsel => exact .xWrites
  case xsndScalar => exact .xsndScalar
  case xsndPanel => exact .xsndPanel
  case xrcv => exact .xrcv
  case wrot => exact .wrot
  case fmtset => exact .fmtset
  case vabs | vneg => exact .unary
  case vexp2 | vlog2 | vrcp | vrsq => exact .funcUnit
  case vcvt | vcvtSat => exact .convert
  case vnot | vredr | vredc | vbcr | vbcc | vrotr | vrotc | vscan | part | vtopk | vmov => exact .panel1
  case vadd | vsub | vmul | vfma | vmin | vmax => exact .arith
  case vshl | vshr | vsra | vcmp =>
    dsimp only [execVshl, execVshr, execVsra, execVcmp]
    exact .binary
  case vand | vor | vxor | vsel | vrshr | vperm => exact .panel2
  case rfch => exact .rfch
  case xfld => exact .xfld
  case sgwt => exact .sgwt
  all_goals cases hword -- an operation or event has no word

/-- Settles O59: stores wait in the store buffer and commands in the queues of their engines, whatever form the word has. -/
theorem instructionWordsChangeNoByteThemselves : Obligations.InstructionWordsChangeNoByteThemselves :=
  fun _ _ s t hword hstores hexec => exec_keepsMemory hword hstores s t hexec

end Sys2Proof.Machine
end

section
/-! PROOFS. Commands held by a translation fault, and the resolve words that release or discard them (O27): the fault's record in
the fault queue, what a resolve word names, and the end of a region. -/

namespace Sys2Proof.Machine

/-! ## Ring entries -/

theorem getLsbD_entry32 (fs : List (Nat × Nat)) {i : Nat} (hi : i < 256) :
    (entry32 fs).getLsbD i = fs.any fun f => decide (8 * f.2 ≤ i) && f.1.testBit (i - 8 * f.2) := by
  have hfold (acc : BitVec 256) :
      (fs.foldl (fun acc f => acc ||| (BitVec.ofNat 256 f.1 <<< (8 * f.2))) acc).getLsbD i =
        (acc.getLsbD i || fs.any fun f => decide (8 * f.2 ≤ i) && f.1.testBit (i - 8 * f.2)) := by
    induction fs generalizing acc with
    | nil => simp
    | cons f fs ih =>
      have hlow : i - 8 * f.2 < 256 := by omega
      simp only [List.foldl_cons, ih, BitVec.getLsbD_or, BitVec.getLsbD_shiftLeft, BitVec.getLsbD_ofNat, List.any_cons, hi, hlow,
        decide_true, Bool.true_and, Bool.or_assoc, ← decide_not, Nat.not_lt]
  rw [entry32, hfold, BitVec.getLsbD_zero, Bool.false_or]

/-- A field of a ring entry is read back where the fields before it keep to their bytes and those after it begin past it. -/
theorem extractLsb'_entry32 {fs gs : List (Nat × Nat)} {v off w : Nat} (hfs : ∀ f ∈ fs, f.1 < 2 ^ (8 * (off - f.2)))
    (hgs : ∀ f ∈ gs, 8 * off + w ≤ 8 * f.2) (hw : 8 * off + w ≤ 256) :
    (entry32 (fs ++ (v, off) :: gs)).extractLsb' (8 * off) w = BitVec.ofNat w v := by
  refine BitVec.eq_of_getLsbD_eq fun i hi => ?_
  have hbefore : (fs.any fun f => decide (8 * f.2 ≤ 8 * off + i) && f.1.testBit (8 * off + i - 8 * f.2)) = false := by
    refine List.any_eq_false.2 fun f hf => ?_
    rw [Nat.testBit_lt_two_pow ((hfs f hf).trans_le (Nat.pow_le_pow_right (by decide) (by omega)))]
    simp
  have hafter : (gs.any fun f => decide (8 * f.2 ≤ 8 * off + i) && f.1.testBit (8 * off + i - 8 * f.2)) = false := by
    refine List.any_eq_false.2 fun f hf => ?_
    have := hgs f hf
    simp [show ¬ 8 * f.2 ≤ 8 * off + i by omega]
  rw [BitVec.getLsbD_extractLsb', getLsbD_entry32 _ (by omega), List.any_append, List.any_cons, hbefore, hafter]
  simp only [hi, BitVec.getLsbD_ofNat, decide_true, Bool.true_and, Bool.false_or, Bool.or_false, Nat.le_add_right,
    Nat.add_sub_cancel_left]

/-- The fields of a fault record by which it is resolved: VA, CORE and KIND (R210). -/
theorem extractLsb'_faultRecord {core : Nat} (hcore : core < 4096) (c : StrCmd) (f : XlatFault) :
    (faultRecord core c f).extractLsb' 0 64 = f.addr ∧ (faultRecord core c f).extractLsb' 64 16 = BitVec.ofNat 16 core ∧
      (faultRecord core c f).extractLsb' 88 8 = BitVec.ofNat 8 f.kind := by
  have haddr := f.addr.isLt
  have hstrand := c.strand.isLt
  refine ⟨?_, ?_, ?_⟩
  · exact (extractLsb'_entry32 (fs := []) (off := 0) (w := 64) (by simp) (by simp) (by decide)).trans
      ((BitVec.ofNat_toNat ..).trans (BitVec.setWidth_eq _))
  · refine extractLsb'_entry32 (fs := [(f.addr.toNat, 0)]) (off := 8) (w := 16) ?_ (by simp) (by decide)
    simpa using haddr
  · refine extractLsb'_entry32 (fs := [(f.addr.toNat, 0), (core, 8), (c.strand.val, 10)]) (off := 11) (w := 8) ?_ (by simp)
      (by decide)
    simp
    omega

/-! ## A command holds (R209, R210) -/

/-- A fresh fault is reported exactly when its cluster's fault queue has room. -/
theorem reportFault_of_fresh {s : State} {core slot : Nat} {c : StrCmd} {f : XlatFault} (hat : (s.core core).cmdAt slot = some c)
    (hf : c.fault = some f) (hfresh : f.reported = false) :
    s.reportFault core slot = if 64 ≤ ((s.cluster (clusterOf core)).rings.get 1).length then s
      else (s.pushRing (clusterOf core) 1 (faultRecord core c f)).modCmd core slot fun c =>
        { c with fault := some { f with reported := true } } := by
  simp only [State.reportFault, hat, hf, hfresh, Bool.false_or, decide_eq_true_eq]

/-- What reporting a fault can do: nothing, or a ring entry and a change of the command. -/
theorem reportFault_cases (s : State) (core slot : Nat) : s.reportFault core slot = s ∨
    ∃ e g, s.reportFault core slot = (s.pushRing (clusterOf core) 1 e).modCmd core slot g := by
  rw [State.reportFault]
  split
  · split
    · split
      · exact .inl rfl
      · exact .inr ⟨_, _, rfl⟩
    · exact .inl rfl
  · exact .inl rfl

theorem SameMemory.reportFault (s : State) (core slot : Nat) : SameMemory s (s.reportFault core slot) := by
  obtain h | ⟨e, g, h⟩ := reportFault_cases s core slot
  · rw [h]
    exact .refl s
  · rw [h]
    exact .trans (.pushRing ..) (.modCmd ..)

theorem State.strand_reportFault (s : State) (core slot d : Nat) (n : Fin 4) :
    (s.reportFault core slot).strand d n = s.strand d n := by
  obtain h | ⟨e, g, h⟩ := reportFault_cases s core slot
  · rw [h]
  · rw [h, State.strand_modCmd]
    rfl

theorem State.strand_holdCmd (s : State) (core slot : Nat) (f : XlatFault) (d : Nat) (n : Fin 4) :
    (s.holdCmd core slot f).strand d n = s.strand d n :=
  (State.strand_reportFault ..).trans (State.strand_modCmd ..)

theorem SameMemory.holdCmd (s : State) (core slot : Nat) (f : XlatFault) : SameMemory s (s.holdCmd core slot f) :=
  .trans (.modCmd ..) (.reportFault ..)

theorem State.rings_pushRing (s : State) (cl : Nat) (ring : Fin 4) (e : BitVec 256) :
    ((s.pushRing cl ring e).cluster cl).rings.get ring = (s.cluster cl).rings.get ring ++ [e] := by
  rw [State.pushRing, State.cluster_modCluster, if_pos rfl]
  simp [Vector.get_eq_getElem]

/-- A command that holds with a fresh fault: the fault is noted at it, and reported in its cluster's fault queue while that has
room. -/
theorem holdCmd_of_fresh {s : State} {core slot : Nat} {c : StrCmd} {f : XlatFault} (hat : (s.core core).cmdAt slot = some c)
    (hfresh : f.reported = false) :
    let ring := (s.cluster (clusterOf core)).rings.get 1
    ((s.holdCmd core slot f).core core).cmdAt slot =
        some { c with phase := .held, fault := some { f with reported := decide (ring.length < 64) } } ∧
      ((s.holdCmd core slot f).cluster (clusterOf core)).rings.get 1 =
        if 64 ≤ ring.length then ring else ring ++ [faultRecord core { c with phase := .held, fault := some f } f] := by
  intro ring
  have hheld := State.cmdAt_modCmd (f := fun c => { c with phase := .held, fault := some f }) hat fun _ hx => hx
  rw [State.holdCmd, reportFault_of_fresh hheld rfl hfresh]
  generalize hu : (s.modCmd core slot fun c => { c with phase := .held, fault := some f }) = u at hheld ⊢
  have hring : (u.cluster (clusterOf core)).rings.get 1 = ring := by rw [← hu]; rfl
  rw [hring]
  split
  next hfull =>
    exact ⟨by rw [hheld, decide_eq_false (by omega), ← hfresh], hring⟩
  next hroom =>
    rw [decide_eq_true (by omega)]
    refine ⟨State.cmdAt_modCmd (s := u.pushRing ..) (f := fun c => { c with fault := some { f with reported := true } })
      hheld fun _ hx => hx, ?_⟩
    rw [← hring, ← State.rings_pushRing]
    rfl

theorem context_spaceOf {s : State} {key : Nat} (h : s.task? key ≠ none) (core : Nat) :
    (s.spaceOf core key).context = s.contextOf (s.regidOf key) := by
  obtain ⟨t, ht⟩ := Option.ne_none_iff_exists'.1 h
  simp only [State.spaceOf, State.regidOf, ht, Option.map_some, Option.getD_some]

/-- A device-virtual piece that a fresh walk refuses holds its command (R206, R209). -/
theorem translationFault_holds {s : State} {core slot : Nat} {p : CopyPiece} {c : StrCmd} {w : Walk} {addr kind lvl : Nat}
    {write : Bool} {e : Word} (hat : (s.core core).cmdAt slot = some c) (hphase : c.phase = .flight)
    (hp : c.pending p = some (w, addr, write)) (htag : w.tag = 3)
    (hwalk : s.walkVa (s.contextOf (s.regidOf c.task)) addr write = .fault kind lvl e) (htask : s.task? c.task ≠ none) :
    exec (.translationFault core slot p) s =
      .next (s.holdCmd core slot ⟨BitVec.ofNat 64 (3 * 2 ^ 60 + addr), kind, write, lvl, e, false, false⟩) := by
  have hfault : s.pieceFault core c w addr write =
      some ⟨BitVec.ofNat 64 (3 * 2 ^ 60 + addr), kind, write, lvl, e, false, false⟩ := by
    simp only [State.pieceFault, htag, if_true, context_spaceOf htask, hwalk]
  have hlive : (c.phase == .held) = false := by rw [hphase]; rfl
  simp only [exec_translationFault, execTranslationFault, hat, hlive, hp, hfault, Bool.false_eq_true, if_false]

/-! ## Resolve words (R211, R269) -/

/-- Resolve word `w` names slot `slot` of core `core`, with `act` for ACT, and sets no reserved bit. -/
structure ResolveNames (w : Word) (core slot : Nat) (act : Bool) : Prop where
  core_eq : (w.extractLsb' 0 12).toNat = core
  slot_eq : (w.extractLsb' 12 5).toNat = slot
  act_eq : w.getLsbD 17 = act
  reserved : w.extractLsb' 18 46 = 0#46

theorem resolveNames_ofNat {core slot : Nat} (hcore : core < 2 ^ 12) (hslot : slot < 2 ^ 5) (act : Bool) :
    ResolveNames (BitVec.ofNat 64 (core + slot * 2 ^ 12 + act.toNat * 2 ^ 17)) core slot act := by
  have hact := act.toNat_le
  refine ⟨?_, ?_, ?_, BitVec.eq_of_toNat_eq ?_⟩
  · rw [extractLsb'_ofNat_toNat _ (by decide)]
    omega
  · rw [extractLsb'_ofNat_toNat _ (by decide)]
    omega
  · have hbit : (core + slot * 2 ^ 12 + act.toNat * 2 ^ 17) / 2 ^ 17 = act.toNat := by omega
    rw [BitVec.getLsbD_ofNat, Nat.testBit_eq_decide_div_mod_eq, hbit]
    cases act <;> rfl
  · rw [extractLsb'_ofNat_toNat _ (by decide), BitVec.toNat_zero]
    omega

/-- The event in which the supervisor of a cluster writes resolve word `w`, by its ACT (R211). -/
def resolveEvent (cluster : Nat) (w : Word) : Instr :=
  if w.getLsbD 17 then .translationKill cluster w else .translationRetry cluster w

theorem resolveEvent_retry {cluster : Nat} {w : Word} (h : w.getLsbD 17 = false) :
    resolveEvent cluster w = .translationRetry cluster w := by rw [resolveEvent, h]; rfl

theorem resolveEvent_kill {cluster : Nat} {w : Word} (h : w.getLsbD 17 = true) :
    resolveEvent cluster w = .translationKill cluster w := by rw [resolveEvent, h]; rfl

theorem supervised_iff (s : State) (cluster : Nat) : s.supervised cluster = true ↔
    (s.die (cluster / 4)).health ≠ .retired ∧ (s.die (cluster / 4)).health ≠ .failed := by
  simp [State.supervised]

theorem resolveEvent_unsupervised {s : State} {cluster : Nat} (hcluster : cluster < 64) (h : s.supervised cluster = false)
    (w : Word) : exec (resolveEvent cluster w) s = .next (s.res .stutter) := by
  cases hact : w.getLsbD 17
  · simp [resolveEvent_retry hact, execTranslationRetry, Nat.not_le.2 hcluster, h]
  · simp [resolveEvent_kill hact, execTranslationKill, Nat.not_le.2 hcluster, h]

/-- A word that names no held command stands in the resolve register and the error register, and sets event 5. -/
theorem resolveEvent_unnamed {s : State} {cluster : Nat} {w : Word} (hcluster : cluster < 64) (h : s.supervised cluster = true)
    (hnone : s.resolveWord cluster w = none) :
    exec (resolveEvent cluster w) s = .next (s.modCluster cluster fun k =>
      { k with resolve := w, events := k.events ||| 0x20#8, resolveErr := w }) := by
  have hnone' : (s.writeResolve cluster w).resolveWord cluster w = none := hnone
  have herror : (s.writeResolve cluster w).resolveError cluster w =
      s.modCluster cluster fun k => { k with resolve := w, events := k.events ||| 0x20#8, resolveErr := w } := by
    simp [State.resolveError, State.writeResolve, State.modCluster, State.cluster]
  cases hact : w.getLsbD 17
  · simp only [resolveEvent_retry hact, exec_translationRetry, execTranslationRetry, if_neg (Nat.not_le.2 hcluster), h, hact, hnone',
      herror, Bool.not_true, Bool.or_false, Bool.false_eq_true, if_false]
  · simp only [resolveEvent_kill hact, exec_translationKill, execTranslationKill, if_neg (Nat.not_le.2 hcluster), h, hact, hnone',
      herror, Bool.not_true, Bool.or_false, Bool.false_eq_true, if_false]

theorem resolveWord_of_reserved {w : Word} (h : w.extractLsb' 18 46 ≠ 0#46) (s : State) (cluster : Nat) :
    s.resolveWord cluster w = none := by
  simp [State.resolveWord, h]

theorem ResolveNames.resolveWord_held {s : State} {cluster core slot : Nat} {w : Word} {act : Bool} {c : StrCmd}
    (hw : ResolveNames w core slot act) (hcluster : clusterOf core = cluster) (hat : (s.core core).cmdAt slot = some c)
    (hphase : c.phase = .held) : s.resolveWord cluster w = some (core, c) := by
  obtain ⟨hcore, hslot, -, hreserved⟩ := hw
  simp [State.resolveWord, hreserved, hcore, hslot, hcluster, hat, hphase]

theorem ResolveNames.resolveWord_unnamed {s : State} {cluster core slot : Nat} {w : Word} {act : Bool}
    (hw : ResolveNames w core slot act) (h : clusterOf core ≠ cluster ∨ (s.core core).cmdAt slot = none) :
    s.resolveWord cluster w = none := by
  obtain ⟨hcore, hslot, -, -⟩ := hw
  rcases h with h | h <;> simp [State.resolveWord, hcore, hslot, h]

/-- A retried command whose page a fresh walk now finds goes on (R211). -/
theorem retryCmd_of_page {s : State} {core : Nat} {c : StrCmd} {f : XlatFault} {pa size : Nat} {rd w : Bool} (hf : c.fault = some f)
    (htag : f.addr.extractLsb' 60 4 = 3#4) (htask : s.task? c.task ≠ none)
    (hwalk : s.walkVa (s.contextOf (s.regidOf c.task)) (f.addr.toNat % 2 ^ 60) f.write = .page pa size rd w) :
    s.retryCmd core c = s.modCmd core c.slot fun c => { c with phase := .flight, fault := none } := by
  have htag' : (f.addr.extractLsb' 60 4).toNat = 3 := by rw [htag]; rfl
  simp only [State.retryCmd, hf, htag', if_true, context_spaceOf htask, hwalk]

theorem translationRetry_held {s : State} {cluster : Nat} {w : Word} {core : Nat} {c : StrCmd} (hcluster : cluster < 64)
    (h : s.supervised cluster = true) (hact : w.getLsbD 17 = false) (hnamed : s.resolveWord cluster w = some (core, c)) :
    exec (.translationRetry cluster w) s = .next ((s.writeResolve cluster w).retryCmd core c) := by
  have hnamed' : (s.writeResolve cluster w).resolveWord cluster w = some (core, c) := hnamed
  simp only [exec_translationRetry, execTranslationRetry, if_neg (Nat.not_le.2 hcluster), h, hact, hnamed', Bool.not_true,
    Bool.or_false, Bool.false_eq_true, if_false]

/-- A resolve word with ACT = 0 lets the held command that it names go on, once a fresh walk finds its page (R211). -/
theorem ResolveNames.retry_goesOn {s : State} {cluster core slot : Nat} {w : Word} {c : StrCmd} {f : XlatFault} {pa size : Nat}
    {rd wr : Bool} (hw : ResolveNames w core slot false) (hcluster : cluster < 64) (hsup : s.supervised cluster = true)
    (hown : clusterOf core = cluster) (hat : (s.core core).cmdAt slot = some c) (hphase : c.phase = .held) (hf : c.fault = some f)
    (htag : f.addr.extractLsb' 60 4 = 3#4)
    (hwalk : s.walkVa (s.contextOf (s.regidOf c.task)) (f.addr.toNat % 2 ^ 60) f.write = .page pa size rd wr)
    (htask : s.task? c.task ≠ none) :
    exec (.translationRetry cluster w) s =
      .next ((s.writeResolve cluster w).modCmd core slot fun c => { c with phase := .flight, fault := none }) := by
  rw [translationRetry_held hcluster hsup hw.act_eq (hw.resolveWord_held hown hat hphase),
    retryCmd_of_page (s := s.writeResolve cluster w) hf htag htask hwalk, Core.slot_of_cmdAt hat]

theorem translationKill_held {s : State} {cluster : Nat} {w : Word} {core : Nat} {c : StrCmd} (hcluster : cluster < 64)
    (h : s.supervised cluster = true) (hact : w.getLsbD 17 = true) (hnamed : s.resolveWord cluster w = some (core, c)) :
    exec (.translationKill cluster w) s =
      .next (((s.writeResolve cluster w).dropCmd core c.slot).endRegion (s.regidOf c.task) 3 causeRegionEnd 0#64) := by
  have hnamed' : (s.writeResolve cluster w).resolveWord cluster w = some (core, c) := hnamed
  have hregid : (s.writeResolve cluster w).regidOf c.task = s.regidOf c.task := rfl
  simp only [exec_translationKill, execTranslationKill, if_neg (Nat.not_le.2 hcluster), h, hact, hnamed', hregid, Bool.not_true,
    Bool.or_false, Bool.false_eq_true, if_false]

/-! ## The end of a region (R292) -/

/-- An entry of a mapped table is the mapped entry; one that is not listed stays the table's default. -/
theorem lookupD_map {α : Type} (d : α) (f : α → α) (l : List (Nat × α)) (a : Nat) :
    lookupD d (l.map fun e => (e.1, f e.2)) a = f (lookupD d l a) ∨ lookupD d (l.map fun e => (e.1, f e.2)) a = lookupD d l a := by
  induction l with
  | nil => exact .inr rfl
  | cons e l ih =>
    simp only [List.map_cons, lookupD]
    split
    · exact .inl rfl
    · exact ih

theorem State.core_mapCores (s : State) (f : Core → Core) (c : Nat) :
    (s.mapCores f).core c = f (s.core c) ∨ (s.mapCores f).core c = s.core c := lookupD_map _ f s.cores c

theorem State.cluster_mapClusters (s : State) (f : Cluster → Cluster) (k : Nat) :
    (s.mapClusters f).cluster k = f (s.cluster k) ∨ (s.mapClusters f).cluster k = s.cluster k := lookupD_map _ f s.clusters k

theorem SameMemory.mapCores {f : Core → Core} (h : ∀ k, (f k).sram = k.sram) (s : State) : SameMemory s (s.mapCores f) := by
  refine ⟨fun c => ?_, rfl, fun _ => rfl, fun _ => rfl⟩
  rcases s.core_mapCores f c with hc | hc <;> rw [hc]
  exact h _

theorem SameMemory.mapClusters {f : Cluster → Cluster} (h : ∀ k, (f k).pool = k.pool) (s : State) : SameMemory s (s.mapClusters f) := by
  refine ⟨fun _ => rfl, rfl, fun k => ?_, fun _ => rfl⟩
  rcases s.cluster_mapClusters f k with hk | hk <;> rw [hk]
  exact h _

/-- The end of regions leaves a core's local SRAM, and takes commands from its stream queue. -/
theorem Core.store_endRegions (k : Core) (keys : List Nat) (regids : List Word) :
    (k.endRegions keys regids).sram = k.sram ∧ (k.endRegions keys regids).sq = k.sq.filter fun c => !keys.contains c.task := by
  unfold Core.endRegions
  dsimp only
  split <;> exact ⟨rfl, rfl⟩

theorem Core.cmdAt_of_filter {j k : Core} {slot : Nat} {p : StrCmd → Bool} (hsq : k.sq = j.sq.filter p) (h : j.cmdAt slot = none) :
    k.cmdAt slot = none := by
  rw [Core.cmdAt, List.find?_eq_none] at h ⊢
  rw [hsq]
  exact fun c hc => h c (List.mem_of_mem_filter hc)

theorem State.cmdAt_dropCmd (s : State) (core slot : Nat) : ((s.dropCmd core slot).core core).cmdAt slot = none := by
  rw [Core.cmdAt, State.sq_dropCmd, List.find?_eq_none]
  intro c hc
  simpa using (List.mem_filter.1 hc).2

/-- The notice of the end of a region joins the records on their way, wherever it goes. -/
theorem State.regionNotice_eq (s : State) (r : Region) (event cause : Nat) (arg : Word) :
    ∃ n, n.words = noticeWords 0#64 r.regid 0 event (BitVec.ofNat 64 cause) 0#64 arg ∧
      s.regionNotice r event cause arg = { s with records := s.records ++ [n] } := by
  unfold State.regionNotice
  dsimp only
  split
  · split <;> exact ⟨_, rfl, rfl⟩
  · exact ⟨_, rfl, rfl⟩

theorem State.mem_subtree_self {s : State} {r : Region} (h : r ∈ s.regions) : r ∈ s.subtree r := by
  have hchain : ∃ l, s.chain 8 r = r :: l := by
    rw [State.chain]
    split
    · exact ⟨_, rfl⟩
    · split <;> exact ⟨_, rfl⟩
  obtain ⟨l, hl⟩ := hchain
  exact List.mem_filter.2 ⟨h, by simp [hl]⟩

/-- The parts of the state that the end of a region changes: cores, spawned headers, tasks and the notice. -/
theorem endRegion_parts {s : State} {regid : Word} {r : Region} (hr : s.region? regid = some r) (event cause : Nat) (arg : Word) :
    let t := s.endRegion regid event cause arg
    (∃ keys regids, t.cores = (s.mapCores fun k => k.endRegions keys regids).cores) ∧
    (∃ keys : List Nat, t.clusters = (s.mapClusters fun k => { k with spawn := k.spawn.filter fun h => !keys.contains h.1 }).clusters) ∧
    t.dies = s.dies ∧ t.hbm = s.hbm ∧
    (∃ g : Task → Task, t.tasks = s.tasks.map g ∧
      ∀ x ∈ s.tasks, (g x).key = x.key ∧ (x.regid ∈ (s.subtree r).map (·.regid) → (g x).st = .ended)) ∧
    ∃ n, t.records = s.records ++ [n] ∧ n.words = noticeWords 0#64 r.regid 0 event (BitVec.ofNat 64 cause) 0#64 arg := by
  simp only [State.endRegion, hr]
  generalize (s.subtree r).map (·.regid) = regids
  obtain ⟨n, hwords, hnotice⟩ := State.regionNotice_eq _ r event cause arg
  rw [hnotice]
  dsimp only [State.mapCores, State.mapClusters, State.mapTasks]
  refine ⟨⟨_, _, rfl⟩, ⟨_, rfl⟩, rfl, rfl, ⟨_, rfl, fun x hx => ?_⟩, n, rfl, hwords⟩
  split
  next => exact ⟨rfl, fun _ => rfl⟩
  next hkey =>
    refine ⟨rfl, fun hregid => ?_⟩
    by_contra hlive
    have hall : x ∈ s.tasks.filter fun t => regids.contains t.regid := List.mem_filter.2 ⟨hx, List.contains_iff_mem.2 hregid⟩
    exact hkey (List.contains_iff_mem.2 (List.mem_map_of_mem (List.mem_filter.2 ⟨hall, bne_iff_ne.2 hlive⟩)))

theorem SameMemory.endRegion {s : State} {regid : Word} {r : Region} (hr : s.region? regid = some r) (event cause : Nat) (arg : Word) :
    SameMemory s (s.endRegion regid event cause arg) := by
  obtain ⟨⟨keys, regids, hcores⟩, ⟨ended, hclusters⟩, hdies, hhbm, -, -⟩ := endRegion_parts hr event cause arg
  obtain ⟨hsram, -⟩ := SameMemory.mapCores (fun k => (k.store_endRegions keys regids).1) s
  obtain ⟨-, -, hpool, -⟩ :=
    SameMemory.mapClusters (f := fun k => { k with spawn := k.spawn.filter fun h => !ended.contains h.1 }) (fun _ => rfl) s
  refine ⟨fun c => ?_, hhbm, fun k => ?_, fun d => ?_⟩
  · rw [← hsram c, State.core_eq hcores]
  · rw [← hpool k, State.cluster, hclusters]; rfl
  · rw [State.die, hdies, State.die]

/-- No command comes to a slot by the end of a region. -/
theorem cmdAt_endRegion {s : State} {regid : Word} {r : Region} (hr : s.region? regid = some r) (event cause : Nat) (arg : Word)
    {core slot : Nat} (h : (s.core core).cmdAt slot = none) :
    ((s.endRegion regid event cause arg).core core).cmdAt slot = none := by
  obtain ⟨⟨keys, regids, hcores⟩, -⟩ := endRegion_parts hr event cause arg
  rw [show (s.endRegion regid event cause arg).core core = (s.mapCores fun k => k.endRegions keys regids).core core from
    State.core_eq hcores core]
  rcases s.core_mapCores (fun k => k.endRegions keys regids) core with hcore | hcore
  · exact Core.cmdAt_of_filter ((congrArg Core.sq hcore).trans (Core.store_endRegions ..).2) h
  · rwa [hcore]

/-- Every task of a region that ends has ended. -/
theorem task_endRegion {s : State} {regid : Word} {r : Region} (hr : s.region? regid = some r) (event cause : Nat) (arg : Word)
    {x : Task} (hx : x ∈ s.tasks) (hregid : x.regid = regid) :
    ∃ y ∈ (s.endRegion regid event cause arg).tasks, y.key = x.key ∧ y.st = .ended := by
  obtain ⟨-, -, -, -, ⟨g, htasks, hg⟩, -⟩ := endRegion_parts hr event cause arg
  obtain ⟨hkey, hended⟩ := hg x hx
  have hself : regid ∈ (s.subtree r).map (·.regid) :=
    List.mem_map.2 ⟨r, State.mem_subtree_self (List.mem_of_find?_eq_some hr), eq_of_beq (List.find?_some hr :)⟩
  exact ⟨g x, htasks ▸ List.mem_map_of_mem hx, hkey, hended (hregid ▸ hself)⟩

/-- A resolve word with ACT = 1 discards the held command that it names and ends its region, with REGION_END for the cause in
the notice (R211, R292). -/
theorem ResolveNames.kill_ends {s : State} {cluster core slot : Nat} {w : Word} {c : StrCmd} {v : Task} {r : Region}
    (hw : ResolveNames w core slot true) (hcluster : cluster < 64) (hsup : s.supervised cluster = true)
    (hown : clusterOf core = cluster) (hat : (s.core core).cmdAt slot = some c) (hphase : c.phase = .held)
    (hv : s.task? c.task = some v) (hr : s.region? v.regid = some r) :
    ∃ t, exec (.translationKill cluster w) s = .next t ∧ (t.core core).cmdAt slot = none ∧ SameMemory s t ∧
      (∀ x ∈ s.tasks, x.regid = v.regid → ∃ y ∈ t.tasks, y.key = x.key ∧ y.st = .ended) ∧
      ∃ n, t.records = s.records ++ [n] ∧ n.words = noticeWords 0#64 r.regid 0 3 17#64 0#64 0#64 := by
  have hregid : s.regidOf c.task = v.regid := by rw [State.regidOf, hv, Option.map_some, Option.getD_some]
  have hr' : ((s.writeResolve cluster w).dropCmd core slot).region? v.regid = some r := hr
  obtain ⟨-, -, -, -, -, hnotice⟩ := endRegion_parts hr' 3 causeRegionEnd 0#64
  refine ⟨_, translationKill_held hcluster hsup hw.act_eq (hw.resolveWord_held hown hat hphase), ?_⟩
  rw [hregid, Core.slot_of_cmdAt hat]
  exact ⟨cmdAt_endRegion hr' _ _ _ (State.cmdAt_dropCmd ..),
    .trans (.trans (.modCluster rfl) (.dropCmd ..)) (.endRegion hr' ..), fun x hx hxr => task_endRegion hr' _ _ _ hx hxr, hnotice⟩

/-! ## The statement -/

/-- Settles O27: a refused piece holds its command and reports it while the fault queue has room; a resolve word releases or
discards the held command it names, and is in error otherwise. -/
theorem heldCommandsAndTheirResolution : Obligations.HeldCommandsAndTheirResolution := by
  refine ⟨fun core slot p s c w addr kind lvl write e hat hphase hp htag hcore hwalk htask => ?_,
    fun cluster core slot s hcluster hcore hslot => ?_⟩
  · obtain ⟨hcmd, hring⟩ := holdCmd_of_fresh hat
      (f := ⟨BitVec.ofNat 64 (3 * 2 ^ 60 + addr), kind, write, lvl, e, false, false⟩) rfl
    refine ⟨_, translationFault_holds hat hphase hp htag hwalk htask, .holdCmd .., State.strand_holdCmd s core slot _, hcmd,
      fun hfull => hring.trans (if_pos hfull), fun hroom => ⟨_, hring.trans (if_neg (Nat.not_le.2 hroom)), ?_⟩⟩
    obtain ⟨haddr, hfieldCore, hkind⟩ := extractLsb'_faultRecord hcore { c with phase := .held, fault := some _ }
      ⟨BitVec.ofNat 64 (3 * 2 ^ 60 + addr), kind, write, lvl, e, false, false⟩
    exact ⟨haddr, hfieldCore, fun _ => hkind⟩
  · have hgo : ResolveNames (BitVec.ofNat 64 (core + slot * 2 ^ 12)) core slot false := by
      simpa using resolveNames_ofNat hcore hslot false
    have hkill : ResolveNames (BitVec.ofNat 64 (core + slot * 2 ^ 12 + 2 ^ 17)) core slot true := by
      simpa using resolveNames_ofNat hcore hslot true
    have hgoEvent := resolveEvent_retry (cluster := cluster) hgo.act_eq
    have hkillEvent := resolveEvent_kill (cluster := cluster) hkill.act_eq
    refine ⟨fun hdown => ?_, fun hruns => ?_⟩
    · have hsup : s.supervised cluster = false := Bool.eq_false_iff.2 fun h => hdown ((supervised_iff s cluster).1 h)
      exact ⟨hgoEvent ▸ resolveEvent_unsupervised hcluster hsup _, hkillEvent ▸ resolveEvent_unsupervised hcluster hsup _⟩
    have hsup := (supervised_iff s cluster).2 hruns
    refine ⟨fun w hw => ?_, fun c f pa size rd w hown hat hphase hf htag hwalk htask => ?_, fun c v r hown hat hphase hv hr => ?_,
      fun hnone => ?_⟩
    · have herror := resolveEvent_unnamed hcluster hsup (resolveWord_of_reserved hw s cluster)
      exact ⟨fun h => resolveEvent_retry h ▸ herror, fun h => resolveEvent_kill h ▸ herror⟩
    · rw [hgo.retry_goesOn hcluster hsup hown hat hphase hf htag hwalk htask]
      simp only [State.modCmd, State.writeResolve, beq_iff_eq]
    · exact hkill.kill_ends hcluster hsup hown hat hphase hv hr
    · simp only [List.mem_cons, List.not_mem_nil, or_false, forall_eq_or_imp, forall_eq]
      exact ⟨hgoEvent ▸ resolveEvent_unnamed hcluster hsup (hgo.resolveWord_unnamed hnone),
        hkillEvent ▸ resolveEvent_unnamed hcluster hsup (hkill.resolveWord_unnamed hnone)⟩

end Sys2Proof.Machine
end

section
/-! PROOFS. RESIDE, EVICT and RQUERY (O25): they enter their strand's queue of residency operations, and each acts on the table of
its core's cluster (R226, R228 to R230). -/

namespace Sys2Proof.Machine

open Sys2Proof.Claims

/-! ## The issue (R228, R230) -/

/-- A residency word joins its strand's operations, with D unavailable. -/
theorem residencyWord_retired {i : Instr} {kind : ResKind} {d a b : BitVec 5} {e : BitVec 1} {s : State} (he : Issues s e)
    (ha : Available s .a [a, b, d]) :
    ∃ t, residencyWord i kind d a b e s = .next t ∧ Retired (withMe (s.actAs .a) fun u => { u with
      resops := u.resops ++ [⟨kind, d, s.me.a a, s.me.a b, mark s, u.task⟩], busy := marked u d }) t := by
  have hbusy (u : Strand) (l : List ResOp) :
      ({ u with resops := l } : Strand).setBusy d = { u with resops := l, busy := marked u d } := by
    rw [Strand.setBusy, marked]
    split <;> rfl
  rw [residencyWord, aWord]
  refine issueWord_retired ?_ he rfl rfl
  simp only [State.me_actAs, waits_of_available ha, Bool.false_eq_true, if_false, State.modMe, withMe, hbusy, rdMark_actAs]

/-! ## Acting on the table (R227, R229) -/

/-- The location words that the model admits. -/
theorem locationOk_iff (s : State) (c : Nat) (k : Task) (loc : Word) : s.locationOk c k loc = true ↔ GoodLocation s c k loc := by
  have hcore : loc.extractLsb' 46 12 = BitVec.ofNat 12 (loc.toNat / 2 ^ 46 % 2 ^ 12) := by
    simp [BitVec.toNat_eq, Nat.shiftRight_eq_div_pow]
  have hcoreZero : loc.extractLsb' 46 12 = 0#12 ↔ loc.toNat / 2 ^ 46 % 2 ^ 12 = 0 := by
    simp [BitVec.toNat_eq, Nat.shiftRight_eq_div_pow]
  have hzero : loc.extractLsb' 58 5 = 0#5 ↔ loc.toNat / 2 ^ 58 % 2 ^ 5 = 0 := by
    simp [BitVec.toNat_eq, Nat.shiftRight_eq_div_pow]
  simp only [State.locationOk, GoodLocation, BitVec.extractLsb'_toNat, Nat.shiftRight_eq_div_pow, Bool.and_eq_true, beq_iff_eq,
    bne_iff_ne, decide_eq_true_eq, hzero, Nat.one_le_iff_ne_zero, and_assoc, sramSize, pow_zero, Nat.div_one]
  cases loc.getLsbD 63
  · simp [hcore, Option.any_eq_true]
  · simp [hcoreZero]

/-- The model's result and table are those of R229. -/
theorem residency_residencyOp (tab : List ResEntry) (ctx : Word) (o : ResOp) {ok : Bool} {good : Prop} (hok : ok = true ↔ good) :
    residency tab ctx o good (residencyOp tab ctx o ok).1 (residencyOp tab ctx o ok).2 := by
  have hmine (e : ResEntry) : (e.context == ctx && e.id == o.id) = true ↔ e.context = ctx ∧ e.id = o.id := by
    rw [Bool.and_eq_true, beq_iff_eq, beq_iff_eq]
  have hhas : (tab.any fun e => e.context == ctx && e.id == o.id) = true ↔ ∃ e ∈ tab, e.context = ctx ∧ e.id = o.id := by
    simp only [List.any_eq_true, hmine]
  rw [residency, residencyOp]
  cases o.kind with
  | reside =>
    dsimp only
    refine ⟨fun h0 => ?_, fun h0 hbad => ?_, fun h0 hgood h => ?_, fun h0 hgood h hfull => ?_, fun h0 hgood h hroom => ?_⟩
    · simp [h0]
    · simp [h0, mt hok.1 hbad]
    · rw [if_neg h0, hok.2 hgood, hhas.2 h]
      simp [hmine]
    · simp [h0, hok.2 hgood, mt hhas.1 h, hfull]
    · simp [h0, hok.2 hgood, mt hhas.1 h, Nat.not_le.2 hroom]
  | evict =>
    dsimp only
    refine ⟨fun h0 => ?_, fun h0 h => ?_, fun h0 h => ?_⟩
    · simp [h0]
    · rw [if_neg h0, if_pos (hhas.2 h)]
      simp [beq_eq_decide]
    · simp [h0, mt hhas.1 h]
  | rquery =>
    dsimp only
    refine ⟨rfl, fun h0 => if_pos h0, fun h => ?_, fun h0 x e y htab hctx hid hfirst => ?_⟩
    · have hnone : (tab.find? fun e => e.context == ctx && e.id == o.id) = none :=
        List.find?_eq_none.2 fun e he hm => h ⟨e, he, (hmine e).1 hm⟩
      rw [hnone]
      exact ite_self _
    · have hfind : (tab.find? fun e => e.context == ctx && e.id == o.id) = some e :=
        List.find?_eq_some_iff_append.2 ⟨(hmine e).2 ⟨hctx, hid⟩, x, y, htab, fun f hf =>
          congrArg not (Bool.eq_false_iff.2 (mt (hmine f).1 (hfirst f hf)))⟩
      rw [if_neg h0, hfind]
      rfl

/-! ## The result (R228) -/

/-- A result is read back from its register. -/
theorem Strand.a_arrive {r : BitVec 5} (hr : r ≠ 0#5) (u : Strand) (w : Word) (q : BitVec 5) :
    (u.arrive r (some w)).a q = if q = r then w else u.a q := by
  rw [Strand.arrive, if_neg hr]
  exact Strand.reg_setReg u .a r q w hr

/-- A result makes its register available, and no other. -/
theorem Strand.isBusy_arrive {r : BitVec 5} (hr : r ≠ 0#5) (u : Strand) (w : Word) (q : BitVec 5) :
    (u.arrive r (some w)).isBusy q = (u.isBusy q && decide (q ≠ r)) := by
  have hq := q.isLt
  rw [Strand.arrive_eq_arrived hr, arrived, Strand.isBusy, Strand.isBusy]
  simp only [BitVec.getLsbD_and, BitVec.getLsbD_not, BitVec.getLsbD_shiftLeft, BitVec.getLsbD_one, BitVec.toNat_eq, ne_eq]
  congr 1
  grind

/-- A result leaves the operations of its strand, and the order of its reads. -/
theorem Strand.arrive_leaves {r : BitVec 5} (hr : r ≠ 0#5) (u : Strand) (w : Word) :
    (u.arrive r (some w)).resops = u.resops ∧ (u.arrive r (some w)).reads.map ReadOp.id = u.reads.map ReadOp.id := by
  rw [Strand.arrive_eq_arrived hr, arrived]
  simp

/-! ## The event (R230, R368) -/

theorem State.cluster_setStrand (s : State) (c : Nat) (n : Fin 4) (t : Strand) (d : Nat) :
    (s.setStrand c n t).cluster d = s.cluster d := rfl

/-- The oldest read decides what may be seen. -/
theorem Strand.visible_iff (u : Strand) (n : Nat) : u.visible n = true ↔ ReadsDone u n := by
  rw [Strand.visible, ReadsDone]
  cases u.reads <;> simp

section
variable {core : Nat} {strand : Fin 4} {s : State} {o : ResOp} {l : List ResOp} {k : Task}

theorem residencyOpPerform_waits (hops : (s.strand core strand).resops = o :: l) (h : ¬ ReadsDone (s.strand core strand) o.rd) :
    exec (.residencyOpPerform core strand) s = .next (s.res .stutter) := by
  simp only [exec_residencyOpPerform, execResidencyOpPerform, hops]
  exact if_pos (by simpa using mt (Strand.visible_iff _ _).1 h)

/-- The operation of a task that is known acts on the table of its core's cluster. -/
theorem residencyOpPerform_acts (hops : (s.strand core strand).resops = o :: l) (htask : s.task? o.task = some k)
    (hregion : s.region? k.regid ≠ none) (h : ReadsDone (s.strand core strand) o.rd) :
    let r := residencyOp (s.cluster (clusterOf core)).resid (s.contextOf k.regid) o (s.locationOk core k o.loc)
    let u := { s.strand core strand with resops := l }
    exec (.residencyOpPerform core strand) s =
      .next ((s.modCluster (clusterOf core) fun v => { v with resid := r.2 }).setStrand core strand
        (if u.task = o.task then u.arrive o.d (some r.1) else u)) := by
  have hregion' : (s.region? k.regid).isNone = false := Bool.eq_false_iff.2 (mt Option.isNone_iff_eq_none.1 hregion)
  simp only [exec_residencyOpPerform, execResidencyOpPerform, hops, (Strand.visible_iff _ _).2 h, htask, hregion', Bool.not_true,
    Bool.false_eq_true, if_false, beq_iff_eq]

end

/-- Settles O25: the words join the queue of their strand, and its oldest operation acts on the table and gives D its result. -/
theorem residencyOperations : Obligations.ResidencyOperations := by
  refine ⟨fun d a b e s he ha => ?_, fun core strand s o l k => ?_⟩
  · have havail (c : BitVec 5) (hc : c = b ∨ c = 0#5) : Available s .a [a, c, d] := fun hk r hr => ha hk r (by
      simp only [List.mem_cons] at hr ⊢
      rcases hc with rfl | rfl <;> tauto)
    exact ⟨residencyWord_retired he (havail b (.inl rfl)), residencyWord_retired he (havail 0#5 (.inr rfl)),
      residencyWord_retired he (havail 0#5 (.inr rfl))⟩
  intro u hops htask hregion
  refine ⟨fun r x hreads hlt => ?_, fun hdone => ?_⟩
  · exact residencyOpPerform_waits hops fun h => absurd (h r x hreads) (Nat.not_le.2 hlt)
  refine ⟨_, _, _, residency_residencyOp _ _ o (locationOk_iff s core k o.loc), residencyOpPerform_acts hops htask hregion hdone,
    ?_, fun c hc => ?_, .trans (.modCluster rfl) (.setStrand ..), fun d n hdn => ?_, fun hrun hd => ?_, fun h => ?_⟩
  · rw [State.cluster_setStrand, State.cluster_modCluster, if_pos rfl]
  · rw [State.cluster_setStrand, State.cluster_modCluster, if_neg hc.symm]
  · exact (State.strand_setStrand ..).trans (if_neg fun hsame => hdn.elim (· hsame.1.symm) (· hsame.2.symm))
  all_goals
    rw [State.strand_setStrand, if_pos ⟨rfl, rfl⟩]
  · rw [if_pos hrun]
    simp only [Strand.a_arrive hd, Strand.isBusy_arrive hd]
    exact ⟨if_pos trivial, by simp, fun x hx => ⟨if_neg hx, (congrArg _ (decide_eq_true hx)).trans (Bool.and_true _)⟩,
      Strand.arrive_leaves hd _ _⟩
  · split
    next hrun => exact if_pos (h.resolve_left (not_not_intro hrun))
    next => rfl

end Sys2Proof.Machine
end

section
/-! PROOFS. ERROR_RECORD (O32). A region that does not set FDOM takes it from an ancestor, and the model's search goes on past a
root that does not set it, to the region at physical address 0, where there is one. A state in which the child of such a root lies
there refutes O32; its statement does not ask that roots set FDOM (R253). Where they do, a record climbs as the statement says. -/

namespace Sys2Proof.Machine

open Sys2Proof.Claims

/-! ## Where every root sets FDOM (R222, R253) -/

/-- The roots set FDOM: their OVR has bit 10 (R253). -/
def RootsSetFdom (s : State) : Prop := ∀ q ∈ s.regions, q.parent = 0 → q.ovr.getLsbD 10 = true

section
variable {s : State}

theorem State.mem_of_regionAt? {pa : Nat} {q : Region} (h : s.regionAt? pa = some q) : q ∈ s.regions :=
  List.mem_of_find?_eq_some h

/-- A region that sets FDOM holds it itself. -/
theorem State.ancestor_of_sets {p : Region} (h : p.ovr.getLsbD 10 = true) (m : Nat) : s.ancestor 10 m p = p := by
  cases m with
  | zero => rfl
  | succ m => exact if_pos h

/-- A region that does not set FDOM takes it as its parent does, one step later. -/
theorem State.ancestor_of_parent {p q : Region} (h : p.ovr.getLsbD 10 = false) (hq : s.regionAt? p.parent = some q) (m : Nat) :
    s.ancestor 10 (m + 1) p = s.ancestor 10 m q := by
  rw [State.ancestor, h, hq]
  rfl

/-- The holder of FDOM for a region `n` levels below its root is found in `n` steps, no deeper than the region. -/
theorem State.ancestor_of_atDepth (hroots : RootsSetFdom s) {n m : Nat} {p : Region} (hp : p ∈ s.regions) (hdepth : AtDepth s n p)
    (hm : n ≤ m) : s.ancestor 10 m p = s.ancestor 10 n p ∧ ∃ j ≤ n, AtDepth s j (s.ancestor 10 n p) := by
  induction n generalizing p m with
  | zero =>
    simp only [State.ancestor_of_sets (hroots p hp hdepth)]
    exact ⟨trivial, 0, le_rfl, hdepth⟩
  | succ n ih =>
    by_cases hsets : p.ovr.getLsbD 10 = true
    · simp only [State.ancestor_of_sets hsets]
      exact ⟨trivial, n + 1, le_rfl, hdepth⟩
    obtain ⟨-, q, hq, hdepth⟩ := hdepth
    obtain ⟨m, rfl⟩ : ∃ i, m = i + 1 := ⟨m - 1, by omega⟩
    simp only [State.ancestor_of_parent (Bool.eq_false_iff.2 hsets) hq]
    obtain ⟨hsame, j, hj, hdepth⟩ := ih (State.mem_of_regionAt? hq) hdepth (Nat.le_of_succ_le_succ hm)
    exact ⟨hsame, j, Nat.le_succ_of_le hj, hdepth⟩

/-- The search for a mailbox sees of a region the holder of its FDOM, and goes on from that region's parent. -/
theorem State.faultDomain_congr {p q : Region} {m n : Nat} (h : s.inherit 10 p = s.inherit 10 q)
    (hup : ∀ u, s.regionAt? (s.inherit 10 q).parent = some u → (s.inherit 10 q).parent ≠ 0 → s.faultDomain m u = s.faultDomain n u) :
    s.faultDomain (m + 1) p = s.faultDomain (n + 1) q := by
  simp only [State.faultDomain, h]
  cases hu : s.regionAt? (s.inherit 10 q).parent with
  | none => rfl
  | some u =>
    by_cases hroot : (s.inherit 10 q).parent = 0
    · simp only [hroot, if_true]
    · simp only [hroot, if_false, hup u hu hroot]

/-- The search from a region `n` levels below its root ends within `n + 1` regions. -/
theorem State.faultDomain_of_atDepth (hroots : RootsSetFdom s) {n m : Nat} {p : Region} (hp : p ∈ s.regions)
    (hdepth : AtDepth s n p) (hm : n < m) (hn : n ≤ 8) : s.faultDomain m p = s.faultDomain (m + 1) p := by
  induction m generalizing n p with
  | zero => exact absurd hm (Nat.not_lt_zero n)
  | succ m ih =>
    obtain ⟨hsame, j, hj, hholder⟩ := State.ancestor_of_atDepth hroots hp hdepth hn
    rw [← hsame] at hholder
    refine State.faultDomain_congr rfl fun u hu hchild => ?_
    cases j with
    | zero => exact absurd hholder hchild
    | succ j =>
      obtain ⟨-, q, hq, hparent⟩ := hholder
      obtain rfl : q = u := Option.some.inj (hq.symm.trans hu)
      exact ih (State.mem_of_regionAt? hq) hparent (by omega) (by omega)

/-- A region whose own FDOM takes no record leaves it to its parent. -/
theorem State.faultDomain_of_noFaultBox {f p : Region} (hsets : f.ovr.getLsbD 10 = true) (hbox : NoFaultBox s f) (hchild : f.parent ≠ 0)
    (hp : s.regionAt? f.parent = some p) (m : Nat) : s.faultDomain (m + 1) f = s.faultDomain m p := by
  have hown : s.inherit 10 f = f := State.ancestor_of_sets hsets 8
  simp only [State.faultDomain, hown, hp, if_neg hchild]
  rcases hbox with hbox | hbox
  · rw [if_pos hbox]
  · rw [hbox]
    exact ite_self _

/-- The search from a region that does not set FDOM, or whose FDOM takes no record, is that from its parent. -/
theorem State.faultDomain_eq_of_parent (hroots : RootsSetFdom s) {f p : Region} {n : Nat} (hchild : f.parent ≠ 0)
    (hp : s.regionAt? f.parent = some p) (hdepth : AtDepth s n p) (hn : n ≤ 6) (h : f.ovr.getLsbD 10 = false ∨ NoFaultBox s f) :
    s.faultDomain 8 f = s.faultDomain 8 p := by
  have hmem := State.mem_of_regionAt? hp
  by_cases hsets : f.ovr.getLsbD 10 = true
  · have hbox := h.resolve_left (Bool.not_eq_false _ ▸ hsets)
    rw [State.faultDomain_of_noFaultBox hsets hbox hchild hp, State.faultDomain_of_atDepth hroots hmem hdepth (by omega) (by omega)]
  · refine State.faultDomain_congr ?_ fun _ _ _ => rfl
    rw [State.inherit, State.ancestor_of_parent (Bool.eq_false_iff.2 hsets) hp, State.inherit,
      (State.ancestor_of_atDepth hroots hmem hdepth (by omega : n ≤ 7)).1,
      (State.ancestor_of_atDepth hroots hmem hdepth (by omega : n ≤ 8)).1]

theorem State.ancestor_records (l : List Record) (n m : Nat) (p : Region) :
    ({ s with records := l } : State).ancestor n m p = s.ancestor n m p := by
  induction m generalizing p with
  | zero => rfl
  | succ m ih => simp only [State.ancestor, State.regionAt?, ih]

theorem State.faultDomain_records (l : List Record) (m : Nat) (p : Region) :
    ({ s with records := l } : State).faultDomain m p = s.faultDomain m p := by
  induction m generalizing p with
  | zero => rfl
  | succ m ih =>
    simp only [State.faultDomain, State.inherit, State.ancestor_records, ih]
    rfl

/-- A region that is there stands for its own REGID. -/
theorem State.heir_of_region {regid : Word} {p : Region} (h : s.region? regid = some p) (m : Nat) :
    s.heir (m + 1) regid = (some p, false) := by
  rw [State.heir, h]

/-- A record goes as one of its region's parent does, where FDOM of the region is not set or takes no record. -/
theorem errorRecord_asOfParent (hroots : RootsSetFdom s) {k n : Nat} {r : Record} {f p : Region} (hr : s.records[k]? = some r)
    (hf : s.region? r.regid = some f) (hchild : f.parent ≠ 0) (hp : s.regionAt? f.parent = some p)
    (hown : s.region? p.regid = some p) (hdepth : AtDepth s n p) (hn : n ≤ 6) (h : f.ovr.getLsbD 10 = false ∨ NoFaultBox s f) :
    exec (.errorRecord k) s = exec (.errorRecord k) { s with records := s.records.set k { r with regid := p.regid } } := by
  have hk : k < s.records.length := (List.getElem?_eq_some_iff.1 hr).1
  have hsame := State.faultDomain_eq_of_parent hroots hchild hp hdepth hn h
  have hset : (s.records.set k { r with regid := p.regid })[k]? = some { r with regid := p.regid } :=
    List.getElem?_set_self hk
  have herase : (s.records.set k { r with regid := p.regid }).eraseIdx k = s.records.eraseIdx k := List.eraseIdx_set_eq
  have hdest : ({ s with records := s.records.eraseIdx k } : State).heir 8 r.regid = (some f, false) :=
    State.heir_of_region hf 7
  have hdest' : ({ s with records := s.records.eraseIdx k } : State).heir 8 p.regid = (some p, false) :=
    State.heir_of_region hown 7
  simp only [exec_errorRecord, execErrorRecord, hr, hset, herase, hdest, hdest', Option.bind_some, State.faultDomain_records, hsame]

end

/-! ## A child of a root without FDOM, at address 0 -/

/-- A root that does not set FDOM. -/
def rootWithoutFdom : Region := { (default : Region) with regid := 1#64, pa := 0x10000, parent := 0, ovr := 0#32 }

/-- Its child, at physical address 0, does not set FDOM either, and holds mailbox 1 of its logical core 0 in the field. -/
def childAtZero : Region := { (default : Region) with regid := 2#64, pa := 0, parent := 0x10000, ovr := 0#32, fdom := 0x1000#16 }

/-- A record of the child, on its way by port 0. -/
def childsRecord : Record := ⟨2#64, 0, List.replicate 8 0#64, false⟩

/-- The child's record is on its way, and core 0 is mapped to the child. -/
def childsRecordState : State :=
  { (State.reset.modCore 0 fun k => { k with slot := .mapped, regid := 2#64, lcore := 0#12 }) with
    regions := [rootWithoutFdom, childAtZero], records := [childsRecord] }

/-- The deliveries at the ingress of core 0 after an event. -/
def deliveriesAtCore0 : Host.Outcome State Fault Refusal → Nat
  | .next t => (t.core 0).ingress.length
  | _ => 0

/-- Eight steps from the child lead back to the child: its own FDOM takes the record. -/
theorem childsRecord_delivered : deliveriesAtCore0 (exec (.errorRecord 0) childsRecordState) = 1 := by decide

/-- Eight steps from the root lead to the root, whose record goes to the host. -/
theorem rootsRecord_not_delivered : deliveriesAtCore0 (exec (.errorRecord 0)
    { childsRecordState with records := childsRecordState.records.set 0 { childsRecord with regid := 1#64 } }) = 0 := by decide

/-- Refutes O32: where a root does not set FDOM and its child lies at address 0, the child's record goes to the child's own FDOM,
though the child does not set it, and a record of the root to the host. -/
theorem not_recordsReachTheirFaultDomain : ¬ Obligations.RecordsReachTheirFaultDomain := by
  intro h
  obtain ⟨-, hclimbs, -, -⟩ := h 0 childsRecordState childsRecord rfl
  have hsame := hclimbs childAtZero rootWithoutFdom 0 rfl (by decide) (by decide) (by decide) (by decide) rfl (by decide) (.inl rfl)
  have hdelivered : 1 = 0 :=
    childsRecord_delivered.symm.trans ((congrArg deliveriesAtCore0 hsame).trans rootsRecord_not_delivered)
  exact absurd hdelivered Nat.one_ne_zero

end Sys2Proof.Machine
end

section
/-! PROOFS. COLL_HOP at a land entry (O34). A packet begins to land, or is refused where the collective notes a refused claim of rows
for its entry. The model notes claims of APPEND entries only (R243), but does not ask again whether the entry is one: a state that
notes a refusal for an entry with a walk of its own refutes O34, whose statement does not exclude it. Where none is noted, the packet
begins to land as the statement says. -/

namespace Sys2Proof.Machine

open Sys2Proof.Claims

/-! ## The landing of a packet begins (R239, R241) -/

/-- The packet's bytes agree with its stamp, or its collective asks for no check (R244). -/
def CollPacket.Intact (c : Coll) (p : CollPacket) : Prop := collChk c.image = false ∨ packetPair p.no p.data = p.stamp

theorem arrivalCheck_of_intact {c : Coll} {p : CollPacket} (h : p.Intact c) (s : State) (l : Loc) (inj : Bool) :
    s.arrivalCheck c p l inj = (s, p.failed) := by
  unfold State.arrivalCheck
  split
  · rfl
  next hchecks =>
    simp only [Bool.or_eq_true, Bool.not_eq_true', decide_eq_true_eq, not_or, Bool.not_eq_true] at hchecks
    obtain ⟨⟨hchk, hfailed⟩, -⟩ := hchecks
    rw [if_neg (by simpa using h.resolve_left hchk), hfailed]

theorem packetDead_of_alive {s : State} (h : s.anyFailed = false) (c : Coll) (p : CollPacket) (l : Loc) :
    s.packetDead c p l = none := if_neg (by simp [h])

theorem claimRows_of_ownWalk {c : Coll} {p : CollPacket} (h : (hopAt c.image p.entry).append = false) (s : State) (core : Nat) :
    s.claimRows core c p = (s, c) := if_pos (by simp [h])

theorem State.key_of_coll? {s : State} {key : Nat} {c : Coll} (h : s.coll? key = some c) : c.key = key := eq_of_beq (List.find?_some h :)

section
variable {s : State} {k core : Nat} {p : CollPacket} {c : Coll} {l : BitVec 12} {w : Walk} (hp : s.packets[k]? = some p)
  (hc : s.coll? p.coll = some c) (halive : s.anyFailed = false) (hop : (hopAt c.image p.entry).op = 5)
  (happend : (hopAt c.image p.entry).append = false) (hintact : p.Intact c)
  (hw : (s.core core).hopWalk core c p.ctx p.entry = some w)
include hc halive hop happend hintact hw

/-- A land entry with a walk of its own begins with the packet's pieces, unless a refused claim is noted for it. -/
theorem hopBegin_land : s.hopBegin core k c p = if c.refused p.entry then s.landRefused k c p else
    s.setPacket k { p with
      work := true, left := piecesOf 0 (w.addrsAt (4096 * p.no) (packetLen (collLen c.image) p.no)) } := by
  have hcoll : s.coll? c.key = some c := State.key_of_coll? hc ▸ hc
  have hwalk : (s.core core).landWalk core c p = some w := by
    rw [Core.landWalk, if_neg (by simp [happend]), hw]
  simp only [State.hopBegin, packetDead_of_alive halive, arrivalCheck_of_intact hintact, hcoll, Option.getD_some, hop,
    claimRows_of_ownWalk happend, hwalk, if_true]
  rfl

variable (hat : p.at_ = .core l) (htarget : s.ctxTarget c.regid p.ctx l = some (.live core)) (hwork : p.work = false)
  (hpair : ∀ a, (s.core core).armed? c p.ctx = some a → a.pair = c.pair)
  (harmed : core = c.origin ∨ (s.core core).armed? c p.ctx ≠ none)
include hp hat htarget hwork hpair harmed

/-- COLL_HOP of a packet at a land entry with a walk of its own, whose core takes part. -/
theorem collHop_land : exec (.collHop k) s = .next (if c.refused p.entry then s.landRefused k c p else
    s.setPacket k { p with
      work := true, left := piecesOf 0 (w.addrsAt (4096 * p.no) (packetLen (collLen c.image) p.no)) }) := by
  rw [← hopBegin_land hc halive hop happend hintact hw]
  simp only [exec_collHop, execCollHop, hp, hc, hat, htarget, State.hopAtCore, hwork, Bool.false_eq_true, if_false]
  split
  next a ha => rw [if_neg (by simpa using hpair a ha)]
  next hnone => rw [if_pos (by simp [harmed.resolve_right (not_not.2 hnone)])]

end

/-- A refused packet is no more (R243). -/
theorem length_landRefused {s : State} {k : Nat} (hk : k < s.packets.length) (c : Coll) (p : CollPacket) :
    (s.landRefused k c p).packets.length < s.packets.length := by
  have herase : (s.packets.eraseIdx k).length < s.packets.length := by
    rw [List.length_eraseIdx_of_lt hk]; omega
  unfold State.landRefused
  dsimp only
  split
  · exact (List.length_filter_le ..).trans_lt herase
  · exact herase

/-! ## A refusal noted for an entry with a walk of its own -/

/-- The hops of a collective of 16 bytes of INT32 without CHK: entry 0 copies in on its origin, logical core 1, and entry 1 lands on logical core 0. -/
def landingImage : List Byte :=
  natBytes 8 7 ++ natBytes 8 0 ++ natBytes 4 16 ++ [13#8, 2#8, 0#8, 0#8] ++ natBytes 4 1 ++ List.replicate 36 0#8 ++
    ([4#8, 0#8, 0#8, 0#8] ++ natBytes 12 0) ++ ([5#8, 0#8, 0#8, 0#8] ++ natBytes 4 0x80000000 ++ natBytes 8 0)

/-- The walk of entry 1: four elements of 4 bytes from address 0. -/
def landingWalk : Walk := ⟨0#64, [4, 1, 1, 1], [4, 0, 0, 0], 4, 0#8⟩

/-- The collective, which notes that entry 1 was refused rows though its walk has no APPEND. -/
def refusedColl : Coll := { (default : Coll) with
  key := 1, collid := 7#64, context := 1#64, regid := 1#64, origin := 5, numver := 1#2, image := landingImage, granted := [(1, 0)] }

/-- Its packet at logical core 0, before entry 1. -/
def landingPacket : CollPacket := { (default : CollPacket) with
  coll := 1, entry := 1, data := List.replicate 16 0#8, at_ := .core 0#12, ctx := 1#64 }

/-- The participant: core 0, mapped as logical core 0, whose COLL has armed with the collective's pair. -/
def refusedState : State :=
  { (State.reset.modCore 0 fun k => { k with
      slot := .mapped, regid := 1#64, lcore := 0#12
      arming := [{ (default : Arming) with collid := 7#64, context := 1#64, regid := 1#64, walks := [(1, landingWalk)], armed := true }] }) with
    regions := [{ (default : Region) with regid := 1#64, pa := 0x10000, ovr := 4#32, flags := 2#8 }]
    packets := [landingPacket], colls := [refusedColl] }

/-- Refutes O34: where a refused claim is noted for a land entry without APPEND, its packet is discarded and does not begin to land. -/
theorem not_collectivePacketsHopAndComplete : ¬ Obligations.CollectivePacketsHopAndComplete := by
  intro h
  have hc : refusedState.coll? landingPacket.coll = some refusedColl := by decide
  have halive : refusedState.anyFailed = false := by decide
  have htarget : refusedState.ctxTarget refusedColl.regid landingPacket.ctx 0#12 = some (.live 0) := by decide
  have hop : (hopAt refusedColl.image landingPacket.entry).op = 5 := by decide
  have happend : (hopAt refusedColl.image landingPacket.entry).append = false := by decide
  have hintact : landingPacket.Intact refusedColl := .inl (by decide)
  have hw : (refusedState.core 0).hopWalk 0 refusedColl landingPacket.ctx landingPacket.entry = some landingWalk := by decide
  have hpair : ∀ a, (refusedState.core 0).armed? refusedColl landingPacket.ctx = some a → a.pair = refusedColl.pair := by decide
  have harmed : (refusedState.core 0).armed? refusedColl landingPacket.ctx ≠ none := by decide
  have hrefused : refusedColl.refused landingPacket.entry = true := by decide
  obtain ⟨hhop, -⟩ := h
  obtain ⟨-, hlive⟩ := hhop 0 refusedState landingPacket rfl
  obtain ⟨-, -, hcore⟩ := hlive refusedColl hc halive
  obtain ⟨-, -, -, -, hland, -⟩ := hcore 0#12 0 rfl htarget
  have hbegins := hland landingWalk rfl hpair (.inr harmed) hop happend hintact hw
  have hdiscards := collHop_land (k := 0) rfl hc halive hop happend hintact hw rfl htarget rfl hpair (.inr harmed)
  rw [if_pos hrefused, hbegins] at hdiscards
  injection hdiscards with hsame
  have hfewer := length_landRefused (s := refusedState) (k := 0) Nat.zero_lt_one refusedColl landingPacket
  rw [← hsame] at hfewer
  exact absurd hfewer (Nat.lt_irrefl 1)

end Sys2Proof.Machine
end

section
/-! PROOFS. Facts that the proofs about scheduling and host packets share: bytes, the strands of a core, cores in service. -/

namespace Sys2Proof.Machine

open Sys2Proof.Claims

/-! ## Numbers as bytes -/

theorem leNat_natBytes (n v : Nat) : leNat (natBytes n v) = v % 256 ^ n := by
  induction n generalizing v with
  | zero => simp [natBytes, leNat, Nat.mod_one]
  | succ n ih => simp [natBytes, leNat, ih, Nat.pow_succ', Nat.mod_mul]

@[simp] theorem length_natBytes (n v : Nat) : (natBytes n v).length = n := by
  induction n generalizing v with
  | zero => rfl
  | succ n ih => simp [natBytes, ih]

@[simp] theorem length_readCells (m : List Host.Cell) (a n : Nat) : (readCells m a n).length = n := by
  induction n generalizing a with
  | zero => rfl
  | succ n ih => simp [readCells, ih]

/-! ## Poison (R140) -/

theorem mem_wordsOf {a n w : Nat} : w ∈ wordsOf a n ↔ 0 < n ∧ a / 8 ≤ w ∧ w * 8 < a + n := by
  unfold wordsOf
  split
  next h => simp [h]
  next h =>
    simp only [List.mem_map, List.mem_range]
    constructor
    · rintro ⟨i, hi, rfl⟩
      omega
    · rintro ⟨-, hlo, hhi⟩
      exact ⟨w - a / 8, by omega, by omega⟩

theorem Ram.poisoned_iff {m : Ram} {a n : Nat} (hn : 0 < n) : m.poisoned a n = true ↔ ¬ Clean m a n := by
  have hany : m.poisoned a n = true ↔ ∃ w ∈ wordsOf a n, w ∈ m.poison := by
    unfold Ram.poisoned
    rw [Bool.and_eq_true, List.any_eq_true]
    constructor
    · rintro ⟨-, w, hw, hp⟩
      exact ⟨w, hw, by simpa using hp⟩
    · rintro ⟨w, hw, hp⟩
      exact ⟨by cases h : m.poison <;> simp_all, w, hw, by simpa using hp⟩
  rw [hany, Clean]
  push Not
  exact exists_congr fun w => by rw [mem_wordsOf]; tauto

theorem Ram.poisoned_eq_false_iff {m : Ram} {a n : Nat} (hn : 0 < n) : m.poisoned a n = false ↔ Clean m a n := by
  rw [← Bool.not_eq_true, Ram.poisoned_iff hn, not_not]

/-! ## The strands of a core -/

theorem mem_toList_iff {α : Type} {n : Nat} {v : Vector α n} {x : α} : x ∈ v.toList ↔ ∃ i, v.get i = x := by
  rw [Vector.mem_toList_iff, Vector.mem_iff_getElem]
  exact ⟨fun ⟨i, hi, h⟩ => ⟨⟨i, hi⟩, h⟩, fun ⟨i, h⟩ => ⟨i, i.isLt, h⟩⟩

theorem Core.mem_strands {k : Core} {t : Strand} : t ∈ k.strands.toList ↔ ∃ n, k.strand n = t := mem_toList_iff

theorem Core.idle_iff (k : Core) : k.idle = true ↔ ∀ n, (k.strand n).task = 0 := by
  rw [Core.idle, List.all_eq_true]
  exact ⟨fun h n => by simpa using h _ (Core.mem_strands.mpr ⟨n, rfl⟩), fun h t ht => by
    obtain ⟨n, rfl⟩ := Core.mem_strands.mp ht
    simpa using h n⟩

theorem Core.idle_eq_false {k : Core} (h : ∃ n, (k.strand n).task ≠ 0) : k.idle = false := by
  obtain ⟨n, hn⟩ := h
  exact Bool.eq_false_iff.mpr fun hidle => hn ((Core.idle_iff k).mp hidle n)

/-! ## Cores in service -/

theorem State.inService_iff (s : State) (core : Nat) : s.inService core = true ↔ Usable s core := by
  simp only [State.inService, Usable, dieOf, Bool.and_eq_true, and_assoc, bne_iff_ne]
  exact and_congr_left fun _ => decide_eq_true_iff

theorem State.inService_eq_false {s : State} {core : Nat} (h : ¬ Usable s core) : s.inService core = false :=
  Bool.eq_false_iff.mpr fun hin => h ((s.inService_iff core).mp hin)

/-! ## The slot of a core (R261, R264) -/

theorem State.mapSlot_eq (s : State) (core : Nat) (lcore : BitVec 12) (regid : Word) :
    s.mapSlot core lcore regid = s.modCore core fun k => mappedCore k (s.contextOf regid) lcore regid := rfl

theorem State.bindMap_mapped {s : State} {core : Nat} (h : (s.core core).slot = .mapped) (lcore : BitVec 12) (regid : Word) :
    s.bindMap core lcore regid = none := if_pos (by simp [h])

theorem State.bindMap_eq {s : State} {core : Nat} (h : (s.core core).slot ≠ .mapped) (lcore : BitVec 12) (regid : Word) :
    s.bindMap core lcore regid = some (s.modCore core fun k => mappedCore k (s.contextOf regid) lcore regid) :=
  if_neg (by simpa using h)

theorem State.bindFree_idle {s : State} {core : Nat} (h : ∀ n, (s.strand core n).task = 0) :
    s.bindFree core = some (s.modCore core freedCore) := if_pos ((Core.idle_iff _).mpr h)

theorem State.bindFree_busy {s : State} {core : Nat} (h : ∃ n, (s.strand core n).task ≠ 0) : s.bindFree core = none :=
  if_neg (Bool.eq_false_iff.mp (Core.idle_eq_false h))

end Sys2Proof.Machine
end

section
/-! PROOFS. The words of the supervisor extension (O35, O36): what a word that is done, and one that is at fault, leaves. -/

namespace Sys2Proof.Machine

open Sys2Proof.Claims

/-! ## How a supervisor word ends (R265) -/

theorem Supervisor.reg_eq_supX (u : Supervisor) (r : BitVec 5) : u.reg r = supX u r := rfl

theorem State.modCluster_congr {s : State} {c : Nat} {f g : Cluster → Cluster} (h : f (s.cluster c) = g (s.cluster c)) :
    s.modCluster c f = s.modCluster c g := by
  unfold State.modCluster
  rw [h]

/-- An exception that is not delegated from below M-mode is taken in M-mode (log entry 7). -/
theorem Supervisor.exception_direct {u : Supervisor} {cause : Nat} (h : u.mode = .m ∨ u.medeleg.getLsbD cause = false) (tval : Word) :
    u.exception cause tval =
      { u with mcause := BitVec.ofNat 64 cause, mtval := tval, mepc := u.pc, mstatus := enterM u.mstatus u.mode, mode := .m,
               pc := u.mtvec &&& ~~~3#64 } := by
  apply if_neg
  rcases h with h | h <;> simp [h]

theorem Supervisor.exception_delegated {u : Supervisor} {cause : Nat} (hmode : u.mode ≠ .m) (hdeleg : u.medeleg.getLsbD cause = true)
    (tval : Word) :
    u.exception cause tval =
      { u with scause := BitVec.ofNat 64 cause, stval := tval, sepc := u.pc, mstatus := enterS u.mstatus u.mode, mode := .s,
               pc := u.stvec &&& ~~~3#64 } := by
  apply if_pos
  simp [hmode, hdeleg]

section
variable {word : Word} {body : State → SupAct} {s w : State} {i : Instr} {d : BitVec 5} {cause : Nat} {v : Word}

theorem supTraps_of_exception
    (h : exec i s = .next ((s.modSup fun u => u.exception cause v).res (.trapped 0#22 cause 0#16))) : SupTraps i s cause v := by
  unfold SupTraps
  rw [h, State.modSup]
  constructor
  · intro hdirect
    refine ⟨enterM s.sup.mstatus s.sup.mode, ?_⟩
    rw [State.modCluster_congr]
    exact congrArg (fun u => { s.cluster s.cur.cluster with sup := u }) (Supervisor.exception_direct hdirect v)
  · intro hmode hdeleg
    refine ⟨enterS s.sup.mstatus s.sup.mode, ?_⟩
    rw [State.modCluster_congr]
    exact congrArg (fun u => { s.cluster s.cur.cluster with sup := u }) (Supervisor.exception_delegated hmode hdeleg v)

theorem supTraps_of_fault (hi : exec i s = supWord word body s) (hm : s.sup.mode ≠ .u) (hb : body s = .fault cause v) :
    SupTraps i s cause v := by
  apply supTraps_of_exception
  rw [hi, supWord, if_neg hm, hb]

theorem supTraps_of_userMode (hi : exec i s = supWord word body s) (hm : s.sup.mode = .u) : SupTraps i s 2 word := by
  apply supTraps_of_exception
  rw [hi, supWord, if_pos hm]
  rfl

theorem supGives_of_done (hi : exec i s = supWord word body s) (hm : s.sup.mode ≠ .u) (hb : body s = .done d v w)
    (hcl : w.cur.cluster = s.cur.cluster) : SupGives i s w d v := by
  rw [SupGives, hi, supWord, if_neg hm, hb]
  simp only [State.modSup, hcl, Supervisor.nextWord, Supervisor.setReg_eq]

theorem exec_of_supWait (hi : exec i s = supWord word body s) (hm : s.sup.mode ≠ .u) (hb : body s = .wait) :
    exec i s = .next (s.res .waiting) := by
  rw [hi, supWord, if_neg hm, hb]

end

/-! ## XFLD (R268) -/

theorem extractLsb'_high_ne_zero_iff (f : Word) (n : Nat) (hn : n ≤ 64) : f.extractLsb' n (64 - n) ≠ 0#(64 - n) ↔ 2 ^ n ≤ f.toNat := by
  have hlt : f.toNat / 2 ^ n < 2 ^ (64 - n) := by
    rw [Nat.div_lt_iff_lt_mul (Nat.two_pow_pos n), ← Nat.pow_add]
    simpa [Nat.sub_add_cancel hn] using f.isLt
  rw [Ne, ← BitVec.toNat_inj, BitVec.extractLsb'_toNat, Nat.shiftRight_eq_div_pow, Nat.mod_eq_of_lt hlt]
  simp [Nat.div_eq_zero_iff]

/-- The low bit and the width that the descriptor of XFLD names. -/
theorem xfld_descriptor (f : Word) :
    (f.extractLsb' 0 6).toNat = f.toNat % 64 ∧ (f.extractLsb' 6 6).toNat = f.toNat / 64 % 64 := by
  simp [BitVec.extractLsb'_toNat, Nat.shiftRight_eq_div_pow]

theorem xfld_refuses_iff (f : Word) :
    (f.extractLsb' 12 52 != 0#52 || decide (64 < (f.extractLsb' 0 6).toNat + ((f.extractLsb' 6 6).toNat + 1))) = true ↔
      2 ^ 12 ≤ f.toNat ∨ 64 < f.toNat % 64 + (f.toNat / 64 % 64 + 1) := by
  rw [(xfld_descriptor f).1, (xfld_descriptor f).2, ← extractLsb'_high_ne_zero_iff f 12 (by decide)]
  simp

/-- FIELD-FAULT (R268): the value at fault is in mcause and mtval, or in scause and stval, and no other field of the machine changes. -/
theorem fieldFault_of_supTraps {i : Instr} {s : State} {f : Word} (h : SupTraps i s 25 f) :
    ∃ u, exec i s = .next ((s.modCluster s.cur.cluster fun k => { k with sup := u }).res (.trapped 0#22 25 0#16)) ∧
      u.x = (mySup s).x ∧ u.sram = (mySup s).sram ∧ ((u.mcause = 25#64 ∧ u.mtval = f) ∨ (u.scause = 25#64 ∧ u.stval = f)) := by
  obtain ⟨hm, hs⟩ := h
  by_cases hdirect : (mySup s).mode = .m ∨ (mySup s).medeleg.getLsbD 25 = false
  · obtain ⟨st, hst⟩ := hm hdirect
    exact ⟨_, hst, rfl, rfl, .inl ⟨rfl, rfl⟩⟩
  · obtain ⟨hmode, hdeleg⟩ := not_or.mp hdirect
    obtain ⟨st, hst⟩ := hs hmode (Bool.not_eq_false _ ▸ hdeleg)
    exact ⟨_, hst, rfl, rfl, .inr ⟨rfl, rfl⟩⟩

/-- Settles O36: the check of the descriptor, and then the field. -/
theorem xfldExtractsAField : Obligations.XfldExtractsAField := by
  intro b a d s hm
  have hrefuses := xfld_refuses_iff (s.sup.reg b)
  obtain ⟨hlo, hwidth⟩ := xfld_descriptor (s.sup.reg b)
  constructor
  · intro hbad
    exact fieldFault_of_supTraps (supTraps_of_fault (exec_xfld b a d s) hm (if_pos (hrefuses.mpr hbad)))
  · intro hf hin
    refine supGives_of_done (exec_xfld b a d s) hm ((if_neg fun h => ?_).trans ?_) rfl
    · exact (hrefuses.mp h).elim (Nat.not_le.mpr hf) (Nat.not_lt.mpr hin)
    · rw [hlo, hwidth]
      rfl

/-! ## RFCH and SGWT (R266, R269) -/

theorem privateRecord_iff (a : Word) : privateRecord a = true ↔ PrivateRecord a := by
  simp [privateRecord, PrivateRecord, privateSize]

theorem privateRecord_eq_false {a : Word} (h : ¬ PrivateRecord a) : (!privateRecord a) = true := by
  rw [Bool.not_eq_true', ← Bool.not_eq_true, privateRecord_iff]
  exact h

theorem fin4_of_toNat {v : Word} {r : Fin 4} (h : v.toNat = r.val) : fin4 v.toNat = r := by
  rw [h]
  exact Fin.ofNat_val_eq_self r

theorem getLsbD_foldl_bits (p : Nat → Bool) (l : List Nat) (acc : Word) {j : Nat} (hj : j < 64) :
    (l.foldl (fun acc i => if p i then acc else acc ||| (1#64 <<< i)) acc).getLsbD j =
      (acc.getLsbD j || decide (j ∈ l) && !p j) := by
  have hbit : ∀ i, (1#64 <<< i).getLsbD j = decide (j = i) := by
    intro i
    rw [BitVec.getLsbD_shiftLeft, BitVec.getLsbD_one, Bool.eq_iff_iff]
    simp only [hj, decide_true, Bool.true_and, Bool.and_eq_true, Bool.not_eq_true', decide_eq_false_iff_not, decide_eq_true_eq]
    omega
  induction l generalizing acc with
  | nil => simp
  | cons i l ih =>
    rw [List.foldl_cons, ih]
    by_cases hi : j = i
    · subst hi
      cases p j <;> simp [hbit]
    · cases p i <;> simp [hbit, hi]

/-- The signals of a cluster (R269): bits 0 to 3 say which rings hold something, and bits 4 to 7 are the pending events. -/
theorem Cluster.getLsbD_signals (k : Cluster) {j : Nat} (hj : j < 64) :
    k.signals.getLsbD j = if j < 4 then !(k.rings.get (fin4 j)).isEmpty else k.events.getLsbD j := by
  have hevents : ((k.events &&& 0xF0#8).zeroExtend 64).getLsbD j = (k.events.getLsbD j && decide (4 ≤ j)) := by
    by_cases hi : j < 8
    · interval_cases j <;> simp
    · simp [BitVec.getLsbD_of_ge k.events j (Nat.not_lt.mp hi)]
  rw [Cluster.signals, BitVec.getLsbD_or, hevents, getLsbD_foldl_bits (fun i => (k.rings.get (fin4 i)).isEmpty) _ _ hj]
  by_cases hi : j < 4
  · simp [hi]
  · simp [hi, Nat.not_lt.mp hi]

theorem eq_signals {k : Cluster} {p : Word} (hrings : ∀ i : Fin 4, p.getLsbD i.val = !(k.rings.get i).isEmpty)
    (hevents : ∀ i, 4 ≤ i → p.getLsbD i = k.events.getLsbD i) : p = k.signals := by
  apply BitVec.eq_of_getLsbD_eq
  intro i h64
  rw [k.getLsbD_signals h64]
  split
  next hi =>
    have hfin : fin4 i = ⟨i, hi⟩ := Fin.ext (Nat.mod_eq_of_lt hi)
    rw [hfin]
    exact hrings ⟨i, hi⟩
  next hi => exact hevents i (Nat.not_lt.mp hi)

section
variable {b a d : BitVec 5} {s : State} (hm : s.sup.mode ≠ .u)
include hm

theorem rfch_ring (h : 3 < (s.sup.reg a).toNat) : SupTraps (.rfch b a d) s 24 (s.sup.reg a) :=
  supTraps_of_fault (exec_rfch b a d s) hm (if_pos h)

theorem rfch_address (h : (s.sup.reg a).toNat ≤ 3) (hb : ¬ PrivateRecord (s.sup.reg b)) :
    SupTraps (.rfch b a d) s 24 (s.sup.reg b) :=
  supTraps_of_fault (exec_rfch b a d s) hm ((if_neg (Nat.not_lt.mpr h)).trans (if_pos (privateRecord_eq_false hb)))

theorem rfch_takes {r : Fin 4} (hr : (s.sup.reg a).toNat = r.val) (hb : PrivateRecord (s.sup.reg b)) :
    ((s.cluster s.cur.cluster).rings.get r = [] → SupGives (.rfch b a d) s s d 0#64) ∧
    ∀ x l, (s.cluster s.cur.cluster).rings.get r = x :: l →
      SupGives (.rfch b a d) s (s.modCluster s.cur.cluster fun k =>
        { k with rings := k.rings.set r l
                 sup := { k.sup with sram := writeCells k.sup.sram (s.sup.reg b).toNat (natBytes 32 x.toNat) } }) d 1#64 := by
  have hring : ¬ 3 < (s.sup.reg a).toNat := by omega
  obtain rfl := fin4_of_toNat hr
  have haddr : ¬ (!privateRecord (s.sup.reg b)) = true := by simp [(privateRecord_iff _).mpr hb]
  constructor
  · intro hempty
    refine supGives_of_done (exec_rfch b a d s) hm ?_ rfl
    dsimp only
    rw [if_neg hring, if_neg haddr, hempty]
  · intro x l hcons
    refine supGives_of_done (exec_rfch b a d s) hm ?_ rfl
    dsimp only
    rw [if_neg hring, if_neg haddr, hcons]

theorem sgwt_reserved (h : b ≠ 0#5) : SupTraps (.sgwt b a d) s 26 (s.sup.reg b) :=
  supTraps_of_fault (exec_sgwt b a d s) hm (if_pos h)

theorem sgwt_wanted (hb : b = 0#5) (h : s.sup.reg a = 0#64 ∨ 256 ≤ (s.sup.reg a).toNat) :
    SupTraps (.sgwt b a d) s 26 (s.sup.reg a) := by
  refine supTraps_of_fault (exec_sgwt b a d s) hm ((if_neg (not_not_intro hb)).trans (if_pos ?_))
  simpa [extractLsb'_high_ne_zero_iff _ 8] using h

theorem sgwt_waits (hb : b = 0#5) (hzero : s.sup.reg a ≠ 0#64) (hlt : (s.sup.reg a).toNat < 256)
    (hnone : (s.cluster s.cur.cluster).signals &&& s.sup.reg a = 0#64) : exec (.sgwt b a d) s = .next (s.res .waiting) := by
  refine exec_of_supWait (exec_sgwt b a d s) hm ((if_neg (not_not_intro hb)).trans ((if_neg ?_).trans (if_pos hnone)))
  simpa [hzero, extractLsb'_high_ne_zero_iff _ 8] using hlt

theorem sgwt_takes (hb : b = 0#5) (hlt : (s.sup.reg a).toNat < 256)
    (hsome : (s.cluster s.cur.cluster).signals &&& s.sup.reg a ≠ 0#64) :
    SupGives (.sgwt b a d) s (s.modCluster s.cur.cluster fun k =>
      { k with events := k.events &&& ~~~(((s.cluster s.cur.cluster).signals &&& s.sup.reg a).truncate 8) }) d
      ((s.cluster s.cur.cluster).signals &&& s.sup.reg a) := by
  have hzero : s.sup.reg a ≠ 0#64 := fun h => hsome (by rw [h, BitVec.and_zero])
  refine supGives_of_done (exec_sgwt b a d s) hm ((if_neg (not_not_intro hb)).trans ((if_neg ?_).trans (if_neg hsome))) rfl
  simpa [hzero, extractLsb'_high_ne_zero_iff _ 8] using hlt

end

/-! ## DISP (R263, R270) -/

/-- The bytes of a map record (R263). -/
def mapRecord (lc regid : Nat) : List Byte :=
  [3#8, 0#8] ++ natBytes 2 lc ++ List.replicate 12 0#8 ++ natBytes 8 regid ++ List.replicate 8 0#8

/-- The bytes of a free record (R263). -/
def freeRecord : List Byte := 4#8 :: List.replicate 31 0#8

theorem recordBad_of_kindZero {l : List Byte} (h : l.head? = some 0#8) : recordBad l = true := by
  obtain ⟨m, rfl⟩ := List.head?_eq_some_iff.mp h
  simp [recordBad, field, leNat]

theorem recordBad_freeRecord : recordBad freeRecord = false := by decide

section
variable {lc regid : Nat} (hlc : lc < 0x1000) (hregid : regid < 2 ^ 64)

include hlc in
theorem field_mapRecord_lcore : field (mapRecord lc regid) 2 2 = lc := by
  have hbytes : ((mapRecord lc regid).drop 2).take 2 = natBytes 2 lc := rfl
  rw [field, hbytes, leNat_natBytes]
  omega

include hregid in
theorem field_mapRecord_regid : field (mapRecord lc regid) 0x10 8 = regid := by
  have hbytes : ((mapRecord lc regid).drop 0x10).take 8 = natBytes 8 regid := rfl
  rw [field, hbytes, leNat_natBytes]
  omega

include hlc in
theorem recordBad_mapRecord : recordBad (mapRecord lc regid) = false := by
  have hkind : field (mapRecord lc regid) 0 1 = 3 := rfl
  have hstrands : field (mapRecord lc regid) 1 1 = 0 := rfl
  have hzeros : ∀ o ∈ [(4, 4), (8, 8), (0x18, 8)], zeros (mapRecord lc regid) o.1 o.2 = true := by
    simp only [List.forall_mem_cons]
    exact ⟨rfl, rfl, rfl, nofun⟩
  have h4 := hzeros (4, 4) (by decide)
  have h8 := hzeros (8, 8) (by decide)
  have h18 := hzeros (0x18, 8) (by decide)
  simp [recordBad, hkind, hstrands, field_mapRecord_lcore hlc, h4, h8, h18, Nat.not_le.mpr hlc]

include hlc hregid in
theorem bindRecord_mapRecord (s : State) (core : Nat) :
    s.bindRecord core (mapRecord lc regid) = s.bindMap core (BitVec.ofNat 12 lc) (BitVec.ofNat 64 regid) := by
  have hkind : field (mapRecord lc regid) 0 1 = 3 := rfl
  simp only [State.bindRecord, hkind, field_mapRecord_lcore hlc, field_mapRecord_regid hregid]

end

theorem bindRecord_freeRecord (s : State) (core : Nat) : s.bindRecord core freeRecord = s.bindFree core := rfl

section
variable {b a d : BitVec 5} {s : State} (hm : s.sup.mode ≠ .u)
include hm

theorem disp_address (h : ¬ PrivateRecord (s.sup.reg a)) : SupTraps (.disp b a d) s 27 (s.sup.reg a) :=
  supTraps_of_fault (exec_disp b a d s) hm (if_pos (privateRecord_eq_false h))

variable {l : List Byte} (ha : PrivateRecord (s.sup.reg a)) (hl : readCells s.sup.sram (s.sup.reg a).toNat 32 = l)
include ha hl

theorem disp_record (h : recordBad l = true) : SupTraps (.disp b a d) s 27 (s.sup.reg a) := by
  subst hl
  exact supTraps_of_fault (exec_disp b a d s) hm ((if_neg (by simp [(privateRecord_iff _).mpr ha])).trans (if_pos h))

variable (hgood : recordBad l = false)
include hgood

theorem disp_core (h : ¬ (Usable s (s.sup.reg b).toNat ∧ clusterOf (s.sup.reg b).toNat = s.cur.cluster)) :
    SupTraps (.disp b a d) s 27 (s.sup.reg b) := by
  subst hl
  refine supTraps_of_fault (exec_disp b a d s) hm ((if_neg (by simp [(privateRecord_iff _).mpr ha])).trans
    ((if_neg (ne_true_of_eq_false hgood)).trans (if_pos ?_)))
  rw [← State.inService_iff, Classical.not_and_iff_not_or_not] at h
  simpa using h

variable (hcore : Usable s (s.sup.reg b).toNat) (hcl : clusterOf (s.sup.reg b).toNat = s.cur.cluster)
include hcore hcl

theorem disp_refused (h : s.bindRecord (s.sup.reg b).toNat l = none) : SupGives (.disp b a d) s s d 1#64 := by
  subst hl
  refine supGives_of_done (exec_disp b a d s) hm ((if_neg (by simp [(privateRecord_iff _).mpr ha])).trans
    ((if_neg (ne_true_of_eq_false hgood)).trans ((if_neg ?_).trans ?_))) rfl
  · simp [(State.inService_iff _ _).mpr hcore, hcl]
  · rw [h]

theorem disp_takes {w : State} (h : s.bindRecord (s.sup.reg b).toNat l = some w) (hw : w.cur.cluster = s.cur.cluster) :
    SupGives (.disp b a d) s w d 0#64 := by
  subst hl
  refine supGives_of_done (exec_disp b a d s) hm ((if_neg (by simp [(privateRecord_iff _).mpr ha])).trans
    ((if_neg (ne_true_of_eq_false hgood)).trans ((if_neg ?_).trans ?_))) hw
  · simp [(State.inService_iff _ _).mpr hcore, hcl]
  · rw [h]

end

/-! ## Base words (R17, log entry 8) -/

section
variable {s : State} {rest : List Turn} {c : Nat} (h : SupRuns s rest c)
include h

/-- The turn of a supervisor at a base word of four bytes runs it. -/
theorem step_baseWord {w : Nat} (hat : readCells (s.cluster c).sup.sram (s.cluster c).sup.pc.toNat 4 = natBytes 4 w)
    (hfour : leNat (natBytes 2 w) % 4 = 3) (hbase : ∃ e, decodeSup (natBytes 4 w) = .error e) :
    step s = (supActing s rest c).runBase c (natBytes 4 w) fun v t => exec (resolveEvent c v) t := by
  obtain ⟨hturns, hc, hhealth, hpc⟩ := h
  obtain ⟨e, he⟩ := hbase
  have hsup : ¬ (!s.supervised c) = true := by
    rw [Bool.not_eq_true', Bool.not_eq_false, supervised_iff]
    rcases List.mem_pair.mp hhealth with h | h <;> simp [h]
  have hfetch : (s.cluster c).sup.fetch = some (natBytes 4 w) := by
    have htwo : readCells (s.cluster c).sup.sram (s.cluster c).sup.pc.toNat 2 = natBytes 2 w := by
      simpa [readCells, natBytes] using congrArg (List.take 2) hat
    simp [Supervisor.fetch, privateSize, hat, htwo, hfour, hpc, (by omega : (s.cluster c).sup.pc.toNat + 2 ≤ 0x80000)]
  have hacting : (supActing s rest c).sup.fetch = some (natBytes 4 w) := hfetch
  have hnext : s.nextTurn = .supervisor c := by rw [State.nextTurn, hturns]
  have htake : s.takeTurn = { s with turns := rest, tick := s.tick + 1 } := by rw [State.takeTurn, hturns]; rfl
  rw [step, hnext, htake]
  refine (if_neg (Nat.not_le.mpr hc)).trans ((if_neg hsup).trans ?_)
  change (match (supActing s rest c).sup.fetch with | none => _ | some l => match decodeSup l with | .ok (i, _) => _ | .error _ => (supActing s rest c).runBase c l _) = _
  rw [hacting]
  dsimp only
  rw [he]
  rfl

end

section
variable {s : State} {c : Nat} {l : List Byte} {i : Rv} {resolve : Word → State → Host.Outcome State Fault Refusal}
  (hword : rvWord l = some i)
include hword

theorem runBase_done {u : Supervisor} (hrun : s.rvRun c l.length i = .done u) :
    s.runBase c l resolve = .next (({ s with free := s.free + 1 }.modCluster c fun k => { k with sup := u }).res .issued) := by
  unfold State.runBase
  rw [hword]
  dsimp only
  rw [hrun]

theorem runBase_store {u : Supervisor} {a n : Nat} {v : Word} (hrun : s.rvRun c l.length i = .store u a n v) (ha : a < privateSize) :
    s.runBase c l resolve = .next ((({ s with free := s.free + 1 }.modCluster c fun k => { k with sup := u }).res .issued).modCluster c
      fun k => { k with sup := { k.sup with sram := writeCells k.sup.sram a (natBytes n v.toNat) } }) := by
  unfold State.runBase
  rw [hword]
  dsimp only
  rw [hrun]
  dsimp only
  rw [supPlace_private ha]
  dsimp only
  rw [State.supStore_private n v ha]

theorem runBase_trap {cause : Nat} {tval : Word} (hrun : s.rvRun c l.length i = .trap cause tval) (hcause : cause ≠ supIllegal) :
    s.runBase c l resolve =
      .next ((s.modCluster c fun k => { k with sup := k.sup.exception cause tval }).res (.trapped 0#22 cause 0#16)) := by
  unfold State.runBase
  rw [hword]
  dsimp only
  rw [hrun]
  dsimp only
  rw [if_neg hcause]

end

theorem rvSigned_eq_toInt (v : Word) : rvSigned 64 v = v.toInt := by
  have hlt := v.isLt
  rw [rvSigned, intOf, BitVec.toInt_eq_toNat_cond, Nat.mod_eq_of_lt hlt]
  by_cases hsign : 2 * v.toNat < 2 ^ 64
  · rw [if_pos hsign, if_neg (by simpa using hsign)]
  · rw [if_neg hsign, if_pos (by simpa using hsign)]
    rfl

theorem rvResult_add (x y : Word) : rvResult .add false x y = x + y := by
  simp [rvResult, RvAlu.apply, wordOf, rvSigned_eq_toInt, BitVec.ofInt_add]

/-- A store of eight aligned bytes to the private SRAM. -/
theorem rvStore_private {s : State} {c : Nat} {u : Supervisor} {a v : Word} (halign : a.toNat % 8 = 0) (hin : a.toNat + 8 ≤ 0x80000) :
    s.rvStore c u a 8 v = .store u a.toNat 8 v := by
  have hpriv : a.toNat < privateSize := by simp only [privateSize]; omega
  rw [State.rvStore, if_neg (by simp [halign]), supPlace_private hpriv]

/-- The cause that ECALL takes in each mode. -/
theorem rvRun_ecall {s : State} {c len : Nat} {m : Mode × Nat} (hm : m ∈ [(Mode.u, 8), (.s, 9), (.m, 11)])
    (hmode : (s.cluster c).sup.mode = m.1) : s.rvRun c len (.sys .ecall) = .trap m.2 0#64 := by
  have hcause : s.rvRun c len (.sys .ecall) = .trap (match (s.cluster c).sup.mode with | .u => 8 | .s => 9 | .m => 11) 0#64 := rfl
  rw [hcause, hmode]
  simp only [List.mem_cons, List.not_mem_nil, or_false] at hm
  obtain rfl | rfl | rfl := hm <;> rfl

/-- Three base words of RV64GC (log entry 8). -/
theorem baseWords : BaseWords := by
  intro s rest c h
  dsimp only
  refine ⟨fun hat => ?_, fun hat halign hin => ?_, fun m hm hat hmode hdirect => ?_⟩
  · have hword : rvWord (natBytes 4 0x00150513) = some (.opImm .add false 10#5 10#5 1#64) := by decide
    rw [step_baseWord h hat (by decide) ⟨.notSupervisor, rfl⟩, runBase_done hword (congrArg _ (congrArg _ (rvResult_add _ _)))]
    rfl
  · have hword : rvWord (natBytes 4 0x00B53023) = some (.store 3#2 10#5 11#5 0#64) := by decide
    have haddr : (s.cluster c).sup.reg 10#5 + 0#64 = (s.cluster c).sup.x.get 10 := BitVec.add_zero _
    rw [← haddr] at halign hin ⊢
    have hrun : (supActing s rest c).rvRun c (natBytes 4 0x00B53023).length (.store 3#2 10#5 11#5 0#64) = .store _ _ 8 _ :=
      rvStore_private halign hin
    rw [step_baseWord h hat (by decide) ⟨.notSupervisor, rfl⟩,
      runBase_store (s := supActing s rest c) hword hrun (Nat.lt_of_lt_of_le (Nat.lt_add_of_pos_right (by decide)) hin)]
    rfl
  · have hword : rvWord (natBytes 4 0x00000073) = some (.sys .ecall) := by decide
    have hcause : m.2 ≠ supIllegal := by
      have hall : ∀ m ∈ [(Mode.u, 8), (.s, 9), (.m, 11)], m.2 ≠ supIllegal := by decide
      exact hall m hm
    refine ⟨enterM (s.cluster c).sup.mstatus (s.cluster c).sup.mode, ?_⟩
    rw [step_baseWord h hat (by decide) ⟨.notSupervisor, rfl⟩,
      runBase_trap hword (rvRun_ecall (s := supActing s rest c) hm hmode) hcause, State.modCluster_congr]
    exact congrArg (fun u => { s.cluster c with sup := u }) (Supervisor.exception_direct hdirect 0#64)

/-! ## The statement -/

/-- R265: the four words of the extension in U-mode. -/
theorem supervisorWords_userMode {b a d : BitVec 5} {s : State} (hm : s.sup.mode = .u) :
    ∀ i ∈ [(Instr.rfch b a d, 0), (.xfld b a d, 1), (.sgwt b a d, 2), (.disp b a d, 3)],
      SupTraps i.1 s 2 (BitVec.ofNat 64 (0x0B + d.toNat * 2 ^ 7 + i.2 * 2 ^ 12 + a.toNat * 2 ^ 15 + b.toNat * 2 ^ 20)) := by
  simp only [List.forall_mem_cons]
  exact ⟨supTraps_of_userMode (exec_rfch b a d s) hm, supTraps_of_userMode (exec_xfld b a d s) hm,
    supTraps_of_userMode (exec_sgwt b a d s) hm, supTraps_of_userMode (exec_disp b a d s) hm, nofun⟩

section
variable {b a d : BitVec 5} {s : State} (hm : s.sup.mode ≠ .u) (ha : PrivateRecord (s.sup.reg a))
include hm ha

/-- R270: DISP of a map record. -/
theorem disp_mapRecord {lc regid : Nat} (hlc : lc < 0x1000) (hregid : regid < 2 ^ 64)
    (hl : readCells s.sup.sram (s.sup.reg a).toNat 32 = mapRecord lc regid) :
    let core := (s.sup.reg b).toNat
    (¬ (Usable s core ∧ clusterOf core = s.cur.cluster) → SupTraps (.disp b a d) s 27 (s.sup.reg b)) ∧
    (Usable s core → clusterOf core = s.cur.cluster → (s.core core).slot = .mapped → SupGives (.disp b a d) s s d 1#64) ∧
    (Usable s core → clusterOf core = s.cur.cluster → (s.core core).slot ≠ .mapped → SupGives (.disp b a d) s
      (s.modCore core fun k => mappedCore k (s.contextOf (BitVec.ofNat 64 regid)) (BitVec.ofNat 12 lc) (BitVec.ofNat 64 regid))
      d 0#64) := by
  have hgood := recordBad_mapRecord (regid := regid) hlc
  have hbind := bindRecord_mapRecord hlc hregid s (s.sup.reg b).toNat
  refine ⟨disp_core hm ha hl hgood, fun hcore hcl hmapped => ?_, fun hcore hcl hunmapped => ?_⟩
  · exact disp_refused hm ha hl hgood hcore hcl (hbind.trans (State.bindMap_mapped hmapped _ _))
  · exact disp_takes hm ha hl hgood hcore hcl (hbind.trans (State.bindMap_eq hunmapped _ _)) rfl

/-- R270: DISP of a free record. -/
theorem disp_freeRecord (hl : readCells s.sup.sram (s.sup.reg a).toNat 32 = freeRecord)
    (hcore : Usable s (s.sup.reg b).toNat) (hcl : clusterOf (s.sup.reg b).toNat = s.cur.cluster) :
    let core := (s.sup.reg b).toNat
    ((∃ n, (s.strand core n).task ≠ 0) → SupGives (.disp b a d) s s d 1#64) ∧
    ((∀ n, (s.strand core n).task = 0) → SupGives (.disp b a d) s (s.modCore core freedCore) d 0#64) := by
  have hbind := bindRecord_freeRecord s (s.sup.reg b).toNat
  refine ⟨fun hbusy => ?_, fun hidle => ?_⟩
  · exact disp_refused hm ha hl recordBad_freeRecord hcore hcl (hbind.trans (State.bindFree_busy hbusy))
  · exact disp_takes hm ha hl recordBad_freeRecord hcore hcl (hbind.trans (State.bindFree_idle hidle)) rfl

end

/-- Settles O35: each word by its own check and effect. -/
theorem supervisorWords : Obligations.SupervisorWords := by
  refine ⟨baseWords, fun b a d s => ⟨supervisorWords_userMode, fun hm => ?_⟩⟩
  refine ⟨rfch_ring hm, rfch_address hm, fun r => rfch_takes hm, fun p hrings hevents => ?_, disp_address hm, fun ha => ?_⟩
  · obtain rfl := eq_signals hrings hevents
    exact ⟨sgwt_reserved hm, sgwt_wanted hm, sgwt_waits hm, sgwt_takes hm⟩
  · exact ⟨fun hkind => disp_record hm ha rfl (recordBad_of_kindZero hkind),
      fun lc regid hl hlc hregid => disp_mapRecord hm ha hlc hregid hl,
      fun hl hcore hcl => disp_freeRecord hm ha hl hcore hcl⟩

end Sys2Proof.Machine
end

section
/-! PROOFS. A pre-empt record that names strands whose task is still being loaded (O37). -/

namespace Sys2Proof.Machine

open Sys2Proof.Claims

/-- A task bound to core 0 that the loader of the core still loads: it waits to start. -/
def loadingTask : Task := { (default : Task) with key := 1, core := 0, strands := 1#4, st := .waiting, loading := true }

/-- Strand 0 of core 0 is the loading task's. -/
def loadingState : State :=
  { (State.reset.modStrand 0 0 fun v => { v with task := 1 }) with tasks := [loadingTask], nextTask := 2 }

/-- A pre-empt record for a task that is not live changes nothing. -/
theorem bindPreempt_notLive {s : State} {core : Nat} {m : BitVec 4} {n : Fin 4} {v : Task} (hcore : core < 4096)
    (hmask : maskStrands m = [n]) (hv : s.task? (s.strand core n).task = some v) (hlive : v.live = false) :
    exec (.bindPreempt core m) s = .next (s.res .stutter) := by
  have hv' : s.task? ((s.core core).strand n).task = some v := hv
  have hnone : s.bindPreempt core m = none := by
    simp [State.bindPreempt, hmask, hv', hlive]
  rw [exec_bindPreempt, execBindPreempt, hnone]
  exact if_neg (Nat.not_le.mpr hcore)

/-- Refutes O37: a pre-empt record stops the task of the named strands where it runs, drains or stops. A task that is bound and still
being loaded waits, and stays as it is. -/
theorem not_bindRecordsMapFreeAndStop : ¬ Obligations.BindRecordsMapFreeAndStop := by
  intro h
  obtain ⟨-, -, -, -, -, -, -, hstops, -⟩ := h 0 0#12 0#64 1#4 loadingState
  have hcore : Usable loadingState 0 := ⟨by decide, by decide, by decide⟩
  have hnames : ∀ n : Fin 4, (1#4).getLsbD n.val = true → (loadingState.strand 0 n).task = 1 := by decide
  have hsame : exec (.bindPreempt 0 1#4) loadingState = .next (loadingState.res .stutter) :=
    bindPreempt_notLive (n := 0) (v := loadingTask) hcore.1 (by decide) (by decide) rfl
  obtain ⟨t, ht, -, htask, -⟩ := hstops loadingTask hcore (by decide) rfl (by decide) (by decide) hnames
  obtain rfl : loadingState.res .stutter = t := Host.Outcome.next.inj (hsame.symm.trans ht)
  have hwaits : TaskState.waiting = .stopping := congrArg Task.st (Option.some.inj htask)
  cases hwaits

end Sys2Proof.Machine
end

section
/-! PROOFS. A gang that waits for cores and bears the mark of a boundary at which it stood still (O44). -/

namespace Sys2Proof.Machine

open Sys2Proof.Claims

/-- A root region of cluster 0. -/
def gangRoot : Region :=
  { (default : Region) with regid := 1#64, pa := 0x10000, parent := 0, ovr := 0xFFF#32, flags := 2#8, numver := 1, clusters := 1#64, cores := 1 }

/-- A gang of one task, whose header lies at address 0, waits for a core, marked as if it had stood still at the boundary before with
nothing passed. -/
def markedGang : Gang :=
  { (default : Gang) with id := 7#64, regid := 1#64, parts := [(0#64, 0, 0, 1, 0)], suspect := some [] }

/-- The header at address 0 names producer 9, which has not fired. -/
def markedGangState : State :=
  { State.reset with regions := [gangRoot], gangs := [markedGang], hbm := Ram.empty.write 0x30 [9#8] }

/-- The gangs after an event. -/
def gangStates : Host.Outcome State Fault Refusal → List Nat
  | .next t => t.gangs.map (·.st)
  | _ => []

/-- How the attempt of a gang of region `r` ends. -/
def attemptOf (w : State) (g : Gang) (r : Region) : Attempt :=
  let p : Fin 2 := Fin.ofNat 2 g.port
  let sp := w.packetSpace p g.regid
  ((w.ring3 p sp r g 0).grantParts p sp r g.parts 0 []).2

/-- The cores that an attempt grants. -/
def Attempt.cores : Attempt → Option (List Nat)
  | .granted l => some (l.map (·.core))
  | _ => none

theorem Attempt.granted_of_cores {a : Attempt} {cs : List Nat} (h : a.cores = some cs) : ∃ l, a = .granted l ∧ l.map (·.core) = cs := by
  cases a with
  | granted l => exact ⟨l, rfl, Option.some.inj h⟩
  | wait part => cases h
  | status n part => cases h

/-- A gang whose attempt is granted runs. -/
theorem runs_of_attempted {w t : State} {k : Nat} {g : Gang} {r : Region} {cs : List Nat} (h : Attempted w t k g)
    (hr : w.region? g.regid = some r) (hgrant : (attemptOf w g r).cores = some cs) (hcores : cs.Nodup) :
    ∃ v, t.gangs[k]? = some v ∧ v.st = 1 := by
  obtain ⟨l, hl, rfl⟩ := Attempt.granted_of_cores hgrant
  rw [attemptOf] at hl
  have hatt := h r hr
  rw [hl] at hatt
  obtain ⟨-, -, -, v, hv, -, hst, -⟩ := hatt hcores
  exact ⟨v, hv, hst⟩

/-- The attempt finds core 0 for the task. -/
theorem markedGang_granted : (attemptOf markedGangState markedGang gangRoot).cores = some [0] := by decide

/-- The boundary that grants the gang its core also finds it still, as the mark says it was, and marks it stalemated. -/
theorem markedGang_stalemated : gangStates (exec (.tempoBoundary 0) markedGangState) = [2] := by decide

/-- Refutes O44: the boundary at which a waiting gang is granted its cores leaves it stalemated, and not running, where it bears the
mark of R276 for a boundary before. -/
theorem not_gangsLaunchRetryAndEnd : ¬ Obligations.GangsLaunchRetryAndEnd := by
  intro h
  obtain ⟨-, -, hboundary, -⟩ := h
  have hup : PortUp markedGangState 0 := by unfold PortUp; decide
  obtain ⟨t, ht, hatt⟩ := hboundary 0 markedGangState markedGang rfl rfl rfl rfl (fun _ => rfl) (fun hdown => absurd hup hdown)
    (fun v hv => nomatch hv) (fun v hv => nomatch hv)
  obtain ⟨v, hv, hruns⟩ := runs_of_attempted (k := 0) (r := gangRoot) hatt (by decide) markedGang_granted (List.nodup_singleton 0)
  have hstill : t.gangs.map (·.st) = [2] := (congrArg gangStates ht).symm.trans markedGang_stalemated
  have hfirst : (t.gangs.map (·.st))[0]? = some 1 := by rw [List.getElem?_map, hv, Option.map_some, hruns]
  rw [hstill] at hfirst
  cases hfirst

end Sys2Proof.Machine
end

section
/-! PROOFS. Host packets: how one completes (R251, R310, R311), and what an event of an issued packet reads of it. -/

namespace Sys2Proof.Machine

open Sys2Proof.Claims

/-! ## Ports and queues -/

theorem vector_get_set_self {α : Type} {n : Nat} (v : Vector α n) (i : Fin n) (x : α) : (v.set i x).get i = x :=
  Vector.getElem_set_self i.isLt

theorem State.port_modPort (s : State) (p : Fin 2) (f : Port → Port) : (s.modPort p f).port p = f (s.port p) :=
  vector_get_set_self _ _ _

theorem State.modPort_modPort (s : State) (p : Fin 2) (f g : Port → Port) :
    (s.modPort p f).modPort p g = s.modPort p fun v => g (f v) := by
  rw [State.modPort, State.port_modPort]
  simp only [State.modPort, State.setPort, Vector.set_set]

theorem State.modPort_congr {s : State} {p : Fin 2} {f g : Port → Port} (h : f (s.port p) = g (s.port p)) :
    s.modPort p f = s.modPort p g := by
  unfold State.modPort
  rw [h]

theorem Port.signal_eq_sends (v : Port) (n : BitVec 6) : v.signal n = sends v n := rfl

/-- A vector goes out alike whatever the queues hold. -/
theorem sends_queues (v : Port) (l : Vector HostQueue 16) (n : BitVec 6) : sends { v with queues := l } n = { sends v n with queues := l } := by
  unfold sends
  dsimp only
  split <;> rfl

theorem sends_queues_eq (v : Port) (n : BitVec 6) : (sends v n).queues = v.queues := by
  unfold sends
  dsimp only
  split <;> rfl

/-! ## The state at which a packet completes -/

/-- The queue after the record of packet `x`. -/
def recorded (u : HostQueue) (x : Packet) : HostQueue :=
  { u with
    ctail := (u.ctail + 16) % 2 ^ (u.qsize.toNat / 2 ^ 8 % 32), issued := u.issued.filter fun y => y.id ≠ x.id,
    waiting := u.waiting && field x.bytes 0 1 ≠ 8 }

theorem recorded_eq (u : HostQueue) (x : Packet) : recorded u x =
    { u with ctail := (u.ctail + 16) % u.recSize, issued := u.issued.filter fun y => y.id != x.id, waiting := u.waiting && x.type != 8 } := by
  simp [recorded, HostQueue.recSize, Packet.type, bne, beq_eq_decide]

/-- The queue halted at packet `x` (R251, R311). -/
def haltedAt (u : HostQueue) (x : Packet) : HostQueue := { u with halted := true, head := x.off, fetchAt := x.off, fetched := [] }

/-- The port with queue `q` replaced. -/
def Port.withQueue (v : Port) (q : Fin 16) (u : HostQueue) : Port := { v with queues := v.queues.set q u }

theorem Port.withQueue_get (v : Port) (q : Fin 16) (u : HostQueue) : (v.withQueue q u).queues.get q = u := vector_get_set_self _ _ _

theorem Port.withQueue_withQueue (v : Port) (q : Fin 16) (u w : HostQueue) : (v.withQueue q u).withQueue q w = v.withQueue q w := by
  simp only [Port.withQueue, Vector.set_set]

theorem sends_withQueue (v : Port) (q : Fin 16) (u : HostQueue) (n : BitVec 6) :
    sends (v.withQueue q u) n = (sends v n).withQueue q u := by
  rw [Port.withQueue, sends_queues, Port.withQueue, sends_queues_eq]

/-- The port after a queue's vector, where it has IRQ set. -/
def Port.interrupted (v : Port) (q : Fin 16) : Port := if (v.queues.get q).irq then sends v (v.queues.get q).vec else v

theorem State.modPort_self (s : State) (p : Fin 2) : (s.modPort p fun v => v) = s := by
  have hself : s.ports.set p (s.port p) = s.ports := Vector.set_getElem_self p.isLt
  rw [State.modPort, State.setPort, hself]

theorem State.modQueue_eq (s : State) (p : Fin 2) (q : Fin 16) (f : HostQueue → HostQueue) :
    s.modQueue p q f = s.modPort p fun v => v.withQueue q (f (v.queues.get q)) := rfl

theorem State.modQueue_congr {s : State} {p : Fin 2} {q : Fin 16} {f g : HostQueue → HostQueue} (h : f (s.queue p q) = g (s.queue p q)) :
    s.modQueue p q f = s.modQueue p q g :=
  State.modPort_congr (congrArg (fun u => (s.port p).withQueue q u) h)

theorem State.modQueue_modQueue (s : State) (p : Fin 2) (q : Fin 16) (f g : HostQueue → HostQueue) :
    (s.modQueue p q f).modQueue p q g = s.modQueue p q fun u => g (f u) := by
  simp only [State.modQueue_eq, State.modPort_modPort, Port.withQueue_get, Port.withQueue_withQueue]

theorem State.interrupt_eq (s : State) (p : Fin 2) (q : Fin 16) : s.interrupt p q = s.modPort p fun v => v.interrupted q := by
  unfold State.interrupt State.queue
  dsimp only
  split
  next h => exact State.modPort_congr (if_pos h).symm
  next h => exact (s.modPort_self p).symm.trans (State.modPort_congr (if_neg h).symm)

theorem Port.interrupted_withQueue (v : Port) (q : Fin 16) (u : HostQueue) :
    (v.withQueue q u).interrupted q = if u.irq then sends (v.withQueue q u) u.vec else v.withQueue q u := by
  rw [Port.interrupted, Port.withQueue_get]

/-- The vectors before and after a halt go out alike after it. -/
theorem Port.interrupted_haltedAt (v : Port) (q : Fin 16) (u : HostQueue) (x : Packet) :
    (((v.withQueue q u).interrupted q).withQueue q (haltedAt u x)).interrupted q =
      if u.irq then sends (sends (v.withQueue q (haltedAt u x)) u.vec) u.vec else v.withQueue q (haltedAt u x) := by
  rw [Port.interrupted_withQueue, Port.interrupted_withQueue]
  change (if u.irq then sends _ u.vec else _) = _
  split
  next => simp only [sends_withQueue, Port.withQueue_withQueue]
  next => rw [Port.withQueue_withQueue]

theorem Port.interrupted_queues (v : Port) (q : Fin 16) : (v.interrupted q).queues = v.queues := by
  unfold Port.interrupted
  split
  next => exact sends_queues_eq v _
  next => rfl

theorem State.ringWrite_eq (s : State) (p : Fin 2) (base : Word) (off : Nat) (l : List Byte) :
    let a := base.toNat % 2 ^ 52 + off
    s.ringWrite p base off l = ({ s with hbm := if base.getLsbD 63 || s.portLost p a then s.hbm else s.hbm.write a l } : State).modPort p
      fun v => { v with host := if base.getLsbD 63 then writeCells v.host a l else v.host } := by
  intro a
  have hself (w : State) : (w.modPort p fun v => { v with host := v.host }) = w := w.modPort_self p
  rw [State.ringWrite]
  change (if base.getLsbD 63 = true then _ else if s.portLost p a = true then _ else _) = _
  cases base.getLsbD 63 with
  | true => rfl
  | false =>
    cases s.portLost p a with
    | true => exact (hself s).symm
    | false => exact (hself { s with hbm := s.hbm.write a l }).symm

/-- A completion in the model's steps: the record, the queue with its vector, and the halted queue with one more. -/
theorem State.completePacket_steps (s : State) (p : Fin 2) (q : Fin 16) (x : Packet) (st detail : Nat) :
    s.completePacket p q x st detail =
      (s.ringWrite p (s.queue p q).cbase (s.queue p q).ctail (recordBytes x st detail)).modPort p fun v =>
        let v1 := (v.withQueue q (recorded (v.queues.get q) x)).interrupted q
        if st = 1 || st = 2 then (v1.withQueue q (haltedAt (recorded (v.queues.get q) x) x)).interrupted q else v1 := by
  rw [State.completePacket]
  simp only [← recorded_eq]
  cases st = 1 || st = 2 with
  | false => rw [if_neg Bool.false_ne_true, State.interrupt_eq, State.modQueue_eq, State.modPort_modPort]; rfl
  | true =>
    rw [if_pos rfl, State.halt, State.interrupt_eq, State.interrupt_eq, State.modQueue_eq, State.modQueue_eq, State.modPort_modPort,
      State.modPort_modPort, State.modPort_modPort]
    refine State.modPort_congr ?_
    rw [Port.interrupted_queues, Port.withQueue_get]
    rfl

/-- R251, R310, R311: a packet completes as `Claims.completed` says. -/
theorem State.completePacket_eq (s : State) (p : Fin 2) (q : Fin 16) (x : Packet) (st detail : Nat) :
    s.completePacket p q x st detail = completed s p q x st detail := by
  rw [State.completePacket_steps, State.ringWrite_eq, State.modPort_modPort]
  unfold State.modPort completed
  cases decide (st = 1) || decide (st = 2) with
  | false =>
    dsimp only
    rw [if_neg Bool.false_ne_true, Port.interrupted_withQueue]
    rfl
  | true =>
    dsimp only
    rw [if_pos rfl, Port.interrupted_haltedAt]
    rfl

/-! ## The packet of an event -/

theorem State.portUp_iff (s : State) (p : Fin 2) : s.portUp p = true ↔ PortUp s p := bne_iff_ne

theorem State.packet?_of_atHead {s : State} {p : Fin 2} {q : Fin 16} {k ty : Nat} {x : Packet} (h : PacketAtHead s p q k ty x) :
    s.packet? p q k ty = some x := by
  obtain ⟨hport, hx, hty⟩ := h
  have hx' : (s.queue p q).issued[k]? = some x := hx
  have hty' : x.type = ty := hty
  rw [State.packet?, if_pos ((s.portUp_iff p).mpr hport), hx']
  simp [hty']

theorem State.setDone_eq (s : State) (p : Fin 2) (q : Fin 16) (id n : Nat) : s.setDone p q id n = progressed s p q id n := by
  simp only [State.setDone, progressed, beq_iff_eq]
  rfl

/-! ## Reads of a ring in HBM (R309) -/

theorem State.ringRead_hbm {s : State} {p : Fin 2} {base : Word} (hbase : base.getLsbD 63 = false) (off n : Nat) :
    let a := base.toNat % 2 ^ 52 + off
    s.ringRead p base off n = (s, if s.hbm.poisoned a n || s.portLost p a then none else some (readCells s.hbm.cells a n)) := by
  rw [State.ringRead, hbase]
  rfl

theorem State.ringRead_of_ringBytes {s : State} {p : Fin 2} {base : Word} {off : Nat} {l : List Byte} (h : RingBytes s p base off l)
    (hl : 0 < l.length) : s.ringRead p base off l.length = (s, some l) := by
  obtain ⟨hbase, hreach, hclean, hcells⟩ := h
  rw [State.ringRead_hbm hbase, if_neg, ← hcells]
  rw [(Ram.poisoned_eq_false_iff hl).mpr hclean, hreach]
  decide

theorem State.ringRead_fails {s : State} {p : Fin 2} {base : Word} {off n : Nat} (hbase : base.getLsbD 63 = false) (hn : 0 < n)
    (h : ¬ Clean s.hbm (base.toNat % 2 ^ 52 + off) n ∨ s.portLost p (base.toNat % 2 ^ 52 + off) = true) :
    s.ringRead p base off n = (s, none) := by
  rw [State.ringRead_hbm hbase, if_pos]
  rwa [Bool.or_eq_true, Ram.poisoned_iff hn]

end Sys2Proof.Machine
end

section
/-! PROOFS. PACKET_FETCH, FETCH_RETRY, PACKET_ISSUE and PAD (O40). -/

namespace Sys2Proof.Machine

open Sys2Proof.Claims

theorem HostQueue.mayFetch_iff (u : HostQueue) : u.mayFetch = true ↔ MayFetch u := by
  simp [HostQueue.mayFetch, MayFetch, and_assoc]

theorem packetLength_eq (size off : Nat) (h : List Byte) :
    packetLength size off h = if 1 ≤ field h 2 2 ∧ field h 2 2 ≤ 64 ∧ off + 16 * field h 2 2 ≤ size then 16 * field h 2 2 else 16 := by
  simp [packetLength, and_assoc]

section
variable {p : Fin 2} {q : Fin 16} {s : State} (hport : PortUp s p)
include hport

/-- PACKET_FETCH, and FETCH_RETRY after a failed read, fetch. -/
theorem exec_fetch {i : Instr × Bool} (hi : i ∈ [(Instr.packetFetch p q, false), (.fetchRetry p q, true)])
    (hmay : MayFetch (s.queue p q)) (herr : (s.queue p q).fetcherr = i.2) : exec i.1 s = .next (s.fetchOne p q) := by
  have hup := (s.portUp_iff p).mpr hport
  have hfetch := (HostQueue.mayFetch_iff _).mpr hmay
  simp only [List.mem_cons, List.not_mem_nil, or_false] at hi
  obtain rfl | rfl := hi
  · exact if_pos (by simp [hup, hfetch, herr])
  · exact if_pos (by simp [hup, hfetch, herr])

omit hport in
/-- The fetcher reads the header and then the packet whole. -/
theorem State.fetchOne_reads {h l : List Byte} (hh : RingBytes s p (s.queue p q).qbase (s.queue p q).fetchAt h)
    (hl : RingBytes s p (s.queue p q).qbase (s.queue p q).fetchAt l) (hhead : h.length = 16)
    (hlen : l.length = packetLength (s.queue p q).size (s.queue p q).fetchAt h)
    (hroom : l.length ≤ ((s.queue p q).tail + (s.queue p q).size - (s.queue p q).fetchAt) % (s.queue p q).size) :
    s.fetchOne p q = s.modQueue p q fun u => { u with
      fetcherr := false, fetched := u.fetched ++ [⟨u.nextId, u.fetchAt, l, 0, []⟩], nextId := u.nextId + 1,
      fetchAt := (u.fetchAt + l.length) % u.size } := by
  have hpos : 0 < l.length := by
    rw [hlen, packetLength_eq]
    split <;> omega
  have hfirst := State.ringRead_of_ringBytes hh (by omega)
  have hwhole := State.ringRead_of_ringBytes hl hpos
  rw [hhead] at hfirst
  rw [State.fetchOne]
  dsimp only
  rw [hfirst]
  dsimp only
  rw [← hlen, if_neg (Nat.not_lt.mpr hroom), hwhole]

omit hport in
/-- A header that cannot be read sets FETCHERR. -/
theorem State.fetchOne_fails (hbase : (s.queue p q).qbase.getLsbD 63 = false)
    (h : ¬ Clean s.hbm ((s.queue p q).qbase.toNat % 2 ^ 52 + (s.queue p q).fetchAt) 16 ∨
      s.portLost p ((s.queue p q).qbase.toNat % 2 ^ 52 + (s.queue p q).fetchAt) = true) :
    s.fetchOne p q = s.modQueue p q fun u => { u with fetcherr := true } := by
  rw [State.fetchOne]
  dsimp only
  rw [State.ringRead_fails hbase (by decide) h]

/-- PACKET_ISSUE reads the header of the first fetched packet again. -/
theorem exec_packetIssue_reads {x : Packet} {l : List Packet} {h : List Byte} (hx : (s.queue p q).fetched = x :: l)
    (hmay : (s.queue p q).mayIssue x = true) (hread : RingBytes s p (s.queue p q).qbase x.off h) (hlen : h.length = 16) :
    let popped := s.modQueue p q fun u => { u with fetched := l }
    exec (.packetIssue p q) s = .next (
      if h ≠ x.bytes.take 16 then popped.completePacket p q x 1 0
      else if x.formatBad = true then popped.completePacket p q x 2 0
      else s.modQueue p q fun u => { u with
        fetched := l, head := (x.off + x.bytes.length) % u.size, issued := u.issued ++ [x], waiting := u.waiting || x.type == 8 }) := by
  have hup := (s.portUp_iff p).mpr hport
  have hgoes : ¬ (!s.portUp p || !(s.queue p q).mayIssue x) = true := by simp [hup, hmay]
  have hpop : s.unfetch p q = s.modQueue p q fun u => { u with fetched := l } := by
    refine State.modQueue_congr ?_
    rw [hx]
    rfl
  have hheader := State.ringRead_of_ringBytes hread (by omega)
  rw [hlen] at hheader
  rw [exec_packetIssue, execPacketIssue]
  dsimp only
  rw [hx]
  dsimp only
  rw [if_neg hgoes, hheader]
  dsimp only
  rw [hpop, State.modQueue_modQueue, apply_ite Host.Outcome.next, apply_ite Host.Outcome.next]
  simp only [bne_iff_ne]
  rfl

end

/-- Settles O40: the fetch of a packet, its issue, and PAD. -/
theorem packetsAreFetchedIssuedAndCompleted : Obligations.PacketsAreFetchedIssuedAndCompleted := by
  intro p q k s hport
  refine ⟨fun i hi hmay herr => ⟨fun h l hh hl hhead hlen hroom => ?_, fun hbase hbad => ?_⟩, fun x l h hx hmay hread hlen => ?_,
    fun x hx => ?_⟩
  · rw [← packetLength_eq] at hlen
    rw [exec_fetch hport hi hmay herr, State.fetchOne_reads hh hl hhead hlen hroom]
    rfl
  · rw [exec_fetch hport hi hmay herr, State.fetchOne_fails hbase hbad]
    rfl
  · have hissue := exec_packetIssue_reads hport hx hmay hread hlen
    refine ⟨fun hchanged => ?_, fun hsame hbad => ?_, fun hsame hgood => ?_⟩
    · rw [hissue, if_pos hchanged, State.completePacket_eq]
      rfl
    · rw [hissue, if_neg (not_not_intro hsame), if_pos hbad, State.completePacket_eq]
      rfl
    · rw [hissue, if_neg (not_not_intro hsame), if_neg (ne_true_of_eq_false hgood), beq_eq_decide]
      rfl
  · rw [← State.completePacket_eq, exec_pad, execPad, State.packet?_of_atHead hx]

end Sys2Proof.Machine
end

section
/-! PROOFS. HCOPY, HSIGNAL, HWAIT and HWAIT_POLL (O43). -/

namespace Sys2Proof.Machine

open Sys2Proof.Claims

theorem isNone_eq_false {α : Type} {o : Option α} (h : o ≠ none) : o.isNone = false := by
  rwa [Bool.eq_false_iff, ne_eq, Option.isNone_iff_eq_none]

section
variable {p : Fin 2} {q : Fin 16} {k : Nat} {s : State} {x : Packet}

/-! ## HCOPY -/

/-- The next stretch of an HCOPY: from the end of a copy onto a range above its source. -/
theorem hcopyStep_eq (src dst n done : Nat) :
    let back : Prop := src < dst ∧ dst < src + n
    let o := if back then (dst + (n - done) - 1) / 8 * 8 - dst else done
    hcopyStep src dst n done = (o, if back then n - done - o else min (n - done) (8 - (dst + done) % 8)) := by
  unfold hcopyStep
  by_cases hback : src < dst ∧ dst < src + n
  · have hoffset (a : Nat) : (if a ≤ dst then 0 else a - dst) = a - dst := by split <;> omega
    simp [hback, hoffset]
  · simp [hback]

section
variable (hx : PacketAtHead s p q k 6 x)
include hx

theorem exec_hcopy_unknown (hr : s.region? x.regid = none) : exec (.hcopy p q k) s = .next (completed s p q x 4 0) := by
  rw [← State.completePacket_eq, exec_hcopy, execHcopy, State.packet?_of_atHead hx]
  exact if_pos (by rw [hr]; rfl)

variable (hr : s.region? x.regid ≠ none)
include hr

theorem exec_hcopy_outside (h : s.rangeOk (s.packetSpace p x.regid) (x.num 0x10 8) (x.num 0x20 8) false = false ∨
    s.rangeOk (s.packetSpace p x.regid) (x.num 0x18 8) (x.num 0x20 8) true = false) :
    exec (.hcopy p q k) s = .next (completed s p q x 5 0) := by
  rw [← State.completePacket_eq, exec_hcopy, execHcopy, State.packet?_of_atHead hx]
  refine (if_neg (ne_true_of_eq_false (isNone_eq_false hr))).trans (if_pos ?_)
  rcases h with h | h <;> simp [h]

variable (hsrc : s.rangeOk (s.packetSpace p x.regid) (x.num 0x10 8) (x.num 0x20 8) false = true)
  (hdst : s.rangeOk (s.packetSpace p x.regid) (x.num 0x18 8) (x.num 0x20 8) true = true)
include hsrc hdst

theorem exec_hcopy_done (h : x.num 0x20 8 ≤ x.done) : exec (.hcopy p q k) s = .next (completed s p q x 0 0) := by
  rw [← State.completePacket_eq, exec_hcopy, execHcopy, State.packet?_of_atHead hx]
  refine (if_neg (ne_true_of_eq_false (isNone_eq_false hr))).trans ((if_neg ?_).trans (if_pos h))
  simp [hsrc, hdst]

theorem exec_hcopy_stretch {s1 s2 : State} {bs : List Byte} {bad : Bool} {l : Loc} {o m : Nat} (h : x.done < x.num 0x20 8)
    (hstep : hcopyStep (x.num 0x10 8) (x.num 0x18 8) (x.num 0x20 8) x.done = (o, m))
    (hread : s.hostRead p (s.packetSpace p x.regid) (x.num 0x10 8 + o) m = (s1, some (bs, bad)))
    (hreach : s1.hostReach p (s.packetSpace p x.regid) (x.num 0x18 8 + o) true = (s2, some l)) :
    exec (.hcopy p q k) s = .next (if x.done + m = x.num 0x20 8 then completed (s2.writeLoc l bs bad) p q x 0 0
      else progressed (s2.writeLoc l bs bad) p q x.id (x.done + m)) := by
  rw [← State.completePacket_eq, ← State.setDone_eq, exec_hcopy, execHcopy, State.packet?_of_atHead hx]
  refine (if_neg (ne_true_of_eq_false (isNone_eq_false hr))).trans ((if_neg ?_).trans ((if_neg (Nat.not_le.mpr h)).trans ?_))
  · simp [hsrc, hdst]
  · rw [hstep]
    dsimp only
    rw [hread]
    dsimp only
    rw [hreach, apply_ite Host.Outcome.next]

end

/-! ## HSIGNAL -/

section
variable (hx : PacketAtHead s p q k 7 x)
include hx

theorem exec_hsignal_unknown (hdone : x.done = 0) (hr : s.region? x.regid = none) :
    exec (.hsignal p q k) s = .next (completed s p q x 4 0) := by
  rw [← State.completePacket_eq, exec_hsignal, execHsignal, State.packet?_of_atHead hx]
  dsimp only
  rw [hdone, hr]
  rfl

theorem exec_hsignal_sends {c : Nat} (hdone : x.done = 0) (hr : s.region? x.regid ≠ none)
    (ht : s.target x.regid (BitVec.ofNat 12 (x.num 0x10 2)) = some (.live c)) :
    exec (.hsignal p q k) s = .next ((progressed s p q x.id 1).modCore c fun v =>
      { v with incs := v.incs ++ [⟨Fin.ofNat 64 (x.num 0x12 1), BitVec.ofNat 64 (x.num 0x18 8), none, some (p.val, q.val, x.id)⟩] }) := by
  rw [← State.setDone_eq, exec_hsignal, execHsignal, State.packet?_of_atHead hx]
  dsimp only
  rw [hdone, if_pos (Option.isSome_iff_ne_none.mpr hr), ht]
  rfl

theorem exec_hsignal_waits (hdone : x.done = 1) : exec (.hsignal p q k) s = .next (s.res .stutter) := by
  rw [exec_hsignal, execHsignal, State.packet?_of_atHead hx]
  dsimp only
  rw [hdone]
  rfl

theorem exec_hsignal_applied (hdone : 2 ≤ x.done) : exec (.hsignal p q k) s = .next (completed s p q x 0 0) := by
  obtain ⟨n, hn⟩ := Nat.exists_eq_add_of_le' hdone
  rw [← State.completePacket_eq, exec_hsignal, execHsignal, State.packet?_of_atHead hx]
  dsimp only
  rw [hn]
  rfl

end

/-! ## HWAIT and HWAIT_POLL -/

/-- HWAIT and HWAIT_POLL read the word. -/
theorem exec_hwait_polls {i : Instr} (hx : PacketAtHead s p q k 8 x) (hi : i = .hwait p q k ∧ x.done = 0 ∨
    i = .hwaitPoll p q ∧ x.done ≠ 0 ∧
      ((s.ports.get p).queues.get q).issued.find? (fun y => field y.bytes 0 1 == 8 && y.done != 0) = some x) :
    exec i s = .next (s.pollWait p q x) := by
  obtain ⟨rfl, hdone⟩ | ⟨rfl, -, hfind⟩ := hi
  · rw [exec_hwait, execHwait, State.packet?_of_atHead hx]
    exact if_neg (by simp [hdone])
  · have hfind' : ((s.queue p q).issued.find? fun y => y.type == 8 && y.done != 0) = some x := hfind
    rw [exec_hwaitPoll, execHwaitPoll, hfind']
    exact if_pos ((s.portUp_iff p).mpr hx.1)

theorem State.pollWait_unknown (hr : s.region? x.regid = none) : s.pollWait p q x = completed s p q x 4 0 := by
  rw [← State.completePacket_eq, State.pollWait]
  exact if_pos (by rw [hr]; rfl)

section
variable (hr : s.region? x.regid ≠ none)
include hr

theorem State.pollWait_outside (h : s.rangeOk (s.packetSpace p x.regid) (x.num 0x10 8) 8 false = false) :
    s.pollWait p q x = completed s p q x 5 0 := by
  rw [← State.completePacket_eq, State.pollWait]
  exact (if_neg (ne_true_of_eq_false (isNone_eq_false hr))).trans (if_pos (by rw [h]; rfl))

/-- A word of HBM that is reached is read. -/
theorem State.pollWait_reads {w : State} {a : Nat} (h : s.rangeOk (s.packetSpace p x.regid) (x.num 0x10 8) 8 false = true)
    (hreach : s.hostReach p (s.packetSpace p x.regid) (x.num 0x10 8) false = (w, some ⟨.hbm, a⟩)) :
    s.pollWait p q x = if w.hbm.poisoned a 8 then completed w p q x 5 0
      else if x.num 0x18 8 ≤ leNat (readCells w.hbm.cells a 8) then completed w p q x 0 0 else progressed w p q x.id 1 := by
  simp only [← State.completePacket_eq, ← State.setDone_eq]
  rw [State.pollWait]
  refine (if_neg (ne_true_of_eq_false (isNone_eq_false hr))).trans ((if_neg (by rw [h]; decide)).trans ?_)
  rw [hreach]
  rfl

end

end

/-- Settles O43: the four packets by their cases. -/
theorem dataPacketsCopySignalAndWait : Obligations.DataPacketsCopySignalAndWait := by
  intro p q k s x
  refine ⟨fun hx => ⟨exec_hcopy_unknown hx, exec_hcopy_outside hx, fun hr hsrc hdst => ⟨exec_hcopy_done hx hr hsrc hdst, ?_⟩⟩,
    fun hx => ⟨exec_hsignal_unknown hx, fun c => exec_hsignal_sends hx, exec_hsignal_waits hx, exec_hsignal_applied hx⟩,
    fun i hx hi => ?_⟩
  · intro s1 s2 bs bad l hlt hread hreach
    exact exec_hcopy_stretch hx hr hsrc hdst hlt (hcopyStep_eq _ _ _ _) hread hreach
  · rw [exec_hwait_polls hx hi]
    refine ⟨fun hr => congrArg _ (State.pollWait_unknown hr), fun hr h => congrArg _ (State.pollWait_outside hr h),
      fun w a hr h hreach => ?_⟩
    rw [State.pollWait_reads hr h hreach]
    refine ⟨fun hbad => congrArg _ (if_pos ((Ram.poisoned_iff (by decide)).mpr hbad)), fun hclean hle => ?_, fun hclean hlt => ?_⟩
    · rw [(Ram.poisoned_eq_false_iff (by decide)).mpr hclean]
      exact congrArg _ (if_pos hle)
    · rw [(Ram.poisoned_eq_false_iff (by decide)).mpr hclean]
      exact congrArg _ (if_neg (Nat.not_le.mpr hlt))

end Sys2Proof.Machine
end

section
/-! PROOFS. MAP, UNMAP, BIND and INVALIDATION (O42). -/

namespace Sys2Proof.Machine

open Sys2Proof.Claims

section
variable {p : Fin 2} {q : Fin 16} {k : Nat} {s : State} {x : Packet}

theorem tableRoom_eq_false {pa n : Nat} (h : 0x6000000000 < pa + n) : tableRoom pa n = false := by
  simp [tableRoom, hbmTop, Nat.not_le.mpr h]

/-! ## MAP -/

section
variable (hx : PacketAtHead s p q k 3 x)
include hx

theorem exec_map_unknown (hr : s.region? x.regid = none) : exec (.map p q k) s = .next (completed s p q x 4 0) := by
  rw [← State.completePacket_eq, exec_map, execMap, State.packet?_of_atHead hx]
  exact if_pos (by rw [hr]; rfl)

variable (hr : s.region? x.regid ≠ none)
include hr

theorem exec_map_outside (h : 0x6000000000 < x.num 0x10 8 + 8 * x.num 0x18 4) :
    exec (.map p q k) s = .next (completed s p q x 5 0) := by
  rw [← State.completePacket_eq, exec_map, execMap, State.packet?_of_atHead hx]
  exact (if_neg (ne_true_of_eq_false (isNone_eq_false hr))).trans (if_pos (by rw [tableRoom_eq_false h]; rfl))

theorem exec_map_writes (hroom : tableRoom (x.num 0x10 8) (8 * x.num 0x18 4) = true) (hfirst : s.portLost p (x.num 0x10 8) = false)
    (hlast : s.portLost p (x.num 0x10 8 + 8 * x.num 0x18 4 - 1) = false)
    (hentries : ∀ i, i < x.num 0x18 4 → entryInWindow (x.num (0x20 + 8 * i) 8) = false) :
    exec (.map p q k) s = .next (completed
      { s with hbm := s.hbm.writeAll (x.num 0x10 8) ((x.bytes.drop 0x20).take (8 * x.num 0x18 4)) } p q x 0 0) := by
  rw [← State.completePacket_eq, exec_map, execMap, State.packet?_of_atHead hx]
  refine (if_neg (ne_true_of_eq_false (isNone_eq_false hr))).trans (if_neg ?_)
  simpa [hroom, hfirst, hlast] using hentries

end

/-! ## UNMAP -/

section
variable (hx : PacketAtHead s p q k 4 x) (hdone : x.done = 0)
include hx hdone

theorem exec_unmap_unknown (hr : s.region? x.regid = none) : exec (.unmap p q k) s = .next (completed s p q x 4 0) := by
  rw [← State.completePacket_eq, exec_unmap, execUnmap, State.packet?_of_atHead hx]
  exact (if_neg (by simp [hdone])).trans (if_pos (by rw [hr]; rfl))

variable (hr : s.region? x.regid ≠ none)
include hr

theorem exec_unmap_outside (h : 0x6000000000 < x.num 0x20 8 + 8 * x.num 0x28 4) :
    exec (.unmap p q k) s = .next (completed s p q x 5 0) := by
  rw [← State.completePacket_eq, exec_unmap, execUnmap, State.packet?_of_atHead hx]
  exact (if_neg (by simp [hdone])).trans
    ((if_neg (ne_true_of_eq_false (isNone_eq_false hr))).trans (if_pos (by rw [tableRoom_eq_false h]; rfl)))

theorem exec_unmap_clears (hroom : tableRoom (x.num 0x20 8) (8 * x.num 0x28 4) = true)
    (hreach : x.num 0x28 4 = 0 ∨ s.portLost p (x.num 0x20 8) = false ∧ s.portLost p (x.num 0x20 8 + 8 * x.num 0x28 4 - 1) = false) :
    exec (.unmap p q k) s = .next (progressed { s with
      hbm := s.hbm.writeAll (x.num 0x20 8) (List.replicate (8 * x.num 0x28 4) 0#8)
      invals := s.invals ++ [⟨s.contextOf x.regid, x.num 0x10 8, x.num 0x10 8 + x.num 0x18 8, s.unitsToAck, some (p.val, q.val, x.id)⟩] }
      p q x.id 1) := by
  rw [← State.setDone_eq, exec_unmap, execUnmap, State.packet?_of_atHead hx]
  refine (if_neg (by simp [hdone])).trans ((if_neg (ne_true_of_eq_false (isNone_eq_false hr))).trans (if_neg ?_))
  rcases hreach with h | ⟨hfirst, hlast⟩
  · simpa [h] using hroom
  · simp [hroom, hfirst, hlast]

end

/-! ## BIND -/

section
variable (hx : PacketAtHead s p q k 5 x)
include hx

theorem exec_bind_unknown (hr : s.region? x.regid = none) : exec (.bind p q k) s = .next (completed s p q x 4 0) := by
  rw [← State.completePacket_eq, exec_bind, execBind, State.packet?_of_atHead hx]
  dsimp only
  rw [hr]

variable {r : Region} (hr : s.region? x.regid = some r)
include hr

theorem exec_bind_otherPort (hport : r.port ≠ p.val) : exec (.bind p q k) s = .next (completed s p q x 4 0) := by
  rw [← State.completePacket_eq, exec_bind, execBind, State.packet?_of_atHead hx]
  dsimp only
  rw [hr]
  exact if_pos (by simpa using hport)

theorem exec_bind_binds (hport : r.port = p.val) :
    let rest := s.handles.filter fun h => ¬ (h.context = s.contextOf x.regid ∧ h.num = x.num 0x10 2)
    exec (.bind p q k) s = .next (completed { s with handles := if x.num 0x20 8 = 0 then rest
      else ⟨s.contextOf x.regid, x.num 0x10 2, x.num 0x18 8, x.num 0x20 8, p.val, (x.num 0x12 1).testBit 0⟩ :: rest } p q x 0 0) := by
  intro rest
  have hrest : rest = s.handles.filter fun h => !(h.context == s.contextOf x.regid && h.num == x.num 0x10 2) :=
    List.filter_congr fun h _ => by simp [← Bool.not_and, beq_eq_decide]
  rw [← State.completePacket_eq, exec_bind, execBind, State.packet?_of_atHead hx]
  dsimp only
  rw [hr, hrest]
  exact if_neg (by simp [hport])

end

end

/-! ## INVALIDATION -/

/-- A change of a port that leaves its queues. -/
theorem State.queue_modPort_of_queues {f : Port → Port} (hf : ∀ v, (f v).queues = v.queues) (s : State) (n p : Fin 2) (q : Fin 16) :
    (s.modPort n f).queue p q = s.queue p q := by
  by_cases h : n = p
  · subst h
    rw [State.queue, State.port_modPort, hf]
    rfl
  · have hother : (s.modPort n f).port p = s.port p :=
      Vector.getElem_set_ne n.isLt p.isLt (fun hval => h (Fin.ext hval))
    rw [State.queue, hother]
    rfl

/-- The entries of a unit that an invalidation leaves. -/
def keptEntries (i : Inval) (l : List TlbEntry) : List TlbEntry :=
  l.filter fun e => ¬ (e.context = i.context ∧ e.va < i.hi ∧ i.lo < e.va + e.size)

/-- A unit without the entries that an invalidation drops. -/
def invalidated (s : State) (unit : Nat) (i : Inval) : State :=
  if unit < 4096 then s.modCore unit fun c => { c with tlb := keptEntries i c.tlb }
  else s.modPort (Fin.ofNat 2 (unit - 4096)) fun v => { v with tlb := keptEntries i v.tlb }

theorem State.setTlb_kept (s : State) (unit : Nat) (i : Inval) :
    s.setTlb unit ((s.unitTlb unit).filter fun e => !(e.context == i.context && e.va < i.hi && i.lo < e.va + e.size)) =
      invalidated s unit i := by
  have hkept (l : List TlbEntry) :
      (l.filter fun e => !(e.context == i.context && e.va < i.hi && i.lo < e.va + e.size)) = keptEntries i l :=
    List.filter_congr fun e _ => by simp only [beq_eq_decide, ← Bool.decide_and, ← decide_not, and_assoc]
  rw [hkept, State.setTlb, State.unitTlb, invalidated]
  split <;> rfl

theorem invalidated_invals (s : State) (unit : Nat) (i : Inval) : (invalidated s unit i).invals = s.invals := by
  unfold invalidated
  split <;> rfl

theorem invalidated_dies (s : State) (unit : Nat) (i : Inval) : (invalidated s unit i).dies = s.dies := by
  unfold invalidated
  split <;> rfl

theorem invalidated_queue (s : State) (unit : Nat) (i : Inval) (p : Fin 2) (q : Fin 16) :
    (invalidated s unit i).queue p q = s.queue p q := by
  unfold invalidated
  split
  next => rfl
  next => exact State.queue_modPort_of_queues (f := fun v => { v with tlb := keptEntries i v.tlb }) (fun _ => rfl) s _ p q

/-- With no failed die all sixteen have acknowledged. -/
theorem State.ackDies_eq {s : State} (h : ∀ d, (s.die d).health ≠ .failed) : s.ackDies = 0xFFFF := by
  have hstep : (fun n d => if (s.die d).health == .failed then n else n + 2 ^ d) = fun (n d : Nat) => n + 2 ^ d := by
    funext n d
    exact if_neg (by simpa using h d)
  rw [State.ackDies, hstep]
  rfl

section
variable {unit k : Nat} {s : State} {i : Inval} (hi : s.invals[k]? = some i) (hunit : unit ∈ i.units)
include hi

/-- Every unit but the acknowledging one is still to be heard from. -/
theorem modify_units : (s.invals.modify k fun j => { j with units := i.units.filter (· != unit) }) =
    s.invals.modify k fun j => { j with units := j.units.filter (· ≠ unit) } := by
  apply List.ext_getElem?
  intro n
  rw [List.getElem?_modify, List.getElem?_modify]
  by_cases hn : k = n
  · subst hn
    simp [hi, bne, beq_eq_decide]
  · simp [hn]

include hunit

theorem exec_invalidation_more (hmore : ∃ y ∈ i.units, y ≠ unit) : exec (.invalidation unit k) s =
    .next { invalidated s unit i with invals := s.invals.modify k fun j => { j with units := j.units.filter (· ≠ unit) } } := by
  obtain ⟨y, hy, hne⟩ := hmore
  have hleft : (i.units.filter (· != unit)).isEmpty = false := by
    rw [Bool.eq_false_iff, ne_eq, List.isEmpty_iff]
    exact List.ne_nil_of_mem (List.mem_filter.mpr ⟨hy, bne_iff_ne.mpr hne⟩)
  rw [exec_invalidation, execInvalidation, hi]
  refine (if_neg (by simpa using hunit)).trans ((if_pos (by rw [hleft]; rfl)).trans ?_)
  rw [State.setTlb_kept, invalidated_invals, modify_units hi]

/-- The last unit to be heard from: an invalidation that no packet waits for just ends. -/
theorem exec_invalidation_ends (hlast : i.units = [unit]) (hpkt : i.pkt = none) :
    exec (.invalidation unit k) s = .next { invalidated s unit i with invals := s.invals.eraseIdx k } := by
  have hleft : (i.units.filter (· != unit)).isEmpty = true := by simp [hlast]
  rw [exec_invalidation, execInvalidation, hi]
  refine (if_neg (by simpa using hunit)).trans ((if_neg (by rw [hleft]; decide)).trans ?_)
  rw [State.setTlb_kept, invalidated_invals, hpkt]

theorem exec_invalidation_completes (hlast : i.units = [unit]) {p : Fin 2} {q : Fin 16} {x : Packet}
    (hpkt : i.pkt = some (p.val, q.val, x.id)) (hx : (s.queue p q).issued.find? (fun y => y.id == x.id) = some x)
    (hup : ∀ d, (s.die d).health ≠ .failed) : exec (.invalidation unit k) s =
      .next (completed { invalidated s unit i with invals := s.invals.eraseIdx k } p q x 0 0xFFFF) := by
  have hacks : ({ invalidated s unit i with invals := s.invals.eraseIdx k } : State).ackDies = 0xFFFF := by
    refine State.ackDies_eq fun d => ?_
    change (lookupD Die.reset (invalidated s unit i).dies d).health ≠ .failed
    rw [invalidated_dies]
    exact hup d
  have hqueue : ({ invalidated s unit i with invals := s.invals.eraseIdx k } : State).queue p q = s.queue p q :=
    invalidated_queue s unit i p q
  have hleft : (i.units.filter (· != unit)).isEmpty = true := by simp [hlast]
  rw [exec_invalidation, execInvalidation, hi]
  refine (if_neg (by simpa using hunit)).trans ((if_neg (by rw [hleft]; decide)).trans ?_)
  rw [State.setTlb_kept, invalidated_invals, hpkt]
  dsimp only
  rw [Fin.ofNat_val_eq_self, Fin.ofNat_val_eq_self, hqueue, hx, hacks, ← State.completePacket_eq]

end

/-- Settles O42: the three packets and the invalidation by their cases. -/
theorem tablePacketsMapUnmapAndBind : Obligations.TablePacketsMapUnmapAndBind := by
  refine ⟨fun p q k s x => ⟨fun hx => ?_, fun hx hdone => ?_, fun hx => ?_⟩, fun unit k s i hi hunit => ?_⟩
  · exact ⟨exec_map_unknown hx, exec_map_outside hx, exec_map_writes hx⟩
  · exact ⟨exec_unmap_unknown hx hdone, exec_unmap_outside hx hdone, exec_unmap_clears hx hdone⟩
  · exact ⟨exec_bind_unknown hx, fun r hr => ⟨exec_bind_otherPort hx hr, exec_bind_binds hx hr⟩⟩
  · exact ⟨exec_invalidation_more hi hunit, exec_invalidation_ends hi hunit,
      fun p q x hlast hpkt hx hup => exec_invalidation_completes hi hunit hlast hpkt hx hup⟩

end Sys2Proof.Machine
end

section
/-! PROOFS. REGION_CREATE, REGION_MODIFY and REGION_DESTROY (O41). -/

namespace Sys2Proof.Machine

open Sys2Proof.Claims

/-! ## Fields of an image that is patched -/

theorem field_patch_same {l v : List Byte} {off n : Nat} (hl : off ≤ l.length) (hn : v.length = n) :
    field (patch l off v) off n = leNat v := by
  subst hn
  have hlen : (l.take off).length = off := List.length_take_of_le hl
  rw [field, patch, List.append_assoc, List.drop_append_of_le_length hlen.ge, List.drop_eq_nil_of_le hlen.le, List.nil_append,
    List.take_left]

theorem field_patch_before {l v : List Byte} {off o n : Nat} (hl : off ≤ l.length) (h : o + n ≤ off) :
    field (patch l off v) o n = field l o n := by
  have hlen : (l.take off).length = off := List.length_take_of_le hl
  rw [field, field, patch, List.append_assoc, List.drop_append_of_le_length (by omega), List.drop_take,
    List.take_append_of_le_length (by simp; omega), List.take_take, Nat.min_eq_left (by omega)]

theorem field_patch_after {l v : List Byte} {off o n : Nat} (hl : off ≤ l.length) (h : off + v.length ≤ o) :
    field (patch l off v) o n = field l o n := by
  have hlen : (l.take off ++ v).length = off + v.length := by simp [Nat.min_eq_left hl]
  obtain ⟨j, rfl⟩ := Nat.exists_eq_add_of_le h
  rw [field, field, patch, ← hlen, List.drop_length_add_append, List.drop_drop, hlen]

theorem length_patch {l v : List Byte} {off : Nat} (h : off + v.length ≤ l.length) : (patch l off v).length = l.length := by
  simp [patch]
  omega

theorem field_append_left {a b : List Byte} {n : Nat} (hn : a.length = n) : field (a ++ b) 0 n = leNat a := by
  subst hn
  simp [field]

theorem field_append_right {a b : List Byte} {o n : Nat} (ho : a.length = o) : field (a ++ b) o n = field b 0 n := by
  subst ho
  simp [field]

theorem leNat_natBytes_of_lt {n v : Nat} (h : v < 256 ^ n) : leNat (natBytes n v) = v := by
  rw [leNat_natBytes, Nat.mod_eq_of_lt h]

section
variable {x : Packet} (hlen : x.bytes.length = 160) (old : Region)
include hlen

/-- The image of a packet for a block that exists keeps REGID, PARENT and DEPTH, and takes CORES from the packet. -/
theorem Packet.field_imageOf (hparent : old.parent < 2 ^ 64) (hdepth : old.depth < 256) :
    field (x.imageOf old) 0 8 = old.regid.toNat ∧ field (x.imageOf old) 8 8 = old.parent ∧ field (x.imageOf old) 0x14 1 = old.depth ∧
      field (x.imageOf old) 0x20 4 = field ((x.bytes.drop 0x20).take 128) 0x20 4 := by
  have himg : ((x.bytes.drop 0x20).take 128).length = 128 := by simp [hlen]
  unfold Packet.imageOf
  generalize (x.bytes.drop 0x20).take 128 = img at himg ⊢
  have hpatch : patch img 0 (natBytes 8 old.regid.toNat ++ natBytes 8 old.parent) =
      natBytes 8 old.regid.toNat ++ (natBytes 8 old.parent ++ img.drop 16) := by simp [patch]
  have hlong : (patch img 0 (natBytes 8 old.regid.toNat ++ natBytes 8 old.parent)).length = 128 := by simp [hpatch, himg]
  refine ⟨?_, ?_, ?_, ?_⟩
  · rw [field_patch_before (by omega) (by omega), hpatch, field_append_left (by simp), leNat_natBytes_of_lt old.regid.isLt]
  · rw [field_patch_before (by omega) (by omega), hpatch, field_append_right (by simp), field_append_left (by simp),
      leNat_natBytes_of_lt hparent]
  · rw [field_patch_same (by omega) (by simp), leNat_natBytes_of_lt hdepth]
  · rw [field_patch_after (by omega) (by simp), field_patch_after (by omega) (by simp)]

end

/-! ## A sorted list holds what the list holds -/

theorem mem_insertBy {α : Type} {f : α → α → Bool} {x y : α} {l : List α} : y ∈ insertBy f x l ↔ y = x ∨ y ∈ l := by
  induction l with
  | nil => simp [insertBy]
  | cons z l ih =>
    rw [insertBy]
    split
    · exact List.mem_cons
    · rw [List.mem_cons, ih, List.mem_cons]
      tauto

theorem mem_sortBy {α : Type} {f : α → α → Bool} {y : α} {l : List α} : y ∈ sortBy f l ↔ y ∈ l := by
  induction l with
  | nil => rfl
  | cons z l ih =>
    rw [List.mem_cons, ← ih]
    exact mem_insertBy

/-! ## Holding cores (R254) -/

/-- Only what cores are held for has changed. -/
structure HeldOnly (s w : State) : Prop where
  regions : w.regions = s.regions
  hbm : w.hbm = s.hbm
  tasks : w.tasks = s.tasks
  strand : ∀ c m, w.strand c m = s.strand c m

theorem HeldOnly.refl (s : State) : HeldOnly s s := ⟨rfl, rfl, rfl, fun _ _ => rfl⟩

theorem HeldOnly.trans {s t w : State} (h : HeldOnly s t) (h' : HeldOnly t w) : HeldOnly s w :=
  ⟨h'.regions.trans h.regions, h'.hbm.trans h.hbm, h'.tasks.trans h.tasks, fun c m => (h'.strand c m).trans (h.strand c m)⟩

theorem HeldOnly.foldl {β : Type} {f : State → β → State} (hf : ∀ t x, HeldOnly t (f t x)) (s : State) (l : List β) :
    HeldOnly s (l.foldl f s) :=
  List.foldlRecOn l f (.refl s) fun _ ht x _ => ht.trans (hf _ x)

theorem HeldOnly.setHolds (s : State) (c : Nat) (sp : Bool) (f : Core → List Word) :
    HeldOnly s (s.modCore c fun k => k.setHolds sp (f k)) :=
  ⟨rfl, rfl, rfl, State.strand_modCore (by cases sp <;> rfl)⟩

theorem HeldOnly.unhold (s : State) (sp : Bool) (r : Region) (want : Nat) : HeldOnly s (s.unhold sp r want) :=
  .foldl (fun t c => .setHolds t c sp _) s _

theorem HeldOnly.holdUp (s : State) (sp : Bool) (r : Region) (want : Nat) : HeldOnly s (s.holdUp sp r want) :=
  .foldl (fun t c => .setHolds t c sp _) s _

theorem HeldOnly.of_holdCores {s w : State} {l : List Region} (h : s.holdCores l = some w) : HeldOnly s w := by
  unfold State.holdCores at h
  dsimp only at h
  split at h
  · obtain rfl := Option.some.inj h
    refine HeldOnly.trans (.trans (.foldl (fun t r => ?_) s l.reverse) (.foldl (fun t r => .holdUp t _ _ _) _ _))
      (.foldl (fun t r => .holdUp t _ _ _) _ _)
    exact (HeldOnly.unhold t false r _).trans (.unhold _ true r _)
  · cases h

/-! ## A block comes into force (R254) -/

/-- Block `r` stands among the regions with its pool windows, and memory, tasks and strands are those of `s`. -/
structure InForce (s : State) (r : Region) (w : State) : Prop where
  block : ∃ c d, { r with cwin := c, dwin := d } ∈ w.regions
  hbm : w.hbm = s.hbm
  tasks : w.tasks = s.tasks
  strand : ∀ c m, w.strand c m = s.strand c m

theorem State.mem_putRegion {s : State} {r x : Region} : x ∈ (s.putRegion r).regions ↔
    x = r ∨ x ∈ s.regions ∧ x.regid ≠ r.regid := by
  unfold State.putRegion
  split
  next h =>
    obtain ⟨y, hy, hyr⟩ := List.any_eq_true.mp h
    rw [List.mem_map]
    constructor
    · rintro ⟨z, hz, rfl⟩
      split
      next => exact .inl rfl
      next hne => exact .inr ⟨hz, by simpa using hne⟩
    · rintro (rfl | ⟨hx, hne⟩)
      · exact ⟨y, hy, if_pos hyr⟩
      · exact ⟨x, hx, if_neg (by simpa using hne)⟩
  next h =>
    have hnone : ∀ x ∈ s.regions, x.regid ≠ r.regid := by simpa using h
    rw [List.mem_append, List.mem_singleton]
    constructor
    · rintro (hx | rfl)
      · exact .inr ⟨hx, hnone x hx⟩
      · exact .inl rfl
    · rintro (rfl | ⟨hx, -⟩)
      · exact .inr rfl
      · exact .inl hx

theorem State.putRegion_leaves (s : State) (r : Region) :
    (s.putRegion r).hbm = s.hbm ∧ (s.putRegion r).tasks = s.tasks ∧ ∀ c m, (s.putRegion r).strand c m = s.strand c m := by
  unfold State.putRegion
  split <;> exact ⟨rfl, rfl, fun _ _ => rfl⟩

theorem InForce.of_putRegion (s : State) (r : Region) : InForce s r (s.putRegion r) := by
  obtain ⟨hhbm, htasks, hstrand⟩ := s.putRegion_leaves r
  exact ⟨⟨r.cwin, r.dwin, State.mem_putRegion.mpr (.inl rfl)⟩, hhbm, htasks, hstrand⟩

/-- Putting a block in place leaves another, and its own with new windows. -/
theorem InForce.putRegion {s w : State} {r y : Region} (h : InForce s r w)
    (hy : y.regid = r.regid → ∃ c d, y = { r with cwin := c, dwin := d }) : InForce s r (w.putRegion y) := by
  obtain ⟨⟨c, d, hblock⟩, hhbm, htasks, hstrand⟩ := h
  obtain ⟨hhbm', htasks', hstrand'⟩ := w.putRegion_leaves y
  refine ⟨?_, hhbm'.trans hhbm, htasks'.trans htasks, fun a b => (hstrand' a b).trans (hstrand a b)⟩
  by_cases hid : y.regid = r.regid
  · obtain ⟨c', d', rfl⟩ := hy hid
    exact ⟨c', d', State.mem_putRegion.mpr (.inl rfl)⟩
  · exact ⟨c, d, State.mem_putRegion.mpr (.inr ⟨hblock, Ne.symm hid⟩)⟩

theorem InForce.putWindows {s : State} {r : Region} {l : List Region} (hl : ∀ y ∈ l, y.regid = r.regid → y = r) :
    ∀ {t w : State}, InForce s r t → l.foldlM State.putWindows t = some w → InForce s r w := by
  induction l with
  | nil =>
    intro t w ht h
    obtain rfl := Option.some.inj h
    exact ht
  | cons y l ih =>
    intro t w ht h
    rw [List.foldlM_cons] at h
    obtain ⟨u, hu, hw⟩ := Option.bind_eq_some_iff.mp h
    obtain ⟨x, -, rfl⟩ := Option.map_eq_some_iff.mp hu
    refine ih (fun z hz => hl z (List.mem_cons_of_mem y hz)) (ht.putRegion fun hid => ?_) hw
    obtain rfl := hl y List.mem_cons_self hid
    exact ⟨_, _, rfl⟩

/-- A refused block changes nothing; one that comes into force stands in its place in HBM and among the regions. -/
theorem State.enforce_cases {s w : State} {r : Region} {img : List Byte} {n : Nat} (h : s.enforce r img = (n, w)) :
    (n = 3 ∧ w = s) ∨ (n = 0 ∧ ∃ t, InForce s r t ∧ w = { t with hbm := t.hbm.write r.pa img }) := by
  have hput := InForce.of_putRegion s r
  have hown : ∀ y ∈ (s.putRegion r).family r, y.regid = r.regid → y = r := by
    intro y hy hid
    obtain rfl | ⟨-, hne⟩ := State.mem_putRegion.mp (List.mem_of_mem_filter (mem_sortBy.mp hy))
    · rfl
    · exact absurd hid hne
  unfold State.enforce at h
  dsimp only at h
  split at h
  · obtain ⟨rfl, rfl⟩ := Prod.mk.inj h
    exact .inl ⟨rfl, rfl⟩
  · split at h
    next =>
      obtain ⟨rfl, rfl⟩ := Prod.mk.inj h
      exact .inl ⟨rfl, rfl⟩
    next u hu =>
      split at h
      next =>
        obtain ⟨rfl, rfl⟩ := Prod.mk.inj h
        exact .inl ⟨rfl, rfl⟩
      next t ht =>
        obtain ⟨rfl, rfl⟩ := Prod.mk.inj h
        have hheld := HeldOnly.of_holdCores ht
        obtain ⟨⟨c, d, hblock⟩, hhbm, htasks, hstrand⟩ := hput.putWindows hown hu
        exact .inr ⟨rfl, t, ⟨⟨c, d, hheld.regions ▸ hblock⟩, hheld.hbm.trans hhbm, hheld.tasks.trans htasks,
          fun c m => (hheld.strand c m).trans (hstrand c m)⟩, rfl⟩

/-! ## The three packets -/

theorem regionPacket_eq {p : Fin 2} {q : Fin 16} {k op n : Nat} {s w : State} {x : Packet} {f : State → Packet → Nat × State}
    (hx : PacketAtHead s p q k 2 x) (hop : field x.bytes 0x18 1 = op) (hf : f s x = (n, w)) :
    regionPacket p q k op f s = .next (completed w p q x n 0) := by
  have hop' : x.num 0x18 1 = op := hop
  rw [← State.completePacket_eq, regionPacket, State.packet?_of_atHead hx]
  refine (if_neg (by simp [hop'])).trans ?_
  rw [hf]

/-- The image of a block in a packet. -/
def Packet.image (x : Packet) : List Byte := (x.bytes.drop 0x20).take 128

theorem region?_eq_some {s : State} {regid : Word} {r : Region} (h : s.region? regid = some r) : r.regid = regid := by
  simpa using List.find?_some h

/-- The block that a packet creates through port `p`. -/
def createdBlock (s : State) (p : Fin 2) (x : Packet) : Region :=
  let r := regionOf x.image (x.num 0x10 8) p.val
  { r with port := if r.parent = 0 then p.val else ((s.regionAt? r.parent).map (·.port)).getD p.val }

theorem State.createRegion_eq (s : State) (p : Fin 2) (x : Packet) :
    let r := createdBlock s p x
    let e := (s.reuse r.regid).enforce r x.image
    s.createRegion p x =
      if r.regid != x.regid || (s.region? r.regid).isSome || (s.regionAt? r.pa).isSome || s.blockBad r x.image then (2, s)
      else if e.1 = 0 then e else (e.1, s) := rfl

theorem State.reuse_of_none {s : State} {regid : Word} (h : ∀ g ∈ s.gone, g.regid ≠ regid) : s.reuse regid = s := by
  have hnone : s.gone? regid = none := List.find?_eq_none.mpr fun g hg => by simpa using h g hg
  rw [State.reuse, hnone]

theorem State.reuse_leaves (s : State) (regid : Word) : (s.reuse regid).hbm = s.hbm ∧ ∀ c m, (s.reuse regid).strand c m = s.strand c m := by
  unfold State.reuse
  split <;> exact ⟨rfl, fun _ _ => rfl⟩

section
variable {p : Fin 2} {s w : State} {x : Packet} {n : Nat}

/-- Creating a block: refused as malformed or for a limit, or in force. -/
theorem State.createRegion_cases (h : s.createRegion p x = (n, w)) :
    (n ≠ 0 ∧ w = s) ∨ (n = 0 ∧ s.region? x.regid = none ∧ ∃ r t, InForce (s.reuse x.regid) r t ∧
      r.regid = x.regid ∧ r.pa = x.num 0x10 8 ∧ r.cores = field x.image 0x20 4 ∧ w = { t with hbm := t.hbm.write r.pa x.image }) := by
  rw [State.createRegion_eq] at h
  split at h
  next =>
    obtain ⟨rfl, rfl⟩ := Prod.mk.inj h
    exact .inl ⟨by decide, rfl⟩
  next hgood =>
    obtain ⟨⟨⟨hid, hnone⟩, -⟩, -⟩ : ((((createdBlock s p x).regid = x.regid ∧ s.region? (createdBlock s p x).regid = none) ∧ _) ∧ _) := by
      simpa using hgood
    rw [hid] at hnone h
    split at h
    next hzero =>
      obtain ⟨hthree, -⟩ | ⟨hn, t, ht, hw⟩ := State.enforce_cases h
      · rw [h] at hzero
        omega
      · exact .inr ⟨hn, hnone, createdBlock s p x, t, ht, hid, rfl, rfl, hw⟩
    next hne =>
      obtain ⟨rfl, rfl⟩ := Prod.mk.inj h
      exact .inl ⟨hne, rfl⟩

theorem State.createRegion_refused (h : BitVec.ofNat 64 (field x.image 0 8) ≠ x.regid ∨ s.region? x.regid ≠ none) :
    s.createRegion p x = (2, s) := by
  rw [State.createRegion_eq]
  refine if_pos ?_
  by_cases hid : (createdBlock s p x).regid = x.regid
  · have hsome : (s.region? x.regid).isSome = true := Option.isSome_iff_ne_none.mpr (h.resolve_left (not_not_intro hid))
    simp [hid, hsome]
  · simp [hid]

/-- REGION_CREATE (R254). -/
theorem createRegion_result (h : s.createRegion p x = (n, w)) : (n ≠ 0 → w = s) ∧
    (n = 0 → s.region? x.regid = none ∧ w.hbm = s.hbm.write (x.num 0x10 8) x.image ∧
      ((∀ g ∈ s.gone, g.regid ≠ x.regid) → w.tasks = s.tasks) ∧ (∀ c m, w.strand c m = s.strand c m) ∧
      ∃ r ∈ w.regions, r.regid = x.regid ∧ r.pa = x.num 0x10 8 ∧ r.cores = field x.image 0x20 4) := by
  obtain ⟨hne, hw⟩ | ⟨hn, hnone, r, t, ⟨⟨c, d, hblock⟩, hhbm, htasks, hstrand⟩, hid, hpa, hcores, rfl⟩ := State.createRegion_cases h
  · exact ⟨fun _ => hw, fun hn => absurd hn hne⟩
  · obtain ⟨hhbm', hstrand'⟩ := s.reuse_leaves x.regid
    refine ⟨fun hne => absurd hn hne, fun _ => ⟨hnone, ?_, fun hfresh => ?_, fun c m => (hstrand c m).trans (hstrand' c m),
      _, hblock, hid, hpa, hcores⟩⟩
    · rw [← hpa, ← hhbm', ← hhbm]
    · rw [← htasks.trans (congrArg State.tasks (State.reuse_of_none hfresh))]

/-- The block that a packet puts in the place of `old`. -/
def modifiedBlock (x : Packet) (old : Region) : Region :=
  { regionOf (x.imageOf old) old.pa old.port with ending := old.ending, cwin := old.cwin, dwin := old.dwin }

theorem State.modifyRegion_eq {old : Region} (hold : s.region? x.regid = some old) :
    let r := modifiedBlock x old
    s.modifyRegion x = if old.pa != x.num 0x10 8 then (4, s)
      else if (s.putRegion r).blockBad r (x.imageOf old) || !(s.putRegion r).reservedOk r || r.context != old.context then (2, s)
      else s.enforce r (x.imageOf old) := by
  rw [State.modifyRegion, hold]
  rfl

/-- REGION_MODIFY (R254): refused, or the block replaced. -/
theorem State.modifyRegion_cases {old : Region} (hold : s.region? x.regid = some old) (h : s.modifyRegion x = (n, w)) :
    (n ≠ 0 ∧ w = s) ∨ (n = 0 ∧ ∃ t, InForce s (modifiedBlock x old) t ∧
      w = { t with hbm := t.hbm.write (modifiedBlock x old).pa (x.imageOf old) }) := by
  rw [State.modifyRegion_eq hold] at h
  split at h
  · obtain ⟨rfl, rfl⟩ := Prod.mk.inj h
    exact .inl ⟨by decide, rfl⟩
  · split at h
    · obtain ⟨rfl, rfl⟩ := Prod.mk.inj h
      exact .inl ⟨by decide, rfl⟩
    · obtain ⟨rfl, rfl⟩ | hdone := State.enforce_cases h
      · exact .inl ⟨by decide, rfl⟩
      · exact .inr hdone

theorem State.modifyRegion_unknown (h : s.region? x.regid = none) : s.modifyRegion x = (4, s) := by
  rw [State.modifyRegion, h]

theorem modifyRegion_result (h : s.modifyRegion x = (n, w)) : (n ≠ 0 → w = s) ∧
    ∀ old, n = 0 → s.region? x.regid = some old → x.bytes.length = 160 → old.parent < 2 ^ 64 → old.depth < 256 →
      (∀ c m, w.strand c m = s.strand c m) ∧ ∃ r ∈ w.regions,
        r.regid = x.regid ∧ r.parent = old.parent ∧ r.depth = old.depth ∧ r.cores = field x.image 0x20 4 := by
  cases hr : s.region? x.regid with
  | none =>
    obtain ⟨rfl, rfl⟩ := Prod.mk.inj ((State.modifyRegion_unknown hr).symm.trans h)
    exact ⟨fun _ => rfl, fun _ hn => absurd hn (by decide)⟩
  | some old =>
    obtain ⟨hne, hw⟩ | ⟨hn, t, ⟨⟨c, d, hblock⟩, -, -, hstrand⟩, rfl⟩ := State.modifyRegion_cases hr h
    · exact ⟨fun _ => hw, fun _ hn => absurd hn hne⟩
    · refine ⟨fun hne => absurd hn hne, fun old' _ hold hlen hparent hdepth => ⟨hstrand, _, hblock, ?_⟩⟩
      obtain rfl := Option.some.inj hold
      obtain ⟨h0, h8, h14, h20⟩ := Packet.field_imageOf hlen old hparent hdepth
      refine ⟨?_, h8, h14, h20⟩
      rw [← region?_eq_some hr]
      exact (congrArg (BitVec.ofNat 64) h0).trans (by simp)

end

/-! ## REGION_DESTROY -/

theorem lookupD_map_of_fixed {α : Type} {d : α} {f : α → α} (hd : f d = d) (l : List (Nat × α)) (a : Nat) :
    lookupD d (l.map fun e => (e.1, f e.2)) a = f (lookupD d l a) := by
  induction l with
  | nil => exact hd.symm
  | cons e l ih =>
    simp only [List.map_cons, lookupD]
    split
    · rfl
    · exact ih

/-- A core after the regions `ids`, with the contexts `ctxs`, have gone. -/
def Core.withoutRegions (ids ctxs : List Word) (k : Core) : Core :=
  let k := if k.slot != .free && ids.contains k.regid then k.freed else k
  { k with
    heldFor := k.heldFor.filter (!ids.contains ·), spareFor := k.spareFor.filter (!ids.contains ·)
    tlb := k.tlb.filter fun e => !ctxs.contains e.context }

theorem Core.withoutRegions_strands (ids ctxs : List Word) (k : Core) : (k.withoutRegions ids ctxs).strands = k.strands := by
  unfold Core.withoutRegions
  dsimp only
  split <;> rfl

theorem Core.withoutRegions_slot {ids ctxs : List Word} {k : Core} (hslot : k.slot ≠ .free) (hid : k.regid ∈ ids) :
    (k.withoutRegions ids ctxs).slot = .free := by
  have hgoes : (k.slot != .free && ids.contains k.regid) = true := by simpa using ⟨hslot, hid⟩
  unfold Core.withoutRegions
  rw [if_pos hgoes]
  rfl

/-- The regions of the subtree of `r`, and their contexts. -/
def idsUnder (s : State) (r : Region) : List Word := (s.subtree r).map (·.regid)
def ctxsUnder (s : State) (r : Region) : List Word := ((s.subtree r).filter (·.context)).map (·.regid)

/-- The state without the subtree of `r`. -/
def withoutSubtree (s : State) (r : Region) : State :=
  let ids := idsUnder s r
  let ctxs := ctxsUnder s r
  let keys := (s.tasks.filter fun t => ids.contains t.regid).map (·.key)
  let t := (s.mapCores (·.withoutRegions ids ctxs)).mapClusters fun c =>
    { c with resid := c.resid.filter fun e => !ctxs.contains e.context, spawn := c.spawn.filter fun h => !keys.contains h.1 }
  { t with
    regions := s.regions.filter fun x => !ids.contains x.regid
    handles := s.handles.filter fun h => !ctxs.contains h.context
    tasks := s.tasks.filterMap (s.afterDestroy ids ctxs)
    gone := s.gone ++ (s.subtree r).map s.goneOf
    ports := s.ports.map fun (v : Port) => { v with tlb := v.tlb.filter fun e => !ctxs.contains e.context }
    links := s.links.map fun (v : Link) => if ctxs.contains v.ctx then { v with ctx := 0#64 } else v }

theorem State.destroyRegion_unknown {s : State} {x : Packet} (h : s.region? x.regid = none) : s.destroyRegion x = (4, s) := by
  rw [State.destroyRegion, h]

section
variable {s : State} {x : Packet} {r : Region} (hr : s.region? x.regid = some r)
include hr

theorem State.destroyRegion_eq : s.destroyRegion x =
    if r.pa != x.num 0x10 8 then (4, s)
    else if s.blockBad (regionOf (x.imageOf r) r.pa r.port) (x.imageOf r) then (2, s)
    else if !s.packetLimits r (regionOf (x.imageOf r) r.pa r.port) ||
      s.tasks.any (fun t => (idsUnder s r).contains t.regid && !(t.st == .ended || t.st == .dependent)) then (3, s)
    else (0, withoutSubtree s r) := by
  rw [State.destroyRegion, hr]
  rfl

theorem State.destroyRegion_elsewhere (hpa : r.pa ≠ x.num 0x10 8) : s.destroyRegion x = (4, s) :=
  (State.destroyRegion_eq hr).trans (if_pos (bne_iff_ne.mpr hpa))

variable (hpa : r.pa = x.num 0x10 8)
include hpa

theorem State.destroyRegion_bad (hbad : s.blockBad (regionOf (x.imageOf r) (x.num 0x10 8) r.port) (x.imageOf r) = true) :
    s.destroyRegion x = (2, s) := by
  rw [State.destroyRegion_eq hr, if_neg (by simp [hpa]), hpa, if_pos hbad]

variable (hgood : s.blockBad (regionOf (x.imageOf r) (x.num 0x10 8) r.port) (x.imageOf r) = false)
include hgood

theorem State.destroyRegion_held (h : s.packetLimits r (regionOf (x.imageOf r) (x.num 0x10 8) r.port) = false ∨
    ∃ v ∈ s.tasks, v.regid ∈ idsUnder s r ∧ v.st ≠ .ended ∧ v.st ≠ .dependent) : s.destroyRegion x = (3, s) := by
  rw [State.destroyRegion_eq hr, if_neg (by simp [hpa]), hpa, if_neg (ne_true_of_eq_false hgood), if_pos (by simpa using h)]

theorem State.destroyRegion_done (hfits : s.packetLimits r (regionOf (x.imageOf r) (x.num 0x10 8) r.port) = true)
    (hended : ∀ v ∈ s.tasks, v.regid ∈ idsUnder s r → v.st = .ended ∨ v.st = .dependent) :
    s.destroyRegion x = (0, withoutSubtree s r) := by
  have hfree : s.tasks.any (fun t => (idsUnder s r).contains t.regid && !(t.st == .ended || t.st == .dependent)) = false := by
    simpa [← or_iff_not_imp_left] using hended
  rw [State.destroyRegion_eq hr, if_neg (by simp [hpa]), hpa, if_neg (ne_true_of_eq_false hgood), hfits, hfree]
  rfl

end

/-- What a destroy makes of a task, by cases. -/
theorem afterDestroy_stays {s : State} {ids ctxs : List Word} {v : Task} (hid : v.regid ∉ ids)
    (hlost : ¬ (v.st = .ended ∧ s.contextOf v.regid ∈ ctxs)) : s.afterDestroy ids ctxs v = some v := by
  refine if_pos ?_
  simpa [hid] using not_and_or.mp hlost

theorem afterDestroy_goes {s : State} {ids ctxs : List Word} {v : Task}
    (h : v.regid ∈ ids ∨ v.st = .ended ∧ s.contextOf v.regid ∈ ctxs) : s.afterDestroy ids ctxs v =
      if v.st = .ended ∧ (v.fired = true ∧ s.contextOf v.regid ∉ ctxs ∨ s.working v.key = true)
      then some { v with fired := v.fired && !ctxs.contains (s.contextOf v.regid) } else none := by
  have hgoes : (ids.contains v.regid || (v.st == .ended && ctxs.contains (s.contextOf v.regid))) = true := by simpa using h
  refine (if_neg (by rw [hgoes]; decide)).trans ?_
  simp

theorem afterDestroy_remembered {s : State} {ids ctxs : List Word} {v : Task} (hid : v.regid ∈ ids) (hended : v.st = .ended)
    (hfired : v.fired = true) (hlost : s.contextOf v.regid ∉ ctxs) : s.afterDestroy ids ctxs v = some v := by
  rw [afterDestroy_goes (.inl hid), if_pos ⟨hended, .inl ⟨hfired, hlost⟩⟩]
  cases v
  simp_all

theorem afterDestroy_working {s : State} {ids ctxs : List Word} {v : Task} (hended : v.st = .ended)
    (hlost : s.contextOf v.regid ∈ ctxs) (hworking : s.working v.key = true) :
    s.afterDestroy ids ctxs v = some { v with fired := false } := by
  rw [afterDestroy_goes (.inr ⟨hended, hlost⟩), if_pos ⟨hended, .inr hworking⟩]
  simp [hlost]

/-- A task left of the subtree has ended, and has fired or something of it is under way. -/
theorem afterDestroy_left {s : State} {ids ctxs : List Word} {v y : Task} (h : s.afterDestroy ids ctxs v = some y) (hid : y.regid ∈ ids) :
    y.st = .ended ∧ (y.fired = true ∨ s.working y.key = true) := by
  by_cases hgoes : v.regid ∈ ids ∨ v.st = .ended ∧ s.contextOf v.regid ∈ ctxs
  · rw [afterDestroy_goes hgoes] at h
    split at h
    next hleft =>
      obtain rfl := Option.some.inj h
      obtain ⟨hended, ⟨hfired, hlost⟩ | hworking⟩ := hleft
      · exact ⟨hended, .inl (by simp [hfired, hlost])⟩
      · exact ⟨hended, .inr hworking⟩
    next => cases h
  · obtain ⟨hstays, hlost⟩ := not_or.mp hgoes
    obtain rfl := Option.some.inj ((afterDestroy_stays hstays hlost).symm.trans h)
    exact absurd hid hstays

section
variable (s : State) (r : Region)

theorem withoutSubtree_core (c : Nat) :
    (withoutSubtree s r).core c = (s.core c).withoutRegions (idsUnder s r) (ctxsUnder s r) :=
  lookupD_map_of_fixed rfl s.cores c

theorem withoutSubtree_strand (c : Nat) (m : Fin 4) : (withoutSubtree s r).strand c m = s.strand c m := by
  rw [State.strand, Core.strand, withoutSubtree_core, Core.withoutRegions_strands]
  rfl

/-- R254, R277, R222: what is left after a destroy. -/
theorem withoutSubtree_result :
    let w := withoutSubtree s r
    let ids := idsUnder s r
    let lost (v : Task) : Prop := s.contextOf v.regid ∈ ctxsUnder s r
    w.regions = s.regions.filter (fun y => y.regid ∉ ids) ∧
    (∀ v ∈ s.tasks, (v.regid ∉ ids → ¬ (v.st = .ended ∧ lost v) → v ∈ w.tasks) ∧
      (v.regid ∈ ids → v.st = .ended → v.fired = true → ¬ lost v → v ∈ w.tasks) ∧
      (v.st = .ended → lost v → s.working v.key = true → { v with fired := false } ∈ w.tasks)) ∧
    (∀ y ∈ w.tasks, y.regid ∈ ids → y.st = .ended ∧ (y.fired = true ∨ s.working y.key = true)) ∧
    (∀ y ∈ s.subtree r, ∃ g ∈ w.gone, g.regid = y.regid) ∧
    w.hbm = s.hbm ∧ (∀ c m, w.strand c m = s.strand c m) ∧
    (∀ c, (s.core c).slot ≠ .free → (s.core c).regid ∈ ids → (w.core c).slot = .free) ∧
    ∀ h ∈ w.handles, h ∈ s.handles ∧ h.context ∉ ctxsUnder s r := by
  refine ⟨List.filter_congr fun y _ => by simp, fun v hv => ⟨fun hid hlost => ?_, fun hid hended hfired hlost => ?_,
    fun hended hlost hworking => ?_⟩, fun y hy hid => ?_, fun y hy => ?_, rfl, withoutSubtree_strand s r, fun c hslot hid => ?_,
    fun h hh => ?_⟩
  · exact List.mem_filterMap.mpr ⟨v, hv, afterDestroy_stays hid hlost⟩
  · exact List.mem_filterMap.mpr ⟨v, hv, afterDestroy_remembered hid hended hfired hlost⟩
  · exact List.mem_filterMap.mpr ⟨v, hv, afterDestroy_working hended hlost hworking⟩
  · obtain ⟨v, -, hv⟩ := List.mem_filterMap.mp hy
    exact afterDestroy_left hv hid
  · exact ⟨s.goneOf y, List.mem_append_right _ (List.mem_map_of_mem hy), rfl⟩
  · rw [withoutSubtree_core]
    exact Core.withoutRegions_slot hslot hid
  · obtain ⟨hmem, hctx⟩ := List.mem_filter.mp hh
    exact ⟨hmem, by simpa using hctx⟩

end

/-- Settles O41: the three packets by their operations. -/
theorem regionPacketsCreateModifyAndDestroy : Obligations.RegionPacketsCreateModifyAndDestroy := by
  intro p q k s x hx
  refine ⟨fun hop => ⟨fun n w h => ⟨regionPacket_eq (f := fun s x => s.createRegion p x) hx hop h, createRegion_result h⟩, fun h => ?_⟩,
    fun hop => ⟨fun h => ?_, fun n w h => ⟨regionPacket_eq (f := fun s x => s.modifyRegion x) hx hop h, modifyRegion_result h⟩⟩,
    fun hop => ⟨fun h => ?_, fun r hr => ⟨fun hpa => ?_, fun hpa hbad => ?_, fun hpa hgood h => ?_, fun hpa hgood hfits hended => ?_⟩⟩⟩
  · exact regionPacket_eq (f := fun s x => s.createRegion p x) hx hop (State.createRegion_refused h)
  · exact regionPacket_eq (f := fun s x => s.modifyRegion x) hx hop (State.modifyRegion_unknown h)
  · exact regionPacket_eq (f := fun s x => s.destroyRegion x) hx hop (State.destroyRegion_unknown h)
  · exact regionPacket_eq (f := fun s x => s.destroyRegion x) hx hop (State.destroyRegion_elsewhere hr hpa)
  · exact regionPacket_eq (f := fun s x => s.destroyRegion x) hx hop (State.destroyRegion_bad hr hpa hbad)
  · exact regionPacket_eq (f := fun s x => s.destroyRegion x) hx hop (State.destroyRegion_held hr hpa hgood h)
  · have hdone := State.destroyRegion_done hr hpa hgood hfits hended
    exact ⟨withoutSubtree s r, regionPacket_eq (f := fun s x => s.destroyRegion x) hx hop hdone, withoutSubtree_result s r⟩

end Sys2Proof.Machine
end

section
/-! PROOFS. The loader reads a piece of no bytes (O38). -/

namespace Sys2Proof.Machine

open Sys2Proof.Claims

/-- A loader that reads the header of an object at address 0 of the local SRAM, with a piece of no bytes at byte 4 and one of eight bytes
still to come. -/
def emptyPieceJob : LoadJob :=
  { (default : LoadJob) with phase := .head, left := [⟨0, 4, 0⟩, ⟨0, 8, 8⟩] }

/-- The word that byte 4 lies in is poisoned. -/
def emptyPieceState : State :=
  State.reset.modCore 0 fun k => { k with jobs := [emptyPieceJob], sram := { k.sram with poison := [0] } }

/-- The phase of core 0's first loader after a turn. -/
def loaderPhase : Host.Outcome State Fault Refusal → Option LoadPhase
  | .next t => (t.core 0).jobs.head?.map (·.phase)
  | _ => none

/-- The loader meets no poison in a piece of no bytes, and goes on. -/
theorem emptyPiece_goesOn : loaderPhase (emptyPieceState.turn (.load 0 0)) = some .head := by decide

/-- Refutes O38: a word that "the bytes" of a piece meet is counted from the word its address lies in, so that an empty piece within a
poisoned word is not clean; the loader reads nothing there and goes on, where the statement has it stop with status 1. -/
theorem not_tasksStartAndAreRefused : ¬ Obligations.TasksStartAndAreRefused := by
  intro h
  obtain ⟨hloader, -⟩ := h
  have hcore : Usable emptyPieceState 0 := ⟨by decide, by decide, by decide⟩
  obtain ⟨-, hreads, -⟩ := hloader 0 0 emptyPieceState emptyPieceJob [] hcore rfl
  obtain ⟨hstops, -⟩ := hreads ⟨0, 4, 0⟩ (emptyPieceState.res .issued) ⟨.sram 0, 4⟩ (.inl rfl) rfl rfl nofun nofun
  have hpoisoned : ¬ Clean ((emptyPieceState.res .issued).ram (.sram 0)) 4 0 := fun hclean =>
    hclean 0 (by decide) (by decide) (by decide)
  have hdone : some LoadPhase.head = some .done := emptyPiece_goesOn.symm.trans (congrArg loaderPhase (hstops hpoisoned))
  cases hdone

end Sys2Proof.Machine
end

section
/-! PROOFS. What tempo boundaries read of the state: the cores of a cluster, tasks by key, the order of waiting tasks (O39). -/

namespace Sys2Proof.Machine

open Sys2Proof.Claims

/-! ## The cores of a cluster (R13) -/

theorem mem_clusterCores {cl c : Nat} (hcl : cl < 64) : c ∈ clusterCores cl ↔ c < 4096 ∧ clusterOf c = cl := by
  unfold clusterCores clusterOf
  simp only [List.mem_map, List.mem_range]
  constructor
  · rintro ⟨i, hi, rfl⟩
    generalize hc : 256 * (cl / 4) + 16 * (8 * (cl % 4 / 2) + i / 8) + 8 * (cl % 2) + i % 8 = c
    have hdie : c / 256 = cl / 4 := by omega
    have hrow : c / 16 % 16 = 8 * (cl % 4 / 2) + i / 8 := by omega
    have hcol : c % 16 = 8 * (cl % 2) + i % 8 := by omega
    rw [hdie, hrow, hcol]
    omega
  · rintro ⟨hc, hcl'⟩
    exact ⟨c / 16 % 8 * 8 + c % 8, by omega, by omega⟩

theorem die_of_clusterOf {cl c : Nat} (h : clusterOf c = cl) : cl / 4 = c / 256 := by
  unfold clusterOf at h
  omega

/-! ## Tasks by key -/

theorem State.task?_some {s : State} {key : Nat} {v : Task} (h : s.task? key = some v) : v ∈ s.tasks ∧ v.key = key :=
  ⟨List.mem_of_find?_eq_some h, by simpa using List.find?_some h⟩

theorem State.task?_of_mem {s : State} {v : Task} (hkeys : (s.tasks.map (·.key)).Nodup) (hv : v ∈ s.tasks) : s.task? v.key = some v := by
  obtain ⟨w, hw⟩ : ∃ w, s.task? v.key = some w := Option.isSome_iff_exists.mp (List.find?_isSome.mpr ⟨v, hv, beq_self_eq_true _⟩)
  obtain ⟨hmem, hkey⟩ := State.task?_some hw
  rw [hw, List.inj_on_of_nodup_map hkeys hmem hv hkey]

/-- A map of the tasks that keeps their keys. -/
theorem State.task?_map {s t : State} {g : Task → Task} (ht : t.tasks = s.tasks.map g) (hg : ∀ y ∈ s.tasks, (g y).key = y.key)
    (key : Nat) : t.task? key = (s.task? key).map g := by
  rw [State.task?, State.task?, ht, List.find?_map]
  exact congrArg (Option.map g) (List.find?_congr fun y hy => congrArg (· == key) (hg y hy))

/-! ## The order of waiting tasks (R274) -/

theorem Task.due_iff (v : Task) : v.due = true ↔ DueTask v := by
  simp [Task.due, DueTask]

theorem Task.before_of_ahead {a b : Task} (h : Ahead a b) : a.before b = true ∧ b.before a = false := by
  unfold Task.before
  obtain ⟨ha, hb⟩ | ⟨hab, h⟩ := h
  · have hb' : b.due = false := Bool.eq_false_iff.mpr fun hdue => hb (b.due_iff.mp hdue)
    simp [a.due_iff.mpr ha, hb']
  · have hsame : a.due = b.due := by rw [Bool.eq_iff_iff, a.due_iff, b.due_iff, hab]
    rw [hsame]
    obtain h | ⟨he, h | ⟨hsince, h⟩⟩ := h
    · simp [h, h.ne', h.ne, h.le]
    · simp [he, h, h.ne, h.ne', h.le]
    · simp [he, hsince, h, h.le]

theorem perm_insertBy {α : Type} (f : α → α → Bool) (x : α) (l : List α) : (insertBy f x l).Perm (x :: l) := by
  induction l with
  | nil => exact .refl _
  | cons y l ih =>
    rw [insertBy]
    split
    · exact .refl _
    · exact (ih.cons y).trans (.swap x y l)

theorem perm_sortBy {α : Type} (f : α → α → Bool) (l : List α) : (sortBy f l).Perm l := by
  induction l with
  | nil => exact .refl _
  | cons x l ih => exact (perm_insertBy f x _).trans (ih.cons x)

/-- What comes before every other element comes first. -/
theorem sortBy_eq_cons {α : Type} {f : α → α → Bool} {v : α} {l : List α} (hv : v ∈ l)
    (hfirst : ∀ y ∈ l, y ≠ v → f v y = true ∧ f y v = false) : ∃ r, sortBy f l = v :: r := by
  induction l with
  | nil => cases hv
  | cons z l ih =>
    change ∃ r, insertBy f z (sortBy f l) = v :: r
    by_cases hz : z = v
    · subst hz
      cases hl : sortBy f l with
      | nil => exact ⟨[], rfl⟩
      | cons y m =>
        rw [insertBy]
        split
        · exact ⟨_, rfl⟩
        next hnot =>
          have hy : y = z := by
            by_contra hne
            have hmem : y ∈ l := (perm_sortBy f l).subset (hl ▸ List.mem_cons_self)
            exact hnot (hfirst y (List.mem_cons_of_mem z hmem) hne).1
          rw [hy]
          exact ⟨_, rfl⟩
    · obtain ⟨r, hr⟩ := ih ((List.mem_cons.mp hv).resolve_left (Ne.symm hz)) fun y hy => hfirst y (List.mem_cons_of_mem z hy)
      rw [hr, insertBy, if_neg (by simp [(hfirst z List.mem_cons_self hz).2])]
      exact ⟨_, rfl⟩

/-! ## Strands that run nothing -/

theorem Core.mem_freeStrands {k : Core} {n : Fin 4} : n ∈ k.freeStrands ↔ (k.strand n).task = 0 := by
  have hall : n ∈ strandNums := by fin_cases n <;> decide
  simp [Core.freeStrands, hall]

theorem freeStrands_eq (s : State) (c : Nat) : (s.core c).freeStrands = idleStrands s c := by
  simp only [Core.freeStrands, idleStrands, beq_eq_decide]
  rfl

theorem getLsbD_oneBit (i n : Fin 4) : (1#4 <<< i.val).getLsbD n.val = decide (n = i) := by
  revert i n
  decide

theorem mem_maskStrands_maskOf {ns : List (Fin 4)} {n : Fin 4} : n ∈ maskStrands (maskOf ns) ↔ n ∈ ns := by
  have hall : n ∈ strandNums := by fin_cases n <;> decide
  have hbits (m : BitVec 4) : (ns.foldl (fun m n => m ||| (1#4 <<< n.val)) m).getLsbD n.val = (m.getLsbD n.val || decide (n ∈ ns)) := by
    induction ns generalizing m with
    | nil => simp
    | cons i ns ih =>
      rw [List.foldl_cons, ih, BitVec.getLsbD_or]
      rw [getLsbD_oneBit]
      simp [Bool.or_assoc]
  rw [maskStrands, List.mem_filter, maskOf, hbits]
  simp [hall]

end Sys2Proof.Machine
end

section
/-! PROOFS. Placement (R231): the place of a waiting task is the one that `Claims.Chosen` names, and there is none where
`Claims.Finds` names none (O39). -/

namespace Sys2Proof.Machine

open Sys2Proof.Claims

/-! ## The best of a list -/

section
variable {α : Type} {f : α → α → Bool} {v : α}

/-- The step of `bestBy`. -/
def better (f : α → α → Bool) (b : Option α) (x : α) : Option α :=
  match b with
  | none => some x
  | some y => if f x y then some x else some y

theorem bestBy_eq_foldl (f : α → α → Bool) (l : List α) : bestBy f l = l.foldl (better f) none := rfl

theorem better_eq_or (f : α → α → Bool) (b : Option α) (x : α) : better f b x = some x ∨ better f b x = b := by
  cases b with
  | none => exact .inl rfl
  | some y =>
    rw [better]
    split
    · exact .inl rfl
    · exact .inr rfl

theorem foldl_better_of_best {l : List α} (h : ∀ y ∈ l, y ≠ v → f y v = false) : l.foldl (better f) (some v) = some v := by
  induction l with
  | nil => rfl
  | cons x l ih =>
    have hx : better f (some v) x = some v := by
      by_cases hxv : x = v
      · rw [hxv, better, ite_self]
      · rw [better, if_neg (by simp [h x List.mem_cons_self hxv])]
    rw [List.foldl_cons, hx]
    exact ih fun y hy => h y (List.mem_cons_of_mem x hy)

theorem better_best {b : Option α} (h : ∀ y, b = some y → y ≠ v → f v y = true) : better f b v = some v := by
  cases b with
  | none => rfl
  | some y =>
    by_cases hy : y = v
    · rw [hy, better, ite_self]
    · rw [better, if_pos (h y rfl hy)]

/-- What is better than every other element is the best. -/
theorem bestBy_eq_some {l : List α} (hv : v ∈ l) (h : ∀ y ∈ l, y ≠ v → f v y = true ∧ f y v = false) : bestBy f l = some v := by
  have hgen : ∀ (m : List α) (b : Option α), v ∈ m → (∀ y ∈ m, y ≠ v → f v y = true ∧ f y v = false) →
      (∀ y, b = some y → y ≠ v → f v y = true) → m.foldl (better f) b = some v := by
    intro m
    induction m with
    | nil => exact fun _ hm => nomatch hm
    | cons x m ih =>
      intro b hm hall hb
      rw [List.foldl_cons]
      by_cases hx : x = v
      · rw [hx, better_best hb]
        exact foldl_better_of_best fun y hy hne => (hall y (List.mem_cons_of_mem x hy) hne).2
      · refine ih _ ((List.mem_cons.mp hm).resolve_left (Ne.symm hx)) (fun y hy => hall y (List.mem_cons_of_mem x hy)) fun y hy hne => ?_
        rcases better_eq_or f b x with hbx | hbx
        · obtain rfl := Option.some.inj (hbx.symm.trans hy)
          exact (hall x List.mem_cons_self hne).1
        · exact hb y (hbx.symm.trans hy) hne
  exact hgen l none hv h nofun

end

theorem mem_of_bestBy {α : Type} {f : α → α → Bool} {l : List α} {x : α} (h : bestBy f l = some x) : x ∈ l := by
  have hgen : ∀ (m : List α) (b : Option α), m.foldl (better f) b = some x → x ∈ m ∨ b = some x := by
    intro m
    induction m with
    | nil => exact fun b hb => .inr hb
    | cons y m ih =>
      intro b hb
      rcases ih _ hb with hx | hx
      · exact .inl (List.mem_cons_of_mem y hx)
      · rcases better_eq_or f b y with hby | hby
        · obtain rfl := Option.some.inj (hby.symm.trans hx)
          exact .inl List.mem_cons_self
        · exact .inr (hby.symm.trans hx)
  exact (hgen l none h).resolve_right nofun

/-! ## The cores that a waiting task may be bound on -/

/-- Enough strands of core `c` are idle for a task that has not begun, and nothing else wants them (R231, R274). -/
def FitsOn (s : State) (v : Task) (c : Nat) : Prop :=
  Usable s c ∧ (∀ r ∈ s.retiring, r.1 ≠ c / 256) ∧ v.nstrands ≤ (idleStrands s c).length ∧
  (∀ x ∈ s.tasks, x.st = .stopping → x.core = c → x.forTask = 0 ∨ x.forTask = v.key) ∧
  ∀ j ∈ (s.core c).jobs, j.resume ≠ none → ∀ x, s.task? j.key = some x → x.slotCoreSec = false

theorem State.takes_iff (s : State) (c : Nat) : s.takes c = true ↔ Usable s c ∧ ∀ r ∈ s.retiring, r.1 ≠ c / 256 := by
  rw [State.takes, Bool.and_eq_true, State.inService_iff]
  simp [dieOf]

theorem State.mayMap_iff (s : State) (cl : Nat) (regid : Word) : s.mayMap cl regid = true ↔ ∃ r, s.region? regid = some r ∧
    (s.inherit 3 r).clusters.getLsbD cl = true ∧ s.heldCores regid < (s.inherit 4 r).cores := by
  unfold State.mayMap
  cases s.region? regid <;> simp

theorem State.coreOpen_iff (s : State) (c : Nat) : s.coreOpen c = true ↔
    ∀ j ∈ (s.core c).jobs, j.resume ≠ none → ∀ x, s.task? j.key = some x → x.slotCoreSec = false := by
  simp only [State.coreOpen, List.all_eq_true]
  refine forall₂_congr fun j _ => ?_
  cases j.resume <;> cases s.task? j.key <;> simp

theorem State.promised_eq_false_iff (s : State) (c key : Nat) : s.promised c key = false ↔
    ∀ x ∈ s.tasks, x.st = .stopping → x.core = c → x.forTask = 0 ∨ x.forTask = key := by
  simp only [State.promised, List.any_eq_false]
  refine forall₂_congr fun x _ => ?_
  simp
  tauto

section
variable {s : State} {cl : Nat} {v : Task} (hst : v.st = .waiting)
include hst

theorem State.fits_iff (c : Nat) : s.fits v c = true ↔ FitsOn s v c := by
  have hneeds : v.needs = v.nstrands := by simp [Task.needs, hst]
  simp only [State.fits, Bool.and_eq_true, Bool.not_eq_true', State.takes_iff, State.coreOpen_iff, State.promised_eq_false_iff, hneeds,
    freeStrands_eq, decide_eq_true_eq, FitsOn]
  simp [hst]
  tauto

omit hst in
theorem finds_iff (hcl : cl < 64) (c : Nat) (l : BitVec 12) (new : Prop) : Finds s cl v c l new ↔
    c ∈ clusterCores cl ∧ FitsOn s v c ∧
    (v.lcore ≠ 0xFFFF#16 → s.resolve v.regid (v.lcore.truncate 12) = some c ∧ (s.core c).slot = .mapped ∧
      l = v.lcore.truncate 12 ∧ ¬ new) ∧
    (v.lcore = 0xFFFF#16 →
      ((s.core c).slot = .mapped ∧ (s.core c).regid = v.regid ∧ l = (s.core c).lcore ∧ ¬ new) ∨
      ((s.core c).slot = .free ∧ new ∧ l = s.newLcore v.regid c ∧ (s.core c).heldOk v.regid = true ∧ s.mayMap cl v.regid = true)) := by
  rw [mem_clusterCores hcl, State.mayMap_iff, Finds, FitsOn]
  have hlt : Usable s c → c < 4096 := And.left
  tauto

/-- The place that core `c` offers a task without a logical CORE. -/
def spotAt (s : State) (cl : Nat) (v : Task) (c : Nat) : Option Spot :=
  if !s.fits v c then none
  else if (s.core c).slot == .mapped && (s.core c).regid == v.regid then some ⟨c, (s.core c).lcore, false⟩
  else if (s.core c).slot == .free && s.mayMap cl v.regid && (s.core c).heldOk v.regid then some ⟨c, s.newLcore v.regid c, true⟩
  else none

omit hst in
theorem eligible_eq : s.eligible cl v = (clusterCores cl).filterMap (spotAt s cl v) := rfl

omit hst in
theorem spotAt_eq_some {c : Nat} {p : Spot} : spotAt s cl v c = some p ↔ p.core = c ∧ s.fits v c = true ∧
    (((s.core c).slot = .mapped ∧ (s.core c).regid = v.regid ∧ p.lcore = (s.core c).lcore ∧ ¬ p.map = true) ∨
      ((s.core c).slot = .free ∧ p.map = true ∧ p.lcore = s.newLcore v.regid c ∧ (s.core c).heldOk v.regid = true ∧
        s.mayMap cl v.regid = true)) := by
  obtain ⟨d, l, new⟩ := p
  unfold spotAt
  split
  next h => simp_all
  next h =>
    have hfits : s.fits v c = true := by simpa using h
    split
    next h =>
      obtain ⟨hslot, hregid⟩ : (s.core c).slot = .mapped ∧ (s.core c).regid = v.regid := by simpa using h
      rw [Option.some.injEq, Spot.mk.injEq]
      constructor
      · rintro ⟨rfl, rfl, rfl⟩
        exact ⟨rfl, hfits, .inl ⟨hslot, hregid, rfl, Bool.false_ne_true⟩⟩
      · rintro ⟨hd, -, ⟨-, -, hl, hnew⟩ | ⟨hfree, -⟩⟩
        · exact ⟨hd.symm, hl.symm, (Bool.eq_false_iff.mpr hnew).symm⟩
        · exact absurd (hslot.symm.trans hfree) (by decide)
    next hother =>
      have hnot : ¬ ((s.core c).slot = .mapped ∧ (s.core c).regid = v.regid) := by simpa using hother
      split
      next h =>
        obtain ⟨⟨hslot, hmay⟩, hheld⟩ :
            ((s.core c).slot = .free ∧ s.mayMap cl v.regid = true) ∧ (s.core c).heldOk v.regid = true := by
          simpa using h
        rw [Option.some.injEq, Spot.mk.injEq]
        constructor
        · rintro ⟨rfl, rfl, rfl⟩
          exact ⟨rfl, hfits, .inr ⟨hslot, rfl, rfl, hheld, hmay⟩⟩
        · rintro ⟨hd, -, ⟨hmapped, hregid, -⟩ | ⟨-, hnew, hl, -⟩⟩
          · exact absurd ⟨hmapped, hregid⟩ hnot
          · exact ⟨hd.symm, hl.symm, hnew.symm⟩
      next h =>
        refine ⟨nofun, ?_⟩
        rintro ⟨rfl, -, ⟨hmapped, hregid, -⟩ | ⟨hslot, -, -, hheld, hmay⟩⟩
        · exact absurd ⟨hmapped, hregid⟩ hnot
        · exact absurd (by simp [hslot, hmay, hheld]) h

variable (hcl : cl < 64)
include hcl

/-- The eligible cores of a task without a logical CORE are those that it may be bound on. -/
theorem State.mem_eligible (hl : v.lcore = 0xFFFF#16) (p : Spot) : p ∈ s.eligible cl v ↔ Finds s cl v p.core p.lcore (p.map = true) := by
  rw [finds_iff hcl, ← State.fits_iff hst, eligible_eq, List.mem_filterMap]
  simp only [spotAt_eq_some, hl, ne_eq, not_true_eq_false, false_implies, true_implies, true_and]
  constructor
  · rintro ⟨c, hc, rfl, h⟩
    exact ⟨hc, h⟩
  · rintro ⟨hc, h⟩
    exact ⟨p.core, hc, rfl, h⟩

end

theorem State.eq_of_mem_eligible {s : State} {cl : Nat} {v : Task} {p q : Spot} (hp : p ∈ s.eligible cl v) (hq : q ∈ s.eligible cl v)
    (h : p.core = q.core) : p = q := by
  rw [eligible_eq, List.mem_filterMap] at hp hq
  obtain ⟨c, -, hc⟩ := hp
  obtain ⟨d, -, hd⟩ := hq
  have hcd : c = d := (spotAt_eq_some.mp hc).1.symm.trans (h.trans (spotAt_eq_some.mp hd).1)
  exact Option.some.inj (hc.symm.trans (hcd ▸ hd))

/-! ## The score of a logical core (R231) -/

theorem foldl_add_eq {α : Type} {f : Nat → α → Nat} {g : α → Nat} (h : ∀ n x, f n x = n + g x) (l : List α) (n : Nat) :
    l.foldl f n = n + (l.map g).sum := by
  induction l generalizing n with
  | nil => rfl
  | cons x l ih => rw [List.foldl_cons, ih, h, List.map_cons, List.sum_cons, Nat.add_assoc]

theorem State.score_eq (s : State) (cl : Nat) (v : Task) (l : BitVec 12) :
    s.score cl (s.contextOf v.regid) (hdrChunks (s.headerAt (cl / 4) v.hdr)) l = Claims.score s cl v l := by
  unfold State.score Claims.score
  refine (foldl_add_eq (fun n c => ?_) _ 0).trans (Nat.zero_add _)
  cases (s.cluster cl).resid.find? fun e => e.context == s.contextOf v.regid && e.id == c.1 with
  | none => rfl
  | some e =>
    dsimp only
    split <;> split <;> simp_all

/-! ## The place of a waiting task -/

section
variable {s : State} {cl : Nat} {v : Task} (hst : v.st = .waiting) (hcl : cl < 64)
include hst hcl

/-- Where a waiting task may be bound nowhere, it has no place. -/
theorem State.place_eq_none (h : ∀ c l new, ¬ Finds s cl v c l new) : s.place cl v = none := by
  unfold State.place
  split
  next hl =>
    have hnone : s.eligible cl v = [] :=
      List.eq_nil_iff_forall_not_mem.mpr fun p hp => h _ _ _ ((State.mem_eligible hst hcl hl p).mp hp)
    rw [hnone]
    rfl
  next hl =>
    split
    next c hc =>
      refine if_neg fun hfinds => h c (v.lcore.truncate 12) False ?_
      simp only [Bool.and_eq_true, beq_iff_eq, State.fits_iff hst] at hfinds
      obtain ⟨⟨hcluster, hslot⟩, hfits⟩ := hfinds
      rw [finds_iff hcl, mem_clusterCores hcl]
      exact ⟨⟨hfits.1.1, hcluster⟩, hfits, fun _ => ⟨hc, hslot, rfl, not_false⟩, fun hl' => absurd hl' hl⟩
    next => simp [hst]

/-- How good a place is: its score, or its idle strands where every score is 0. -/
def rankOf (s : State) (cl : Nat) (v : Task) (p : Spot) : Nat :=
  if (s.eligible cl v).any fun x => Claims.score s cl v x.lcore != 0 then Claims.score s cl v p.lcore else (idleStrands s p.core).length

/-- Whether a place is chosen rather than another. -/
def spotFirst (s : State) (cl : Nat) (v : Task) (x b : Spot) : Bool :=
  rankOf s cl v b < rankOf s cl v x || (rankOf s cl v b == rankOf s cl v x && x.lcore.toNat < b.lcore.toNat)

omit hst hcl in
theorem State.choose_eq : s.choose cl v (s.eligible cl v) = bestBy (spotFirst s cl v) (s.eligible cl v) := by
  unfold State.choose spotFirst rankOf
  simp only [State.score_eq, freeStrands_eq, bestBy_eq_foldl]
  refine congrArg (fun f => List.foldl f none _) ?_
  funext best x
  cases best <;> rfl

open Classical in
/-- The place of a waiting task is the one that R231 chooses. -/
theorem State.place_of_chosen {c : Nat} {l : BitVec 12} {new : Prop} (h : Chosen s cl v c l new) :
    s.place cl v = some ⟨c, l, decide new⟩ := by
  obtain ⟨hfinds, hbest⟩ := h
  unfold State.place
  split
  next hl =>
    rw [State.choose_eq]
    have hmem : (⟨c, l, decide new⟩ : Spot) ∈ s.eligible cl v := (State.mem_eligible hst hcl hl _).mpr (by simpa using hfinds)
    refine bestBy_eq_some hmem fun q hq hne => ?_
    have hcore : q.core ≠ c := fun hc => hne (State.eq_of_mem_eligible hq hmem hc)
    obtain ⟨hscored, hunscored⟩ := hbest hl q.core q.lcore (q.map = true) ((State.mem_eligible hst hcl hl q).mp hq) hcore
    have hbetter : rankOf s cl v q < rankOf s cl v ⟨c, l, decide new⟩ ∨
        rankOf s cl v q = rankOf s cl v ⟨c, l, decide new⟩ ∧ l.toNat < q.lcore.toNat := by
      unfold rankOf
      split
      next hany =>
        obtain ⟨x, hx, hne⟩ := List.any_eq_true.mp hany
        exact hscored ⟨x.core, x.lcore, _, (State.mem_eligible hst hcl hl x).mp hx, by simpa using hne⟩
      next hnone =>
        refine hunscored fun e m p hp => ?_
        have hx : (⟨e, m, decide p⟩ : Spot) ∈ s.eligible cl v := (State.mem_eligible hst hcl hl _).mpr (by simpa using hp)
        by_contra hne
        exact hnone (List.any_eq_true.mpr ⟨_, hx, by simpa using hne⟩)
    unfold spotFirst
    obtain hlt | ⟨heq, hlt⟩ := hbetter
    · simp [hlt, hlt.ne', hlt.le]
    · simp [heq, hlt, hlt.le]
  next hl =>
    obtain ⟨hc, hfits, hown, -⟩ := (finds_iff hcl c l new).mp hfinds
    obtain ⟨hresolve, hslot, rfl, hnew⟩ := hown hl
    rw [hresolve]
    dsimp only
    rw [if_pos (by simp [((mem_clusterCores hcl).mp hc).2, hslot, (State.fits_iff hst c).mpr hfits])]
    simp [hnew]

end

/-- A core that has yet to be mapped is free. -/
theorem State.free_of_place {s : State} {cl : Nat} {t : Task} {p : Spot} (h : s.place cl t = some p) (hmap : p.map = true) :
    (s.core p.core).slot = .free := by
  unfold State.place at h
  split at h
  next =>
    rw [State.choose_eq] at h
    have hmem := mem_of_bestBy h
    rw [eligible_eq, List.mem_filterMap] at hmem
    obtain ⟨c, -, hc⟩ := hmem
    obtain ⟨rfl, -, ⟨-, -, -, hnew⟩ | ⟨hfree, -⟩⟩ := spotAt_eq_some.mp hc
    · exact absurd hmap hnew
    · exact hfree
  next =>
    split at h
    next =>
      split at h
      · obtain rfl := Option.some.inj h
        cases hmap
      · cases h
    next =>
      split at h
      · obtain ⟨c, hc, rfl⟩ := Option.map_eq_some_iff.mp h
        have hfound := List.find?_some hc
        simp only [Bool.and_eq_true, beq_iff_eq] at hfound
        exact hfound.1.2
      · cases h

end Sys2Proof.Machine
end

section
/-! PROOFS. What serving one waiting task at a boundary changes (R264, R274), and what it leaves alone for the others (O39). -/

namespace Sys2Proof.Machine

open Sys2Proof.Claims

/-! ## Strands taken for a task -/

theorem vector_get_map {α β : Type} {n : Nat} (v : Vector α n) (f : α → β) (i : Fin n) : (v.map f).get i = f (v.get i) :=
  Vector.getElem_map f i.isLt

/-- A strand taken for the task of a key. -/
def Strand.taken (u : Strand) (key : Nat) : Strand := { u.ended with task := key, stopped := true }

theorem Core.strand_reserve (k : Core) (key : Nat) (ns : List (Fin 4)) (n : Fin 4) :
    (k.reserve key ns).strand n = if n ∈ ns then (k.strand n).taken key else k.strand n := by
  unfold Core.reserve
  induction ns generalizing k with
  | nil => rfl
  | cons i ns ih =>
    rw [List.foldl_cons, ih]
    change (if n ∈ ns then ((k.setStrand i ((k.strand i).taken key)).strand n).taken key
      else (k.setStrand i ((k.strand i).taken key)).strand n) = _
    rw [Core.strand_setStrand]
    by_cases hn : i = n
    · subst hn
      simp [Strand.taken, Strand.ended]
    · simp [hn, Ne.symm hn]

theorem Core.slot_reserve (k : Core) (key : Nat) (ns : List (Fin 4)) :
    (k.reserve key ns).slot = k.slot ∧ (k.reserve key ns).regid = k.regid ∧ (k.reserve key ns).lcore = k.lcore := by
  unfold Core.reserve
  induction ns generalizing k with
  | nil => exact ⟨rfl, rfl, rfl⟩
  | cons i ns ih =>
    rw [List.foldl_cons]
    exact ih _

/-! ## One task served -/

/-- What serving the task of a key may do to a strand: nothing, stop it, take it from idle, or end it where it was the task's. -/
def StrandServed (key : Nat) (u v : Strand) : Prop :=
  (u.task ≠ key → (v.task = u.task ∧ (u.stopped = true → v.stopped = true)) ∨ (u.task = 0 ∧ v.task = key ∧ v.stopped = true)) ∧
  (u.task = key → v.task = key ∨ v.task = 0)

theorem StrandServed.refl (key : Nat) (u : Strand) : StrandServed key u u := ⟨fun _ => .inl ⟨rfl, id⟩, .inl⟩

theorem StrandServed.taken {key : Nat} {u : Strand} (h : u.task = 0) : StrandServed key u (u.taken key) :=
  ⟨fun _ => .inr ⟨h, rfl, rfl⟩, fun _ => .inl rfl⟩

/-- What serving the task of a key may do to a task: nothing to another, or it stops a running one for the task. -/
structure TaskServed (key : Nat) (y z : Task) : Prop where
  same : z.key = y.key
  other : y.key ≠ key → z = y ∨ (y.st = .running ∧ z = { y with st := .stopping, why := 0, forTask := key })
  stopping : z.st = .stopping → (y.st = .stopping ∧ z.forTask = y.forTask) ∨ z.forTask = key

theorem TaskServed.refl (key : Nat) (y : Task) : TaskServed key y y := ⟨rfl, fun _ => .inl rfl, fun h => .inl ⟨h, rfl⟩⟩

theorem TaskServed.trans {key : Nat} {x y z : Task} (h : TaskServed key x y) (h' : TaskServed key y z) : TaskServed key x z := by
  refine ⟨h'.same.trans h.same, fun hne => ?_, fun hst => ?_⟩
  · obtain rfl | ⟨hrun, rfl⟩ := h.other hne
    · exact h'.other hne
    · obtain rfl | ⟨hrun', -⟩ := h'.other hne
      · exact .inr ⟨hrun, rfl⟩
      · cases hrun'
  · obtain ⟨hst', hfor⟩ | hfor := h'.stopping hst
    · exact hfor ▸ h.stopping hst'
    · exact .inr hfor

/-- Only tasks have been served. -/
def TasksServed (key : Nat) (s t : State) : Prop := ∃ g : Task → Task, t.tasks = s.tasks.map g ∧ ∀ y ∈ s.tasks, TaskServed key y (g y)

theorem TasksServed.of_eq {key : Nat} {s t : State} (h : t.tasks = s.tasks) : TasksServed key s t :=
  ⟨id, h.trans (List.map_id _).symm, fun y _ => .refl key y⟩

theorem TasksServed.trans {key : Nat} {s t w : State} (h : TasksServed key s t) (h' : TasksServed key t w) : TasksServed key s w := by
  obtain ⟨g, hg, hserved⟩ := h
  obtain ⟨g', hg', hserved'⟩ := h'
  refine ⟨g' ∘ g, by rw [hg', hg, List.map_map], fun y hy => (hserved y hy).trans (hserved' (g y) ?_)⟩
  rw [hg]
  exact List.mem_map_of_mem hy

/-- A change of the task served that keeps its key and does not stop it. -/
def KeepsStops (f : Task → Task) : Prop :=
  ∀ y, (f y).key = y.key ∧ ((f y).st = .stopping → y.st = .stopping ∧ (f y).forTask = y.forTask)

theorem TasksServed.modTask {key : Nat} {s : State} {f : Task → Task} (hf : KeepsStops f) : TasksServed key s (s.modTask key f) := by
  refine ⟨_, rfl, fun y _ => ?_⟩
  split
  next h => exact ⟨(hf y).1, fun hne => absurd (by simpa using h) hne, fun hst => .inl ((hf y).2 hst)⟩
  next => exact .refl key y

theorem TasksServed.keys {key : Nat} {s t : State} (h : TasksServed key s t) : t.tasks.map (·.key) = s.tasks.map (·.key) := by
  obtain ⟨g, hg, hserved⟩ := h
  rw [hg, List.map_map]
  exact List.map_congr_left fun y hy => (hserved y hy).same

/-- What serving the task of a key may do. -/
structure Served (key : Nat) (s t : State) : Prop where
  tasks : TasksServed key s t
  slot : ∀ c, (s.core c).slot ≠ .free → (t.core c).slot = (s.core c).slot ∧ (t.core c).regid = (s.core c).regid ∧
    (t.core c).lcore = (s.core c).lcore
  strand : ∀ c n, StrandServed key (s.strand c n) (t.strand c n)

theorem Served.of_eq {key : Nat} {s t : State} (ht : t.tasks = s.tasks) (hc : t.cores = s.cores) : Served key s t := by
  refine ⟨.of_eq ht, fun c _ => ?_, fun c n => ?_⟩
  · rw [State.core_eq hc]
    exact ⟨rfl, rfl, rfl⟩
  · rw [State.strand, State.strand, State.core_eq hc]
    exact .refl key _

/-- A core whose strands stay as they are, or are served, and whose slot stays unless it is free. -/
theorem Served.modCore {key : Nat} {s : State} {c : Nat} {f : Core → Core}
    (hslot : (s.core c).slot ≠ .free → (f (s.core c)).slot = (s.core c).slot ∧ (f (s.core c)).regid = (s.core c).regid ∧
      (f (s.core c)).lcore = (s.core c).lcore)
    (hstrand : ∀ n, StrandServed key (s.strand c n) ((f (s.core c)).strand n)) : Served key s (s.modCore c f) := by
  refine ⟨.of_eq rfl, fun d hd => ?_, fun d n => ?_⟩
  · rw [State.core_modCore]
    split
    next h => exact h ▸ hslot (h ▸ hd)
    next => exact ⟨rfl, rfl, rfl⟩
  · rw [State.strand, State.strand, State.core_modCore]
    split
    next h => exact h ▸ hstrand n
    next => exact .refl key _

theorem Served.modTask {key : Nat} {s : State} {f : Task → Task} (hf : KeepsStops f) : Served key s (s.modTask key f) :=
  ⟨.modTask hf, fun _ _ => ⟨rfl, rfl, rfl⟩, fun _ _ => .refl key _⟩

/-- Serving goes on from a state in which no strand has been touched. -/
theorem Served.after {key : Nat} {s t w : State} (h : Served key s t) (hsame : ∀ c n, t.strand c n = s.strand c n) (h' : Served key t w) :
    Served key s w := by
  refine ⟨h.tasks.trans h'.tasks, fun c hc => ?_, fun c n => hsame c n ▸ h'.strand c n⟩
  obtain ⟨h1, h2, h3⟩ := h.slot c hc
  obtain ⟨h1', h2', h3'⟩ := h'.slot c (h1 ▸ hc)
  exact ⟨h1'.trans h1, h2'.trans h2, h3'.trans h3⟩

/-- Serving goes on to a state with the same strands. -/
theorem Served.before {key : Nat} {s t w : State} (h : Served key s t) (h' : Served key t w) (hsame : ∀ c n, w.strand c n = t.strand c n) :
    Served key s w := by
  refine ⟨h.tasks.trans h'.tasks, fun c hc => ?_, fun c n => (hsame c n).symm ▸ h.strand c n⟩
  obtain ⟨h1, h2, h3⟩ := h.slot c hc
  obtain ⟨h1', h2', h3'⟩ := h'.slot c (h1 ▸ hc)
  exact ⟨h1'.trans h1, h2'.trans h2, h3'.trans h3⟩

/-! ## Binding -/

theorem Served.beginLoad {s : State} {core : Nat} {t : Task} {m : LoadMsg} {resume : Option (List (Fin 4))}
    (hidle : ∀ n ∈ resume.getD (maskStrands m.mask), (s.strand core n).task = 0) : Served t.key s (s.beginLoad core t m resume) := by
  unfold State.beginLoad
  refine .before (.modCore (fun _ => Core.slot_reserve _ _ _) fun n => ?_) (.modTask fun _ => ⟨rfl, fun h => ⟨h, rfl⟩⟩) fun _ _ => rfl
  change StrandServed t.key _ (((s.core core).reserve t.key (resume.getD (maskStrands m.mask))).strand n)
  rw [Core.strand_reserve]
  split
  next hn => exact .taken (hidle n hn)
  next => exact .refl _ _

/-- A core on which the strands of the task of a key end. -/
def Core.endStrands (k : Core) (key : Nat) : Core := { k with strands := k.strands.map fun v => if v.task == key then v.ended else v }

theorem Served.endStrands {key : Nat} (s : State) (core : Nat) : Served key s (s.modCore core fun k => k.endStrands key) := by
  refine .modCore (fun _ => ⟨rfl, rfl, rfl⟩) fun n => ?_
  change StrandServed key _ (((s.core core).strands.map _).get n)
  rw [vector_get_map]
  split
  next h => exact ⟨fun hne => absurd (beq_iff_eq.mp h) hne, fun _ => .inr rfl⟩
  next => exact .refl _ _

/-- A refused task. -/
def Task.refused (t : Task) : Task :=
  { t with st := .ended, fired := t.fired || t.started, held := [], stash := none, loading := false }

theorem Served.refuseStart (s : State) (core : Nat) (mask : BitVec 4) (t : Task) (status : Nat) :
    Served t.key s (s.refuseStart core mask t status) := by
  have hended : Served t.key s ((s.modTask t.key Task.refused).modCore core fun k => k.endStrands t.key) :=
    Served.after (t := s.modTask t.key Task.refused) (.modTask fun _ => ⟨rfl, nofun⟩) (fun _ _ => rfl) (.endStrands _ core)
  exact hended.before (.of_eq rfl rfl) fun _ _ => rfl

theorem Core.resumeStrands_idle {k : Core} {mask : BitVec 4} {n : Nat} {ns : List (Fin 4)} (h : k.resumeStrands mask n = some ns)
    (hmask : ∀ i ∈ maskStrands mask, (k.strand i).task = 0) : ∀ i ∈ ns, (k.strand i).task = 0 := by
  unfold Core.resumeStrands at h
  dsimp only at h
  split at h
  · obtain rfl := Option.some.inj h
    intro i hi
    rcases List.mem_append.mp (List.mem_of_mem_take hi) with hi | hi
    · exact hmask i hi
    · have hfree := (List.mem_filter.mp hi).2
      rw [Bool.and_eq_true] at hfree
      simpa using hfree.2
  · cases h

theorem Served.startTask {s u : State} {core : Nat} {mask : BitVec 4} {t : Task} (h : s.startTask core mask t = some u)
    (hmask : ∀ i ∈ maskStrands mask, (s.strand core i).task = 0) : Served t.key s u := by
  have hunlist : Served t.key s (s.unlist t) := .of_eq rfl rfl
  unfold State.startTask at h
  dsimp only at h
  split at h
  · obtain ⟨ns, hns, rfl⟩ := Option.map_eq_some_iff.mp h
    refine hunlist.after (fun _ _ => rfl) (.beginLoad ?_)
    unfold State.resumeOn at hns
    dsimp only at hns
    split at hns
    · exact Core.resumeStrands_idle hns hmask
    · cases hns
  · split at h
    · obtain rfl := Option.some.inj h
      exact hunlist.after (fun _ _ => rfl) (.refuseStart ..)
    · obtain rfl := Option.some.inj h
      exact hunlist.after (fun _ _ => rfl) (.beginLoad hmask)

/-- The state in which a task is bound at a place: the core is mapped first where the place asks it. -/
def mappedFor (s : State) (t : Task) (p : Spot) : State := if p.map then s.mapSlot p.core p.lcore t.regid else s

theorem mappedCore_strands (k : Core) (ctx : Word) (l : BitVec 12) (regid : Word) : (mappedCore k ctx l regid).strands = k.strands := by
  unfold mappedCore
  split <;> rfl

theorem strand_mappedFor (s : State) (t : Task) (p : Spot) (c : Nat) (n : Fin 4) : (mappedFor s t p).strand c n = s.strand c n := by
  unfold mappedFor
  split
  · exact State.strand_modCore (mappedCore_strands ..) c n
  · rfl

theorem Served.mappedFor {key : Nat} {s : State} {t : Task} {p : Spot} (hp : p.map = true → (s.core p.core).slot = .free) :
    Served key s (mappedFor s t p) := by
  unfold Machine.mappedFor
  split
  next h =>
    refine State.mapSlot_eq .. ▸ .modCore (fun hslot => absurd (hp h) hslot) fun n => ?_
    have hstrand : (mappedCore (s.core p.core) (s.contextOf t.regid) p.lcore t.regid).strand n = s.strand p.core n :=
      congrArg (fun l => l.get n) (mappedCore_strands ..)
    exact hstrand ▸ .refl key _
  next => exact .of_eq rfl rfl

theorem Served.bindAt {s : State} {t : Task} {p : Spot} {due : Bool} (hp : p.map = true → (s.core p.core).slot = .free) :
    Served t.key s (s.bindAt t p due) := by
  have hmapped : Served t.key s (Machine.mappedFor s t p) := .mappedFor hp
  have hsame := strand_mappedFor s t p
  change Served t.key s (match (Machine.mappedFor s t p).startTask p.core _ t with | some s => _ | none => _)
  split
  next u hu =>
    refine .before (hmapped.after hsame (.startTask hu fun i hi => ?_)) (.modTask fun _ => ⟨rfl, fun h => ⟨h, rfl⟩⟩) fun _ _ => rfl
    have hfree := List.mem_of_mem_take (mem_maskStrands_maskOf.mp hi)
    exact Core.mem_freeStrands.mp hfree
  next => exact hmapped

/-! ## Pre-empting (R274, R443) -/

/-- A task stopped for the task of a key. -/
def Task.stoppedFor (key : Nat) (t : Task) : Task := { t with st := .stopping, why := 0, forTask := key }

/-- A task stays as it is, or it ran and has been stopped for the task of a key. -/
def TaskStops (key : Nat) (y z : Task) : Prop := z = y ∨ (y.st = .running ∧ z = y.stoppedFor key)

theorem TaskStops.trans {key : Nat} {x y z : Task} (h : TaskStops key x y) (h' : TaskStops key y z) : TaskStops key x z := by
  obtain rfl | ⟨hrun, rfl⟩ := h
  · exact h'
  · obtain rfl | ⟨hrun', -⟩ := h'
    · exact .inr ⟨hrun, rfl⟩
    · cases hrun'

theorem TaskStops.key {key : Nat} {y z : Task} (h : TaskStops key y z) : z.key = y.key := by
  obtain rfl | ⟨-, rfl⟩ := h <;> rfl

theorem TaskStops.served {key : Nat} {y z : Task} (h : TaskStops key y z) : TaskServed key y z := by
  refine ⟨h.key, fun _ => h, fun hst => ?_⟩
  obtain rfl | ⟨-, rfl⟩ := h
  · exact .inl ⟨hst, rfl⟩
  · exact .inr rfl

/-- Running tasks have been stopped for the task of a key. -/
structure Stops (key : Nat) (s t : State) : Prop where
  tasks : ∃ g : Task → Task, t.tasks = s.tasks.map g ∧ ∀ y ∈ s.tasks, TaskStops key y (g y)
  slot : ∀ c, (t.core c).slot = (s.core c).slot ∧ (t.core c).regid = (s.core c).regid ∧ (t.core c).lcore = (s.core c).lcore
  strand : ∀ c n, (t.strand c n).task = (s.strand c n).task ∧ ((s.strand c n).stopped = true → (t.strand c n).stopped = true)

theorem Stops.refl (key : Nat) (s : State) : Stops key s s :=
  ⟨⟨id, (List.map_id _).symm, fun _ _ => .inl rfl⟩, fun _ => ⟨rfl, rfl, rfl⟩, fun _ _ => ⟨rfl, id⟩⟩

theorem Stops.trans {key : Nat} {s t w : State} (h : Stops key s t) (h' : Stops key t w) : Stops key s w := by
  refine ⟨?_, fun c => ?_, fun c n => ?_⟩
  · obtain ⟨g, hg, hstops⟩ := h.tasks
    obtain ⟨g', hg', hstops'⟩ := h'.tasks
    exact ⟨g' ∘ g, by rw [hg', hg, List.map_map], fun y hy => (hstops y hy).trans (hstops' (g y) (hg ▸ List.mem_map_of_mem hy))⟩
  · obtain ⟨h1, h2, h3⟩ := h.slot c
    obtain ⟨h1', h2', h3'⟩ := h'.slot c
    exact ⟨h1'.trans h1, h2'.trans h2, h3'.trans h3⟩
  · obtain ⟨htask, hstopped⟩ := h.strand c n
    obtain ⟨htask', hstopped'⟩ := h'.strand c n
    exact ⟨htask'.trans htask, hstopped' ∘ hstopped⟩

theorem Stops.served {key : Nat} {s t : State} (h : Stops key s t) : Served key s t := by
  obtain ⟨g, hg, hstops⟩ := h.tasks
  exact ⟨⟨g, hg, fun y hy => (hstops y hy).served⟩, fun c _ => h.slot c,
    fun c n => ⟨fun _ => .inl (h.strand c n), fun hkey => .inl ((h.strand c n).1.trans hkey)⟩⟩

/-- A task that does not run is left alone. -/
theorem Stops.task? {key k : Nat} {s t : State} {v : Task} (h : Stops key s t) (hv : s.task? k = some v) (hst : v.st ≠ .running) :
    t.task? k = some v := by
  obtain ⟨g, hg, hstops⟩ := h.tasks
  rw [State.task?_map hg (fun y hy => (hstops y hy).key), hv, Option.map_some,
    (hstops v (State.task?_some hv).1).resolve_right fun hrun => hst hrun.1]

/-- A core on which the strands of the task of a key are stopped. -/
def Core.stopStrands (k : Core) (key : Nat) : Core :=
  { k with strands := k.strands.map fun v => if v.task == key then { v with stopped := true } else v }

theorem Core.strand_stopStrands (k : Core) (key : Nat) (n : Fin 4) :
    (k.stopStrands key).strand n = if (k.strand n).task = key then { k.strand n with stopped := true } else k.strand n := by
  refine (vector_get_map ..).trans ?_
  simp only [beq_iff_eq]
  rfl

/-- The state in which task `v` has been stopped for the task of a key. -/
def stoppedFor (s : State) (v : Task) (key : Nat) : State :=
  (s.modCore v.core fun k => k.stopStrands v.key).modTask v.key (Task.stoppedFor key)

theorem State.stopTask_eq {s : State} {v : Task} (hv : s.task? v.key = some v) (key : Nat) :
    (s.stopTask v.key 0).modTask v.key (fun y => { y with forTask := key }) = stoppedFor s v key := by
  have htwice (f g : Task → Task) (hf : ∀ y, (f y).key = y.key) (w : State) :
      (w.modTask v.key f).modTask v.key g = w.modTask v.key fun y => g (f y) := by
    have hmap : (w.tasks.map fun y => if y.key == v.key then f y else y).map (fun y => if y.key == v.key then g y else y) =
        w.tasks.map fun y => if y.key == v.key then g (f y) else y := by
      rw [List.map_map]
      refine List.map_congr_left fun y _ => ?_
      by_cases h : y.key = v.key <;> simp [h, hf]
    simp only [State.modTask, hmap]
  rw [State.stopTask, hv]
  exact htwice (fun y => { y with st := .stopping, why := 0 }) (fun y => { y with forTask := key }) (fun _ => rfl)
    (s.modCore v.core fun k => k.stopStrands v.key)

theorem stops_stoppedFor {s : State} {v : Task} (hkeys : (s.tasks.map (·.key)).Nodup) (hv : v ∈ s.tasks) (hrun : v.st = .running)
    (key : Nat) : Stops key s (stoppedFor s v key) := by
  have hcore (c : Nat) : (stoppedFor s v key).core c = if v.core = c then (s.core v.core).stopStrands v.key else s.core c :=
    State.core_modCore s v.core c fun k => k.stopStrands v.key
  refine ⟨⟨fun y => if y.key == v.key then y.stoppedFor key else y, rfl, fun y hy => ?_⟩, fun c => ?_, fun c n => ?_⟩
  · dsimp only
    split
    next h =>
      obtain rfl : y = v := List.inj_on_of_nodup_map hkeys hy hv (beq_iff_eq.mp h)
      exact .inr ⟨hrun, rfl⟩
    next => exact .inl rfl
  · rw [hcore]
    split
    next h => exact h ▸ ⟨rfl, rfl, rfl⟩
    next => exact ⟨rfl, rfl, rfl⟩
  · rw [State.strand, hcore]
    split
    next h =>
      subst h
      rw [Core.strand_stopStrands]
      split
      · exact ⟨rfl, fun _ => rfl⟩
      · exact ⟨rfl, id⟩
    next => exact ⟨rfl, id⟩

/-- The tasks that may be pre-empted run on cores of the cluster that the waiting task could use. -/
theorem State.mem_victims {s : State} {cl : Nat} {t v : Task} {b : Bool} : (v, b) ∈ s.victims cl t ↔
    v ∈ s.tasks ∧ v.st = .running ∧ clusterOf v.core = cl ∧ s.usable cl t v.core = true ∧
      (b = decide (v.yielding = true ∧ v.base ≤ t.e)) ∧
      (b = false → if t.due = true then v.boundDue = false else v.base < t.base ∧ 1 ≤ v.ran) := by
  simp only [State.victims, List.mem_filterMap, List.mem_filter, Bool.and_eq_true, beq_iff_eq, decide_eq_true_eq]
  constructor
  · rintro ⟨w, ⟨hw, ⟨hrun, hcl⟩, huse⟩, h⟩
    split at h
    next hyield =>
      obtain ⟨rfl, rfl⟩ := Prod.mk.inj (Option.some.inj h)
      exact ⟨hw, hrun, hcl, huse, (decide_eq_true hyield).symm, nofun⟩
    next hyield =>
      obtain ⟨hlow, hvw⟩ := Option.ite_none_right_eq_some.mp h
      obtain ⟨rfl, rfl⟩ := Prod.mk.inj (Option.some.inj hvw)
      refine ⟨hw, hrun, hcl, huse, (decide_eq_false hyield).symm, fun _ => ?_⟩
      cases hdue : t.due <;> simpa [hdue] using hlow
  · rintro ⟨hv, hrun, hcl, huse, hb, hlow⟩
    refine ⟨v, ⟨hv, ⟨hrun, hcl⟩, huse⟩, ?_⟩
    by_cases hyield : v.yielding = true ∧ v.base ≤ t.e
    · rw [if_pos hyield, hb, decide_eq_true hyield]
    · obtain rfl : b = false := hb.trans (decide_eq_false hyield)
      rw [if_neg hyield]
      refine if_pos ?_
      cases hdue : t.due <;> simpa [hdue] using hlow rfl

theorem stops_preemptFor {s : State} (hkeys : (s.tasks.map (·.key)).Nodup) (cl : Nat) (t : Task) (n : Nat) (core : Option Nat) :
    Stops t.key s (s.preemptFor cl t n core) := by
  induction n generalizing s core with
  | zero => exact .refl _ _
  | succ n ih =>
    unfold State.preemptFor
    split
    next => exact .refl _ _
    next v hv =>
      obtain ⟨hmem, hrun, -⟩ := State.mem_victims.mp (List.mem_of_mem_filter (mem_of_bestBy hv))
      have hstop := stops_stoppedFor hkeys hmem hrun t.key
      rw [State.stopTask_eq (State.task?_of_mem hkeys hmem)]
      dsimp only
      split
      · exact hstop.trans (ih (hstop.served.tasks.keys ▸ hkeys) _)
      · exact hstop

/-- One waiting task is served. -/
theorem served_serve {s : State} (hkeys : (s.tasks.map (·.key)).Nodup) (cl key : Nat) : Served key s (s.serve cl key) := by
  unfold State.serve
  split
  next => exact .of_eq rfl rfl
  next t ht =>
    obtain ⟨-, rfl⟩ := State.task?_some ht
    split
    next p hp => exact .bindAt (State.free_of_place hp)
    next =>
      split
      · exact .of_eq rfl rfl
      · exact (stops_preemptFor hkeys cl t 4 none).served

end Sys2Proof.Machine
end

section
/-! PROOFS. What opens a boundary: the events that run one (R25, R257, R275), and the promotion of what waits (R273) (O39). -/

namespace Sys2Proof.Machine

open Sys2Proof.Claims

/-! ## Waiting tasks, and the saves that a boundary waits for -/

theorem Task.waits_iff (v : Task) : v.waits = true ↔ v.st ∈ [.waiting, .saved] ∧ v.loading = false := by
  simp [Task.waits]

theorem waits_iff {cl : Nat} {v : Task} : Waits cl v ↔ (v.waits && v.cluster == cl) = true := by
  rw [Bool.and_eq_true, Task.waits_iff, beq_iff_eq, Waits, and_assoc]

theorem Task.live_iff (v : Task) : v.live = true ↔ v.st ∈ [.running, .draining, .stopping] := by
  rw [Task.live]
  cases v.st <;> decide

/-- A task that waits does not run. -/
theorem Task.live_of_waits {v : Task} (h : v.waits = true) : v.live = false := by
  obtain ⟨hst, -⟩ := v.waits_iff.mp h
  rw [Task.live]
  rcases List.mem_pair.mp hst with hst | hst <;> rw [hst]

theorem State.dueSave_iff (s : State) (cl : Nat) : s.dueSave cl = true ↔
    ∃ v ∈ s.tasks, v.st = .stopping ∧ clusterOf v.core = cl ∧ v.forTask ≠ 0 ∧
      ∃ x, s.task? v.forTask = some x ∧ x.waits = true ∧ DueTask x := by
  simp only [State.dueSave, List.any_eq_true, Option.any_eq_true, Bool.and_eq_true, beq_iff_eq, bne_iff_ne, and_assoc, Task.due_iff]

theorem State.supervised_iff (s : State) (cl : Nat) : s.supervised cl = true ↔ (s.die (cl / 4)).health ∈ [.healthy, .degraded] := by
  rw [State.supervised]
  cases (s.die (cl / 4)).health <;> decide

theorem State.not_supervised_iff (s : State) (cl : Nat) : s.supervised cl = false ↔ (s.die (cl / 4)).health ∈ [.retired, .failed] := by
  rw [State.supervised]
  cases (s.die (cl / 4)).health <;> decide

/-! ## The event -/

/-- No gang waits for the arbiter at a boundary of the cluster (R257, R259). -/
def ArbiterIdle (s : State) (cl : Nat) : Prop := (∀ g ∈ s.gangs, g.st ≠ 0) ∨ (cl ≠ 0 ∧ cl ≠ 60)

/-- No attempt of a gang comes before such a boundary. -/
theorem ArbiterIdle.retryGangs {s : State} {cl : Nat} (h : ArbiterIdle s cl) :
    (if cl = 4 * s.arbiterDie && s.arbiterOpen then
      s.retryGangs ((s.gangs.filter fun g => g.st == 0).map fun g => (g.port, g.pkt)) else s) = s := by
  refine ite_eq_right_iff.mpr fun hattempt => ?_
  obtain hgangs | ⟨hfirst, hlast⟩ := h
  · have hnone : s.gangs.filter (fun g => g.st == 0) = [] := List.filter_eq_nil_iff.mpr fun g hg => by simpa using hgangs g hg
    rw [hnone]
    rfl
  · obtain ⟨hcl, -⟩ : cl = 4 * s.arbiterDie ∧ s.arbiterOpen = true := by simpa using hattempt
    unfold State.arbiterDie at hcl
    split at hcl <;> omega

theorem exec_boundary_of_late {s : State} {cl : Nat} (hcl : 64 ≤ cl) : exec (.tempoBoundary cl) s = .fault .noSuchAgent := by
  rw [exec_tempoBoundary]
  exact if_pos hcl

theorem exec_boundary_exists {s : State} {cl : Nat} (hcl : cl < 64) : ∃ t, exec (.tempoBoundary cl) s = .next t := by
  rw [exec_tempoBoundary]
  unfold execTempoBoundary
  rw [if_neg (Nat.not_le.mpr hcl)]
  split
  · exact ⟨_, rfl⟩
  · exact ⟨_, rfl⟩

theorem exec_boundary_eq {s : State} {cl : Nat} (hcl : cl < 64) (hidle : ArbiterIdle s cl) : exec (.tempoBoundary cl) s =
    if s.supervised cl && s.dueSave cl then .next (s.res .stutter)
    else .next (if s.supervised cl then s.boundary cl else s.res .stutter) := by
  rw [exec_tempoBoundary]
  unfold execTempoBoundary
  rw [if_neg (Nat.not_le.mpr hcl), hidle.retryGangs]

/-- No boundary on a die that is retired or has failed (R25). -/
theorem exec_boundary_unsupervised {s : State} {cl : Nat} (hcl : cl < 64) (hidle : ArbiterIdle s cl) (hdown : s.supervised cl = false) :
    exec (.tempoBoundary cl) s = .next (s.res .stutter) := by
  simp [exec_boundary_eq hcl hidle, hdown]

/-- A boundary waits for the saves for the due tasks of the one before (R275). -/
theorem exec_boundary_dueSave {s : State} {cl : Nat} (hcl : cl < 64) (hup : s.supervised cl = true) (hdue : s.dueSave cl = true) :
    exec (.tempoBoundary cl) s = .next (s.res .stutter) := by
  rw [exec_tempoBoundary]
  unfold execTempoBoundary
  rw [if_neg (Nat.not_le.mpr hcl), hup, hdue]
  rfl

theorem exec_boundary {s : State} {cl : Nat} (h : BoundaryRuns s cl) : exec (.tempoBoundary cl) s = .next (s.boundary cl) := by
  obtain ⟨hcl, hhealth, hsaves, hidle⟩ := h
  have hdue : s.dueSave cl = false := by
    refine Bool.eq_false_iff.mpr fun hdue => ?_
    obtain ⟨v, hv, hst, hcore, hfor, x, hx, hwaits, hdue⟩ := (s.dueSave_iff cl).mp hdue
    obtain ⟨hxst, hload⟩ := x.waits_iff.mp hwaits
    exact (hsaves v hv hst hcore).elim hfor fun hnot => hnot x hx ⟨hdue, hxst, hload⟩
  simp [exec_boundary_eq hcl hidle, (s.supervised_iff cl).mpr hhealth, hdue]

/-! ## The state in which the waiting tasks are served -/

/-- A task at the opening of a boundary: one that runs may be pre-empted again, one that waits is promoted (R273). -/
def openTask (s : State) (cl : Nat) (t : Task) : Task :=
  let t := if t.live && clusterOf t.core == cl then { t with boundDue := false } else t
  if t.waits && t.cluster == cl then t.promote ((s.cluster cl).boundary + 1) else t

/-- The state in which the waiting tasks of the cluster are served. -/
def opened (s : State) (cl : Nat) : State :=
  (s.modCluster cl fun k => { k with events := k.events ||| 0x10#8, boundary := (s.cluster cl).boundary + 1 }).mapTasks (openTask s cl)

/-- A task at the end of a boundary (R443). -/
def ranTask (cl : Nat) (t : Task) : Task :=
  if t.live && clusterOf t.core == cl then { t with yielding := false, ran := t.ran + 1 } else t

/-- Waiting tasks served in turn. -/
def serveAll (cl : Nat) (keys : List Nat) (s : State) : State := keys.foldl (fun s key => s.serve cl key) s

theorem State.boundary_eq (s : State) (cl : Nat) :
    s.boundary cl = ((serveAll cl ((opened s cl).queueOf cl) (opened s cl)).mapTasks (ranTask cl)).stalemates cl := rfl

theorem openTask_waits {s : State} {cl : Nat} {v : Task} (h : Waits cl v) : openTask s cl v = promoted s cl v := by
  have hwaits := waits_iff.mp h
  rw [Bool.and_eq_true] at hwaits
  unfold openTask
  rw [Task.live_of_waits hwaits.1, Bool.false_and]
  dsimp only
  rw [if_neg Bool.false_ne_true, if_pos (waits_iff.mp h), Task.promote, promoted]
  have hboundary : (s.cluster cl).boundary + 1 - v.since - 1 = (s.cluster cl).boundary - v.since := by omega
  rw [hboundary]

/-- What the opening of a boundary keeps of every task. -/
structure SameTask (t v : Task) : Prop where
  key : t.key = v.key
  st : t.st = v.st
  loading : t.loading = v.loading
  cluster : t.cluster = v.cluster
  core : t.core = v.core
  forTask : t.forTask = v.forTask
  nstrands : t.nstrands = v.nstrands
  slotCoreSec : t.slotCoreSec = v.slotCoreSec
  regid : t.regid = v.regid
  tid : t.tid = v.tid
  hdr : t.hdr = v.hdr
  lcore : t.lcore = v.lcore
  base : t.base = v.base
  since : t.since = v.since
  ran : t.ran = v.ran
  yielding : t.yielding = v.yielding

theorem openTask_eq (s : State) (cl : Nat) (v : Task) : ∃ b w n, openTask s cl v = { v with boundDue := b, waited := w, e := n } := by
  unfold openTask
  dsimp only
  split
  · split
    · exact ⟨_, _, _, rfl⟩
    · exact ⟨_, _, _, rfl⟩
  · split
    · exact ⟨_, _, _, rfl⟩
    · exact ⟨_, _, _, rfl⟩

theorem sameTask_openTask (s : State) (cl : Nat) (v : Task) : SameTask (openTask s cl v) v := by
  obtain ⟨b, w, n, h⟩ := openTask_eq s cl v
  rw [h]
  constructor <;> rfl

end Sys2Proof.Machine
end

section
/-! PROOFS. The opening of a boundary changes no place: what R231 chooses for a waiting task is what it chose before, and the queue of R274
begins with the first of the order (O39). -/

namespace Sys2Proof.Machine

open Sys2Proof.Claims

/-! ## What the opening keeps -/

section
variable {s : State} {cl : Nat}

theorem opened_keys : (opened s cl).tasks.map (·.key) = s.tasks.map (·.key) := by
  change (s.tasks.map (openTask s cl)).map (·.key) = _
  rw [List.map_map]
  exact List.map_congr_left fun v _ => (sameTask_openTask s cl v).key

theorem opened_nodup (h : (s.tasks.map (·.key)).Nodup) : ((opened s cl).tasks.map (·.key)).Nodup := by
  rw [opened_keys]
  exact h

theorem mem_opened_iff {x : Task} : x ∈ (opened s cl).tasks ↔ ∃ v ∈ s.tasks, openTask s cl v = x := List.mem_map

theorem forall_mem_opened {p : Task → Prop} : (∀ x ∈ (opened s cl).tasks, p x) ↔ ∀ x ∈ s.tasks, p (openTask s cl x) :=
  List.forall_mem_map

theorem mem_opened {v : Task} (h : v ∈ s.tasks) : openTask s cl v ∈ (opened s cl).tasks := List.mem_map_of_mem h

theorem opened_task? (key : Nat) : (opened s cl).task? key = (s.task? key).map (openTask s cl) :=
  State.task?_map rfl (fun v _ => (sameTask_openTask s cl v).key) key

theorem opened_cluster (d : Nat) : (opened s cl).cluster d =
    if cl = d then { s.cluster cl with events := (s.cluster cl).events ||| 0x10#8, boundary := (s.cluster cl).boundary + 1 }
    else s.cluster d :=
  State.cluster_modCluster s cl d fun k => { k with events := k.events ||| 0x10#8, boundary := (s.cluster cl).boundary + 1 }

theorem opened_resid (d : Nat) : ((opened s cl).cluster d).resid = (s.cluster d).resid := by
  rw [opened_cluster]
  split
  next h => rw [h]
  next => rfl

theorem opened_score (v : Task) (l : BitVec 12) : Claims.score (opened s cl) cl (openTask s cl v) l = Claims.score s cl v l := by
  have hsame := sameTask_openTask s cl v
  unfold Claims.score
  rw [hsame.hdr, hsame.regid, opened_resid]
  rfl

theorem opened_headerBad (v : Task) (h : List Byte) :
    (opened s cl).headerBad (openTask s cl v).key (openTask s cl v).regid (openTask s cl v).hdr h = s.headerBad v.key v.regid v.hdr h := by
  have hsame := sameTask_openTask s cl v
  have hany : ((opened s cl).tasks.any fun t =>
        t.key != v.key && t.tid == hdrTid h && t.st != .ended && s.contextOf t.regid == s.contextOf v.regid) =
      s.tasks.any fun t =>
        t.key != v.key && t.tid == hdrTid h && t.st != .ended && s.contextOf t.regid == s.contextOf v.regid := by
    change (s.tasks.map (openTask s cl)).any _ = _
    rw [List.any_map]
    refine congrArg (s.tasks.any ·) (funext fun t => ?_)
    have ht := sameTask_openTask s cl t
    simp only [Function.comp_apply, ht.key, ht.tid, ht.st, ht.regid]
  rw [hsame.key, hsame.regid, hsame.hdr]
  exact congrArg (h.isEmpty || headerFieldsBad h || v.hdr % 64 != 0 || s.hbm.poisoned v.hdr 256 || ·) hany

/-! ## Placement -/

theorem opened_finds {v : Task} {c : Nat} {l : BitVec 12} {new : Prop} :
    Finds (opened s cl) cl (openTask s cl v) c l new ↔ Finds s cl v c l new := by
  have hsame := sameTask_openTask s cl v
  have hpromised : (∀ x ∈ (opened s cl).tasks, x.st = .stopping → x.core = c → x.forTask = 0 ∨ x.forTask = v.key) ↔
      ∀ x ∈ s.tasks, x.st = .stopping → x.core = c → x.forTask = 0 ∨ x.forTask = v.key := by
    refine forall_mem_opened.trans (forall₂_congr fun x _ => ?_)
    have hx := sameTask_openTask s cl x
    rw [hx.st, hx.core, hx.forTask]
  have hjobs (key : Nat) : (∀ x, (opened s cl).task? key = some x → x.slotCoreSec = false) ↔
      ∀ x, s.task? key = some x → x.slotCoreSec = false := by
    rw [opened_task?]
    cases s.task? key with
    | none => simp
    | some x => simp [(sameTask_openTask s cl x).slotCoreSec]
  unfold Finds
  simp only [hsame.nstrands, hsame.key, hsame.lcore, hsame.regid, hpromised, hjobs]
  exact Iff.rfl

theorem opened_chosen {v : Task} {c : Nat} {l : BitVec 12} {new : Prop} :
    Chosen (opened s cl) cl (openTask s cl v) c l new ↔ Chosen s cl v c l new := by
  unfold Chosen
  simp only [opened_finds, opened_score, (sameTask_openTask s cl v).lcore]
  exact Iff.rfl

/-! ## The order of R274 -/

theorem mem_queueOf {key : Nat} : key ∈ s.queueOf cl ↔ ∃ v ∈ s.tasks, Waits cl v ∧ v.key = key := by
  unfold State.queueOf
  rw [List.mem_map]
  refine exists_congr fun v => ?_
  rw [(perm_sortBy Task.before _).mem_iff, List.mem_filter, waits_iff, and_assoc]

theorem nodup_queueOf (hkeys : (s.tasks.map (·.key)).Nodup) : (s.queueOf cl).Nodup :=
  ((perm_sortBy Task.before _).map fun t : Task => t.key).nodup_iff.mpr (hkeys.sublist (List.filter_sublist.map _))

theorem openTask_waits_iff {v : Task} : Waits cl (openTask s cl v) ↔ Waits cl v := by
  have hsame := sameTask_openTask s cl v
  rw [Waits, Waits, hsame.st, hsame.loading, hsame.cluster]

/-- The first of the order is first in the queue. -/
theorem opened_queueOf {v : Task} (hkeys : (s.tasks.map (·.key)).Nodup) (hv : v ∈ s.tasks) (hfirst : FirstWaiting (promoted s cl) s cl v) :
    ∃ rest, (opened s cl).queueOf cl = v.key :: rest := by
  obtain ⟨hwaits, hahead⟩ := hfirst
  have hkey := (sameTask_openTask s cl v).key
  have hmem : openTask s cl v ∈ (opened s cl).tasks.filter fun t => t.waits && t.cluster == cl :=
    List.mem_filter.mpr ⟨mem_opened hv, waits_iff.mp (openTask_waits_iff.mpr hwaits)⟩
  obtain ⟨rest, hrest⟩ := sortBy_eq_cons (f := Task.before) hmem fun y hy hne => by
    obtain ⟨hyMem, hyWaits⟩ := List.mem_filter.mp hy
    obtain ⟨x, hx, rfl⟩ := List.mem_map.mp hyMem
    have hxWaits : Waits cl x := openTask_waits_iff.mp (waits_iff.mpr hyWaits)
    have hxne : x.key ≠ v.key := fun h => hne (congrArg _ (List.inj_on_of_nodup_map hkeys hx hv h))
    rw [openTask_waits hwaits, openTask_waits hxWaits]
    exact Task.before_of_ahead (hahead x hx hxWaits hxne)
  exact ⟨rest.map (·.key), by rw [State.queueOf, hrest, List.map_cons, hkey]⟩

end

end Sys2Proof.Machine
end

section
/-! PROOFS. A waiting task that is served where R231 places it is bound there (R264, R274) (O39). -/

namespace Sys2Proof.Machine

open Sys2Proof.Claims

/-! ## A core of a region -/

theorem lookupD_of_mem {α : Type} {d v : α} {l : List (Nat × α)} {a : Nat} (hkeys : (l.map (·.1)).Nodup) (h : (a, v) ∈ l) :
    lookupD d l a = v := by
  induction l with
  | nil => cases h
  | cons e l ih =>
    obtain ⟨hnot, hl⟩ := List.nodup_cons.mp hkeys
    rw [lookupD]
    rcases List.mem_cons.mp h with rfl | h
    · rw [if_pos rfl]
    · have hne : e.1 ≠ a := by
        rintro rfl
        exact hnot (List.mem_map.mpr ⟨_, h, rfl⟩)
      rw [if_neg hne, ih hl h]

/-- The core under which a region holds a logical core (R166, R262). -/
theorem State.resolve_some {s : State} {regid : Word} {l : BitVec 12} {c : Nat} (hcores : (s.cores.map (·.1)).Nodup)
    (h : s.resolve regid l = some c) : (s.core c).slot ≠ .free ∧ (s.core c).regid = regid ∧ (s.core c).lcore = l := by
  obtain ⟨e, he, rfl⟩ := Option.map_eq_some_iff.mp h
  have hholds := List.find?_some he
  have hcore : s.core e.1 = e.2 := lookupD_of_mem hcores (List.mem_of_find?_eq_some he)
  rw [hcore]
  simpa [and_assoc] using hholds

/-! ## The state in which the task is bound -/

/-- The strands on which a task is bound: the lowest idle ones of its core. -/
def strandsFor (s : State) (t : Task) (c : Nat) : List (Fin 4) := (idleStrands s c).take t.nstrands

/-- The state in which task `t` has been bound at a place. -/
def boundFor (s : State) (t : Task) (p : Spot) : State :=
  ((mappedFor s t p).unlist t).beginLoad p.core t
    (headerMsg (s.headerAt (p.core / 256) t.hdr) (maskOf (strandsFor s t p.core)) t.regid) none

theorem idleStrands_mappedFor (s : State) (t : Task) (p : Spot) (c : Nat) : idleStrands (mappedFor s t p) c = idleStrands s c := by
  unfold idleStrands
  simp only [strand_mappedFor]

theorem mappedFor_headerAt (s : State) (t : Task) (p : Spot) (d hdr : Nat) : (mappedFor s t p).headerAt d hdr = s.headerAt d hdr := by
  unfold mappedFor
  split <;> rfl

theorem mappedFor_headerBad (s : State) (t v : Task) (p : Spot) (key hdr : Nat) (regid : Word) (h : List Byte) :
    ((mappedFor s t p).unlist v).headerBad key regid hdr h = s.headerBad key regid hdr h := by
  unfold mappedFor
  split <;> rfl

section
variable {s : State} {t : Task} {p : Spot}

theorem State.bindAt_eq (hst : t.st = .waiting) (hgood : HeaderGood s t p.core) (due : Bool) :
    s.bindAt t p due = (boundFor s t p).modTask t.key fun y => { y with boundDue := due } := by
  have hmask : (((mappedFor s t p).core p.core).freeStrands.take t.nstrands) = strandsFor s t p.core := by
    rw [freeStrands_eq, idleStrands_mappedFor, strandsFor]
  have hstart : (mappedFor s t p).startTask p.core (maskOf (strandsFor s t p.core)) t = some (boundFor s t p) := by
    unfold State.startTask
    dsimp only
    have hgood' : s.headerBad t.key t.regid t.hdr (s.headerAt (dieOf p.core) t.hdr) = false := hgood
    rw [if_neg (by simp [hst]), mappedFor_headerBad, mappedFor_headerAt, if_neg (Bool.eq_false_iff.mp hgood')]
    rfl
  change (match (mappedFor s t p).startTask p.core (maskOf (((mappedFor s t p).core p.core).freeStrands.take t.nstrands)) t with
    | some s => s.modTask t.key fun y => { y with boundDue := due } | none => mappedFor s t p) = _
  rw [hmask, hstart]

theorem boundFor_core : ∃ jobs, (boundFor s t p).core p.core =
    { ((mappedFor s t p).core p.core).reserve t.key (maskStrands (maskOf (strandsFor s t p.core))) with jobs := jobs } := by
  have h := State.core_modCore ((mappedFor s t p).unlist t) p.core p.core fun k =>
    { k.reserve t.key (maskStrands (maskOf (strandsFor s t p.core))) with
      jobs := k.jobs ++ [⟨t.key, false, headerMsg (s.headerAt (p.core / 256) t.hdr) (maskOf (strandsFor s t p.core)) t.regid, none, .asked,
        [], [], [], 0⟩] }
  exact ⟨_, h.trans (if_pos rfl)⟩

theorem mappedFor_slot {cl : Nat} (hcl : cl < 64) (hcores : (s.cores.map (·.1)).Nodup)
    (h : Finds s cl t p.core p.lcore (p.map = true)) : ((mappedFor s t p).core p.core).slot = .mapped ∧
      ((mappedFor s t p).core p.core).regid = t.regid ∧ ((mappedFor s t p).core p.core).lcore = p.lcore := by
  obtain ⟨-, -, hown, hany⟩ := (finds_iff hcl p.core p.lcore _).mp h
  unfold mappedFor
  split
  next => rw [State.mapSlot_eq, State.core_modCore, if_pos rfl]; exact ⟨rfl, rfl, rfl⟩
  next hmap =>
    by_cases hl : t.lcore = 0xFFFF#16
    · obtain ⟨hslot, hregid, hlcore, -⟩ | ⟨-, hnew, -⟩ := hany hl
      · exact ⟨hslot, hregid, hlcore.symm⟩
      · exact absurd hnew hmap
    · obtain ⟨hresolve, hslot, hlcore, -⟩ := hown hl
      obtain ⟨-, hregid, hlcore'⟩ := State.resolve_some hcores hresolve
      exact ⟨hslot, hregid, hlcore'.trans hlcore.symm⟩

/-- The task is bound. -/
theorem boundOn_boundFor {cl : Nat} (hcl : cl < 64) (hkeyed : Keyed s t) (hst : t.st = .waiting)
    (h : Finds s cl t p.core p.lcore (p.map = true)) (due : Bool) :
    BoundOn s ((boundFor s t p).modTask t.key fun y => { y with boundDue := due }) t p.core p.lcore ∧
      ∀ w, ((boundFor s t p).modTask t.key fun y => { y with boundDue := due }).task? t.key = some w → w.boundDue = due := by
  obtain ⟨hkeys, hcores, hmem, -, hnowhere⟩ := hkeyed
  have hmapped : (mappedFor s t p).task? t.key = some t := by
    have hsame : (mappedFor s t p).task? t.key = s.task? t.key := by
      unfold mappedFor
      split <;> rfl
    rw [hsame, State.task?_of_mem hkeys hmem]
  have hload : (boundFor s t p).task? t.key =
      some { t with loading := true, core := p.core, strands := maskOf (strandsFor s t p.core) } := by
    refine (State.task?_map (s := mappedFor s t p) rfl (fun y _ => ?_) t.key).trans ?_
    · split <;> rfl
    · rw [hmapped, Option.map_some, if_pos (beq_self_eq_true _)]
      rfl
  have htask : ((boundFor s t p).modTask t.key fun y => { y with boundDue := due }).task? t.key =
      some { t with loading := true, core := p.core, strands := maskOf (strandsFor s t p.core), boundDue := due } := by
    refine (State.task?_map (s := boundFor s t p) rfl (fun y _ => ?_) t.key).trans ?_
    · split <;> rfl
    · rw [hload, Option.map_some, if_pos (beq_self_eq_true _)]
  obtain ⟨jobs, hcore⟩ := boundFor_core (s := s) (t := t) (p := p)
  obtain ⟨hslot, hregid, hlcore⟩ := Core.slot_reserve ((mappedFor s t p).core p.core) t.key (maskStrands (maskOf (strandsFor s t p.core)))
  obtain ⟨hslot', hregid', hlcore'⟩ := mappedFor_slot hcl hcores h
  refine ⟨⟨⟨_, htask, hst, rfl, rfl⟩, ?_, ?_, ?_, fun n => ?_⟩, fun w hw => ?_⟩
  · exact (congrArg Core.slot hcore).trans (hslot.trans hslot')
  · exact (congrArg Core.regid hcore).trans (hregid.trans hregid')
  · exact (congrArg Core.lcore hcore).trans (hlcore.trans hlcore')
  · have hstrand : ((boundFor s t p).modTask t.key fun y => { y with boundDue := due }).strand p.core n =
        if n ∈ strandsFor s t p.core then (s.strand p.core n).taken t.key else s.strand p.core n := by
      refine (congrArg (fun k : Core => k.strand n) hcore).trans ?_
      refine (Core.strand_reserve _ _ _ _).trans ?_
      have hsame : ((mappedFor s t p).core p.core).strand n = s.strand p.core n := strand_mappedFor s t p p.core n
      simp only [mem_maskStrands_maskOf, hsame]
    rw [hstrand]
    split
    next hn => exact ⟨fun _ => hn, fun _ => rfl⟩
    next hn => exact ⟨fun hkey => absurd hkey (hnowhere _ _), fun hn' => absurd hn' hn⟩
  · rw [htask] at hw
    obtain rfl := Option.some.inj hw
    rfl

end

/-! ## A task is served -/

open Classical in
/-- A waiting task that finds a core is bound where R231 places it. -/
theorem serve_of_chosen {s : State} {cl : Nat} {t : Task} {c : Nat} {l : BitVec 12} {new : Prop} (hcl : cl < 64) (hkeyed : Keyed s t)
    (hst : t.st = .waiting) (h : Chosen s cl t c l new) (hgood : HeaderGood s t c) :
    BoundOn s (s.serve cl t.key) t c l ∧ ∀ w, (s.serve cl t.key).task? t.key = some w → w.boundDue = t.due := by
  obtain ⟨hkeys, -, hmem, -⟩ := id hkeyed
  have hserve : s.serve cl t.key = (boundFor s t ⟨c, l, decide new⟩).modTask t.key fun y => { y with boundDue := t.due } := by
    unfold State.serve
    rw [State.task?_of_mem hkeys hmem]
    dsimp only
    rw [State.place_of_chosen hst hcl h]
    exact State.bindAt_eq (p := ⟨c, l, decide new⟩) hst hgood t.due
  rw [hserve]
  have hfinds : Finds s cl t c l (decide new = true) := by simpa using h.1
  exact boundOn_boundFor (p := ⟨c, l, decide new⟩) hcl hkeyed hst hfinds t.due

end Sys2Proof.Machine
end

section
/-! PROOFS. For a waiting task that finds no core, the best of the candidates is pre-empted (R274, R443) (O39). -/

namespace Sys2Proof.Machine

open Sys2Proof.Claims

/-! ## The candidates -/

theorem State.usable_iff (s : State) (cl : Nat) (t : Task) (c : Nat) : s.usable cl t c = true ↔
    (Usable s c ∧ ∀ r ∈ s.retiring, r.1 ≠ c / 256) ∧ (s.core c).heldOk t.regid = true ∧
      (t.lcore ≠ 0xFFFF#16 → (s.core c).slot ≠ .free ∧ (s.core c).regid = t.regid ∧ (s.core c).lcore.zeroExtend 16 = t.lcore) ∧
      (t.lcore = 0xFFFF#16 → ((s.core c).slot = .mapped ∧ (s.core c).regid = t.regid) ∨ ∃ r, s.region? t.regid = some r ∧
        (s.inherit 3 r).clusters.getLsbD cl = true ∧ s.heldCores t.regid < (s.inherit 4 r).cores) := by
  rw [← State.mayMap_iff, ← State.takes_iff]
  unfold State.usable
  dsimp only
  rw [Bool.and_eq_true, Bool.and_eq_true, and_assoc]
  by_cases hl : t.lcore = 0xFFFF#16
  · simp [hl]
  · simp [hl, and_assoc]

/-- The task yields to task `t` (R443). -/
def YieldsTo (t u : Task) : Prop := u.yielding = true ∧ u.base ≤ t.e

open Classical in
/-- The tasks that may be pre-empted, none of the cluster having been bound for a due task since the boundary opened. -/
theorem State.mem_victims_iff {s : State} {cl : Nat} {t u : Task} {b : Bool}
    (hopen : ∀ x ∈ s.tasks, x.st = .running → clusterOf x.core = cl → x.boundDue = false) :
    (u, b) ∈ s.victims cl t ↔ MayPreempt s cl t u ∧ b = decide (YieldsTo t u) := by
  have hyields : decide (YieldsTo t u) = decide (u.yielding = true ∧ u.base ≤ t.e) := decide_eq_decide.mpr Iff.rfl
  rw [State.mem_victims, State.usable_iff, MayPreempt, hyields]
  constructor
  · rintro ⟨hu, hrun, hcl, ⟨⟨huse, hret⟩, hheld, hown, hany⟩, hb, hlow⟩
    refine ⟨⟨hu, hrun, hcl, huse, hret, hheld, hown, hany, ?_⟩, hb⟩
    cases b with
    | true => exact .inl (of_decide_eq_true hb.symm)
    | false =>
      by_cases hdue : t.due = true
      · exact .inr (.inl (t.due_iff.mp hdue))
      · exact .inr (.inr (by simpa [hdue] using hlow rfl))
  · rintro ⟨⟨hu, hrun, hcl, huse, hret, hheld, hown, hany, hwhy⟩, hb⟩
    refine ⟨hu, hrun, hcl, ⟨⟨huse, hret⟩, hheld, hown, hany⟩, hb, fun hfalse => ?_⟩
    have hnot : ¬ YieldsTo t u := of_decide_eq_false (hyields.trans (hb.symm.trans hfalse))
    split
    next => exact hopen u hu hrun hcl
    next hdue => exact (hwhy.resolve_left hnot).resolve_left fun h => hdue (t.due_iff.mpr h)

open Classical in
theorem victimFirst_of_preemptFirst {t a b : Task} (h : PreemptFirst t a b) :
    victimFirst (a, decide (YieldsTo t a)) (b, decide (YieldsTo t b)) = true ∧
      victimFirst (b, decide (YieldsTo t b)) (a, decide (YieldsTo t a)) = false := by
  unfold victimFirst
  obtain ⟨ha, hb⟩ | ⟨hab, h⟩ := h
  · have ha' : YieldsTo t a := ha
    have hb' : ¬ YieldsTo t b := hb
    simp [ha', hb']
  · have hsame : YieldsTo t a ↔ YieldsTo t b := hab
    have hdecide : decide (YieldsTo t a) = decide (YieldsTo t b) := decide_eq_decide.mpr hsame
    rw [hdecide]
    obtain h | ⟨hbase, h | ⟨hran, h⟩⟩ := h
    · simp [h.ne, h.ne', h, h.le]
    · simp [hbase, h.ne, h.ne', h, h.le]
    · simp [hbase, hran, h, h.le]

/-! ## A task without a core is served -/

section
variable {s : State} {cl : Nat} {t : Task}

/-- A waiting task that finds no core, and for which none is being made free, has one task pre-empted for it. -/
theorem serve_of_none (hkeys : (s.tasks.map (·.key)).Nodup) (hmem : t ∈ s.tasks) (hst : t.st = .waiting) (hcl : cl < 64)
    (hfinds : ∀ c l new, ¬ Finds s cl t c l new) (hroom : ∀ x ∈ s.tasks, x.st = .stopping → x.forTask ≠ t.key) :
    s.serve cl t.key = s.preemptFor cl t 4 none := by
  have hnoroom : s.makesRoom t.key = false := by
    simp only [State.makesRoom, List.any_eq_false, Bool.and_eq_true, beq_iff_eq, not_and]
    exact hroom
  unfold State.serve
  rw [State.task?_of_mem hkeys hmem]
  dsimp only
  rw [State.place_eq_none hst hcl hfinds, hnoroom]
  exact if_neg Bool.false_ne_true

variable {u : Task} (hkeys : (s.tasks.map (·.key)).Nodup)
  (hopen : ∀ x ∈ s.tasks, x.st = .running → clusterOf x.core = cl → x.boundDue = false)
  (hu : MayPreempt s cl t u) (hbest : ∀ x, MayPreempt s cl t x → x.key ≠ u.key → PreemptFirst t u x)
include hkeys hopen hu hbest

open Classical in
/-- The best of the candidates is the first that is pre-empted. -/
theorem bestBy_victims : bestBy victimFirst ((s.victims cl t).filter fun v => (none : Option Nat).all (· == v.1.core)) =
    some (u, decide (YieldsTo t u)) := by
  refine bestBy_eq_some (List.mem_filter.mpr ⟨(State.mem_victims_iff hopen).mpr ⟨hu, rfl⟩, rfl⟩) fun y hy hne => ?_
  obtain ⟨x, b⟩ := y
  obtain ⟨hx, rfl⟩ := (State.mem_victims_iff hopen).mp (List.mem_of_mem_filter hy)
  refine victimFirst_of_preemptFirst (hbest x hx fun hkey => hne ?_)
  rw [List.inj_on_of_nodup_map hkeys hx.1 hu.1 hkey]

/-- It is stopped for the waiting task, and no other where that is not due. -/
theorem preemptFor_best (n : Nat) : Stops t.key (stoppedFor s u t.key) (s.preemptFor cl t (n + 1) none) ∧
    (t.due = false → s.preemptFor cl t (n + 1) none = stoppedFor s u t.key) := by
  have hstop := stops_stoppedFor hkeys hu.1 hu.2.1 t.key
  have hkeys' : ((stoppedFor s u t.key).tasks.map (·.key)).Nodup := hstop.served.tasks.keys ▸ hkeys
  unfold State.preemptFor
  rw [bestBy_victims hkeys hopen hu hbest]
  dsimp only
  rw [State.stopTask_eq (State.task?_of_mem hkeys hu.1)]
  split
  next h => exact ⟨stops_preemptFor hkeys' cl t n _, fun hdue => absurd h (by simp [hdue])⟩
  next => exact ⟨.refl _ _, fun _ => rfl⟩

omit hopen hbest in
theorem stoppedFor_task? : (stoppedFor s u t.key).task? u.key = some (u.stoppedFor t.key) := by
  refine (State.task?_map (s := s) rfl (fun y _ => ?_) u.key).trans ?_
  · split <;> rfl
  · rw [State.task?_of_mem hkeys hu.1, Option.map_some, if_pos (beq_self_eq_true _)]

omit hkeys hopen hu hbest in
theorem mem_stoppedFor {x : Task} (h : x ∈ (stoppedFor s u t.key).tasks) : x.key = u.key ∨ x ∈ s.tasks := by
  obtain ⟨y, hy, rfl⟩ := List.mem_map.mp h
  split
  next hkey => exact .inl (beq_iff_eq.mp hkey)
  next => exact .inr hy

omit hkeys hopen hu hbest in
theorem stoppedFor_strand (n : Fin 4) (hn : (s.strand u.core n).task = u.key) : ((stoppedFor s u t.key).strand u.core n).stopped = true := by
  have hcore : (stoppedFor s u t.key).core u.core = (s.core u.core).stopStrands u.key :=
    (State.core_modCore s u.core u.core fun k => k.stopStrands u.key).trans (if_pos rfl)
  have hn' : ((s.core u.core).strand n).task = u.key := hn
  rw [State.strand, hcore, Core.strand_stopStrands, if_pos hn']

end

end Sys2Proof.Machine
end

section
/-! PROOFS. What serving the tasks behind the first leaves of what was done for the first, and what ends a boundary; then the binding and
the pre-emption at a boundary (R274) (O39). -/

namespace Sys2Proof.Machine

open Sys2Proof.Claims

/-! ## What one task served keeps of another -/

section
variable {key k : Nat} {s t : State} (h : Served key s t)
include h

theorem Served.task? {v : Task} (hv : s.task? k = some v) (hst : v.st ≠ .running) (hk : k ≠ key) : t.task? k = some v := by
  obtain ⟨g, hg, hserved⟩ := h.tasks
  obtain ⟨hmem, rfl⟩ := State.task?_some hv
  rw [State.task?_map hg fun y hy => (hserved y hy).same, hv, Option.map_some,
    ((hserved v hmem).other hk).resolve_right fun hrun => hst hrun.1]

theorem Served.strand_task (hk : k ≠ key) (h0 : k ≠ 0) (c : Nat) (n : Fin 4) : (t.strand c n).task = k ↔ (s.strand c n).task = k := by
  obtain ⟨hother, hown⟩ := h.strand c n
  by_cases hkey : (s.strand c n).task = key
  · have hnot : (t.strand c n).task ≠ k := by
      obtain hkey' | hzero := hown hkey
      · exact fun hk' => hk (hk'.symm.trans hkey')
      · exact fun hk' => h0 (hk'.symm.trans hzero)
    exact iff_of_false hnot fun hk' => hk (hk'.symm.trans hkey)
  · obtain ⟨hsame, -⟩ | ⟨hidle, htaken, -⟩ := hother hkey
    · rw [hsame]
    · exact iff_of_false (fun hk' => hk (hk'.symm.trans htaken)) fun hk' => h0 (hk'.symm.trans hidle)

/-- No task but one is being stopped for the task of key `k`. -/
theorem Served.stopping {a : Nat} (hk : k ≠ key) (ha : ∀ w ∈ s.tasks, w.st = .stopping → w.forTask = k → w.key = a) :
    ∀ w ∈ t.tasks, w.st = .stopping → w.forTask = k → w.key = a := by
  obtain ⟨g, hg, hserved⟩ := h.tasks
  intro w hw hst hfor
  rw [hg] at hw
  obtain ⟨y, hy, rfl⟩ := List.mem_map.mp hw
  obtain ⟨hstY, hforY⟩ | hkey := (hserved y hy).stopping hst
  · exact (hserved y hy).same.trans (ha y hy hstY (hforY.symm.trans hfor))
  · exact absurd (hfor.symm.trans hkey) hk

end

/-! ## What the tasks served in turn keep -/

section
variable {cl : Nat} {keys : List Nat} {s : State} (hkeys : (s.tasks.map (·.key)).Nodup)
include hkeys

/-- What each task served keeps, all of them keep. -/
theorem serveAll_keeps {P : State → Prop} (hstep : ∀ key ∈ keys, ∀ u w, Served key u w → P u → P w) (h : P s) :
    P (serveAll cl keys s) := by
  induction keys generalizing s with
  | nil => exact h
  | cons key keys ih =>
    have hserved := served_serve hkeys cl key
    exact ih (hserved.tasks.keys ▸ hkeys) (fun k hk => hstep k (List.mem_cons_of_mem _ hk)) (hstep key List.mem_cons_self _ _ hserved h)

theorem serveAll_task? {k : Nat} {v : Task} (hk : k ∉ keys) (hst : v.st ≠ .running) (hv : s.task? k = some v) :
    (serveAll cl keys s).task? k = some v :=
  serveAll_keeps (P := fun u => u.task? k = some v) hkeys
    (fun _ hkey _ _ hserved hu => hserved.task? hu hst (ne_of_mem_of_not_mem hkey hk).symm) hv

theorem serveAll_strand {k : Nat} (hk : k ∉ keys) (h0 : k ≠ 0) (c : Nat) (n : Fin 4) :
    ((serveAll cl keys s).strand c n).task = k ↔ (s.strand c n).task = k :=
  serveAll_keeps (P := fun u => (u.strand c n).task = k ↔ (s.strand c n).task = k) hkeys
    (fun _ hkey _ _ hserved hu => (hserved.strand_task ((ne_of_mem_of_not_mem hkey hk).symm) h0 c n).trans hu) Iff.rfl

theorem serveAll_slot {c : Nat} {regid : Word} {l : BitVec 12}
    (h : (s.core c).slot = .mapped ∧ (s.core c).regid = regid ∧ (s.core c).lcore = l) :
    ((serveAll cl keys s).core c).slot = .mapped ∧ ((serveAll cl keys s).core c).regid = regid ∧
      ((serveAll cl keys s).core c).lcore = l := by
  refine serveAll_keeps (P := fun u => (u.core c).slot = .mapped ∧ (u.core c).regid = regid ∧ (u.core c).lcore = l) hkeys ?_ h
  rintro _ _ u w hserved ⟨hslot, hregid, hlcore⟩
  obtain ⟨hslot', hregid', hlcore'⟩ := hserved.slot c (by simp [hslot])
  exact ⟨hslot'.trans hslot, hregid'.trans hregid, hlcore'.trans hlcore⟩

theorem serveAll_stopping {k a : Nat} (hk : k ∉ keys) (ha : ∀ w ∈ s.tasks, w.st = .stopping → w.forTask = k → w.key = a) :
    ∀ w ∈ (serveAll cl keys s).tasks, w.st = .stopping → w.forTask = k → w.key = a :=
  serveAll_keeps (P := fun u => ∀ w ∈ u.tasks, w.st = .stopping → w.forTask = k → w.key = a) hkeys
    (fun _ hkey _ _ hserved hu => hserved.stopping ((ne_of_mem_of_not_mem hkey hk).symm) hu) ha

/-- A stopped strand stays stopped: the task served takes none but its own. -/
theorem serveAll_stopped {c : Nat} {n : Fin 4} (hnodup : keys.Nodup) (htask : (s.strand c n).task ∉ keys) (h : (s.strand c n).stopped = true) :
    ((serveAll cl keys s).strand c n).stopped = true := by
  induction keys generalizing s with
  | nil => exact h
  | cons key keys ih =>
    obtain ⟨hkey, hrest⟩ := List.nodup_cons.mp hnodup
    obtain ⟨hne, hnot⟩ := not_or.mp (mt List.mem_cons.mpr htask)
    have hserved := served_serve hkeys cl key
    refine ih (hserved.tasks.keys ▸ hkeys) hrest ?_ ?_
    · obtain ⟨hsame, -⟩ | ⟨-, htaken, -⟩ := (hserved.strand c n).1 hne
      · exact (congrArg (· ∉ keys) hsame).mpr hnot
      · exact (congrArg (· ∉ keys) htaken).mpr hkey
    · obtain ⟨-, hstopped⟩ | ⟨-, -, hstopped⟩ := (hserved.strand c n).1 hne
      · exact hstopped h
      · exact hstopped

end

/-! ## The end of a boundary -/

/-- Only gangs and records have changed. -/
def OnlyGangs (s t : State) : Prop := ∃ gs rs, t = { s with gangs := gs, records := rs }

theorem OnlyGangs.refl (s : State) : OnlyGangs s s := ⟨s.gangs, s.records, rfl⟩

theorem OnlyGangs.trans {s t u : State} (h : OnlyGangs s t) (h' : OnlyGangs t u) : OnlyGangs s u := by
  obtain ⟨gs, rs, rfl⟩ := h
  obtain ⟨gs', rs', rfl⟩ := h'
  exact ⟨gs', rs', rfl⟩

theorem onlyGangs_gangBoundary (s : State) (k : Nat) (g : Gang) : OnlyGangs s (s.gangBoundary k g) := by
  unfold State.gangBoundary
  dsimp only
  split
  · exact ⟨_, _, rfl⟩
  · split
    · split
      · exact .refl s
      · exact ⟨_, _, rfl⟩
    · exact ⟨_, _, rfl⟩

/-- One gang at the boundary of a cluster (R276). -/
def stalemateStep (cl : Nat) (s : State) (e : Gang × Nat) : State :=
  if e.1.st != 0 && s.gangCluster e.1 == some cl then s.gangBoundary e.2 e.1 else s

theorem State.stalemates_eq (s : State) (cl : Nat) : s.stalemates cl = s.gangs.zipIdx.foldl (stalemateStep cl) s := rfl

theorem onlyGangs_foldl (cl : Nat) (l : List (Gang × Nat)) (s : State) : OnlyGangs s (l.foldl (stalemateStep cl) s) := by
  induction l generalizing s with
  | nil => exact .refl s
  | cons e l ih =>
    refine .trans ?_ (ih _)
    unfold stalemateStep
    split
    · exact onlyGangs_gangBoundary s e.2 e.1
    · exact .refl s

/-- The boundary's stalemates change only gangs and records. -/
theorem onlyGangs_stalemates (s : State) (cl : Nat) : OnlyGangs s (s.stalemates cl) := onlyGangs_foldl cl s.gangs.zipIdx s

theorem ranTask_eq (cl : Nat) (t : Task) : ∃ y n, ranTask cl t = { t with yielding := y, ran := n } := by
  unfold ranTask
  split
  · exact ⟨_, _, rfl⟩
  · exact ⟨_, _, rfl⟩

/-- What a boundary leaves: the tasks as they were served, and then counted; the cores as they were served. -/
theorem State.boundary_tasks (s : State) (cl : Nat) :
    (s.boundary cl).tasks = (serveAll cl ((opened s cl).queueOf cl) (opened s cl)).tasks.map (ranTask cl) := by
  rw [State.boundary_eq]
  obtain ⟨gs, rs, h⟩ := onlyGangs_stalemates ((serveAll cl ((opened s cl).queueOf cl) (opened s cl)).mapTasks (ranTask cl)) cl
  rw [h]
  rfl

theorem State.boundary_core (s : State) (cl c : Nat) :
    (s.boundary cl).core c = (serveAll cl ((opened s cl).queueOf cl) (opened s cl)).core c := by
  rw [State.boundary_eq]
  obtain ⟨gs, rs, h⟩ := onlyGangs_stalemates ((serveAll cl ((opened s cl).queueOf cl) (opened s cl)).mapTasks (ranTask cl)) cl
  rw [h]
  rfl

theorem State.boundary_task? (s : State) (cl key : Nat) : (s.boundary cl).task? key =
    ((serveAll cl ((opened s cl).queueOf cl) (opened s cl)).task? key).map (ranTask cl) := by
  refine State.task?_map (s.boundary_tasks cl) (fun y _ => ?_) key
  obtain ⟨b, n, h⟩ := ranTask_eq cl y
  rw [h]

end Sys2Proof.Machine
end

section
/-! PROOFS. The first of the waiting tasks at a boundary: bound, or one task pre-empted for it (R274); the logical core of a core newly
mapped (R231) (O39). -/

namespace Sys2Proof.Machine

open Sys2Proof.Claims

/-! ## The candidates when the boundary has opened -/

section
variable {s : State} {cl : Nat}

/-- No task of the cluster counts as bound for a due one when the boundary has opened. -/
theorem opened_boundDue : ∀ x ∈ (opened s cl).tasks, x.st = .running → clusterOf x.core = cl → x.boundDue = false := by
  refine forall_mem_opened.mpr fun x _ hrun hcl => ?_
  have hsame := sameTask_openTask s cl x
  have hlive : (x.live && clusterOf x.core == cl) = true := by
    have hrun' : x.st = .running := hsame.st.symm.trans hrun
    have hcl' : clusterOf x.core = cl := hsame.core ▸ hcl
    simp [Task.live, hrun', hcl']
  unfold openTask
  rw [if_pos hlive]
  dsimp only
  split <;> rfl

theorem opened_mayPreempt {t u : Task} (hu : u ∈ s.tasks) : MayPreempt (opened s cl) cl t (openTask s cl u) ↔ MayPreempt s cl t u := by
  have hsame := sameTask_openTask s cl u
  unfold MayPreempt
  simp only [iff_of_true (mem_opened (cl := cl) hu) hu, hsame.st, hsame.core, hsame.yielding, hsame.base, hsame.ran]
  exact Iff.rfl

theorem opened_preemptFirst {t a b : Task} : PreemptFirst t (openTask s cl a) (openTask s cl b) ↔ PreemptFirst t a b := by
  have ha := sameTask_openTask s cl a
  have hb := sameTask_openTask s cl b
  unfold PreemptFirst
  simp only [ha.yielding, ha.base, ha.ran, ha.core, hb.yielding, hb.base, hb.ran, hb.core]

theorem opened_keyed {v : Task} (h : Keyed s v) : Keyed (opened s cl) (openTask s cl v) := by
  obtain ⟨hkeys, hcores, hv, h0, hnowhere⟩ := h
  have hkey := (sameTask_openTask s cl v).key
  exact ⟨opened_nodup hkeys, hcores, mem_opened hv, hkey.symm ▸ h0, fun c n => hkey.symm ▸ hnowhere c n⟩

end

/-! ## The first waiting task -/

section
variable {s : State} {cl : Nat} {v : Task} (hcl : cl < 64) (hkeyed : Keyed s v) (hst : v.st = .waiting)
  (hfirst : FirstWaiting (promoted s cl) s cl v)
include hcl hkeyed hst hfirst

omit hcl hst in
/-- It is served first, and none of the tasks served after it has its key. -/
theorem opened_served : ∃ rest, (opened s cl).queueOf cl = v.key :: rest ∧ v.key ∉ rest ∧ rest.Nodup ∧
    (∀ x ∈ s.tasks, x.st = .running → x.key ∉ rest) ∧
    serveAll cl ((opened s cl).queueOf cl) (opened s cl) = serveAll cl rest ((opened s cl).serve cl (promoted s cl v).key) := by
  obtain ⟨hkeys, -, hv, -⟩ := hkeyed
  obtain ⟨rest, hrest⟩ := opened_queueOf hkeys hv hfirst
  obtain ⟨hnot, hnodup⟩ := List.nodup_cons.mp (hrest ▸ nodup_queueOf (opened_nodup hkeys) : (v.key :: rest).Nodup)
  refine ⟨rest, hrest, hnot, hnodup, fun x hx hrun hmem => ?_, by rw [hrest]; rfl⟩
  obtain ⟨y, hy, hwaits, hkey⟩ := mem_queueOf.mp (hrest ▸ List.mem_cons_of_mem _ hmem)
  obtain ⟨z, hz, rfl⟩ := mem_opened_iff.mp hy
  obtain rfl : z = x := List.inj_on_of_nodup_map hkeys hz hx ((sameTask_openTask s cl z).key.symm.trans hkey)
  have hnotwaiting := (openTask_waits_iff.mp hwaits).1
  rw [hrun] at hnotwaiting
  exact absurd hnotwaiting (by decide)

/-- It is bound where R231 places it. -/
theorem boundary_binds {c : Nat} {l : BitVec 12} {new : Prop} (h : Chosen s cl v c l new) (hgood : HeaderGood s v c) :
    BoundOn s (s.boundary cl) v c l ∧
      ∀ w, (s.boundary cl).task? v.key = some w → (w.boundDue = true ↔ DueTask (promoted s cl v)) := by
  obtain ⟨rest, -, hnot, -, -, hserve⟩ := opened_served hkeyed hfirst
  have hopen : openTask s cl v = promoted s cl v := openTask_waits hfirst.1
  have hkeyed' : Keyed (opened s cl) (promoted s cl v) := hopen ▸ opened_keyed hkeyed
  have hkeys : (((opened s cl).serve cl (promoted s cl v).key).tasks.map (·.key)).Nodup :=
    (served_serve hkeyed'.1 cl _).tasks.keys ▸ hkeyed'.1
  have hchosen : Chosen (opened s cl) cl (promoted s cl v) c l new := hopen ▸ opened_chosen.mpr h
  have hgood' : HeaderGood (opened s cl) (promoted s cl v) c := by
    have hbad := opened_headerBad (s := s) (cl := cl) v (s.headerAt (c / 256) v.hdr)
    rw [hopen] at hbad
    exact hbad.trans hgood
  obtain ⟨⟨⟨w, hw, hwst, hwload, hwcore⟩, hslot, hregid, hlcore, hstrands⟩, hdue⟩ := serve_of_chosen hcl hkeyed' hst hchosen hgood'
  have hfinal : (s.boundary cl).task? v.key = some (ranTask cl w) := by
    rw [State.boundary_task?, hserve, serveAll_task? hkeys hnot (by simp [hwst]) hw, Option.map_some]
  obtain ⟨y, n, hran⟩ := ranTask_eq cl w
  obtain ⟨hslot', hregid', hlcore'⟩ := serveAll_slot (cl := cl) (keys := rest) hkeys ⟨hslot, hregid, hlcore⟩
  refine ⟨⟨⟨_, hfinal, ?_, ?_, ?_⟩, ?_, ?_, ?_, fun n => ?_⟩, fun x hx => ?_⟩
  · rw [hran]; exact hwst
  · rw [hran]; exact hwload
  · rw [hran]; exact hwcore
  · rw [State.boundary_core, hserve]; exact hslot'
  · rw [State.boundary_core, hserve]; exact hregid'
  · rw [State.boundary_core, hserve]; exact hlcore'
  · obtain ⟨-, -, -, h0, -⟩ := hkeyed
    rw [State.strand, State.boundary_core, hserve]
    exact (serveAll_strand hkeys hnot h0 c n).trans (hstrands n)
  · obtain rfl := Option.some.inj (hfinal.symm.trans hx)
    rw [hran, ← Task.due_iff]
    exact (congrArg (· = true) (hdue w hw)).to_iff

/-! ### Without a core -/

variable (hfinds : ∀ c l new, ¬ Finds s cl v c l new) (hroom : ∀ x ∈ s.tasks, x.st = .stopping → x.forTask ≠ v.key)
include hfinds hroom

theorem opened_serve_of_none :
    (opened s cl).serve cl (promoted s cl v).key = (opened s cl).preemptFor cl (promoted s cl v) 4 none := by
  have hopen : openTask s cl v = promoted s cl v := openTask_waits hfirst.1
  obtain ⟨hkeys, -, hmem, -⟩ : Keyed (opened s cl) (promoted s cl v) := hopen ▸ opened_keyed hkeyed
  refine serve_of_none hkeys hmem hst hcl (fun c l new h => hfinds c l new ?_) (forall_mem_opened.mpr fun x hx => ?_)
  · exact opened_finds.mp (hopen.symm ▸ h)
  · have hx' := sameTask_openTask s cl x
    rw [hx'.st, hx'.forTask]
    exact hroom x hx

/-- It waits on, promoted. -/
theorem boundary_waits : ∃ w, (s.boundary cl).task? v.key = some w ∧ w.st = .waiting ∧ w.loading = false ∧
    w.e = (promoted s cl v).e ∧ w.waited = (promoted s cl v).waited := by
  obtain ⟨rest, -, hnot, -, -, hserve⟩ := opened_served hkeyed hfirst
  have hopen : openTask s cl v = promoted s cl v := openTask_waits hfirst.1
  obtain ⟨hkeys, -, hmem, -⟩ : Keyed (opened s cl) (promoted s cl v) := hopen ▸ opened_keyed hkeyed
  have hstops := stops_preemptFor hkeys cl (promoted s cl v) 4 none
  have hwaiting : (promoted s cl v).st ≠ .running := by
    change v.st ≠ .running
    simp [hst]
  have htask := hstops.task? (State.task?_of_mem hkeys hmem) hwaiting
  obtain ⟨y, n, hran⟩ := ranTask_eq cl (promoted s cl v)
  refine ⟨ranTask cl (promoted s cl v), ?_, ?_⟩
  · rw [State.boundary_task?, hserve, opened_serve_of_none hcl hkeyed hst hfirst hfinds hroom,
      serveAll_task? (hstops.served.tasks.keys ▸ hkeys) hnot hwaiting htask, Option.map_some]
  · rw [hran]
    exact ⟨hst, hfirst.1.2.1, rfl, rfl⟩

/-! ### The task pre-empted -/

variable {u : Task} (hu : MayPreempt s cl (promoted s cl v) u)
  (hbest : ∀ x, MayPreempt s cl (promoted s cl v) x → x.key ≠ u.key → PreemptFirst (promoted s cl v) u x)
include hu hbest

omit hcl hst hfirst hfinds hroom in
/-- The best of the candidates is still the best when the boundary has opened, and is stopped first. -/
theorem opened_preemptFor :
    Stops v.key (stoppedFor (opened s cl) (openTask s cl u) v.key) ((opened s cl).preemptFor cl (promoted s cl v) 4 none) ∧
      (¬ DueTask (promoted s cl v) →
        (opened s cl).preemptFor cl (promoted s cl v) 4 none = stoppedFor (opened s cl) (openTask s cl u) v.key) ∧
      (stoppedFor (opened s cl) (openTask s cl u) v.key).task? u.key = some ((openTask s cl u).stoppedFor v.key) := by
  have hkeys : ((opened s cl).tasks.map (·.key)).Nodup := opened_nodup hkeyed.1
  have hsame := sameTask_openTask s cl u
  have hu' : MayPreempt (opened s cl) cl (promoted s cl v) (openTask s cl u) := (opened_mayPreempt hu.1).mpr hu
  have hbest' : ∀ x, MayPreempt (opened s cl) cl (promoted s cl v) x → x.key ≠ (openTask s cl u).key →
      PreemptFirst (promoted s cl v) (openTask s cl u) x := by
    intro x hx hne
    obtain ⟨y, hy, rfl⟩ := mem_opened_iff.mp hx.1
    have hyne : y.key ≠ u.key := fun h => hne (((sameTask_openTask s cl y).key.trans h).trans hsame.key.symm)
    exact opened_preemptFirst.mpr (hbest y ((opened_mayPreempt hy).mp hx) hyne)
  obtain ⟨hstops, honly⟩ := preemptFor_best hkeys opened_boundDue hu' hbest' 3
  have htask := stoppedFor_task? hkeys hu'
  rw [hsame.key] at htask
  exact ⟨hstops, fun hdue => honly (Bool.eq_false_iff.mpr fun h => hdue ((Task.due_iff _).mp h)), htask⟩

omit hbest in
/-- What has been pre-empted when the tasks behind are served. -/
theorem boundary_preempted : ∃ rest, v.key ∉ rest ∧ rest.Nodup ∧ u.key ∉ rest ∧
    (((opened s cl).preemptFor cl (promoted s cl v) 4 none).tasks.map (·.key)).Nodup ∧
    serveAll cl ((opened s cl).queueOf cl) (opened s cl) = serveAll cl rest ((opened s cl).preemptFor cl (promoted s cl v) 4 none) := by
  obtain ⟨rest, -, hnot, hnodup, hrunning, hserve⟩ := opened_served hkeyed hfirst
  rw [opened_serve_of_none hcl hkeyed hst hfirst hfinds hroom] at hserve
  have hkeys : ((opened s cl).tasks.map (·.key)).Nodup := opened_nodup hkeyed.1
  exact ⟨rest, hnot, hnodup, hrunning u hu.1 hu.2.1, (stops_preemptFor hkeys cl _ 4 none).served.tasks.keys ▸ hkeys, hserve⟩

/-- The best of the candidates is pre-empted for the task. -/
theorem boundary_preempts : ∃ w, (s.boundary cl).task? u.key = some w ∧ w.st = .stopping ∧ w.forTask = v.key := by
  obtain ⟨rest, -, -, hurest, hkeys, hserve⟩ := boundary_preempted hcl hkeyed hst hfirst hfinds hroom hu
  obtain ⟨hstops, -, hstopped⟩ := opened_preemptFor hkeyed hu hbest
  have hstopping : ((openTask s cl u).stoppedFor v.key).st ≠ .running := nofun
  have htask := serveAll_task? (cl := cl) hkeys hurest hstopping (hstops.task? hstopped hstopping)
  obtain ⟨y, n, hran⟩ := ranTask_eq cl ((openTask s cl u).stoppedFor v.key)
  refine ⟨ranTask cl ((openTask s cl u).stoppedFor v.key), ?_, ?_⟩
  · rw [State.boundary_task?, hserve, htask, Option.map_some]
  · rw [hran]
    exact ⟨rfl, rfl⟩

/-- Its strands are stopped. -/
theorem boundary_preempts_strand (n : Fin 4) (hn : (s.strand u.core n).task = u.key) :
    ((s.boundary cl).strand u.core n).stopped = true := by
  obtain ⟨rest, -, hnodup, hurest, hkeys, hserve⟩ := boundary_preempted hcl hkeyed hst hfirst hfinds hroom hu
  obtain ⟨hstops, -, -⟩ := opened_preemptFor hkeyed hu hbest
  have hsame := sameTask_openTask s cl u
  have hn' : ((opened s cl).strand (openTask s cl u).core n).task = (openTask s cl u).key := by
    rw [hsame.core, hsame.key]
    exact hn
  have hstrand := stoppedFor_strand (t := promoted s cl v) n hn'
  rw [hsame.core] at hstrand
  have hmine := (stops_preemptFor (opened_nodup (cl := cl) hkeyed.1) cl (promoted s cl v) 4 none).strand u.core n
  have hrest : (((opened s cl).preemptFor cl (promoted s cl v) 4 none).strand u.core n).task ∉ rest := by
    rw [hmine.1]
    exact (congrArg (· ∉ rest) hn).mpr hurest
  rw [State.strand, State.boundary_core, hserve]
  exact serveAll_stopped hkeys hnodup hrest ((hstops.strand u.core n).2 hstrand)

/-- No other task is pre-empted for a task that is not due. -/
theorem boundary_preempts_only (hdue : ¬ DueTask (promoted s cl v)) :
    ∀ w ∈ (s.boundary cl).tasks, w.st = .stopping → w.forTask = v.key → w.key = u.key := by
  intro w hw hwst hfor
  obtain ⟨rest, hnot, -, -, hkeys, hserve⟩ := boundary_preempted hcl hkeyed hst hfirst hfinds hroom hu
  obtain ⟨-, honly, -⟩ := opened_preemptFor hkeyed hu hbest
  rw [State.boundary_tasks, hserve] at hw
  obtain ⟨x, hx, rfl⟩ := List.mem_map.mp hw
  obtain ⟨y, n, hran⟩ := ranTask_eq cl x
  rw [hran] at hwst hfor ⊢
  refine serveAll_stopping (a := u.key) hkeys hnot ?_ x hx hwst hfor
  rw [honly hdue]
  intro z hz hzst hzfor
  obtain hkey | hzmem := mem_stoppedFor (t := v) hz
  · exact hkey.trans (sameTask_openTask s cl u).key
  · obtain ⟨r, hr, rfl⟩ := mem_opened_iff.mp hzmem
    have hsame := sameTask_openTask s cl r
    exact absurd (hsame.forTask.symm.trans hzfor) (hroom r hr (hsame.st.symm.trans hzst))

end

/-! ## The logical core of a core newly mapped (R231) -/

theorem State.newLcore_own {s : State} {regid : Word} {c : Nat} (h : s.resolve regid (BitVec.ofNat 12 c) = none) :
    s.newLcore regid c = BitVec.ofNat 12 c := if_pos (by rw [h]; rfl)

theorem State.newLcore_lowest {s : State} {regid : Word} {c : Nat} (h : s.resolve regid (BitVec.ofNat 12 c) ≠ none) {l : BitVec 12}
    (hl : s.resolve regid l = none) (hlow : ∀ i, i < l.toNat → s.resolve regid (BitVec.ofNat 12 i) ≠ none) : s.newLcore regid c = l := by
  have hfind : (List.range 4096).find? (fun i => (s.resolve regid (BitVec.ofNat 12 i)).isNone) = some l.toNat := by
    refine List.find?_range_eq_some.mpr ⟨by simp [hl], List.mem_range.mpr l.isLt, fun i hi => ?_⟩
    simpa using Option.isSome_iff_ne_none.mpr (hlow i hi)
  unfold State.newLcore
  rw [if_neg (by simpa using h), hfind, Option.getD_some, BitVec.ofNat_toNat, BitVec.setWidth_eq]

theorem boundariesBindAndPreempt : BoundariesBindAndPreempt := by
  refine ⟨fun cl s v hruns hkeyed hst hfirst => ⟨_, exec_boundary hruns,
    fun c l new h hgood => boundary_binds hruns.1 hkeyed hst hfirst h hgood, fun hfinds hroom => ?_⟩,
    fun s regid c => ⟨State.newLcore_own, fun h l hl hlow => State.newLcore_lowest h hl hlow⟩⟩
  exact ⟨boundary_waits hruns.1 hkeyed hst hfirst hfinds hroom,
    fun u hu hbest => ⟨boundary_preempts hruns.1 hkeyed hst hfirst hfinds hroom hu hbest,
      boundary_preempts_strand hruns.1 hkeyed hst hfirst hfinds hroom hu hbest,
      boundary_preempts_only hruns.1 hkeyed hst hfirst hfinds hroom hu hbest⟩⟩

end Sys2Proof.Machine
end

section
/-! PROOFS. A boundary at which nothing is bound changes nothing that says whether a gang is still (R276) (O39). -/

namespace Sys2Proof.Machine

open Sys2Proof.Claims

/-! ## A boundary at which no waiting task changes anything -/

/-- A task at such a boundary. -/
def countTask (s : State) (cl : Nat) (v : Task) : Task := ranTask cl (openTask s cl v)

/-- The state after such a boundary, but for its gangs. -/
def counted (s : State) (cl : Nat) : State := (opened s cl).mapTasks (ranTask cl)

section
variable {s : State} {cl : Nat}

theorem counted_tasks : (counted s cl).tasks = s.tasks.map (countTask s cl) := List.map_map

theorem countTask_eq (v : Task) : ∃ b w n y r, countTask s cl v = { v with boundDue := b, waited := w, e := n, yielding := y, ran := r } := by
  obtain ⟨b, w, n, h⟩ := openTask_eq s cl v
  obtain ⟨y, r, h'⟩ := ranTask_eq cl (openTask s cl v)
  exact ⟨b, w, n, y, r, by rw [countTask, h', h]⟩

/-- What such a boundary keeps of every task. -/
structure SameWork (t v : Task) : Prop where
  key : t.key = v.key
  tid : t.tid = v.tid
  regid : t.regid = v.regid
  st : t.st = v.st
  core : t.core = v.core
  cluster : t.cluster = v.cluster
  textBase : t.textBase = v.textBase
  textEnd : t.textEnd = v.textEnd
  prods : t.prods = v.prods
  fired : t.fired = v.fired

theorem sameWork_countTask (v : Task) : SameWork (countTask s cl v) v := by
  obtain ⟨b, w, n, y, r, h⟩ := countTask_eq (s := s) (cl := cl) v
  rw [h]
  constructor <;> rfl

theorem counted_task? (key : Nat) : (counted s cl).task? key = (s.task? key).map (countTask s cl) :=
  State.task?_map counted_tasks (fun v _ => (sameWork_countTask v).key) key

theorem counted_any {p q : Task → Bool} (h : ∀ v, p (countTask s cl v) = q v) : (counted s cl).tasks.any p = s.tasks.any q := by
  rw [counted_tasks, List.any_map]
  exact congrArg (s.tasks.any ·) (funext h)

/-! ## What a strand waits on -/

theorem counted_prodsFired (v : Task) : (counted s cl).prodsFired (countTask s cl v) = s.prodsFired v := by
  have hv := sameWork_countTask (s := s) (cl := cl) v
  unfold State.prodsFired
  rw [hv.prods]
  refine congrArg (v.prods.all ·) (funext fun p => counted_any fun x => ?_)
  have hx := sameWork_countTask (s := s) (cl := cl) x
  rw [hx.tid, hx.fired, hx.regid, hv.regid]
  rfl

theorem counted_textOf (t : Strand) : (counted s cl).textOf t = s.textOf t := by
  unfold State.textOf
  rw [counted_task?]
  cases s.task? t.task with
  | none => rfl
  | some v =>
    have hv := sameWork_countTask (s := s) (cl := cl) v
    exact Prod.ext hv.textBase hv.textEnd

theorem counted_groupWaits (c : Nat) (n : Fin 4) (k : Ctr) (g : List Instr) :
    (counted s cl).groupWaits c n k g = s.groupWaits c n k g := by
  have hstrand : (counted s cl).strand c n = s.strand c n := rfl
  have hcore : (counted s cl).core c = s.core c := rfl
  unfold State.groupWaits
  rw [hstrand, hcore]
  dsimp only
  rw [counted_task?]
  cases s.task? (s.strand c n).task with
  | none => rfl
  | some v => simp only [Option.map_some, counted_prodsFired]

theorem counted_waitsOn (c : Nat) (n : Fin 4) (k : Ctr) : (counted s cl).waitsOn c n k = s.waitsOn c n k := by
  have hstrand : (counted s cl).strand c n = s.strand c n := rfl
  have hcore : (counted s cl).core c = s.core c := rfl
  unfold State.waitsOn
  simp only [hstrand, hcore, counted_textOf, counted_groupWaits]

theorem counted_strandWaits (c : Nat) (n : Fin 4) : (counted s cl).strandWaits c n = s.strandWaits c n := by
  unfold State.strandWaits
  simp only [counted_waitsOn]

/-! ## The strands of a gang -/

theorem counted_gangStrands (g : Gang) : (counted s cl).gangStrands g = s.gangStrands g := by
  unfold State.gangStrands
  refine congrArg (List.flatMap · g.tasks) (funext fun key => ?_)
  rw [counted_task?]
  cases s.task? key with
  | none => rfl
  | some v =>
    simp only [Option.map_some, (sameWork_countTask v).core]
    rfl

theorem counted_gangPassed (g : Gang) : (counted s cl).gangPassed g = s.gangPassed g := by
  unfold State.gangPassed
  rw [counted_gangStrands]
  rfl

theorem counted_gangCluster (g : Gang) : (counted s cl).gangCluster g = s.gangCluster g := by
  unfold State.gangCluster
  cases g.tasks.head? with
  | none => rfl
  | some key =>
    simp only [Option.bind_some, counted_task?, Option.map_map]
    refine congrArg (Option.map · (s.task? key)) (funext fun v => (sameWork_countTask v).cluster)

end

end Sys2Proof.Machine
end

section
/-! PROOFS. A gang that is still is found still, and one of which a strand does not wait is not (R276) (O39). -/

namespace Sys2Proof.Machine

open Sys2Proof.Claims

/-- No task of the gang does anything but wait for a bound one of it, run or end, and no producer of one outside it runs or waits. -/
def TasksStill (s : State) (g : Gang) : Prop :=
  ∀ v ∈ s.tasks, v.key ∈ g.tasks → v.st ∈ [.dependent, .running, .draining, .ended] ∧
    ∀ id ∈ v.prods, ∀ x ∈ s.tasks, x.tid = id → s.contextOf x.regid = s.contextOf v.regid → x.st = .ended ∨ x.key ∈ g.tasks

/-- The cores of the tasks of a gang. -/
def gangCores (s : State) (g : Gang) : List Nat := s.tasks.filterMap fun v => if v.key ∈ g.tasks then some v.core else none

/-- No command, handler, delivery or collective of the gang is under way. -/
def CoresStill (s : State) (g : Gang) : Prop :=
  ∀ c ∈ gangCores s g, (∀ x ∈ (s.core c).sq, x.task ∉ g.tasks) ∧ (s.core c).pending = [] ∧ (s.core c).ingress = [] ∧
    (∀ a ∈ (s.core c).arming, a.task ∉ g.tasks) ∧ ∀ n, (s.strand c n).handler = false

/-- The gang is still (R276). -/
def GangIsStill (s : State) (g : Gang) : Prop :=
  TasksStill s g ∧ (∃ v ∈ s.tasks, v.key ∈ g.tasks ∧ v.st ≠ .ended) ∧
    (∀ p ∈ s.gangStrands g, s.strandWaits p.1 p.2 = true) ∧ CoresStill s g ∧ s.colls = [] ∧ s.collDones = []

section
variable {s : State} {cl : Nat} {g : Gang}

theorem counted_task?_some {key : Nat} {t : Task} (h : (counted s cl).task? key = some t) :
    ∃ v ∈ s.tasks, v.key = key ∧ t = countTask s cl v := by
  rw [counted_task?] at h
  obtain ⟨v, hv, rfl⟩ := Option.map_eq_some_iff.mp h
  obtain ⟨hmem, hkey⟩ := State.task?_some hv
  exact ⟨v, hmem, hkey, rfl⟩

/-- The tasks of a gang. -/
theorem counted_gangTask {t : Task} (h : t ∈ g.tasks.filterMap (counted s cl).task?) :
    ∃ v ∈ s.tasks, v.key ∈ g.tasks ∧ t = countTask s cl v := by
  obtain ⟨key, hkey, ht⟩ := List.mem_filterMap.mp h
  obtain ⟨v, hv, rfl, rfl⟩ := counted_task?_some ht
  exact ⟨v, hv, hkey, rfl⟩

/-- A strand of a gang runs a task of it. -/
theorem State.gangStrands_task {p : Nat × Fin 4} (h : p ∈ s.gangStrands g) : (s.strand p.1 p.2).task ∈ g.tasks := by
  obtain ⟨key, hkey, hp⟩ := List.mem_flatMap.mp h
  cases ht : s.task? key with
  | none => simp [ht] at hp
  | some t =>
    simp only [ht, List.mem_map, Core.strandsOf, List.mem_filter, beq_iff_eq] at hp
    obtain ⟨n, ⟨-, hn⟩, rfl⟩ := hp
    exact hn.symm ▸ hkey

theorem TasksStill.outsideOf (h : TasksStill s g) {v : Task} (hv : v ∈ s.tasks) (hkey : v.key ∈ g.tasks) :
    (counted s cl).outsideOf g (countTask s cl v) = false := by
  have hsame := sameWork_countTask (s := s) (cl := cl) v
  unfold State.outsideOf
  rw [hsame.prods, List.any_eq_false]
  intro id hid
  rw [counted_any (q := fun x => x.tid == id && s.contextOf x.regid == s.contextOf v.regid && x.st != .ended && x.st != .dependent &&
    !g.tasks.contains x.key) fun x => ?_]
  · simp only [List.any_eq_true, not_exists, not_and, Bool.and_eq_true, beq_iff_eq, bne_iff_ne, Bool.not_eq_true', List.contains_eq_mem,
      decide_eq_false_iff_not, not_not]
    rintro x hx ⟨⟨⟨htid, hctx⟩, hended⟩, -⟩
    exact (((h v hv hkey).2 id hid x hx htid hctx).resolve_left hended)
  · have hx := sameWork_countTask (s := s) (cl := cl) x
    rw [hx.tid, hx.regid, hx.st, hx.key, hsame.regid]
    rfl

theorem TasksStill.outsideProducer (h : TasksStill s g) : (counted s cl).outsideProducer g = false := by
  unfold State.outsideProducer
  rw [counted_gangStrands, Bool.or_eq_false_iff, List.any_eq_false, List.any_eq_false]
  refine ⟨fun p hp hwaits => ?_, fun t ht hdep => ?_⟩
  · obtain ⟨-, hout⟩ := Bool.and_eq_true_iff.mp hwaits
    split at hout
    next t ht =>
      obtain ⟨v, hv, hkey, rfl⟩ := counted_task?_some ht
      have hgang : v.key ∈ g.tasks := by
        rw [hkey]
        exact State.gangStrands_task (s := s) hp
      exact absurd hout (by simp [h.outsideOf hv hgang])
    next => cases hout
  · obtain ⟨-, hout⟩ := Bool.and_eq_true_iff.mp hdep
    obtain ⟨v, hv, hgang, rfl⟩ := counted_gangTask ht
    exact absurd hout (by simp [h.outsideOf hv hgang])

theorem CoresStill.gangBusy (h : CoresStill s g) (hcolls : s.colls = []) (hdones : s.collDones = []) :
    (counted s cl).gangBusy g = false := by
  have hcolls' : (counted s cl).colls = [] := hcolls
  have hdones' : (counted s cl).collDones = [] := hdones
  unfold State.gangBusy
  dsimp only
  rw [hcolls', hdones', List.any_nil, List.any_nil, Bool.or_false, Bool.or_false, List.any_eq_false]
  intro c hc
  obtain ⟨key, hkey, hcore⟩ := List.mem_filterMap.mp (List.mem_dedup.mp hc)
  obtain ⟨t, ht, rfl⟩ := Option.map_eq_some_iff.mp hcore
  obtain ⟨v, hv, rfl, rfl⟩ := counted_task?_some ht
  rw [(sameWork_countTask v).core]
  obtain ⟨hsq, hpending, hingress, harming, hhandler⟩ := h v.core (List.mem_filterMap.mpr ⟨v, hv, if_pos hkey⟩)
  have hcores : (counted s cl).core v.core = s.core v.core := rfl
  have hsq' : ((s.core v.core).sq.any fun x => g.tasks.contains x.task && (counted s cl).cmdBusy x) = false :=
    List.any_eq_false.mpr fun x hx => by simp [hsq x hx]
  have harming' : ((s.core v.core).arming.any fun a => a.armed && g.tasks.contains a.task && (counted s cl).collFlies a.collid a.context) =
      false :=
    List.any_eq_false.mpr fun a ha => by simp [harming a ha]
  have hhandler' : ((s.core v.core).strands.toList.any fun t => t.handler && g.tasks.contains t.task) = false := by
    refine List.any_eq_false.mpr fun t ht => ?_
    obtain ⟨i, hi, rfl⟩ := Vector.mem_iff_getElem.mp (Vector.mem_toList_iff.mp ht)
    have hn : ((s.core v.core).strands[i]).handler = false := hhandler ⟨i, hi⟩
    simp [hn]
  rw [hcores, hsq', hpending, hhandler', hingress, harming']
  exact Bool.false_ne_true

/-- A gang that is still is found still. -/
theorem GangIsStill.gangStill (hkeys : (s.tasks.map (·.key)).Nodup) (h : GangIsStill s g) : (counted s cl).gangStill g = true := by
  obtain ⟨htasks, ⟨v, hv, hkey, hended⟩, hwait, hcores, hcolls, hdones⟩ := h
  have hlive : ((g.tasks.filterMap (counted s cl).task?).any fun t => t.st != .ended) = true := by
    refine List.any_eq_true.mpr ⟨countTask s cl v, List.mem_filterMap.mpr ⟨v.key, hkey, ?_⟩, ?_⟩
    · rw [counted_task?, State.task?_of_mem hkeys hv, Option.map_some]
    · rw [(sameWork_countTask v).st]
      exact bne_iff_ne.mpr hended
  have hstates : ((g.tasks.filterMap (counted s cl).task?).all fun t =>
      t.st == .dependent || t.st == .running || t.st == .draining || t.st == .ended) = true := by
    refine List.all_eq_true.mpr fun t ht => ?_
    obtain ⟨x, hx, hxkey, rfl⟩ := counted_gangTask ht
    rw [(sameWork_countTask x).st]
    simpa [or_assoc] using (htasks x hx hxkey).1
  have hstrands : (((counted s cl).gangStrands g).all fun p => (counted s cl).strandWaits p.1 p.2) = true := by
    rw [counted_gangStrands]
    exact List.all_eq_true.mpr fun p hp => (counted_strandWaits p.1 p.2).trans (hwait p hp)
  unfold State.gangStill
  dsimp only
  rw [hlive, hstates, hstrands, hcores.gangBusy hcolls hdones, htasks.outsideProducer]
  rfl

/-- A gang of which a strand does not wait is not. -/
theorem gangStill_of_strand {p : Nat × Fin 4} (hp : p ∈ s.gangStrands g) (hwait : s.strandWaits p.1 p.2 = false) :
    (counted s cl).gangStill g = false := by
  have hstrands : (((counted s cl).gangStrands g).all fun p => (counted s cl).strandWaits p.1 p.2) = false := by
    rw [counted_gangStrands]
    exact List.all_eq_false.mpr ⟨p, hp, by simp [counted_strandWaits, hwait]⟩
  unfold State.gangStill
  dsimp only
  rw [hstrands, Bool.and_false, Bool.false_and, Bool.false_and, Bool.false_and]

end

end Sys2Proof.Machine
end

section
/-! PROOFS. What a boundary does to one gang (R276, R291) (O39). -/

namespace Sys2Proof.Machine

open Sys2Proof.Claims

/-! ## What is found still does not depend on the other gangs -/

section
variable {s t : State} (h : OnlyGangs s t)
include h

theorem OnlyGangs.placesFrom (dev : Option Nat) (ctx : Word) (l : List Hop) : t.placesFrom dev ctx l = s.placesFrom dev ctx l := by
  induction l generalizing dev ctx with
  | nil => rfl
  | cons a l ih =>
    have hfollows : t.follows dev ctx a = s.follows dev ctx a := by
      obtain ⟨gs, rs, rfl⟩ := h
      rfl
    rw [State.placesFrom, State.placesFrom, hfollows, ih]

theorem OnlyGangs.participants (c : Coll) : t.participants c = s.participants c := by
  have hplaces : t.placeAt c.context c.image = s.placeAt c.context c.image := by
    funext e
    unfold State.placeAt State.places
    simp only [h.placesFrom]
    obtain ⟨gs, rs, rfl⟩ := h
    rfl
  unfold State.participants
  rw [hplaces]

theorem OnlyGangs.gangBusy (g : Gang) : t.gangBusy g = s.gangBusy g := by
  unfold State.gangBusy
  simp only [h.participants]
  obtain ⟨gs, rs, rfl⟩ := h
  rfl

theorem OnlyGangs.gangStill (g : Gang) : t.gangStill g = s.gangStill g := by
  unfold State.gangStill
  rw [h.gangBusy]
  obtain ⟨gs, rs, rfl⟩ := h
  rfl

theorem OnlyGangs.gangPassed (g : Gang) : t.gangPassed g = s.gangPassed g := by
  obtain ⟨gs, rs, rfl⟩ := h
  rfl

theorem OnlyGangs.gangCluster (g : Gang) : t.gangCluster g = s.gangCluster g := by
  obtain ⟨gs, rs, rfl⟩ := h
  rfl

end

/-! ## One gang among the others -/

section
variable {s : State} {cl k : Nat} {g : Gang}

theorem gangBoundary_other {j : Nat} (hj : j ≠ k) : (s.gangBoundary j g).gangs[k]? = s.gangs[k]? := by
  unfold State.gangBoundary
  dsimp only
  split
  · exact List.getElem?_modify_ne _ _ hj
  · split
    · split
      · rfl
      · exact List.getElem?_modify_ne _ _ hj
    · exact List.getElem?_modify_ne _ _ hj

theorem gangBoundary_records {r : Record} (hr : r ∈ s.records) : r ∈ (s.gangBoundary k g).records := by
  unfold State.gangBoundary
  dsimp only
  split
  · exact hr
  · split
    · split
      · exact hr
      · exact List.mem_append_left _ hr
    · exact hr

/-- The other gangs leave a gang, and every record. -/
theorem foldl_stalemates_other {l : List (Gang × Nat)} (h : ∀ e ∈ l, e.2 ≠ k) :
    (l.foldl (stalemateStep cl) s).gangs[k]? = s.gangs[k]? ∧ ∀ r ∈ s.records, r ∈ (l.foldl (stalemateStep cl) s).records := by
  induction l generalizing s with
  | nil => exact ⟨rfl, fun _ => id⟩
  | cons e l ih =>
    obtain ⟨hgang, hrecords⟩ := ih (s := stalemateStep cl s e) fun e' he' => h e' (List.mem_cons_of_mem _ he')
    have hstep : (stalemateStep cl s e).gangs[k]? = s.gangs[k]? ∧ ∀ r ∈ s.records, r ∈ (stalemateStep cl s e).records := by
      unfold stalemateStep
      split
      · exact ⟨gangBoundary_other (h e List.mem_cons_self), fun r hr => gangBoundary_records hr⟩
      · exact ⟨rfl, fun _ => id⟩
    exact ⟨hgang.trans hstep.1, fun r hr => hrecords r (hstep.2 r hr)⟩

/-- The boundary of a gang comes after those of some gangs and before those of the others. -/
theorem stalemates_gang (hg : s.gangs[k]? = some g) (hst : g.st ≠ 0) (hcl : s.gangCluster g = some cl) :
    ∃ u, OnlyGangs s u ∧ u.gangs[k]? = some g ∧ (s.stalemates cl).gangs[k]? = (u.gangBoundary k g).gangs[k]? ∧
      ∀ r ∈ (u.gangBoundary k g).records, r ∈ (s.stalemates cl).records := by
  obtain ⟨l, l', hsplit⟩ := List.append_of_mem (List.mem_zipIdx_iff_getElem?.mpr hg : (g, k) ∈ s.gangs.zipIdx)
  have hnodup : ((l ++ (g, k) :: l').map Prod.snd).Nodup := by
    rw [← hsplit, List.zipIdx_map_snd]
    exact List.nodup_range'
  rw [List.map_append, List.map_cons] at hnodup
  obtain ⟨-, hright, hdisjoint⟩ := List.nodup_append.mp hnodup
  have hbefore : ∀ e ∈ l, e.2 ≠ k := fun e he => hdisjoint _ (List.mem_map_of_mem he) _ List.mem_cons_self
  have hafter : ∀ e ∈ l', e.2 ≠ k := fun e he heq => (List.nodup_cons.mp hright).1 (List.mem_map.mpr ⟨e, he, heq⟩)
  have honly := onlyGangs_foldl cl l s
  have hgang := (foldl_stalemates_other (cl := cl) (s := s) hbefore).1
  have hstep : stalemateStep cl (l.foldl (stalemateStep cl) s) (g, k) = (l.foldl (stalemateStep cl) s).gangBoundary k g := by
    have hcluster := (honly.gangCluster g).trans hcl
    exact if_pos (Bool.and_eq_true_iff.mpr ⟨bne_iff_ne.mpr hst, beq_iff_eq.mpr hcluster⟩)
  obtain ⟨hlast, hrecords⟩ := foldl_stalemates_other (cl := cl) (s := (l.foldl (stalemateStep cl) s).gangBoundary k g) hafter
  have hall : s.stalemates cl = l'.foldl (stalemateStep cl) ((l.foldl (stalemateStep cl) s).gangBoundary k g) := by
    rw [State.stalemates_eq, hsplit, List.foldl_append, List.foldl_cons, hstep]
  exact ⟨_, honly, hgang.trans hg, hall ▸ hlast, hall ▸ hrecords⟩

/-! ## The gang -/

variable (hg : s.gangs[k]? = some g) (hst : g.st ≠ 0) (hcl : s.gangCluster g = some cl)
include hg hst hcl

/-- One that is not still carries no mark. -/
theorem stalemates_of_not_still (hstill : s.gangStill g = false) :
    (s.stalemates cl).gangs[k]? = some { g with st := 1, suspect := none } := by
  obtain ⟨u, honly, hu, hgang, -⟩ := stalemates_gang hg hst hcl
  have hboundary : u.gangBoundary k g = { u with gangs := u.gangs.modify k fun g => { g with st := 1, suspect := none } } :=
    if_pos (by rw [honly.gangStill, hstill]; rfl)
  rw [hgang, hboundary, List.getElem?_modify_eq, hu, Option.map_eq_map, Option.map_some]

/-- One that is still for the first time is marked with what its strands have passed. -/
theorem stalemates_of_still (hstill : s.gangStill g = true) (hmark : g.suspect ≠ some (s.gangPassed g)) :
    (s.stalemates cl).gangs[k]? = some { g with st := 1, suspect := some (s.gangPassed g) } := by
  obtain ⟨u, honly, hu, hgang, -⟩ := stalemates_gang hg hst hcl
  have hmark' : ¬ (g.suspect == some (u.gangPassed g)) = true := by rwa [beq_iff_eq, honly.gangPassed]
  have hboundary : u.gangBoundary k g =
      { u with gangs := u.gangs.modify k fun x => { x with st := 1, suspect := some (u.gangPassed g) } } :=
    (if_neg (by simp [honly.gangStill, hstill])).trans (if_neg hmark')
  rw [hgang, hboundary, List.getElem?_modify_eq, hu, Option.map_eq_map, Option.map_some, honly.gangPassed]

/-- One that has been still since the boundary before is stalemated, with a notice. -/
theorem stalemates_of_marked (hstill : s.gangStill g = true) (hmark : g.suspect = some (s.gangPassed g)) (hnew : g.st ≠ 2) :
    (s.stalemates cl).gangs[k]? = some { g with st := 2 } ∧
      ∃ r ∈ (s.stalemates cl).records, r.regid = g.regid ∧ r.words = noticeWords 0#64 g.regid 0 2 16#64 0#64 g.id := by
  obtain ⟨u, honly, hu, hgang, hrecords⟩ := stalemates_gang hg hst hcl
  have hmark' : g.suspect = some (u.gangPassed g) := hmark.trans (congrArg some (honly.gangPassed g).symm)
  have hboundary : u.gangBoundary k g = ({ u with gangs := u.gangs.modify k fun g => { g with st := 2 } } : State).report g.regid
      (noticeWords 0#64 g.regid 0 2 (BitVec.ofNat 64 causeStalemate) 0#64 g.id) :=
    (if_neg (by simp [honly.gangStill, hstill])).trans
      ((if_pos (beq_iff_eq.mpr hmark')).trans (if_neg (by simpa using hnew)))
  rw [hboundary] at hrecords
  refine ⟨?_, _, hrecords _ (List.mem_append_right _ List.mem_cons_self), rfl, rfl⟩
  rw [hgang, hboundary, State.report, List.getElem?_modify_eq, hu, Option.map_eq_map, Option.map_some]

/-- One that is stalemated stays so. -/
theorem stalemates_of_stalemated (hstill : s.gangStill g = true) (hmark : g.suspect = some (s.gangPassed g)) (hold : g.st = 2) :
    (s.stalemates cl).gangs[k]? = some g := by
  obtain ⟨u, honly, hu, hgang, -⟩ := stalemates_gang hg hst hcl
  have hmark' : g.suspect = some (u.gangPassed g) := hmark.trans (congrArg some (honly.gangPassed g).symm)
  have hboundary : u.gangBoundary k g = u :=
    (if_neg (by simp [honly.gangStill, hstill])).trans
      ((if_pos (beq_iff_eq.mpr hmark')).trans (if_pos (by simpa using hold)))
  rw [hgang, hboundary, hu]

end

end Sys2Proof.Machine
end

section
/-! PROOFS. Settles O39: a tempo boundary binds, pre-empts, finds stalemates, counts, and raises the priority of what waits. -/

namespace Sys2Proof.Machine

open Sys2Proof.Claims

/-! ## A boundary at which nothing is bound -/

section
variable {s : State} {cl : Nat}

/-- A task finds no core where it fits on none of the cluster. -/
theorem State.place_of_no_fit {t : Task} (hcl : cl < 64) (h : ∀ c, clusterOf c = cl → s.fits t c = false) : s.place cl t = none := by
  have hcores : ∀ c ∈ clusterCores cl, s.fits t c = false := fun c hc => h c ((mem_clusterCores hcl).mp hc).2
  unfold State.place
  split
  next =>
    have hnone : s.eligible cl t = [] := by
      rw [eligible_eq, List.filterMap_eq_nil_iff]
      intro c hc
      rw [spotAt, hcores c hc]
      rfl
    rw [hnone]
    rfl
  next =>
    split
    next c _ =>
      refine if_neg fun hfits => ?_
      simp only [Bool.and_eq_true, beq_iff_eq] at hfits
      exact absurd hfits.2 (by simp [h c hfits.1.1])
    next =>
      split
      · rw [Option.map_eq_none_iff, List.find?_eq_none]
        exact fun c hc => by simp [hcores c hc]
      · rfl

/-- On a die whose retirement has begun, no waiting task is bound and none pre-empted for it (R303). -/
theorem serve_retiring (hcl : cl < 64) (hret : ∃ r ∈ s.retiring, r.1 = cl / 4) (key : Nat) : s.serve cl key = s := by
  have htakes (c : Nat) (hc : clusterOf c = cl) : s.takes c = false := by
    obtain ⟨r, hr, hdie⟩ := hret
    refine Bool.eq_false_iff.mpr fun htakes => ((s.takes_iff c).mp htakes).2 r hr ?_
    rw [hdie, die_of_clusterOf hc]
  unfold State.serve
  split
  next => rfl
  next t _ =>
    have hfits (c : Nat) (hc : clusterOf c = cl) : s.fits t c = false := by
      unfold State.fits
      rw [htakes c hc]
      rfl
    have hvictims : s.victims cl t = [] := by
      refine List.eq_nil_iff_forall_not_mem.mpr fun e he => ?_
      obtain ⟨-, -, hcore, huse, -⟩ := State.mem_victims.mp (show (e.1, e.2) ∈ s.victims cl t from he)
      exact absurd ((s.usable_iff cl t _).mp huse).1 fun h => absurd ((s.takes_iff _).mpr h) (by simp [htakes _ hcore])
    rw [State.place_of_no_fit hcl hfits]
    dsimp only
    split
    · rfl
    · unfold State.preemptFor
      rw [hvictims]
      rfl

/-- A boundary at which no task waits, or on a die whose retirement has begun. -/
theorem boundary_quiet (hcl : cl < 64) (h : (∀ v ∈ s.tasks, ¬ Waits cl v) ∨ ∃ r ∈ s.retiring, r.1 = cl / 4) :
    s.boundary cl = (counted s cl).stalemates cl := by
  have hserve : serveAll cl ((opened s cl).queueOf cl) (opened s cl) = opened s cl := by
    obtain hnone | hret := h
    · have hqueue : (opened s cl).queueOf cl = [] := by
        refine List.eq_nil_iff_forall_not_mem.mpr fun key hkey => ?_
        obtain ⟨x, hx, hwaits, -⟩ := mem_queueOf.mp hkey
        obtain ⟨v, hv, rfl⟩ := mem_opened_iff.mp hx
        exact hnone v hv (openTask_waits_iff.mp hwaits)
      rw [hqueue]
      rfl
    · have hret' : ∃ r ∈ (opened s cl).retiring, r.1 = cl / 4 := hret
      generalize (opened s cl).queueOf cl = keys
      induction keys with
      | nil => rfl
      | cons key keys ih =>
        rw [serveAll, List.foldl_cons, serve_retiring hcl hret']
        exact ih
  rw [State.boundary_eq, hserve]
  rfl

/-! ## What it counts -/

theorem countTask_here {v : Task} (h : v.st ∈ [.running, .draining, .stopping] ∧ clusterOf v.core = cl) :
    countTask s cl v = { v with boundDue := false, yielding := false, ran := v.ran + 1 } := by
  have hlive : (v.live && clusterOf v.core == cl) = true := Bool.and_eq_true_iff.mpr ⟨v.live_iff.mpr h.1, beq_iff_eq.mpr h.2⟩
  have hwaits : v.waits = false := Bool.eq_false_iff.mpr fun hw => by
    rw [Task.live_of_waits hw] at hlive
    cases hlive
  have hopen : openTask s cl v = { v with boundDue := false } := by
    have hwaits' : (({ v with boundDue := false } : Task).waits && v.cluster == cl) = false := by
      change (v.waits && _) = false
      rw [hwaits, Bool.false_and]
    unfold openTask
    rw [if_pos hlive]
    dsimp only
    rw [hwaits', if_neg Bool.false_ne_true]
  rw [countTask, hopen]
  exact if_pos hlive

theorem countTask_waits {v : Task} (h : Waits cl v) : countTask s cl v = promoted s cl v := by
  have hlive : v.live = false := Task.live_of_waits (Bool.and_eq_true_iff.mp (waits_iff.mp h)).1
  have hlive' : (promoted s cl v).live = false := hlive
  rw [countTask, openTask_waits h, ranTask, hlive', Bool.false_and, if_neg Bool.false_ne_true]

theorem countTask_other {v : Task} (h : ¬ (v.st ∈ [.running, .draining, .stopping] ∧ clusterOf v.core = cl)) (hw : ¬ Waits cl v) :
    countTask s cl v = v := by
  have hlive : ¬ (v.live && clusterOf v.core == cl) = true := fun hl => by
    obtain ⟨hst, hcore⟩ := Bool.and_eq_true_iff.mp hl
    exact h ⟨v.live_iff.mp hst, beq_iff_eq.mp hcore⟩
  have hopen : openTask s cl v = v := by
    unfold openTask
    rw [if_neg hlive]
    exact if_neg fun hwaits => hw (waits_iff.mpr hwaits)
  rw [countTask, hopen]
  exact if_neg hlive

theorem counted_sameMemory : SameMemory s (counted s cl) := by
  refine ⟨fun _ => rfl, rfl, fun d => ?_, fun _ => rfl⟩
  have hpool : ((opened s cl).cluster d).pool = (s.cluster d).pool := by
    rw [opened_cluster]
    split
    next h => rw [h]
    next => rfl
  exact hpool

end

/-! ## Stalemates -/

theorem stalematesAreFound : StalematesAreFound := by
  intro cl k s g w
  dsimp only
  intro hruns hnone hkeys hg hst hhead hcl _
  have hboundary := boundary_quiet hruns.1 (.inl hnone)
  have hg' : (counted s cl).gangs[k]? = some g := hg
  have hcluster : (counted s cl).gangCluster g = some cl := by
    rw [counted_gangCluster, State.gangCluster, hhead, Option.map_some, hcl]
  refine ⟨_, exec_boundary hruns, ?_⟩
  rw [hboundary, ← counted_gangPassed (cl := cl)]
  exact ⟨fun hstill => stalemates_of_marked hg' hst hcluster (GangIsStill.gangStill hkeys hstill),
    fun hstill => stalemates_of_stalemated hg' hst hcluster (GangIsStill.gangStill hkeys hstill),
    fun hstill => stalemates_of_still hg' hst hcluster (GangIsStill.gangStill hkeys hstill),
    fun ⟨_, hp, hwait⟩ => stalemates_of_not_still hg' hst hcluster (gangStill_of_strand hp hwait)⟩

/-! ## The obligation -/

theorem boundary_counts {s : State} {cl : Nat} (hcl : cl < 64)
    (h : (∀ v ∈ s.tasks, ¬ Waits cl v) ∨ ∃ r ∈ s.retiring, r.1 = cl / 4) :
    SameMemory s (s.boundary cl) ∧ (∀ c n, (s.boundary cl).strand c n = s.strand c n) ∧
      ((s.boundary cl).cluster cl).events = (s.cluster cl).events ||| 0x10#8 ∧
      ((s.boundary cl).cluster cl).boundary = (s.cluster cl).boundary + 1 ∧
      (s.boundary cl).tasks = s.tasks.map (countTask s cl) := by
  obtain ⟨gs, rs, hstalemates⟩ := onlyGangs_stalemates (counted s cl) cl
  rw [boundary_quiet hcl h, hstalemates]
  have hcluster : (counted s cl).cluster cl =
      { s.cluster cl with events := (s.cluster cl).events ||| 0x10#8, boundary := (s.cluster cl).boundary + 1 } :=
    (opened_cluster cl).trans (if_pos rfl)
  exact ⟨counted_sameMemory (s := s) (cl := cl), fun _ _ => rfl, congrArg Cluster.events hcluster, congrArg Cluster.boundary hcluster,
    counted_tasks⟩

/-- Settles O39: the first of the waiting tasks is served as R231 and R274 say and what is served after it leaves that as it is; whether a
gang is still does not depend on what a quiet boundary changes. -/
theorem tempoBoundariesPromoteAndCount : Obligations.TempoBoundariesPromoteAndCount := by
  refine ⟨boundariesBindAndPreempt, stalematesAreFound, fun cl s => ⟨exec_boundary_of_late, exec_boundary_exists, ?_, ?_, ?_⟩⟩
  · exact fun hcl hidle hdown => exec_boundary_unsupervised hcl hidle ((s.not_supervised_iff cl).mpr hdown)
  · intro v x hcl hup hv hst hcore hfor hx hwaits hdue
    refine exec_boundary_dueSave hcl ((s.supervised_iff cl).mpr hup) ((s.dueSave_iff cl).mpr ⟨v, hv, hst, hcore, hfor, x, hx, ?_, hdue⟩)
    exact (Bool.and_eq_true_iff.mp (waits_iff.mp hwaits)).1
  · intro hruns _ hquiet
    obtain ⟨hmemory, hstrands, hevents, hcount, htasks⟩ := boundary_counts hruns.1 hquiet
    refine ⟨_, exec_boundary hruns, hmemory, hstrands, hevents, hcount, by rw [htasks, List.length_map], fun i v hv => ?_⟩
    refine ⟨countTask s cl v, by rw [htasks, List.getElem?_map, hv, Option.map_some], countTask_here, countTask_waits, countTask_other⟩

end Sys2Proof.Machine
end

section
/-! PROOFS. TRAP and a precise cause: the handler, or the end of the task; ERET (O8). -/

namespace Sys2Proof.Machine

open Sys2Proof.Claims

/-! ## The words of a precise cause (R281, R282) -/

/-- CTR of TRAPCAUSE. -/
def ctrBit : Ctr → Nat
  | .a => 0
  | .x => 1

/-- SLIP goes between the low fields of TRAPCAUSE and its DETAIL. -/
theorem causeWord_or_slip {cause : Nat} (hcause : cause < 2 ^ 16) (t : Strand) (k : Ctr) (detail : BitVec 16) :
    causeWord cause (ctrBit k) false false detail 0 ||| BitVec.ofNat 64 ((BitVec.ofInt 12 t.slip).toNat * 2 ^ 32) =
      preciseCause t k cause detail := by
  have hslip : (BitVec.ofInt 12 t.slip).toNat = slipField t := rfl
  have hfield : slipField t < 2 ^ 12 := (BitVec.ofInt 12 t.slip).isLt
  have hor {low d f : Nat} (hlow : low < 2 ^ 32) (hf : f < 2 ^ 12) : low + d * 2 ^ 48 ||| f * 2 ^ 32 = low + f * 2 ^ 32 + d * 2 ^ 48 := by
    have hd : 2 ^ 48 * d + low = 2 ^ 48 * d ||| low := Nat.two_pow_add_eq_or_of_lt (by omega) d
    have hff : 2 ^ 32 * f + low = 2 ^ 32 * f ||| low := Nat.two_pow_add_eq_or_of_lt hlow f
    have hall : 2 ^ 48 * d + (2 ^ 32 * f + low) = 2 ^ 48 * d ||| (2 ^ 32 * f + low) := Nat.two_pow_add_eq_or_of_lt (by omega) d
    calc low + d * 2 ^ 48 ||| f * 2 ^ 32 = 2 ^ 48 * d + low ||| 2 ^ 32 * f := by rw [Nat.add_comm, Nat.mul_comm d, Nat.mul_comm f]
      _ = 2 ^ 48 * d ||| (2 ^ 32 * f ||| low) := by rw [hd, Nat.or_assoc, Nat.or_comm low]
      _ = 2 ^ 48 * d + (2 ^ 32 * f + low) := by rw [hall, hff]
      _ = low + f * 2 ^ 32 + d * 2 ^ 48 := by omega
  rw [causeWord, hslip, ← BitVec.ofNat_or]
  cases k
  · simpa [preciseCause, ctrBit] using congrArg (BitVec.ofNat 64) (hor (d := detail.toNat) (show cause < 2 ^ 32 by omega) hfield)
  · simpa [preciseCause, ctrBit] using congrArg (BitVec.ofNat 64) (hor (d := detail.toNat) (show cause + 2 ^ 16 < 2 ^ 32 by omega) hfield)

/-- Where counter `j` resumes after a cause of counter `k`, which itself resumes at `here`. -/
def resumeAfter (t : Strand) (k j : Ctr) (here : BitVec 22) : BitVec 22 := if j = k then here else resumeAt t j

/-- TRAPPC of a cause of counter `k`. -/
def causePcs (t : Strand) (k : Ctr) (here : BitVec 22) : Word := trapPcOf (resumeAfter t k .a here) (resumeAfter t k .x here)

theorem Strand.resume_eq (t : Strand) (k : Ctr) : t.resume k = resumeAt t k := by
  cases k <;> simp only [resume, held, pc, resumeAt] <;> split <;> simp [*]

theorem enterHandler_eq_inHandler (t : Strand) (cause : Word) (pa px : BitVec 22) :
    t.enterHandler cause pa px =
      inHandler t (cause ||| BitVec.ofNat 64 ((BitVec.ofInt 12 t.slip).toNat * 2 ^ 32)) (trapPcOf pa px) := by
  rw [Strand.enterHandler, inHandler, Strand.entry_eq]
  rfl

/-! ## A cause is delivered (R284, R368) -/

theorem deliver_waits {s : State} (hreads : s.me.reads ≠ []) (pc : BitVec 22) (cause : Nat) (detail : BitVec 16) :
    s.deliver pc cause detail = s.res .waiting :=
  if_pos (by simpa using hreads)

/-- The word at which a strand resumes after a cause: a TRAP's next word, and the word itself for any other (R408). -/
def resumeWord (pc : BitVec 22) (cause : Nat) : BitVec 22 := if cause = 8 then pc + 4#22 else pc

/-- The two ways in which counter `k` takes a cause. -/
theorem deliverNow_actAs (s : State) (k : Ctr) (pc : BitVec 22) (cause : Nat) (detail : BitVec 16) :
    let word := causeWord cause (ctrBit k) false false detail 0
    let w := (s.actAs k).res (.trapped pc cause detail)
    (s.actAs k).deliverNow pc cause detail =
      if s.canHandle s.me && !s.me.trapvec.getLsbD 1 then
        w.setMe (s.me.enterHandler word (resumeAfter s.me k .a (resumeWord pc cause)) (resumeAfter s.me k .x (resumeWord pc cause)))
      else w.escalate s.cur.core s.me.task (word ||| BitVec.ofNat 64 ((BitVec.ofInt 12 s.me.slip).toNat * 2 ^ 32))
        (causePcs s.me k (resumeWord pc cause)) := by
  simp only [resumeAfter, causePcs, ← Strand.resume_eq]
  cases k <;> rfl

theorem deliver_enters {s : State} (hready : HandlerReady s) (hreads : s.me.reads = []) (k : Ctr) (pc : BitVec 22) {cause : Nat}
    (hcause : cause < 2 ^ 16) (detail : BitVec 16) :
    (s.actAs k).deliver pc cause detail = (withMe (s.actAs k) fun t =>
      inHandler t (preciseCause t k cause detail) (causePcs t k (resumeWord pc cause))).res (.trapped pc cause detail) := by
  rw [State.deliver, if_neg (by simp [hreads]), deliverNow_actAs, if_pos ((handlerReady_iff s).1 hready), enterHandler_eq_inHandler,
    causeWord_or_slip hcause]
  rfl

theorem deliver_escalates {s : State} (hready : ¬ HandlerReady s) (hreads : s.me.reads = []) (k : Ctr) (pc : BitVec 22) {cause : Nat}
    (hcause : cause < 2 ^ 16) (detail : BitVec 16) :
    (s.actAs k).deliver pc cause detail = ((s.actAs k).res (.trapped pc cause detail)).escalate s.cur.core s.me.task
      (preciseCause s.me k cause detail) (causePcs s.me k (resumeWord pc cause)) := by
  rw [State.deliver, if_neg (by simp [hreads]), deliverNow_actAs, if_neg (mt (handlerReady_iff s).2 hready), causeWord_or_slip hcause]

/-! ## The end of a task by escalation (R289) -/

/-- What two cores share where strands have been stopped or released: mailboxes, pending handlers and the logical CORE. -/
def Core.SameBoxes (k j : Core) : Prop := j.mailboxes = k.mailboxes ∧ j.pending = k.pending ∧ j.lcore = k.lcore

theorem Core.SameBoxes.trans {i j k : Core} (h : i.SameBoxes j) (h' : j.SameBoxes k) : i.SameBoxes k :=
  ⟨h'.1.trans h.1, h'.2.1.trans h.2.1, h'.2.2.trans h.2.2⟩

theorem Core.takeLate_frame (l : List LateOp) (k : Core) :
    let j := l.foldl (fun k o => match o.kind with | .take m v => k.takeSem m v.toNat | _ => k) k
    k.SameBoxes j ∧ j.strands = k.strands := by
  induction l generalizing k with
  | nil => exact ⟨⟨rfl, rfl, rfl⟩, rfl⟩
  | cons o l ih =>
    rw [List.foldl_cons]
    split <;> exact ih _

/-- The release of a strand's reads leaves the other strands, and of its own what the end of its task would leave. -/
theorem Core.settleAll_frame (k : Core) (n : Fin 4) :
    k.SameBoxes (k.settleAll n) ∧ ((k.settleAll n).strand n).ended = (k.strand n).ended ∧
      ∀ m, n ≠ m → (k.settleAll n).strand m = k.strand m := by
  have hreads : let j := match (k.strand n).reads with | [] => k | o :: _ => k.settle n o.id []
      k.SameBoxes j ∧ (j.strand n).ended = (k.strand n).ended ∧ ∀ m, n ≠ m → j.strand m = k.strand m := by
    split
    · exact ⟨⟨rfl, rfl, rfl⟩, rfl, fun _ _ => rfl⟩
    · refine ⟨⟨rfl, rfl, rfl⟩, ?_, fun m hm => ?_⟩
      · exact (congrArg Strand.ended ((Core.strand_setStrand k n n _).trans (if_pos rfl))).trans rfl
      · exact (Core.strand_setStrand k n m _).trans (if_neg hm)
  obtain ⟨hboxes, hended, hother⟩ := hreads
  obtain ⟨hlate, hstrands⟩ := takeLate_frame (k.strand n).late (match (k.strand n).reads with | [] => k | o :: _ => k.settle n o.id [])
  have hstrand (m : Fin 4) := congrArg (Vector.get · m) hstrands
  exact ⟨hboxes.trans hlate, (congrArg Strand.ended (hstrand n)).trans hended, fun m hm => (hstrand m).trans (hother m hm)⟩

/-- One strand of a core stopped where it runs the task. -/
def Core.stopStrand (key : Nat) (k : Core) (n : Fin 4) : Core :=
  if (k.strand n).task == key then (k.settleAll n).setStrand n ((k.settleAll n).strand n).ended else k

theorem Core.stopStrand_frame (key : Nat) (k : Core) (n : Fin 4) :
    k.SameBoxes (k.stopStrand key n) ∧
      ∀ m, (k.stopStrand key n).strand m = if n = m ∧ (k.strand m).task = key then (k.strand m).ended else k.strand m := by
  obtain ⟨hboxes, hended, hother⟩ := k.settleAll_frame n
  unfold Core.stopStrand
  split
  next h =>
    refine ⟨hboxes, fun m => ?_⟩
    rw [Core.strand_setStrand]
    split
    next hm => rw [if_pos ⟨hm, by simpa [hm] using h⟩, hended, hm]
    next hm => rw [if_neg fun h => hm h.1, hother m hm]
  next h =>
    refine ⟨⟨rfl, rfl, rfl⟩, fun m => (if_neg fun hm => h ?_).symm⟩
    rw [hm.1, beq_iff_eq, hm.2]

theorem Core.foldl_stopStrand_frame (key : Nat) (l : List (Fin 4)) (k : Core) :
    k.SameBoxes (l.foldl (Core.stopStrand key) k) ∧ (l.Nodup → ∀ m, (l.foldl (Core.stopStrand key) k).strand m =
      if m ∈ l ∧ (k.strand m).task = key then (k.strand m).ended else k.strand m) := by
  induction l generalizing k with
  | nil => exact ⟨⟨rfl, rfl, rfl⟩, fun _ m => by simp⟩
  | cons n l ih =>
    obtain ⟨hboxes, hstrand⟩ := k.stopStrand_frame key n
    obtain ⟨hrest, hrests⟩ := ih (k.stopStrand key n)
    refine ⟨hboxes.trans hrest, fun hl m => ?_⟩
    obtain ⟨hn, hl⟩ := List.nodup_cons.1 hl
    rw [List.foldl_cons, hrests hl, hstrand]
    by_cases hm : n = m
    · subst hm
      simp [hn]
    · simp [hm, Ne.symm hm]

/-- The strands of a core after the end of a task on it. -/
theorem Core.stopTask_frame (k : Core) (key : Nat) :
    k.SameBoxes (k.stopTask key) ∧
      ∀ m, (k.stopTask key).strand m = if (k.strand m).task = key then (k.strand m).ended else k.strand m := by
  obtain ⟨hboxes, hstrand⟩ := k.foldl_stopStrand_frame key strandNums
  refine ⟨hboxes, fun m => (hstrand (by decide) m).trans ?_⟩
  simp only [show m ∈ strandNums by revert m; decide, true_and]

/-- A core after a task on it has ended. -/
def Core.withoutTask (k : Core) (key : Nat) : Core := ((k.stopTask key).unbindTask key).dropTokens key

theorem Core.withoutTask_mailbox (k : Core) (key : Nat) (m : Fin 16) :
    (k.withoutTask key).mailboxes.get m =
      if (k.mailboxes.get m).valid = true ∧ (k.mailboxes.get m).owner = key then Mailbox.none else k.mailboxes.get m := by
  have hstop := (k.stopTask_frame key).1.1
  rw [Core.withoutTask]
  generalize k.stopTask key = j at hstop ⊢
  simp [Core.dropTokens, Core.unbindTask, hstop, Vector.get_eq_getElem]

theorem Core.withoutTask_pending {k : Core} {key : Nat} {p : Pending} (h : p ∈ (k.withoutTask key).pending) :
    p ∈ k.pending ∧ p.owner ≠ key := by
  have hstop := (k.stopTask_frame key).1.2.1
  rw [Core.withoutTask] at h
  generalize k.stopTask key = j at hstop h
  simpa [Core.dropTokens, Core.unbindTask, hstop] using h

theorem Core.withoutTask_strand (k : Core) (key : Nat) (n : Fin 4) :
    (k.withoutTask key).strand n = if (k.strand n).task = key then idleStrand (k.strand n) else k.strand n := by
  have hstop := (k.stopTask_frame key).2 n
  rw [Core.withoutTask]
  generalize k.stopTask key = j at hstop ⊢
  exact hstop

theorem Core.withoutTask_lcore (k : Core) (key : Nat) : (k.withoutTask key).lcore = k.lcore := by
  have hstop := (k.stopTask_frame key).1.2.2
  rw [Core.withoutTask]
  generalize k.stopTask key = j at hstop ⊢
  exact hstop

theorem Core.withoutTask_sq {k : Core} {key : Nat} {q : StrCmd} (h : q ∈ (k.withoutTask key).sq) (hq : q.task = key) : q.tok = 0#5 := by
  have hsq : (k.withoutTask key).sq = k.sq.map (StrCmd.afterEnd key) := (k.store_ended key).2
  rw [hsq] at h
  obtain ⟨c, -, rfl⟩ := List.mem_map.1 h
  unfold StrCmd.afterEnd at hq ⊢
  split at hq
  next hc => rw [if_pos hc]
  next hc => exact absurd (beq_iff_eq.2 hq) hc

/-- A ring 2 entry gives back its TASKID, EVENT and STATUS. -/
theorem extractLsb'_completion {v : Task} (hcore : v.core < 4096) {event status : Nat} (hevent : event < 2 ^ 8) :
    let e := entry32 [(v.tid.toNat, 0), (v.core, 8), (v.strands.toNat, 10), (event, 11), (status, 12)]
    e.extractLsb' 0 64 = v.tid ∧ e.extractLsb' 88 8 = BitVec.ofNat 8 event ∧ e.extractLsb' 96 16 = BitVec.ofNat 16 status := by
  have htid := v.tid.isLt
  have hstrands := v.strands.isLt
  refine ⟨?_, ?_, ?_⟩
  · exact (extractLsb'_entry32 (fs := []) (off := 0) (w := 64) (by simp) (by simp) (by decide)).trans
      ((BitVec.ofNat_toNat ..).trans (BitVec.setWidth_eq _))
  · refine extractLsb'_entry32 (fs := [(v.tid.toNat, 0), (v.core, 8), (v.strands.toNat, 10)]) (off := 11) (w := 8) ?_ (by simp) (by decide)
    simp
    omega
  · refine extractLsb'_entry32 (fs := [(v.tid.toNat, 0), (v.core, 8), (v.strands.toNat, 10), (event, 11)]) (off := 12) (w := 16) ?_
      (by simp) (by decide)
    simp
    omega

/-- A task that ends by escalation, by its parts. -/
theorem escalate_eq {c : Nat} {s : State} {v : Task} (hv : s.task? v.key = some v) (cause pcs : Word) :
    s.escalate c v.key cause pcs =
      ((((s.modCore c fun k => k.withoutTask v.key).modTask v.key fun t => { t with st := .ended, fired := true }).completion v 1 4).report
        v.regid (noticeWords v.tid v.regid (s.core c).lcore.toNat 1 cause pcs 0#64)) := by
  have hlcore : ((s.modCore c fun k => k.withoutTask v.key).core c).lcore = (s.core c).lcore := by
    rw [State.core_modCore, if_pos rfl, Core.withoutTask_lcore]
  rw [State.escalate, hv, ← hlcore]
  rfl

theorem escalatedAt_escalate {c : Nat} {s : State} {v : Task} (hv : s.task? v.key = some v) (hcore : v.core < 4096) (cause pcs : Word) :
    EscalatedAt c s (s.escalate c v.key cause pcs) v cause pcs := by
  have hmemory := SameMemory.escalate s c v.key cause pcs
  rw [escalate_eq hv] at hmemory ⊢
  set w := s.modCore c fun k => k.withoutTask v.key with hw
  have hcores (d : Nat) : w.core d = if c = d then (s.core c).withoutTask v.key else s.core d := State.core_modCore ..
  have hhere : w.core c = (s.core c).withoutTask v.key := (hcores c).trans (if_pos rfl)
  refine ⟨fun n hn => ?_, fun d n hn => ?_, ?_, fun m => ⟨fun hm => ?_, fun hm => ?_⟩, fun p hp => ?_, fun q hq => ?_, ?_, ?_, hmemory⟩
  · exact (congrArg (·.strand n) hhere).trans ((Core.withoutTask_strand ..).trans (if_pos hn))
  · refine (congrArg (·.strand n) (hcores d)).trans ?_
    split
    next hd =>
      subst hd
      exact (Core.withoutTask_strand ..).trans (if_neg (hn.resolve_left fun h => h rfl))
    next => rfl
  · refine (State.task?_map (s := s) rfl (fun y _ => ?_) v.key).trans ?_
    · split <;> rfl
    · rw [hv, Option.map_some, if_pos (beq_self_eq_true _)]
  · refine (congrArg (fun k : Core => (k.mailboxes.get m).valid) hhere).trans ?_
    rw [Core.withoutTask_mailbox, if_pos hm]
    rfl
  · refine (congrArg (fun k : Core => k.mailboxes.get m) hhere).trans ?_
    rw [Core.withoutTask_mailbox, if_neg hm]
  · exact Core.withoutTask_pending (hhere ▸ hp)
  · exact Core.withoutTask_sq (hhere ▸ hq)
  · exact ⟨_, State.rings_pushRing .., extractLsb'_completion hcore (by decide)⟩
  · exact ⟨_, rfl, rfl, rfl⟩

/-! ## TRAP, and ALIGN at a RET (R398, R408) -/

theorem trap_raises (c : BitVec 12) (s : State) : Raises (.trap c) .a 8 (c.zeroExtend 16) s := by
  rw [Raises, exec_trap, execTrap]
  exact issueWord_trap (s := s.actAs .a) rfl fun _ => rfl

theorem ret_raises {g : Tag} {e : BitVec 1} {s : State} (he : Issues s e) (ha : Available s (tagCtr g s) [31#5])
    (halign : (s.me.reg (tagCtr g s) 31#5).extractLsb' 0 2 ≠ 0#2) : Raises (.ret g e) (tagCtr g s) 3 0#16 s := by
  rw [Raises, exec_ret, execRet]
  exact issueWord_trap (by simp [waits_of_available ha, halign, causeAlign]) he

theorem exec_of_raises {i : Instr} {k : Ctr} {cause : Nat} {detail : BitVec 16} {s : State} (hphase : s.cur.phase = .single)
    (h : Raises i k cause detail s) : exec i s = .next ((s.actAs k).deliver s.cur.pc cause detail) :=
  h.trans (congrArg Host.Outcome.next (if_pos hphase))

theorem holds_of_raises {i : Instr} {k : Ctr} {cause : Nat} {detail : BitVec 16} {s : State} (hphase : s.cur.phase = .single)
    (h : Raises i k cause detail s) (hreads : s.me.reads ≠ []) : Holds i k s :=
  (exec_of_raises hphase h).trans (congrArg Host.Outcome.next (deliver_waits (s := s.actAs k) hreads _ _ _))

theorem trapEntersTheHandler : TrapEntersTheHandler := by
  intro c s hphase hready
  refine ⟨fun hreads => ?_, holds_of_raises hphase (trap_raises c s)⟩
  rw [exec_of_raises hphase (trap_raises c s), deliver_enters hready hreads .a _ (by decide)]
  rfl

theorem alignAtRetEntersTheHandler : AlignAtRetEntersTheHandler := by
  intro g s hphase hready ha halign
  have hraises := ret_raises (e := 1#1) (fun _ => rfl) ha halign
  refine ⟨fun hreads => ?_, holds_of_raises hphase hraises⟩
  rw [exec_of_raises hphase hraises, deliver_enters hready hreads _ _ (by decide)]
  generalize tagCtr g s = k
  cases k <;> rfl

theorem trapWithoutHandlerEndsTheTask : TrapWithoutHandlerEndsTheTask := by
  intro c s v hphase hready hreads hv hcore
  refine ⟨_, (exec_of_raises hphase (trap_raises c s)).trans (congrArg _ (deliver_escalates hready hreads .a _ (by decide) _)), ?_⟩
  obtain ⟨-, hkey⟩ := State.task?_some hv
  rw [← hkey] at hv ⊢
  exact escalatedAt_escalate (s := (s.actAs .a).res _) hv hcore _ _

/-! ## ERET (R286, R354, R368) -/

/-- `s'` is `s` but for one more word that the access counter has passed; in `s` it has passed `n`. -/
def OneAhead (n : Word) (s s' : State) : Prop :=
  s'.cur = s.cur ∧ s'.me = s.me.addPassed .a 1 ∧ s.me.passedA = n

theorem Strand.syncIdx_addPassed (t : Strand) (n : Nat) :
    (t.addPassed .a n).syncIdx = t.syncIdx.addPassed .a n ∧ t.syncIdx.passedA = t.passedA := by
  have hlate {b c : Bool} {x : Word} {u : Strand} (hu : u.passedA = t.passedA) :
      (if b then if c then { u.addPassed .a n with fmtidx := x } else u.addPassed .a n else u.addPassed .a n) =
        (if b then if c then { u with fmtidx := x } else u else u).addPassed .a n ∧
      (if b then if c then { u with fmtidx := x } else u else u).passedA = t.passedA := by
    cases b <;> cases c <;> exact ⟨rfl, hu⟩
  exact hlate rfl

theorem Strand.writeTrapvec_addPassed (t : Strand) (n : Nat) (v : Word) :
    (t.addPassed .a n).writeTrapvec v = (t.writeTrapvec v).addPassed .a n ∧ (t.writeTrapvec v).passedA = t.passedA := by
  have hheld : (t.addPassed .a n).trapvec = t.trapvec := rfl
  simp only [Strand.writeTrapvec, hheld]
  split <;> exact ⟨rfl, rfl⟩

theorem State.me_writeInject (s : State) (v : Word) (seq : Option Word) : (s.writeInject s.cur.core s.cur.strand v seq).me = s.me := by
  have hcore {t : State} {k : Core} (ht : t.cores = (s.setCore s.cur.core k).cores) (hk : k.strands = s.myCore.strands) :
      t.strand s.cur.core s.cur.strand = s.me := by
    rw [strand, core_eq ht, core_setCore, if_pos rfl, Core.strand, hk]
    rfl
  exact hcore (k := { s.myCore with inject := v, chosen := _, sq := _ }) rfl rfl

theorem OneAhead.writeCsr {n : Word} {s s' : State} (h : OneAhead n s s') (c : Nat) (v : Word) :
    (s'.writeCsr c v).me = (s.writeCsr c v).me.addPassed .a 1 ∧ (s.writeCsr c v).me.passedA = n := by
  obtain ⟨-, hme, hpassed⟩ := h
  have hstrand {f : Strand → Strand} (hf : ∀ t, f (t.addPassed .a 1) = (f t).addPassed .a 1 ∧ (f t).passedA = t.passedA) :
      (s'.modMe f).me = (s.modMe f).me.addPassed .a 1 ∧ (s.modMe f).me.passedA = n := by
    rw [State.me_modMe, State.me_modMe, hme, (hf _).1, (hf _).2]
    exact ⟨rfl, hpassed⟩
  have hcore {f : Core → Core} (hf : ∀ k, (f k).strands = k.strands) :
      (s'.modMyCore f).me = (s.modMyCore f).me.addPassed .a 1 ∧ (s.modMyCore f).me.passedA = n := by
    have hkeep (s : State) : (s.modMyCore f).me = s.me := State.strand_modCore (hf _) ..
    rw [hkeep, hkeep]
    exact ⟨hme, hpassed⟩
  unfold State.writeCsr
  split
  case h_3 => exact hstrand (f := fun t => { t with rotbase := v }) fun _ => ⟨rfl, rfl⟩
  case h_4 => exact hstrand fun t => ({ t with fmtidx := v } : Strand).syncIdx_addPassed 1
  case h_6 => exact hcore fun _ => rfl
  case h_7 =>
    rw [State.me_writeInject, State.me_writeInject]
    exact ⟨hme, hpassed⟩
  case h_10 => exact hstrand fun t => t.writeTrapvec_addPassed 1 v
  case h_11 => exact ⟨hme, hpassed⟩
  all_goals exact hstrand fun _ => ⟨rfl, rfl⟩

theorem State.me_acting_writeCsr (s : State) (c : Nat) (v : Word) :
    (s.acting s.cur.core s.cur.strand fun s => s.writeCsr c v).me = (s.writeCsr c v).me := by
  have hplace : (s.writeCsr c v).cur.core = s.cur.core ∧ (s.writeCsr c v).cur.strand = s.cur.strand := by
    unfold writeCsr
    split <;> exact ⟨rfl, rfl⟩
  rw [me, me, hplace.1, hplace.2]
  rfl

theorem OneAhead.applyLate {n : Word} {s s' : State} (h : OneAhead n s s') {o : LateOp} (ho : o.kind.own = true) :
    OneAhead n (s.applyLate s.cur.core s.cur.strand o) (s'.applyLate s'.cur.core s'.cur.strand o) := by
  obtain ⟨rd, kind⟩ := o
  cases kind with
  | csr c v =>
    refine ⟨h.1, ?_⟩
    rw [State.applyLate, State.applyLate, State.me_acting_writeCsr, State.me_acting_writeCsr]
    exact h.writeCsr c v
  | inject v seq =>
    refine ⟨h.1, ?_⟩
    rw [State.applyLate, State.applyLate, State.me_writeInject, State.me_writeInject]
    exact h.2
  | eret px pc =>
    obtain ⟨hcur, hme, hpassed⟩ := h
    refine ⟨hcur, ?_⟩
    have heret (s : State) : (s.applyLate s.cur.core s.cur.strand ⟨rd, .eret px pc⟩).me = s.me.eretX px pc :=
      s.me_modMe fun t => t.eretX px pc
    rw [heret, heret, hme]
    exact ⟨rfl, hpassed⟩
  | _ => cases ho

/-- The access counter sees of its CSRs the same when it has passed one more word. -/
theorem OneAhead.view {n : Word} {s s' : State} (h : OneAhead n s s') : OneAhead n (s.view .a) (s'.view .a) := by
  have hfold (l : List LateOp) (hl : ∀ o ∈ l, o.kind.own = true) {s s' : State} (h : OneAhead n s s') :
      OneAhead n (l.foldl (fun s o => s.applyLate s.cur.core s.cur.strand o) s)
        (l.foldl (fun s o => s.applyLate s.cur.core s.cur.strand o) s') := by
    induction l generalizing s s' with
    | nil => exact h
    | cons o l ih =>
      obtain ⟨ho, hl⟩ := List.forall_mem_cons.1 hl
      exact ih hl (h.applyLate ho)
  have hreads : s'.me.reads = s.me.reads := by rw [h.2.1]; rfl
  have hlate : s'.me.late = s.me.late := by rw [h.2.1]; rfl
  unfold State.view
  rw [hreads, hlate]
  split
  · exact h
  · exact hfold _ (fun o ho => (List.mem_filter.1 ho).2) h

theorem oneAhead_addPassed (s : State) : OneAhead s.me.passedA s (s.modMe fun t => t.addPassed .a 1) :=
  ⟨rfl, s.me_modMe _, rfl⟩

/-- The strand as its access counter sees it in the word it executes, and after that word. -/
theorem me_view_addPassed (s : State) :
    let own := (s.view .a).me
    (((s.actAs .a).modMe fun t => t.addPassed .a 1).view .a).me = own.addPassed .a 1 ∧ own.passedA = s.me.passedA := by
  have hview := (oneAhead_addPassed (s.actAs .a)).view
  rw [State.view_actAs] at hview
  exact hview.2

/-- A word that places its counters itself ends its group. -/
theorem issueWord_final {i : Instr} {e : BitVec 1} {body : State → Act} {s w : State} (hb : body s = .final w) (he : Issues s e) :
    issueWord i e body s = .next (w.res .ended) := by
  unfold issueWord
  split
  · rw [if_neg (by rw [he ‹_›]; decide), hb]
  · rw [hb]

/-- The access counter's own part of ERET (R286). -/
def eretAccess (own t : Strand) : Strand :=
  { t with
    passedA := t.passedA + 1#64, loopsA := t.loopsA.map fun l => { l with held := false }
    pcA := own.trappc.extractLsb' 0 22, orgA := none }

/-- What ERET does when the execute counter stands at an ERET too. -/
theorem exec_eret_of_ready {s : State} (hactive : (s.view .a).me.trapvec.getLsbD 1 = true) (hstop : s.me.xstop = .eret) :
    let own := (s.view .a).me
    exec .eret s = .next ((((s.actAs .a).modMe (eretAccess own)).effect
      (.eret (s.me.passedA + 1#64 - (own.trapcause.extractLsb' 32 12).signExtend 64) (own.trappc.extractLsb' 32 22))).res .ended) := by
  intro own
  obtain ⟨hview, hpassed⟩ := me_view_addPassed s
  rw [exec_eret, execEret]
  refine issueWord_final (s := s.actAs .a) ?_ fun _ => rfl
  have hbit : (((s.actAs .a).view .a).me.trapvec.getLsbD 1) = true := by rw [State.view_actAs, State.me_actAs, hactive]
  dsimp only
  rw [hbit, State.me_actAs, hstop, hview, State.modMe, State.me_modMe, State.setMe_modMe]
  simp only [Strand.eretPassed, Strand.addPassed, hpassed]
  rfl

theorem eret_raises {s : State} (hactive : (s.view .a).me.trapvec.getLsbD 1 = false) : Raises .eret .a 1 0#16 s := by
  rw [Raises, exec_eret, execEret]
  refine issueWord_trap (s := s.actAs .a) ?_ fun _ => rfl
  rw [State.view_actAs, State.me_actAs, hactive]
  rfl

theorem eret_holds {s : State} (hactive : (s.view .a).me.trapvec.getLsbD 1 = true) (hstop : s.me.xstop ≠ .eret) : Holds .eret .a s := by
  rw [Holds, exec_eret, execEret]
  refine issueWord_wait (s := s.actAs .a) ?_ fun _ => rfl
  rw [State.view_actAs, State.me_actAs, hactive, State.me_actAs, beq_eq_false_iff_ne.2 hstop]
  rfl

theorem State.modMe_modMe (s : State) (f g : Strand → Strand) : (s.modMe f).modMe g = s.modMe fun t => g (f t) := by
  rw [modMe, me_modMe, setMe_modMe]
  rfl

theorem hides_eretAccess (own : Strand) (s : State) : ((s.actAs .a).modMe (eretAccess own)).hides = hidden s := by
  rw [← hides_actAs s .a, State.hides, State.me_modMe]
  rfl

theorem effect_eret_of_seen {s : State} (hseen : hidden s = false) (own : Strand) (px : Word) (pc : BitVec 22) :
    ((s.actAs .a).modMe (eretAccess own)).effect (.eret px pc) =
      (s.actAs .a).setMe ((eretAccess own s.me).eretX px pc) := by
  rw [State.effect, if_neg (by rw [hides_eretAccess, hseen]; decide)]
  exact State.modMe_modMe (s.actAs .a) (eretAccess own) fun t => t.eretX px pc

theorem effect_eret_of_hidden {s : State} (hhidden : hidden s = true) (own : Strand) (px : Word) (pc : BitVec 22) :
    ((s.actAs .a).modMe (eretAccess own)).effect (.eret px pc) = withMe (deferred s (.eret px pc)) (eretAccess own) := by
  have hmark : ((s.actAs .a).modMe (eretAccess own)).rdMark = mark s := by
    rw [← rdMark_actAs s .a, State.rdMark, State.me_modMe]
    rfl
  rw [State.effect, if_pos (by rw [hides_eretAccess, hhidden]), State.modMe_modMe, hmark, deferred, withMe, State.modMe_modMe]
  rfl

theorem eretReturns : EretReturns := by
  intro s own
  refine ⟨fun hactive hstop hseen => ?_, fun hactive hstop hhidden => ?_, eret_raises, eret_holds⟩
  · have hreads : s.me.reads = [] := by
      rw [Claims.hidden, Bool.or_eq_false_iff, Bool.not_eq_false', List.isEmpty_iff] at hseen
      exact hseen.1
    have hview : s.view .a = s := if_pos (by rw [hreads]; rfl)
    rw [exec_eret_of_ready (by rwa [hview]) hstop, hview, effect_eret_of_seen hseen]
    rfl
  · rw [exec_eret_of_ready hactive hstop, effect_eret_of_hidden hhidden]
    rfl

/-- Settles O8: a cause waits for the reads of its strand and enters the handler or escalates; ERET is followed from what the access
counter has itself written, which the word that it counts does not change. -/
theorem trapsEnterTheHandlerOrEndTheTask : Obligations.TrapsEnterTheHandlerOrEndTheTask :=
  ⟨trapEntersTheHandler, alignAtRetEntersTheHandler, trapWithoutHandlerEndsTheTask, eretReturns⟩

end Sys2Proof.Machine
end

section
/-! PROOFS. The waiting tasks that find a core are bound, and room is given to the task for which another was pre-empted (O33). -/

namespace Sys2Proof.Machine

open Sys2Proof.Claims

/-! ## A task is bound where its region's logical cores are told apart -/

/-- The core that a region's logical CORE names holds it. -/
def Resolves (s : State) (regid : Word) : Prop :=
  ∀ l c, s.resolve regid l = some c → (s.core c).regid = regid ∧ (s.core c).lcore = l

theorem resolves_of_nodup {s : State} (hcores : (s.cores.map (·.1)).Nodup) (regid : Word) : Resolves s regid := by
  intro l c h
  obtain ⟨-, hregid, hlcore⟩ := State.resolve_some hcores h
  exact ⟨hregid, hlcore⟩

section
variable {s : State} {cl : Nat} {t : Task} {p : Spot} (hcl : cl < 64) (hresolves : Resolves s t.regid)
include hcl hresolves

theorem mappedFor_slot_of_resolves (h : Finds s cl t p.core p.lcore (p.map = true)) :
    ((mappedFor s t p).core p.core).slot = .mapped ∧ ((mappedFor s t p).core p.core).regid = t.regid ∧
      ((mappedFor s t p).core p.core).lcore = p.lcore := by
  obtain ⟨-, -, hown, hany⟩ := (finds_iff hcl p.core p.lcore _).mp h
  unfold mappedFor
  split
  next => rw [State.mapSlot_eq, State.core_modCore, if_pos rfl]; exact ⟨rfl, rfl, rfl⟩
  next hmap =>
    by_cases hl : t.lcore = 0xFFFF#16
    · obtain ⟨hslot, hregid, hlcore, -⟩ | ⟨-, hnew, -⟩ := hany hl
      · exact ⟨hslot, hregid, hlcore.symm⟩
      · exact absurd hnew hmap
    · obtain ⟨hresolve, hslot, hlcore, -⟩ := hown hl
      obtain ⟨hregid, hlcore'⟩ := hresolves _ _ hresolve
      exact ⟨hslot, hregid, hlcore'.trans hlcore.symm⟩

end

section
variable {s : State} {t : Task} {p : Spot}

theorem strand_boundFor (n : Fin 4) : (boundFor s t p).strand p.core n =
    if n ∈ strandsFor s t p.core then (s.strand p.core n).taken t.key else s.strand p.core n := by
  obtain ⟨jobs, hcore⟩ := boundFor_core (s := s) (t := t) (p := p)
  refine ((congrArg (fun k : Core => k.strand n) hcore).trans (Core.strand_reserve _ _ _ _)).trans ?_
  have hsame : ((mappedFor s t p).core p.core).strand n = s.strand p.core n := strand_mappedFor s t p p.core n
  simp only [mem_maskStrands_maskOf, hsame]

theorem task?_boundFor (ht : s.task? t.key = some t) : (boundFor s t p).task? t.key =
    some { t with loading := true, core := p.core, strands := maskOf (strandsFor s t p.core) } := by
  have hmapped : (mappedFor s t p).task? t.key = some t := by
    unfold mappedFor
    split <;> exact ht
  refine (State.task?_map (s := mappedFor s t p) rfl (fun y _ => ?_) t.key).trans ?_
  · split <;> rfl
  · rw [hmapped, Option.map_some, if_pos (beq_self_eq_true _)]
    rfl

/-- A waiting task is bound at a place that R231 finds for it. -/
theorem boundOn_bindAt {cl : Nat} (hcl : cl < 64) (hresolves : Resolves s t.regid) (ht : s.task? t.key = some t) (hst : t.st = .waiting)
    (hnowhere : ∀ c n, (s.strand c n).task ≠ t.key) (h : Finds s cl t p.core p.lcore (p.map = true)) (hgood : HeaderGood s t p.core)
    (due : Bool) : BoundOn s (s.bindAt t p due) t p.core p.lcore := by
  rw [State.bindAt_eq hst hgood]
  obtain ⟨jobs, hcore⟩ := boundFor_core (s := s) (t := t) (p := p)
  obtain ⟨hslot, hregid, hlcore⟩ := Core.slot_reserve ((mappedFor s t p).core p.core) t.key (maskStrands (maskOf (strandsFor s t p.core)))
  obtain ⟨hslot', hregid', hlcore'⟩ := mappedFor_slot_of_resolves hcl hresolves h
  have htask : ((boundFor s t p).modTask t.key fun y => { y with boundDue := due }).task? t.key =
      some { t with loading := true, core := p.core, strands := maskOf (strandsFor s t p.core), boundDue := due } := by
    refine (State.task?_map (s := boundFor s t p) rfl (fun y _ => ?_) t.key).trans ?_
    · split <;> rfl
    · rw [task?_boundFor ht, Option.map_some, if_pos (beq_self_eq_true _)]
  refine ⟨⟨_, htask, hst, rfl, rfl⟩, ?_, ?_, ?_, fun n => ?_⟩
  · exact (congrArg Core.slot hcore).trans (hslot.trans hslot')
  · exact (congrArg Core.regid hcore).trans (hregid.trans hregid')
  · exact (congrArg Core.lcore hcore).trans (hlcore.trans hlcore')
  · change ((boundFor s t p).strand p.core n).task = t.key ↔ n ∈ strandsFor s t p.core
    rw [strand_boundFor]
    split
    next hn => exact ⟨fun _ => hn, fun _ => rfl⟩
    next hn => exact ⟨fun hkey => absurd hkey (hnowhere _ _), fun hn' => absurd hn' hn⟩

end

/-! ## What binding one task leaves of the others -/

/-- Only the task of a key, cores and rings may differ: every other task, HBM and the pools are as they were. -/
structure OnlyTask (key : Nat) (s t : State) : Prop where
  others : ∀ k, k ≠ key → t.task? k = s.task? k
  hbm : t.hbm = s.hbm
  pool : ∀ c, (t.cluster c).pool = (s.cluster c).pool
  diePool : ∀ d, (t.die d).pool = (s.die d).pool

theorem OnlyTask.refl (key : Nat) (s : State) : OnlyTask key s s := ⟨fun _ _ => rfl, rfl, fun _ => rfl, fun _ => rfl⟩

theorem OnlyTask.trans {key : Nat} {s t u : State} (h : OnlyTask key s t) (h' : OnlyTask key t u) : OnlyTask key s u :=
  ⟨fun k hk => (h'.others k hk).trans (h.others k hk), h'.hbm.trans h.hbm, fun c => (h'.pool c).trans (h.pool c),
    fun d => (h'.diePool d).trans (h.diePool d)⟩

theorem OnlyTask.modTask {key : Nat} (s : State) {f : Task → Task} (hf : ∀ y, (f y).key = y.key) : OnlyTask key s (s.modTask key f) := by
  refine ⟨fun k hk => ?_, rfl, fun _ => rfl, fun _ => rfl⟩
  rw [State.task?_map (s := s) rfl (fun y _ => by split; exacts [hf y, rfl]) k]
  cases hv : s.task? k with
  | none => rfl
  | some v =>
    obtain ⟨-, rfl⟩ := State.task?_some hv
    rw [Option.map_some, if_neg (by simpa using hk)]

theorem OnlyTask.modCore (key : Nat) (s : State) (c : Nat) (f : Core → Core) : OnlyTask key s (s.modCore c f) :=
  ⟨fun _ _ => rfl, rfl, fun _ => rfl, fun _ => rfl⟩

theorem OnlyTask.modCluster (key : Nat) (s : State) (cl : Nat) {f : Cluster → Cluster} (hf : (f (s.cluster cl)).pool = (s.cluster cl).pool) :
    OnlyTask key s (s.modCluster cl f) := by
  refine ⟨fun _ _ => rfl, rfl, fun c => ?_, fun _ => rfl⟩
  rw [State.cluster_modCluster]
  split
  next h => rw [← h, hf]
  next => rfl

theorem OnlyTask.pushRing (key : Nat) (s : State) (cl : Nat) (ring : Fin 4) (e : BitVec 256) : OnlyTask key s (s.pushRing cl ring e) :=
  .modCluster key s cl rfl

theorem OnlyTask.report (key : Nat) (s : State) (regid : Word) (ws : List Word) : OnlyTask key s (s.report regid ws) :=
  ⟨fun _ _ => rfl, rfl, fun _ => rfl, fun _ => rfl⟩

theorem OnlyTask.startTask {s u : State} {core : Nat} {mask : BitVec 4} {t : Task} (h : s.startTask core mask t = some u) :
    OnlyTask t.key s u := by
  have hunlist : OnlyTask t.key s (s.unlist t) := .modCluster _ _ _ rfl
  have hload (m : LoadMsg) (resume : Option (List (Fin 4))) : OnlyTask t.key s ((s.unlist t).beginLoad core t m resume) :=
    hunlist.trans (.trans (.modCore ..) (.modTask _ fun _ => rfl))
  have hrefuse (status : Nat) : OnlyTask t.key s ((s.unlist t).refuseStart core mask t status) := by
    refine hunlist.trans (.trans (.trans (.trans ?_ (.modCore ..)) (.pushRing ..)) (.report ..))
    exact .modTask _ fun _ => rfl
  unfold State.startTask at h
  dsimp only at h
  split at h
  · obtain ⟨ns, -, rfl⟩ := Option.map_eq_some_iff.mp h
    exact hload ..
  · split at h
    · obtain rfl := Option.some.inj h
      exact hrefuse 5
    · obtain rfl := Option.some.inj h
      exact hload ..

theorem OnlyTask.bindAt (s : State) (t : Task) (p : Spot) (due : Bool) : OnlyTask t.key s (s.bindAt t p due) := by
  have hmapped : OnlyTask t.key s (mappedFor s t p) := by
    unfold mappedFor
    split
    · rw [State.mapSlot_eq]
      exact .modCore ..
    · exact .refl ..
  change OnlyTask t.key s (match (mappedFor s t p).startTask p.core _ t with | some s => _ | none => _)
  split
  next hu => exact hmapped.trans (.trans (.startTask hu) (.modTask _ fun _ => rfl))
  next => exact hmapped

theorem boundOn_served {s u w : State} {v : Task} {c : Nat} {l : BitVec 12} {key : Nat} (h : BoundOn s u v c l) (hserved : Served key u w)
    (hne : v.key ≠ key) (h0 : v.key ≠ 0) : BoundOn s w v c l := by
  obtain ⟨⟨x, hx, hst, hload, hcore⟩, hslot, hregid, hlcore, hstrands⟩ := h
  obtain ⟨hslot', hregid', hlcore'⟩ := hserved.slot c (by simp [hslot])
  exact ⟨⟨x, hserved.task? hx (by simp [hst]) hne, hst, hload, hcore⟩, hslot'.trans hslot, hregid'.trans hregid, hlcore'.trans hlcore,
    fun n => (hserved.strand_task hne h0 c n).trans (hstrands n)⟩

/-! ## The waiting tasks in turn (R274) -/

/-- One waiting task is bound where it finds a core. -/
def bindNext (cl : Nat) (s : State) (key : Nat) : State :=
  match s.task? key with
  | none => s
  | some t => (s.place cl t).elim s fun p => s.bindAt t p t.due

theorem State.bindWaiting_eq (s : State) (cl : Nat) : s.bindWaiting cl = (s.queueOf cl).foldl (bindNext cl) s := rfl

/-- What binding one task does: nothing, or the task is bound at its place. -/
theorem bindNext_cases (cl : Nat) (s : State) (key : Nat) : bindNext cl s key = s ∨
    ∃ t p, s.task? key = some t ∧ s.place cl t = some p ∧ bindNext cl s key = s.bindAt t p t.due := by
  unfold bindNext
  split
  next => exact .inl rfl
  next t ht =>
    cases hp : s.place cl t with
    | none => exact .inl rfl
    | some p => exact .inr ⟨t, p, ht, hp, rfl⟩

theorem served_bindNext (cl : Nat) (s : State) (key : Nat) : Served key s (bindNext cl s key) := by
  obtain h | ⟨t, p, ht, hp, h⟩ := bindNext_cases cl s key
  · rw [h]
    exact .of_eq rfl rfl
  · obtain ⟨-, rfl⟩ := State.task?_some ht
    rw [h]
    exact .bindAt (State.free_of_place hp)

theorem onlyTask_bindNext (cl : Nat) (s : State) (key : Nat) : OnlyTask key s (bindNext cl s key) := by
  obtain h | ⟨t, p, ht, -, h⟩ := bindNext_cases cl s key
  · rw [h]
    exact .refl ..
  · obtain ⟨-, rfl⟩ := State.task?_some ht
    rw [h]
    exact .bindAt ..

/-- What the binding of each task of a list keeps, that of all of them keeps. -/
theorem foldl_bindNext_keeps {cl : Nat} {P : State → Prop} {keys : List Nat} (hstep : ∀ key ∈ keys, ∀ u, P u → P (bindNext cl u key))
    {s : State} (h : P s) : P (keys.foldl (bindNext cl) s) := by
  induction keys generalizing s with
  | nil => exact h
  | cons key keys ih => exact ih (fun k hk => hstep k (List.mem_cons_of_mem _ hk)) (hstep key List.mem_cons_self s h)

/-- The first of the order of R274 is first in the queue. -/
theorem queueOf_eq_cons {s : State} {cl : Nat} {v : Task} (hkeys : (s.tasks.map (·.key)).Nodup) (hv : v ∈ s.tasks)
    (hfirst : FirstWaiting id s cl v) : ∃ rest, s.queueOf cl = v.key :: rest := by
  obtain ⟨hwaits, hahead⟩ := hfirst
  obtain ⟨rest, hrest⟩ := sortBy_eq_cons (f := Task.before) (List.mem_filter.mpr ⟨hv, waits_iff.mp hwaits⟩) fun y hy hne => by
    obtain ⟨hyMem, hyWaits⟩ := List.mem_filter.mp hy
    exact Task.before_of_ahead (hahead y hyMem (waits_iff.mpr hyWaits) fun h => hne (List.inj_on_of_nodup_map hkeys hyMem hv h))
  exact ⟨rest.map (·.key), by rw [State.queueOf, hrest, List.map_cons]⟩

open Classical in
theorem bindsWaiting_bindWaiting {cl : Nat} (hcl : cl < 64) (u : State) : BindsWaiting u (u.bindWaiting cl) cl := by
  rw [State.bindWaiting_eq]
  have hmemory {P : State → Prop} (hP : ∀ key s t, OnlyTask key s t → P s → P t) (h : P u) : P ((u.queueOf cl).foldl (bindNext cl) u) :=
    foldl_bindNext_keeps (fun key _ s => hP key _ _ (onlyTask_bindNext cl s key)) h
  refine ⟨fun hnone => ?_, fun v c l new hkeyed hst hfirst hchosen hgood => ?_, fun v hkeys hv hnot => ?_, ?_, fun c => ?_, fun d => ?_⟩
  · have hqueue : u.queueOf cl = [] := List.eq_nil_iff_forall_not_mem.mpr fun key hkey => by
      obtain ⟨v, hv, hwaits, -⟩ := mem_queueOf.mp hkey
      exact hnone v hv hwaits
    rw [hqueue]
    rfl
  · obtain ⟨hkeys, hcores, hmem, h0, hnowhere⟩ := hkeyed
    obtain ⟨rest, hqueue⟩ := queueOf_eq_cons hkeys hmem hfirst
    have hrest : v.key ∉ rest := (List.nodup_cons.mp (hqueue ▸ nodup_queueOf hkeys)).1
    have htask := State.task?_of_mem hkeys hmem
    have hnext : bindNext cl u v.key = u.bindAt v ⟨c, l, decide new⟩ v.due := by
      rw [bindNext, htask]
      dsimp only
      rw [State.place_of_chosen hst hcl hchosen]
      rfl
    rw [hqueue, List.foldl_cons, hnext]
    refine foldl_bindNext_keeps (P := fun w => BoundOn u w v c l)
      (fun key hkey w hw => boundOn_served hw (served_bindNext cl w key) (ne_of_mem_of_not_mem hkey hrest).symm h0) ?_
    exact boundOn_bindAt (p := ⟨c, l, decide new⟩) hcl (resolves_of_nodup hcores _) htask hst hnowhere (by simpa using hchosen.1) hgood _
  · have hkey : v.key ∉ u.queueOf cl := fun h => by
      obtain ⟨x, hx, hwaits, hsame⟩ := mem_queueOf.mp h
      exact hnot (List.inj_on_of_nodup_map hkeys hx hv hsame ▸ hwaits)
    refine foldl_bindNext_keeps (P := fun w => w.task? v.key = some v) (fun key hmem w hw => ?_) (State.task?_of_mem hkeys hv)
    exact ((onlyTask_bindNext cl w key).others _ (ne_of_mem_of_not_mem hmem hkey).symm).trans hw
  · exact hmemory (P := fun w => w.hbm = u.hbm) (fun _ _ _ h => h.hbm.trans) rfl
  · exact hmemory (P := fun w => (w.cluster c).pool = (u.cluster c).pool) (fun _ _ _ h => (h.pool c).trans) rfl
  · exact hmemory (P := fun w => (w.die d).pool = (u.die d).pool) (fun _ _ _ h => (h.diePool d).trans) rfl

/-! ## Room for the task for which another was pre-empted (R274) -/

theorem mem_insertD {α : Type} {l : List (Nat × α)} {a : Nat} {v : α} {e : Nat × α} (h : e ∈ insertD l a v) : e = (a, v) ∨ e ∈ l := by
  induction l with
  | nil => exact .inl (List.mem_singleton.mp h)
  | cons x l ih =>
    obtain ⟨k, w⟩ := x
    unfold insertD at h
    split at h
    · exact (List.mem_cons.mp h).imp_right (List.mem_cons_of_mem _)
    · split at h
      · exact List.mem_cons.mp h
      · obtain h | h := List.mem_cons.mp h
        · exact .inr (h ▸ List.mem_cons_self)
        · exact (ih h).imp_right (List.mem_cons_of_mem _)

/-- A core of another region that becomes free leaves the logical cores of a region as they are. -/
theorem resolves_freed {s : State} {core : Nat} {regid : Word} (hcores : (s.cores.map (·.1)).Nodup) (hregid : (s.core core).regid ≠ regid) :
    Resolves (s.modCore core freedCore) regid := by
  intro l c h
  obtain ⟨e, he, rfl⟩ := Option.map_eq_some_iff.mp h
  have hholds : (e.2.slot ≠ .free ∧ e.2.regid = regid) ∧ e.2.lcore = l := by simpa using List.find?_some he
  obtain ⟨⟨hslot, hreg⟩, hlcore⟩ := hholds
  obtain rfl | hmem := mem_insertD (List.mem_of_find?_eq_some he)
  · exact absurd rfl hslot
  · have hcore : s.core e.1 = e.2 := lookupD_of_mem hcores hmem
    have hne : core ≠ e.1 := fun h => hregid (by rw [h, hcore, hreg])
    rw [State.core_modCore, if_neg hne, hcore]
    exact ⟨hreg, hlcore⟩

/-- The core on which nothing runs any more is free for a task of another region. -/
def roomFor (s : State) (core : Nat) (v : Task) : State :=
  if (s.core core).idle && (s.core core).slot == .mapped && (s.core core).regid != v.regid then s.modCore core Core.freed else s

theorem giveRoom_of_waits {s : State} {core key : Nat} {v : Task} (hv : s.task? key = some v) (hwaits : v.waits = true) :
    s.giveRoom core key = match (roomFor s core v).place (clusterOf core) v with
      | some p => (roomFor s core v).bindAt v p v.due
      | none => roomFor s core v := by
  rw [State.giveRoom, hv]
  dsimp only
  rw [hwaits]
  rfl

open Classical in
theorem givesRoom_giveRoom {core : Nat} (hcl : clusterOf core < 64) (u : State) (key : Nat) : GivesRoom u (u.giveRoom core key) core key := by
  refine ⟨fun hnone => ?_, ?_⟩
  · rw [State.giveRoom]
    split
    next => rfl
    next v hv =>
      have hwaits : v.waits = false := Bool.eq_false_iff.mpr fun h => hnone v hv (waits_iff.mpr (by simp [h]))
      rw [hwaits]
      rfl
  · intro v hv hkeyed hst hload freed u' hfreed hkept
    obtain ⟨-, rfl⟩ := State.task?_some hv
    obtain ⟨-, hcores, -, -, hnowhere⟩ := hkeyed
    have hwaits : v.waits = true := v.waits_iff.mpr ⟨by simp [hst], hload⟩
    have hiff : ((u.core core).idle && (u.core core).slot == .mapped && (u.core core).regid != v.regid) = true ↔ freed := by
      simp [freed, Core.idle_iff, State.strand, and_assoc]
    obtain ⟨hroom, hresolves, htask, hstrand⟩ : roomFor u core v = u' ∧ Resolves u' v.regid ∧ u'.task? v.key = some v ∧
        ∀ c n, (u'.strand c n).task ≠ v.key := by
      by_cases h : freed
      · rw [roomFor, if_pos (hiff.mpr h), hfreed h]
        exact ⟨rfl, resolves_freed hcores h.2.2, hv, fun c n => by rw [State.strand_modCore rfl]; exact hnowhere c n⟩
      · rw [roomFor, if_neg (mt hiff.mp h), hkept h]
        exact ⟨rfl, resolves_of_nodup hcores _, hv, hnowhere⟩
    rw [giveRoom_of_waits hv hwaits, hroom]
    refine ⟨fun hnone => by rw [State.place_eq_none hst hcl hnone], fun c l new hchosen hgood => ?_⟩
    rw [State.place_of_chosen hst hcl hchosen]
    exact boundOn_bindAt (p := ⟨c, l, decide new⟩) hcl hresolves htask hst hstrand (by simpa using hchosen.1) hgood _

end Sys2Proof.Machine
end

section
/-! PROOFS. The save of a stopping task, and a held increment that joins its image (O33). -/

namespace Sys2Proof.Machine

open Sys2Proof.Claims

/-! ## The task saved (R294, R296) -/

section
variable (s : State) (v : Task)

/-- A task as its save leaves it. -/
def savedTask : Task :=
  let k := s.core v.core
  let ns := k.strandsOf v.key
  let sec := s.lastTask v.core v.key
  { v with
    st := .saved, cluster := clusterOf v.core, slotCore := v.core, slotCoreSec := sec, lcore := k.lcore.zeroExtend 16
    savedMask := maskOf ns, hands := maskOf (ns.filter fun n => (k.strand n).handler), owners := k.mailboxes.toList.map (·.owner)
    counts := ns.map fun n => ((k.strand n).loopsA.toList ++ (k.strand n).loopsX.toList).map (·.count)
    held := if sec then (k.incs.map .incr) ++ k.ingress.map .message else []
    cmds := ns.flatMap fun n =>
      ((k.sq.filter fun c => c.strand == n && c.task == v.key).zipIdx).map fun c => { c.1.checkpoint with slot := c.2 }
    arms := if sec then k.arming else [], chosen := k.chosen, stash := none, yielding := false, e := v.base, waited := 0
    since := (s.cluster (clusterOf v.core)).boundary, boundDue := false, forTask := 0 }

/-- The state after the save, before its strands go to tasks that wait. -/
def savedState : State := (s.saveTask v).modTask v.key fun t => { t with forTask := 0 }

end

section
variable {s : State} {v : Task}

/-- The ring 2 entry of a save, and the ring 0 entry with which the task waits again. -/
theorem savedState_rings :
    (((savedState s v).cluster (clusterOf v.core)).rings.get 2 = (s.cluster (clusterOf v.core)).rings.get 2 ++
      [entry32 [(v.tid.toNat, 0), (v.core, 8), (v.strands.toNat, 10), (2, 11), (0, 12)]]) ∧
    ((savedState s v).cluster (clusterOf v.core)).rings.get 0 = (s.cluster (clusterOf v.core)).rings.get 0 ++ [ring0Entry v] := by
  have hpush (w : State) (e : BitVec 256) : (((w.pushRing (clusterOf v.core) 2 e).pushRing (clusterOf v.core) 0 (ring0Entry v)).cluster
        (clusterOf v.core)).rings.get 2 = (w.cluster (clusterOf v.core)).rings.get 2 ++ [e] ∧
      (((w.pushRing (clusterOf v.core) 2 e).pushRing (clusterOf v.core) 0 (ring0Entry v)).cluster (clusterOf v.core)).rings.get 0 =
        (w.cluster (clusterOf v.core)).rings.get 0 ++ [ring0Entry v] := by
    simp [State.pushRing, Vector.get_eq_getElem]
  exact hpush _ _

/-- A save changes no core but the task's own. -/
theorem savedState_core (d : Nat) : (savedState s v).core d =
    if v.core = d then (s.core v.core).afterSave v.key (s.lastTask v.core v.key) else s.core d := by
  have hcore {t : State} {k : Core} (ht : t.cores = (s.setCore v.core k).cores) : t.core d = if v.core = d then k else s.core d := by
    rw [State.core_eq ht, State.core_setCore]
  exact hcore rfl

theorem Core.strand_afterSave (k : Core) (key : Nat) (sec : Bool) (n : Fin 4) :
    (k.afterSave key sec).strand n = if (k.strand n).task = key then idleStrand (k.strand n) else k.strand n := by
  have hstrands : (k.afterSave key sec).strands = k.strands.map fun t => if t.task == key then t.ended else t := by
    cases sec <;> rfl
  rw [Core.strand, hstrands, vector_get_map]
  simp only [beq_iff_eq]
  rfl

theorem Core.sram_afterSave (k : Core) (key : Nat) (sec : Bool) : (k.afterSave key sec).sram = k.sram := by
  cases sec <;> rfl

theorem savedState_strand_own (n : Fin 4) : (savedState s v).strand v.core n =
    if (s.strand v.core n).task = v.key then idleStrand (s.strand v.core n) else s.strand v.core n := by
  rw [State.strand, savedState_core, if_pos rfl]
  exact Core.strand_afterSave ..

theorem savedState_strand_other {d : Nat} (hd : d ≠ v.core) (n : Fin 4) : (savedState s v).strand d n = s.strand d n := by
  rw [State.strand, savedState_core, if_neg hd.symm]
  rfl

theorem savedState_sram (d : Nat) : ((savedState s v).core d).sram = (s.core d).sram := by
  rw [savedState_core]
  split
  next h => rw [Core.sram_afterSave, h]
  next => rfl

theorem savedState_pool (c : Nat) : ((savedState s v).cluster c).pool = (s.cluster c).pool := by
  have hpush (w : State) (cl : Nat) (e f : BitVec 256) : (((w.pushRing cl 2 e).pushRing cl 0 f).cluster c).pool = (w.cluster c).pool := by
    rw [(SameMemory.pushRing ..).2.2.1, (SameMemory.pushRing ..).2.2.1]
  exact hpush _ _ _ _

theorem savedState_task? (hv : s.task? v.key = some v) (hst : v.st = .stopping) : (savedState s v).task? v.key = some (savedTask s v) := by
  have hmove (sec : Bool) (mask : BitVec 4) : (s.moveImages v.core sec mask).task? v.key = some v := by
    refine (State.task?_map (s := s) rfl (fun y _ => by split <;> rfl) v.key).trans ?_
    rw [hv, Option.map_some, if_neg (by simp [hst])]
  have hsave : (s.saveTask v).task? v.key = some { savedTask s v with forTask := v.forTask } := by
    refine (State.task?_map (s := s.moveImages v.core (s.lastTask v.core v.key) (maskOf ((s.core v.core).strandsOf v.key)))
      (t := s.saveTask v) rfl (fun y _ => by split <;> rfl) v.key).trans ?_
    rw [hmove, Option.map_some, if_pos (beq_self_eq_true _)]
    rfl
  refine (State.task?_map (s := s.saveTask v) rfl (fun y _ => by split <;> rfl) v.key).trans ?_
  rw [hsave, Option.map_some]
  exact congrArg some (if_pos (beq_self_eq_true _))

end

theorem getLsbD_strandsOf (k : Core) (key n : Nat) :
    (maskOf (k.strandsOf key)).getLsbD n = true ↔ ∃ i : Fin 4, i.val = n ∧ (k.strand i).task = key := by
  have hmem (i : Fin 4) : (maskOf (k.strandsOf key)).getLsbD i.val = true ↔ (k.strand i).task = key := by
    have hall : i ∈ strandNums := by fin_cases i <;> decide
    have hmask := mem_maskStrands_maskOf (ns := k.strandsOf key) (n := i)
    simpa [maskStrands, Core.strandsOf, hall] using hmask
  constructor
  · intro h
    have hn : n < 4 := by
      by_contra hn
      rw [BitVec.getLsbD_of_ge _ _ (by omega)] at h
      cases h
    exact ⟨⟨n, hn⟩, rfl, (hmem ⟨n, hn⟩).mp h⟩
  · rintro ⟨i, rfl, h⟩
    exact (hmem i).mpr h

theorem extractLsb'_ring0Entry {v : Task} (hhdr : v.hdr < 2 ^ 64) :
    (ring0Entry v).extractLsb' 0 64 = BitVec.ofNat 64 v.hdr ∧ (ring0Entry v).extractLsb' 64 64 = v.regid := by
  refine ⟨extractLsb'_entry32 (fs := []) (off := 0) (w := 64) (by simp) (by simp) (by decide), ?_⟩
  refine (extractLsb'_entry32 (fs := [(v.hdr, 0)]) (off := 8) (w := 64) (by simpa using hhdr) (by simp) (by decide)).trans ?_
  exact (BitVec.ofNat_toNat ..).trans (BitVec.setWidth_eq _)

theorem exec_preemptSave_of_maySave {s : State} {v : Task} (hv : s.task? v.key = some v) (hmay : s.maySave v = true) :
    exec (.preemptSave v.key) s = .next ((if v.forTask = 0 then savedState s v
      else (savedState s v).giveRoom v.core v.forTask).bindWaiting (clusterOf v.core)) := by
  rw [exec_preemptSave, execPreemptSave, hv]
  dsimp only
  rw [hmay]
  rfl

theorem stopping_of_maySave {s : State} {v : Task} (h : s.maySave v = true) : v.st = .stopping := by
  simp only [State.maySave, Bool.and_eq_true, beq_iff_eq, and_assoc] at h
  exact h.1

/-! ## A held increment joins the image (R295) -/

theorem slotBase_aligned (core : Nat) : slotBase core % 8 = 0 := by
  unfold slotBase
  dsimp only
  omega

/-- Eight bytes at an aligned address are one piece. -/
theorem Ram.writeAll_word (m : Ram) {a : Nat} {l : List Byte} (ha : a % 8 = 0) (hl : l.length = 8) : m.writeAll a l = m.write a l := by
  have hpieces : readPieces 0 a 8 = [⟨0, a, 8⟩] := by
    have hwords : wordsOf a 8 = [a / 8] := by
      rw [wordsOf, if_neg (by decide), show (a + 8 - 1) / 8 - a / 8 + 1 = 1 by omega]
      simp
    have hlo : max a (8 * (a / 8)) = a := by omega
    have hhi : min (a + 8) (8 * (a / 8) + 8) - a = 8 := by omega
    simp only [readPieces, hwords, List.map_cons, List.map_nil, hlo, hhi, Nat.sub_self, Nat.add_zero]
  rw [Ram.writeAll, hl, hpieces, List.foldl_cons, List.foldl_nil, List.drop_zero, List.take_of_length_le hl.le]

theorem semAdd_eq_incremented (x v : Word) : semAdd x v = incremented x v := by
  have hovf : (if semOvf x then 2 ^ 56 else 0) = x.toNat / 2 ^ 56 % 2 * 2 ^ 56 := by
    rw [semOvf, BitVec.getLsbD, Nat.testBit_eq_decide_div_mod_eq]
    obtain h | h := Nat.mod_two_eq_zero_or_one (x.toNat / 2 ^ 56) <;> rw [h] <;> rfl
  unfold semAdd incremented
  by_cases h : x.toNat % 2 ^ 56 + v.toNat ≤ 2 ^ 56 - 1
  · rw [if_neg (by simpa [semCount] using h), if_pos h, semWord, hovf]
    rfl
  · rw [if_pos (by simpa [semCount] using h), if_neg h]
    rfl

theorem field_imageBytes {s : State} {v : Task} (hstash : v.stash = none) {off o e n : Nat} (h : o + e ≤ n) :
    field (s.imageBytes v off n) o e = leNat (s.hbm.bytes (slotBase v.slotCore + off + o) e) := by
  rw [State.imageBytes, hstash]
  exact congrArg leNat (readCells_slice _ h)

/-- A message finds no room: the pending list of the image is full, or its mailbox takes nothing. -/
theorem applyHeld_message_eq_none {s : State} {v : Task} {d : Delivery} (hstash : v.stash = none)
    (h : 16 ≤ leNat (s.hbm.bytes (slotBase v.slotCore + 0x340) 8) ∨
      (d.bound = none ∧ leNat (s.hbm.bytes (slotBase v.slotCore + 0x24C + 16 * d.mailbox.val) 4) % 2 = 0)) :
    s.applyHeld v (.message d) = none := by
  have hn : field (s.imageBytes v 0x340 8) 0 8 = leNat (s.hbm.bytes (slotBase v.slotCore + 0x340) 8) :=
    field_imageBytes hstash (by decide)
  have hvalid : field (s.imageBytes v (0x240 + 16 * d.mailbox.val) 16) 12 4 =
      leNat (s.hbm.bytes (slotBase v.slotCore + 0x24C + 16 * d.mailbox.val) 4) := by
    rw [field_imageBytes hstash (by decide)]
    congr 2
    omega
  refine if_pos ?_
  obtain h | ⟨hbound, hfree⟩ := h
  · rw [hn]
    simp [h]
  · simp [State.imageMailbox, hvalid, hfree, hbound]

theorem applyHeld_isSome {s : State} {v : Task} {j : HeldDelivery} (h : (∃ x, j = .incr x) ∨ ∃ a b c, j = .bytes a b c) :
    (s.applyHeld v j).isNone = false := by
  obtain ⟨x, rfl⟩ | ⟨a, b, c, rfl⟩ := h <;> rfl

/-- An increment that no command waits for joins the image. -/
theorem applyHeld_incr {s : State} {v : Task} {i : Increment} (hv : s.task? v.key = some v) (hst : v.st = .saved)
    (hstash : v.stash = none) (href : i.ref = none) (hpkt : i.pkt = none) :
    let a := slotBase v.slotCore + 0x40 + 8 * i.sem.val
    s.applyHeld v (.incr i) = some { s with
      hbm := s.hbm.write a (natBytes 8 (incremented (BitVec.ofNat 64 (s.hbm.readLE a 8)) i.amount).toNat) } := by
  intro a
  have hbase := slotBase_aligned v.slotCore
  have hdone (w : State) : w.incDone i = w := by rw [State.incDone, href, hpkt]
  have hsem : s.hbm.semInc a i.amount = s.hbm.write a (natBytes 8 (incremented (BitVec.ofNat 64 (s.hbm.readLE a 8)) i.amount).toNat) := by
    rw [Ram.semInc, Ram.writeAll_word _ (by omega) rfl, semAdd_eq_incremented]
    rfl
  rw [State.applyHeld, hdone, State.modImage, hv]
  dsimp only
  rw [hst, hstash, ← hsem]
  rfl

section
variable {s : State} {v : Task} {core k : Nat}
  (hfind : s.tasks.find? (fun x => x.st == .saved && x.slotCoreSec && x.slotCore == core && k < x.held.length) = some v)
include hfind

/-- What of a core's slot makes a task the one whose held deliveries are applied. -/
theorem saved_of_find? : v.st = .saved ∧ v.slotCore = core := by
  have h := List.find?_some hfind
  simp only [Bool.and_eq_true, beq_iff_eq, and_assoc] at h
  exact ⟨h.1, h.2.2.1⟩

/-- A held delivery that something before it keeps from being applied waits (R295). -/
theorem exec_saveUnitApply_behind {h : HeldDelivery} (hk : v.held[k]? = some h)
    (hall : (v.held.take k).all (fun e => (s.applyHeld v e).isNone) = false) :
    exec (.saveUnitApply core k) s = .next (s.res .stutter) := by
  simp only [exec_saveUnitApply, execSaveUnitApply, hfind, hk, hall]

/-- The first held delivery that finds room is applied and leaves the list (R295). -/
theorem exec_saveUnitApply_applied {h : HeldDelivery} {w : State} (hk : v.held[k]? = some h)
    (hall : (v.held.take k).all (fun e => (s.applyHeld v e).isNone) = true) (hw : s.applyHeld v h = some w) :
    exec (.saveUnitApply core k) s = .next (w.modTask v.key fun t => { t with held := t.held.eraseIdx k }) := by
  simp only [exec_saveUnitApply, execSaveUnitApply, hfind, hk, hall, hw]

theorem saveUnitApply_waits {h : HeldDelivery} (hk : v.held[k]? = some h)
    (hbefore : ∃ j ∈ v.held.take k, (∃ x, j = .incr x) ∨ ∃ a b c, j = .bytes a b c) :
    exec (.saveUnitApply core k) s = .next (s.res .stutter) := by
  obtain ⟨j, hj, hkind⟩ := hbefore
  have hall : (v.held.take k).all (fun e => (s.applyHeld v e).isNone) = false :=
    List.all_eq_false.mpr ⟨j, hj, by simp [applyHeld_isSome hkind]⟩
  exact exec_saveUnitApply_behind hfind hk hall

theorem saveUnitApply_incr {i : Increment} (hv : s.task? v.key = some v) (hk : v.held[k]? = some (.incr i)) (hstash : v.stash = none)
    (href : i.ref = none) (hpkt : i.pkt = none)
    (hbefore : ∀ j ∈ v.held.take k, ∃ d, j = .message d ∧ d.token = none ∧ (16 ≤ leNat (s.hbm.bytes (slotBase core + 0x340) 8) ∨
      (d.bound = none ∧ leNat (s.hbm.bytes (slotBase core + 0x24C + 16 * d.mailbox.val) 4) % 2 = 0))) :
    let a := slotBase core + 0x40 + 8 * i.sem.val
    ∃ t, exec (.saveUnitApply core k) s = .next t ∧ t.task? v.key = some { v with held := v.held.eraseIdx k } ∧
      t.hbm = s.hbm.write a (natBytes 8 (incremented (BitVec.ofNat 64 (s.hbm.readLE a 8)) i.amount).toNat) ∧
      ∀ d n, t.strand d n = s.strand d n := by
  obtain ⟨hst, rfl⟩ := saved_of_find? hfind
  have hall : (v.held.take k).all (fun e => (s.applyHeld v e).isNone) = true :=
    List.all_eq_true.mpr fun j hj => by
      obtain ⟨d, rfl, -, hroom⟩ := hbefore j hj
      rw [applyHeld_message_eq_none hstash hroom]
      rfl
  refine ⟨_, exec_saveUnitApply_applied hfind hk hall (applyHeld_incr hv hst hstash href hpkt), ?_, rfl, fun _ _ => rfl⟩
  refine (State.task?_map (s := s) rfl (fun y _ => by split <;> rfl) v.key).trans ?_
  rw [hv, Option.map_some, if_pos (beq_self_eq_true _)]

end

/-- Settles O33: the save leaves one state, in which the strands are given first to the task that pre-empted and then to the first of those
that wait; a held increment is one write of its word, since nothing before it finds room. -/
theorem stoppedTasksAreSaved : Obligations.StoppedTasksAreSaved := by
  refine ⟨fun key s v hv hmay h0 hcore => ?_, ?_⟩
  · obtain ⟨-, rfl⟩ := State.task?_some hv
    have hcl : clusterOf v.core < 64 := by
      unfold clusterOf
      omega
    obtain ⟨htid, hevent, hstatus⟩ := extractLsb'_completion (v := v) hcore (event := 2) (status := 0) (by decide)
    obtain ⟨hring2, hring0⟩ := savedState_rings (s := s) (v := v)
    refine ⟨_, savedState s v, savedTask s v, _, ring0Entry v, exec_preemptSave_of_maySave hv hmay,
      savedState_task? hv (stopping_of_maySave hmay), rfl, fun hfor => ?_, fun hfor => ?_, rfl, rfl, rfl, rfl, rfl, rfl, rfl,
      getLsbD_strandsOf _ _, savedState_strand_own, fun d n hd => savedState_strand_other hd n, savedState_sram, savedState_pool,
      fun _ => rfl, hring2, htid, hevent, hstatus, hring0, extractLsb'_ring0Entry⟩
    · rw [if_pos hfor]
      exact bindsWaiting_bindWaiting hcl _
    · rw [if_neg hfor]
      exact ⟨_, givesRoom_giveRoom hcl _ _, bindsWaiting_bindWaiting hcl _⟩
  · intro core k s v i a hfind hv hk hstash href hpkt
    exact ⟨saveUnitApply_waits hfind hk, saveUnitApply_incr hfind hv hk hstash href hpkt⟩

end Sys2Proof.Machine
end


section
/-! PROOFS. A retirement held back by a core's second entry (O45). -/

namespace Sys2Proof.Machine

open Sys2Proof.Claims

/-- Core 0 stands twice in the list of cores. Reads of the core find the first entry, which has no loader job; the second has one.
A retirement of die 0 is under way. -/
def twiceListedState : State :=
  { State.reset with cores := [(0, Core.reset), (0, { Core.reset with jobs := [default] })], retiring := [(0, 2, 0, 0)] }

/-- No core that can be read has a loader job. -/
theorem twiceListed_noJobs (c : Nat) : (twiceListedState.core c).jobs = [] := by
  have hcore : twiceListedState.core c = Core.reset := by
    by_cases hc : c = 0
    · subst hc
      rfl
    · simp [State.core, twiceListedState, lookupD, Ne.symm hc]
  rw [hcore]
  rfl

/-- The retirement looks at every entry, and is not carried out. -/
theorem twiceListed_notRetired : twiceListedState.retireOn 0 = none := by
  have hready : twiceListedState.retireReady 0 = false := rfl
  simp [State.retireOn, hready]

/-- The event that is to carry the retirement out leaves the state as it is. -/
theorem twiceListed_stutters :
    exec (.retirementRequest 0) twiceListedState = .next ((twiceListedState.stopDie 0).res .stutter) := by
  have hhealth : (twiceListedState.die 0).health = .healthy := rfl
  have hbegun : (twiceListedState.retiring.any fun r => r.1 == 0) = true := rfl
  simp [execRetirementRequest, hhealth, hbegun, twiceListed_notRetired]

/-- Refutes O45: where a core is listed twice, a loader job of the entry that no read of the core finds holds back a retirement that
has no task to wait for: RETIREMENT_REQUEST finds die 0 healthy and leaves it so. -/
theorem not_diesRetireFailAndResync : ¬ Obligations.DiesRetireFailAndResync := by
  intro h
  obtain ⟨-, hrequest, -⟩ := h
  have hhealthy : (twiceListedState.die 0).health ∈ [.healthy, .degraded] := List.mem_cons_self
  obtain ⟨t, ht, hretired, -⟩ := (hrequest 0 twiceListedState hhealthy).2 ⟨_, List.mem_cons_self, rfl⟩ (fun v hv => nomatch hv)
    fun c _ => twiceListed_noJobs c
  obtain rfl : (twiceListedState.stopDie 0).res .stutter = t := Host.Outcome.next.inj (twiceListed_stutters.symm.trans ht)
  have hstays : Health.healthy = .retired := hretired
  cases hstays

end Sys2Proof.Machine
end
